-- ==== Sys2Proof/Word.lean ====
section
/-! DEFINITION. The word types of the device and the finite map that its sparse tables use.
Bit 0 of every field is its least significant bit (R6). -/

namespace Sys2Proof

/-- A byte of storage. -/
abbrev Byte := BitVec 8
/-- A 16-bit field. -/
abbrev U16 := BitVec 16
/-- A 32-bit field. -/
abbrev U32 := BitVec 32
/-- A 64-bit register or packet parameter. -/
abbrev U64 := BitVec 64

/-- A finite map from numbers to values: a list of pairs whose keys rise strictly. -/
abbrev FMap (α : Type) := List (Nat × α)

namespace FMap

variable {α : Type}

/-- The value at a key, if the map holds the key. -/
def get? : FMap α → Nat → Option α
  | [], _ => none
  | (k, v) :: m, i => if i = k then some v else get? m i

/-- The value at a key, or a default. -/
def getD (m : FMap α) (i : Nat) (d : α) : α := (get? m i).getD d

/-- Set the value at a key, keeping the keys in strictly rising order. -/
def set : FMap α → Nat → α → FMap α
  | [], i, a => [(i, a)]
  | (k, v) :: m, i, a =>
    if i < k then (i, a) :: (k, v) :: m
    else if i = k then (i, a) :: m
    else (k, v) :: set m i a

/-- Remove a key. -/
def del : FMap α → Nat → FMap α
  | [], _ => []
  | (k, v) :: m, i => if i = k then del m i else (k, v) :: del m i

/-- Change the value at a key, where the map holds the key. -/
def modify (m : FMap α) (i : Nat) (f : α → α) : FMap α :=
  match get? m i with
  | some v => set m i (f v)
  | none => m

/-- Whether the map holds the key. -/
def has (m : FMap α) (i : Nat) : Bool := (get? m i).isSome

/-- The canonical form: keys strictly rising. -/
def Wf (m : FMap α) : Prop := m.Pairwise (fun a b => a.1 < b.1)

/-- The lowest number below the bound that is no key of the map, if there is one: the map's keys rise, so the first
gap is where the keys stop following the count. -/
def firstFree (m : FMap α) (bound : Nat) : Option Nat :=
  let rec go : FMap α → Nat → Nat
    | [], n => n
    | (k, _) :: r, n => if k = n then go r (n + 1) else n
  let n := go m 0
  if n < bound then some n else none

end FMap

end Sys2Proof
end

