-- ==== Sys2Proof/Syntax.lean ====
section
/-! DEFINITION. The commands of the device: one constructor of `Instr` per row of the operation and event table.
An operand holds what reaches the device from outside with that step: the words of a packet or a message, the data a
bus-master read returns, what a pin, a link, a sensor or a storage cell shows. -/

namespace Sys2Proof

/-- Where a command packet comes from: queue pair `num` of function `func` (R36), or the management queue of an MCTP
endpoint (R40), whose message may arrive within an SPDM session with the owner (R441). -/
inductive Origin where
  | qp (func num : Nat)
  | mgmt (eid : Nat) (secure : Bool)
deriving DecidableEq, Repr

/-- The fields of a 64-byte command packet that the sender chooses, less OPCODE, which the constructor is (R53), and
the bytes of host memory or of the message that its address parameters name (R42, R586). -/
structure Pkt where
  flags : U16
  seq : U32
  slot : U16
  tag : U16
  progAddr : U64
  p0 : U64
  p1 : U64
  p2 : U64
  p3 : U64
  p4 : U64
  data : List Byte
deriving DecidableEq, Repr

/-- The CXL MetaValue of a request (R301). -/
inductive Meta where
  | I | S | A
deriving DecidableEq, Repr

/-- One CXL.mem request of a logical device: host physical address, tag, MetaValue, and for writes the 64 bytes, the
byte enables and the poison mark (R301, R503). -/
structure MemReq where
  ld : Nat
  hpa : Nat
  tag : Nat
  mv : Meta
  data : List Byte
  be : U64
  poison : Bool
deriving DecidableEq, Repr

/-- The part of a 64-bit register that an access reaches (R574). -/
inductive Part where
  | whole | low | high
deriving DecidableEq, Repr

/-- A write of a function to a window of its own: the register window or the doorbell window, with offset, size in
bytes and value (R498). -/
structure WinWrite where
  doorbell : Bool
  off : Nat
  size : Nat
  val : U64
deriving DecidableEq, Repr

/-- A received sync block (R402) and the time its first byte arrived, in 1/16 hub cycle on the receiver's clock (R403). -/
structure SyncBlock where
  stride : Nat
  herdId : U64
  epoch : Nat
  proto : Nat
  digest : U64
  deviceId : Nat
  state : Nat
  idValid : Bool
  voter : Bool
  depth : Nat
  req : Nat
  lanes : Nat
  echo : Int
  fwver : U64
  serial : U64
  echoStride : Nat
  arrival : Int
deriving DecidableEq, Repr

/-- What an end learns of its peer in EXCHANGE (R394). -/
structure Exchange where
  herdId : U64
  deviceId : Nat
  idValid : Bool
  serial : U64
  proto : Nat
  lanes : Nat
  credits : List Nat
  lastFseq : Nat
deriving DecidableEq, Repr

/-- One record of the herd roster (R406). -/
structure RosterRec where
  device : Nat
  st : Nat
  voter : Bool
  epochAdded : Nat
  identity : List Byte
deriving DecidableEq, Repr

/-- One herd domain record (R413). -/
structure HdomRec where
  hdom : Nat
  kind : Nat
  w : Nat
  k : Nat
  m : Nat
  u : Nat
  spare : Nat
  spareValid : Bool
  vacant : Nat
  members : List Nat
deriving DecidableEq, Repr

/-- A change of the herd's records that an agreement carries (R409): of the roster, of the voters, or of a herd domain's record,
whose new form stands beside the old one from the SHADOW state of its plan on (R425). -/
inductive HerdChange where
  | enrol (r : RosterRec)
  | normal (device : Nat)
  | remove (device : Nat)
  | voters (devices : List Nat)
  | shadow (r : HdomRec)
  | domain (r : HdomRec)
  | unshadow (hdom : Nat)
deriving DecidableEq, Repr

/-- What PROPOSE and COMMIT carry: the epoch after the change, the change, the proposer, and for COMMIT the commit stride
(R409). -/
structure Agreement where
  epoch : Nat
  change : HerdChange
  proposer : Nat
  commitStride : Nat
deriving DecidableEq, Repr

/-- The herd records that RECORDS carries (R410). -/
structure HerdRecords where
  epoch : Nat
  roster : List RosterRec
  domains : List HdomRec
  shadows : List HdomRec
deriving DecidableEq, Repr

/-- One HDM decoder of a logical device (R500). -/
structure HdmDecoder where
  base : Nat
  size : Nat
  ways : Nat
  gran : Nat
  position : Nat
  committed : Bool
deriving DecidableEq, Repr

/-- What the data slots of a control message carry (R390, R409, R410, R423). -/
inductive Pay where
  | none
  | agreement (a : Agreement)
  | records (r : HerdRecords)
  | decoder (d : HdmDecoder)
deriving DecidableEq, Repr

/-- The fields of an Apyan message head, its data slots, and what a control message carries (R389, R390). -/
structure Msg where
  mop : Nat
  poison : Bool
  resent : Bool
  nak : Bool
  dst : Nat
  src : Nat
  hops : Nat
  epoch : Nat
  tag : Nat
  hdom : Nat
  plate : Nat
  line : Nat
  be : U64
  arg : BitVec 128
  data : List Byte
  pay : Pay := .none
deriving DecidableEq, Repr

/-- A received flit: its 544 bytes and the uncorrectable codewords that carried it (R386, R387). The messages that its slots complete
reach the device as steps of their own. -/
structure Flit where
  bytes : List Byte
  uncorr : Nat
deriving DecidableEq, Repr

/-- A firmware image as the boot ROM or the security engine meets it (R453, R454): the 512 bytes of its header, which of the four
fused key hashes SHA-384 of its PUBKEY equals (4: none), whether SIG verifies, and whether BODY_HASH matches its body. -/
structure Image where
  header : List Byte
  keyHash : Nat
  sigOk : Bool
  bodyOk : Bool
deriving DecidableEq, Repr

/-- The fuses of the hub and what its DICE layers derive (R448, R449). -/
structure Fuses where
  fuseSvn : Nat
  revoked : BitVec 4
  siliconRev : Byte
  identity : List Byte
deriving DecidableEq, Repr

/-- A flash population as training finds it: dies per channel, blocks per die, native pages per block and bits per
cell, rated cycles, and the parameter page and profile limits of R362. -/
structure FlashPop where
  dies : Nat
  blocks : Nat
  pages : Nat
  bpc : Nat
  dataArea : Nat
  spareArea : Nat
  trPslcNs : Nat
  trNativeNs : Nat
  suspendNs : Nat
  ratedPslc : Nat
  ratedNative : Nat
  unusedDies : List (Nat × Nat)
  badBlocks : List (Nat × Nat)
deriving DecidableEq, Repr

/-- A configuration request of a host to one function (R496). -/
inductive CfgReq where
  | read (off : Nat)
  | dState (d3hot : Bool)
  | devCtl2 (range : Nat) (disable : Bool)
  | linkCap (val : U32)
  | devCtl (maxPayload maxRead : Nat) (tags : Nat)
  | other (off : Nat) (val : U32)
deriving DecidableEq, Repr

/-- A DMI operation that reaches the Debug Module (R532, R533). -/
inductive DmiOp where
  | readStatus
  | readSbData
  | sbRead (addr : Nat)
  | sbWrite (addr : Nat) (val : U64)
  | readOther (reg : Nat)
  | halt (hart : Nat)
  | resume (hart : Nat)
  | resetHart (hart : Nat)
  | hartArray (mask : BitVec 16)
  | accessReg (hart : Nat) (reg : Nat) (write : Bool) (val : U64)
  | progBuf (i : Nat) (val : U32)
  | step (hart : Nat)
  | trigger (hart : Nat) (i : Nat) (val : U64)
  | quickAccess
  | accessMem
  | auth
deriving DecidableEq, Repr

/-- What a failed bus-master access of a command's own data belongs to (R586): a packet not yet accepted, under the
opcode it carries, or an accepted long operation. -/
inductive DataFail where
  | packet (o : Origin) (opcode : Nat) (p : Pkt)
  | running (handle : Nat)
deriving DecidableEq, Repr

/-- The commands of the device, in the order of the table of operations and events. -/
inductive Instr where
  | strideBoundary (links : List (Nat × U64))
  | tetherExpiry (extent : Nat)
  | offerTimeout (extent : Nat)
  | demandSnapshot
  | plannerLate
  | sliceOverrun (handle cls idx units : Nat)
  | heldConfigBlockTake
  | accessAdmission (id : Nat)
  | stagingClaimGrant
  | laneJobDispatch (die : Nat)
  | planCommit (handle : Nat)
  | planAbandon (handle : Nat)
  | sqTailWrite (func qp size : Nat) (val : U64)
  | rqHeadWrite (func qp size : Nat) (val : U64)
  | ringAccessFailure (func qp : Nat)
  | commandDataAccessFailure (d : DataFail)
  | clampReportWriteFailure (o : Origin) (plan : Bool) (p : Pkt)
  | qp0Enable (func : Nat) (part : Part) (val : U64)
  | qp0Disable (func : Nat) (part : Part) (val : U64)
  | qp0IntEnWrite (func : Nat) (part : Part) (val : U64)
  | qp0BaseWrite (func : Nat) (reply : Bool) (part : Part) (val : U64)
  | nop (o : Origin) (p : Pkt)
  | queueCreate (o : Origin) (p : Pkt)
  | queueDelete (o : Origin) (p : Pkt)
  | configWrite (o : Origin) (p : Pkt)
  | configPlan (o : Origin) (p : Pkt)
  | configRead (o : Origin) (p : Pkt)
  | catalogueRead (o : Origin) (p : Pkt)
  | opCancel (o : Origin) (p : Pkt)
  | opStatusRead (o : Origin) (p : Pkt)
  | extentGrant (o : Origin) (p : Pkt)
  | extentRelease (o : Origin) (p : Pkt)
  | tetherRenew (o : Origin) (p : Pkt)
  | extentList (o : Origin) (p : Pkt)
  | windowSet (o : Origin) (p : Pkt)
  | placeMove (o : Origin) (p : Pkt)
  | plateQuery (o : Origin) (p : Pkt)
  | plateDiscard (o : Origin) (p : Pkt)
  | segmentDefine (o : Origin) (p : Pkt)
  | proofPass (o : Origin) (p : Pkt)
  | segmentDrop (o : Origin) (p : Pkt)
  | segmentQuery (o : Origin) (p : Pkt)
  | tableRead (o : Origin) (p : Pkt)
  | streamLoad (o : Origin) (p : Pkt)
  | streamRun (o : Origin) (p : Pkt)
  | streamUnload (o : Origin) (p : Pkt)
  | streamQuery (o : Origin) (p : Pkt)
  | streamWriteFailure (stream q : Nat)
  | operBind (o : Origin) (p : Pkt)
  | operUnbind (o : Origin) (p : Pkt)
  | operStep (o : Origin) (p : Pkt)
  | operRoundClose (o : Origin) (p : Pkt)
  | operQuery (o : Origin) (p : Pkt)
  | roundComplete (binding : Nat)
  | roundEventWriteFailure (binding : Nat)
  | digestOpen (o : Origin) (p : Pkt)
  | digestClose (o : Origin) (p : Pkt)
  | digestRead (o : Origin) (p : Pkt)
  | dmaChanOpen (o : Origin) (p : Pkt)
  | dmaChanStop (o : Origin) (p : Pkt)
  | dmaChanClose (o : Origin) (p : Pkt)
  | dmaKick (o : Origin) (p : Pkt)
  | dmaChanQuery (o : Origin) (p : Pkt)
  | descriptorFetch (ch : Nat) (bytes : List Byte)
  | descriptorComplete (ch : Nat) (src : List Byte) (link : U64)
  | parkLimitExpiry (ch : Nat)
  | dmaAccessFailure (ch : Nat)
  | impressionOpen (o : Origin) (p : Pkt)
  | impressionCapture (id : Nat)
  | impressionClose (o : Origin) (p : Pkt)
  | impressionQuery (o : Origin) (p : Pkt)
  | dirRecall (o : Origin) (p : Pkt)
  | snoopTimeout (snoop : Nat)
  | memRd (r : MemReq)
  | memRdData (r : MemReq)
  | memInv (r : MemReq)
  | memInvNt (r : MemReq)
  | memWr (r : MemReq)
  | memWrPtl (r : MemReq)
  | memClnEvct (r : MemReq)
  | memSpecRd (r : MemReq)
  | memFwdDrop (r : MemReq)
  | biConflict (ld : Nat) (snoop : Nat)
  | biRsp (ld : Nat) (snoop : Nat) (shared : Bool)
  | biRspE (ld : Nat) (snoop : Nat)
  | expansionWindowRead (func off len : Nat)
  | expansionWindowWrite (func off : Nat) (data : List Byte)
  | demotionSlice (slot : Nat)
  | touchedSweep
  | decodeComplete (lane : Nat) (fault : Option (Nat × Nat))
  | encodeComplete (lane : Nat) (fault : Bool)
  | dramReadComplete (stack granule : Nat) (flips : List Nat)
  | caParityAlert (stack pc replayed : Nat)
  | retrainingComplete (stack pc : Nat) (pass : Bool)
  | trainPeriodExpiry
  | selfRefreshEntry (stack pc : Nat)
  | selfRefreshExit (stack pc : Nat)
  | bankSpareCopyDone (bank : Nat)
  | flashReadComplete (addr : Nat) (ok : Bool) (corrected : Nat)
  | softRetryComplete (addr : Nat) (ok : Bool)
  | flashProgramComplete (die mode : Nat)
  | flashProgramFailure (die mode ch : Nat)
  | flashEraseComplete (group block : Nat) (failed : Option Nat)
  | padTimeout (die mode : Nat)
  | reclaimStart (die mode : Nat)
  | wearLevel (die mode : Nat)
  | flashDieFailure (channel die : Nat)
  | flashPatrolRead (addr : Nat) (ok : Bool) (corrected : Nat)
  | watchdogExpiry (core : Nat) (cmd : Option Nat)
  | mgmtWatchdogExpiry
  | scrub (o : Origin) (p : Pkt)
  | retire (o : Origin) (p : Pkt)
  | flipArm (o : Origin) (p : Pkt)
  | flipDisarm (o : Origin) (p : Pkt)
  | logRead (o : Origin) (p : Pkt)
  | logRelease (o : Origin) (p : Pkt)
  | selftestLogic (o : Origin) (p : Pkt)
  | selftestStore (o : Origin) (p : Pkt)
  | selftestStack (o : Origin) (p : Pkt)
  | dressageLoad (o : Origin) (p : Pkt)
  | dressageDrop (o : Origin) (p : Pkt)
  | dressageQuery (o : Origin) (p : Pkt)
  | debugUnlock (o : Origin) (p : Pkt)
  | debugLock (o : Origin) (p : Pkt)
  | herdForm (o : Origin) (p : Pkt)
  | herdAdmit (o : Origin) (p : Pkt)
  | herdJoin (o : Origin) (p : Pkt)
  | herdRemove (o : Origin) (p : Pkt)
  | herdVoters (o : Origin) (p : Pkt)
  | herdDomainSet (o : Origin) (p : Pkt)
  | routeWrite (o : Origin) (p : Pkt)
  | herdRead (o : Origin) (p : Pkt)
  | linkCtrl (o : Origin) (p : Pkt)
  | herdStandby (o : Origin) (p : Pkt)
  | domainActivate (o : Origin) (p : Pkt)
  | domainPark (o : Origin) (p : Pkt)
  | domainUnpark (o : Origin) (p : Pkt)
  | domainErase (o : Origin) (p : Pkt)
  | domainQuery (o : Origin) (p : Pkt)
  | keyLoad (o : Origin) (p : Pkt)
  | keyDestroy (o : Origin) (p : Pkt)
  | fwStage (o : Origin) (p : Pkt) (image : Image)
  | fwPrepare (o : Origin) (p : Pkt)
  | fwActivate (o : Origin) (p : Pkt)
  | firmwareHandover
  | fwActivateTimeout
  | fwCommit (o : Origin) (p : Pkt)
  | fwQuery (o : Origin) (p : Pkt)
  | unassignedOpcode (o : Origin) (opcode : Nat) (p : Pkt)
  | pldmFirmwareUpdate (image : Image)
  | syncBlockReceive (link : Nat) (bytes : List Byte) (arrival : Int)
  | flitReceive (link : Nat) (f : Flit)
  | retryReqReceive (link fseq : Nat)
  | linkStateTimeout (link : Nat)
  | linkTrainStepComplete (link : Nat) (x : Exchange)
  | linkRecoverEntry (link : Nat) (width : Bool) (lanes : Nat)
  | linkDown (link : Nat)
  | unknownMessage (link : Nat) (m : Msg)
  | rdLine (link : Nat) (m : Msg)
  | rdPlate (link : Nat) (m : Msg)
  | wrLine (link : Nat) (m : Msg)
  | contrib (link : Nat) (m : Msg)
  | mirror (link : Nat) (m : Msg)
  | dirtyMark (link : Nat) (m : Msg)
  | parityDelta (link : Nat) (m : Msg)
  | plateMove (link : Nat) (m : Msg)
  | tableRec (link : Nat) (m : Msg)
  | cmp (link : Nat) (m : Msg)
  | dataMsg (link : Nat) (m : Msg)
  | birspMsg (link : Nat) (m : Msg)
  | bisnpMsg (link : Nat) (m : Msg)
  | lockReq (link : Nat) (m : Msg)
  | lockGrant (link : Nat) (m : Msg)
  | lockRel (link : Nat) (m : Msg)
  | suspect (link : Nat) (m : Msg)
  | probe (link : Nat) (m : Msg)
  | probeAck (link : Nat) (m : Msg)
  | probeTimeout (device : Nat)
  | syncLossTimeout (device : Nat)
  | propose (link : Nat) (m : Msg)
  | proposalLockoutExpiry
  | accept (link : Nat) (m : Msg)
  | commit (link : Nat) (m : Msg)
  | commitStrideReached
  | recordsReq (link : Nat) (m : Msg)
  | records (link : Nat) (m : Msg)
  | linkLast (link : Nat) (m : Msg)
  | doneNote (link : Nat) (m : Msg)
  | standbySync (link : Nat) (m : Msg)
  | probationTimeout (device : Nat)
  | chipRstNAssert (heldNs : Nat)
  | chipRstNDeassert (f : Fuses)
  | bootRomComplete (marker : List Byte) (imgA imgB : Option Image)
  | coreInitComplete
  | trainComplete (failedPcs : List (Nat × Nat)) (flash : Option FlashPop)
  | configComplete (trayRecord : List Byte) (toActiveMs : Nat)
  | thermalSample (temps : List (BitVec 16)) (watts : Nat)
  | perstNAssert (head : Nat)
  | perstNDeassert (head : Nat)
  | hotReset (head : Nat)
  | linkDisable (head : Nat)
  | headLinkLoss (head : Nat)
  | headLinkUp (head rate width : Nat) (mld lopt flit256 : Bool)
  | linkSpeedChange (head rate width : Nat) (l0p : Bool)
  | functionLevelReset (func : Nat)
  | cxlReset (func : Nat)
  | hdmDecoderCommit (func n : Nat) (d : HdmDecoder)
  | intxDisableWrite (func : Nat) (disable : Bool)
  | dcAddResponse (ld extent : Nat) (accept part : Bool)
  | dcReleaseResponse (ld extent : Nat)
  | ideKeyProgram (head : Nat) (cachemem : Bool)
  | ideCheckFailure (head : Nat)
  | getLdInfo (head : Nat)
  | getMhdInfo (head : Nat)
  | getDcRegionConfiguration (ld : Nat)
  | getDcExtentLists (ld : Nat)
  | initiateDcAdd (eid : Nat) (p : Pkt)
  | initiateDcRelease (eid : Nat) (p : Pkt)
  | getQosStatus (head : Nat)
  | setLdAllocations (head : Nat)
  | identifyMemoryDevice (func : Nat)
  | getEventRecords (func log : Nat)
  | clearEventRecords (func log count : Nat)
  | getEventInterruptPolicy (func : Nat)
  | setEventInterruptPolicy (func : Nat) (policy : List Nat)
  | getSupportedLogs (func : Nat)
  | getLog (func log : Nat)
  | getHealthInfo (func : Nat)
  | getTimestamp (func : Nat)
  | setTimestamp (func : Nat) (val : U64)
  | mailboxFirmwareUpdate (func : Nat)
  | getVersion (path : Nat)
  | getCapabilities (path : Nat)
  | negotiateAlgorithms (path : Nat)
  | getDigests (path : Nat)
  | getCertificate (path slot : Nat)
  | challenge (path slot : Nat) (nonce : List Byte)
  | getMeasurements (path index : Nat)
  | keyExchange (path : Nat) (owner : Bool)
  | finish (path session : Nat)
  | keyUpdate (path session : Nat)
  | heartbeat (path session : Nat)
  | endSession (path session : Nat)
  | strBridleSelWrite (func : Nat) (part : Part) (val : U64)
  | drmPcSelWrite (func : Nat) (part : Part) (val : U64)
  | pmuTempSelWrite (func : Nat) (part : Part) (val : U64)
  | glbLogPopRead (func : Nat) (part : Part)
  | glbCntClearWrite (func : Nat) (part : Part) (val : U64)
  | tstSemForceWrite (func : Nat) (part : Part) (val : U64)
  | tstTraceWrite (func : Nat) (part : Part) (val : U64)
  | lowHalfRead (func off : Nat)
  | highHalfRead (func off : Nat)
  | registerWrite (func : Nat) (w : WinWrite)
  | tapInstruction (code : Byte)
  | peek (addr : Nat)
  | systemBusWrite (addr : Nat) (data : List Byte)
  | hartHalt (hart : Nat)
  | hartResume (hart : Nat) (cmd : Option Nat)
  | completionTimeout (func : Nat) (d : Option (Nat × Bool))
  | configurationRequest (func : Nat) (r : CfgReq)
  | dmiAccess (op : DmiOp)
  | tapReset
  | managementCoreRestartDone
  | standbySetReloaded
deriving DecidableEq, Repr

end Sys2Proof
end

