-- ==== Sys2Proof/Decode.lean ====
section
/-! DEFINITION. The device is a block: it has no instruction words. The operation table gives no row any bits (its
`fields` are empty), so no word spells a command. -/

namespace Sys2Proof

/-- The command that a word spells by the table's bits: the table gives no row bits, so none. -/
def decodeTableWord (_nbits _w : Nat) : Option Instr := none

end Sys2Proof
end

