-- ==== Sys2Proof/Config.lean ====
section
/-! DEFINITION. The values that the manual leaves open after a step that goes on: opaque functions of a counter in the state
(`Planner.free`), so that nothing can be proved about them but that they are some value. -/

namespace Sys2Proof.Config

/-- A byte that the manual calls undefined. -/
opaque freeByte : Nat → Byte

/-- A 64-bit value that the manual leaves to the part. -/
opaque freeWord : Nat → U64

/-- The vendor ID of Nylis, which the manual names and does not give as a number (R495). -/
opaque vendorId : BitVec 16

/-- The dwords of configuration space that the manual leaves to PCIe 6.2 and CXL 3.1 (R495, R496). -/
opaque cfgSpace : Nat → U32

/-- SHA-384 of bytes: a function that the manual takes from its own standard (R449, R454). -/
opaque sha384 : List Byte → List Byte

/-- The measurement of the hub's boot ROM (R448). -/
opaque bootRom : List Byte

/-- The certificate chain of an identity digest and a running image's header (R448, R450). -/
opaque certChain : List Byte → List Byte → List Byte

/-- The step of the 32-bit LFSR that samples activates for refresh management: the manual gives its width and seed (R339). -/
opaque lfsrNext : U32 → U32

/-- Whether a draw marks a bank, with the probability 2^−n of RFM_SAMPLE_LOG2 (R339). -/
opaque rfmDraw : U32 → Nat → Bool

/-- The rolling activation threshold that a stack's mode registers declare (R339), 0 for none: its part decides it. Safe: nothing constrains
it (assumption 113). -/
opaque raaThreshold : Nat → Nat

/-- The signature that a lane or operator self-test expects (R528, R529). -/
opaque misr : Nat → Nat

end Sys2Proof.Config
end

