-- ==== Sys2Proof/Machine/Bits.lean ====
section
/-! DEFINITION. Fields of numbers, little-endian bytes (R6), and the three checksums of the device: CRC-32C (R155),
CRC-64 (R262) and the eight-bit field arithmetic of the herd's parity (R415). -/

namespace Sys2Proof.Machine

/-- The `w` bits of `v` from bit `lo` up. -/
def fld (v lo w : Nat) : Nat := v / 2 ^ lo % 2 ^ w

/-- A quotient rounded up. -/
def roundUp (n d : Nat) : Nat := n / d + min 1 (n % d)

/-- One bit of a number. -/
def bitOf (v i : Nat) : Bool := v.testBit i

/-- 1 for true, 0 for false, shifted to bit `i`. -/
def bitAt (b : Bool) (i : Nat) : Nat := if b then 2 ^ i else 0

/-- The `n` bytes of a number, least significant first (R6). -/
def le : Nat → Nat → List Byte
  | 0, _ => []
  | n + 1, v => BitVec.ofNat 8 v :: le n (v / 256)

/-- The number that little-endian bytes hold (R6). -/
def leNat : List Byte → Nat
  | [] => 0
  | b :: bs => b.toNat + 256 * leNat bs

/-- `n` bytes from offset `off`, with zeros beyond the end. -/
def sub (bs : List Byte) (off n : Nat) : List Byte :=
  let t := (bs.drop off).take n
  t ++ List.replicate (n - t.length) 0

/-- The little-endian field of `n` bytes at offset `off`. -/
def fieldAt (bs : List Byte) (off n : Nat) : Nat := leNat (sub bs off n)

/-- The bytes with those from offset `off` replaced. -/
def splice (bs : List Byte) (off : Nat) (new : List Byte) : List Byte :=
  bs.take off ++ new ++ bs.drop (off + new.length)

/-- `n` zero bytes. -/
def zeros (n : Nat) : List Byte := List.replicate n 0

/-- Whether every byte of a range is zero. -/
def zeroAt (bs : List Byte) (off n : Nat) : Bool := (sub bs off n).all (· == 0)

/-- Apply a function a number of times. -/
def iter {α : Type} (f : α → α) : Nat → α → α
  | 0, a => a
  | n + 1, a => iter f n (f a)

/-- The numbers from `a` on, `n` of them. -/
def rangeFrom (a n : Nat) : List Nat := (List.range n).map (a + ·)

/-- The positions of the bits that are set in the low `n` bits. -/
def bitsSet (v n : Nat) : List Nat := (List.range n).filter (fun i => v.testBit i)

/-- The number whose set bits are the listed positions. -/
def bitMask (l : List Nat) : Nat := l.foldl (fun a i => a ||| 2 ^ i) 0

/-- One bit of the reflected CRC-32C. -/
def crc32cBit (c : U32) : U32 := if c.getLsbD 0 then (c >>> 1) ^^^ 0x82F63B78#32 else c >>> 1

/-- One byte of the reflected CRC-32C. -/
def crc32cByte (c : U32) (b : Byte) : U32 := iter crc32cBit 8 (c ^^^ b.setWidth 32)

/-- CRC-32C of bytes (R155): initial value and final exclusive-or all ones. -/
def crc32c (bs : List Byte) : U32 := bs.foldl crc32cByte 0xFFFFFFFF#32 ^^^ 0xFFFFFFFF#32

/-- One bit of the unreflected CRC-64. -/
def crc64Bit (c : U64) : U64 := if c.getLsbD 63 then (c <<< 1) ^^^ 0x42F0E1EBA9EA3693#64 else c <<< 1

/-- One byte of CRC-64. -/
def crc64Byte (c : U64) (b : Byte) : U64 := iter crc64Bit 8 (c ^^^ (b.setWidth 64 <<< 56))

/-- CRC-64 of bytes (R262): initial value 0, no final exclusive-or. -/
def crc64 (bs : List Byte) : U64 := bs.foldl crc64Byte 0

/-- Bytewise exclusive-or; the longer list's tail stands. -/
def xorBytes : List Byte → List Byte → List Byte
  | a :: as, b :: bs => (a ^^^ b) :: xorBytes as bs
  | [], bs => bs
  | as, [] => as

/-- The bytes of `old` with those that the byte enables name taken from `new`. -/
def maskBytes (old new : List Byte) (be : Nat) : List Byte :=
  (List.range old.length).map (fun i => if be.testBit i then new.getD i 0 else old.getD i 0)

/-- The least of a list of numbers, if it has one. -/
def minOf? : List Nat → Option Nat
  | [] => none
  | a :: l => some (l.foldl min a)

/-- The sum of a list of numbers. -/
def sumOf (l : List Nat) : Nat := l.foldl (· + ·) 0

end Sys2Proof.Machine
end

