-- ==== Sys2Proof/Machine/State.lean ====
section
/-! DEFINITION. The state of the device as plain data, and the state right after reset. Every table of the device is a
finite map with strictly rising keys; every register that software writes, every counter and every sticky bit is a
field; a register that only reflects other state is computed where it is read (Machine/Registers.lean). -/

namespace Sys2Proof.Machine

/-- The device never stops at a command: the spec gives every command an effect, so no fault is raised. -/
inductive Fault where
  /-- Raised by nothing. Kept so that the host's outcome type is inhabited by a closed reason. Safe. -/
  | never
deriving DecidableEq, Repr

/-- Why a command has no meaning. -/
inductive Refusal where
  /-- Answered only by an arm of Dispatch.lean that has no meaning yet. Safe. -/
  | notModelled (mnemonic : String)
deriving DecidableEq, Repr

/-! ## Messages that leave the device -/

/-- A status reply (R56). -/
structure Reply where
  tag : Nat
  status : Nat
  report : Bool
  long : Bool
  seq : Nat
  opcode : Nat
  sqHead : Nat
  handle : Nat
  detail : Nat
  r0 : Nat
  r1 : Nat
deriving DecidableEq, Repr

/-- A progress record (R67). -/
structure Progress where
  word : U64
  stride : Nat
  done : Nat
  total : Nat
  opcode : Nat
  seq : Nat
  r0 : Nat
  r1 : Nat
  r2 : Nat
  countEnd : Nat
deriving DecidableEq, Repr

/-- What the device sends out: on a head, over MCTP, on an Apyan link, on its pins or to the boot flash. `ringRead` is the
bus-master read of one 64-byte submission entry; `reply` and `progress` are bus-master writes of 32 and 64 bytes. -/
inductive Out where
  | ringRead (func qp addr : Nat)
  | reply (func qp addr : Nat) (bytes : List Byte)
  | mctpReply (eid : Nat) (bytes inline : List Byte)
  | progress (func : Nat) (addr : U64) (bytes : List Byte)
  | hostWrite (func : Nat) (addr : Nat) (bytes : List Byte) (poison : Bool)
  | intx (func : Nat) (assert : Bool)
  | memData (ld tag : Nat) (mv : Meta) (data : List Byte) (poison : Bool) (devLoad : Nat)
  | memCmp (ld tag : Nat) (mv : Meta) (cmpE : Bool) (devLoad : Nat)
  | biSnp (ld snoop : Nat) (line : Nat) (inv : Bool)
  | biConflictAck (ld snoop : Nat)
  | ioData (func : Nat) (data : List Byte) (poison : Bool)
  | ioUr (func : Nat)
  | regData (func off : Nat) (part : Part) (val : U64)
  | dcEvent (ld kind extent : Nat)
  | evtPulse (pin : Nat)
  | apyan (link : Nat) (m : Msg) (flits : List (List Byte))
  | apyanSync (link : Nat) (bytes : List Byte)
  | apyanFlit (link : Nat) (bytes : List Byte)
  | apyanExchange (link : Nat) (x : Exchange)
  | resend (link fseq : Nat)
  | cfgData (func off : Nat) (val : U32)
  | cfgRetry (func : Nat)
  | mailbox (func code : Nat) (vals : List Nat)
  | fmApi (path code : Nat) (vals : List Nat)
  | spdm (path code : Nat) (vals : List Nat) (bytes : List Byte)
  | aerFatal (head : Nat)
  | ideError (head : Nat)
  | bootMarker (bytes : List Byte)
  | imageWritten (slotB : Bool) (fwver : U64)
  | dmi (val : U64)
  | tdo (ir : Nat) (val : U32)
  | sbData (data : List Byte) (check : U32) (syndrome : U32)
  | trace (stride : Nat) (frames : List (Nat × Nat × BitVec 36))
deriving DecidableEq, Repr

/-! ## Stride planner and configuration -/

/-- The stride planner (R15 to R28, R33). Bridle keys are slot × 2048 + class × 256 + index; `overran` lists the slots of the slices
that overran of late, with their strides (R23). -/
structure Planner where
  count : Nat
  snap : Bool
  overran : List (Nat × Nat)
  overrun : Bool
  late : Bool
  broken : Bool
  stagingWait : Bool
  overrunCnt : U64
  bridleSel : U64
  grant : FMap Nat
  used : FMap Nat
  carry : FMap Nat
  demand : FMap Nat
  next : Option (FMap Nat)
  active : List Nat
  free : Nat
deriving DecidableEq, Repr

/-- A change of a configuration table that joins the generation being built (R14, R87). -/
inductive Change where
  | field (key val : Nat)
  | window (key : Nat) (doff len slot : Nat) (valid ro : Bool)
  | extentState (idx st : Nat)
  | slotState (slot st : Nat)
  | route (dev : Nat) (entry : U32)
  | digestOpen (id : Nat)
  | digestClose (id : Nat)
deriving DecidableEq, Repr

/-- A reply that waits: for the boundary of its generation (R87), or for another condition of its command. -/
structure PendReply where
  o : Origin
  due : Nat
  r : Reply
  inline : List Byte
deriving DecidableEq, Repr

/-- The generation being built (R87). -/
structure Build where
  num : Nat
  window : Nat
  due : Nat
  changes : List Change
deriving DecidableEq, Repr

/-- A configuration block that the port holds (R87): its queue, whether it is of CONFIG_PLAN, its packet, and the submission head
after it (R56). -/
structure HeldBlock where
  o : Origin
  plan : Bool
  p : Pkt
  head : Nat
deriving DecidableEq, Repr

/-- The configuration tables. `deferred` holds changes of commands that came after the build window closed; they join the
next generation. A field's key is slot × 2^48 + field ID × 2^16 + element; a field not listed holds its
default. -/
structure Config where
  gen : Nat
  fields : FMap Nat
  build : Option Build
  heldBlocks : List HeldBlock
  locked : List Nat
  deferred : List Change
deriving DecidableEq, Repr

/-! ## Queues and long operations -/

/-- One accepted sequence number with its reply status and handle (R62). -/
structure WinEnt where
  seq : Nat
  status : Nat
  handle : Option Nat
deriving DecidableEq, Repr

/-- A queue pair (R36 to R49). -/
structure Qp where
  sqBase : Nat
  rqBase : Nat
  sizeLog2 : Nat
  intEn : Bool
  slot : Option Nat
  expected : Nat
  window : List WinEnt
  head : Nat
  sqTail : Nat
  rqHead : Nat
  sampTail : Nat
  sampHead : Nat
  nextReply : Nat
  phase : Bool
  enabled : Bool
  awaiting : Bool
  stopping : Bool
  deleting : Option PendReply
  faulted : Bool
  fetchedNow : Nat
  unanswered : Nat
deriving DecidableEq, Repr

/-- A management queue (R44). -/
structure Mgmt where
  expected : Nat
  window : List WinEnt
  lastUse : Nat
deriving DecidableEq, Repr

/-- The CMQ_ registers of one function that software writes, and its fault bits (R99). -/
structure Cmq where
  sqBase : U64
  rqBase : U64
  ctrl : U64
  fault : U64
  opSel : U64
deriving DecidableEq, Repr

/-- A fetched packet that waits for commands before it (R51): its queue, the code of its command, the image that it names, and the
submission head after it (R56). -/
structure Waiting where
  o : Origin
  code : Nat
  p : Pkt
  img : Option Image
  head : Nat
deriving DecidableEq, Repr

/-- The command queues of the device. A queue pair's key is function × 64 + number. `visit` is the queue pair from which the fetcher
started in this stride (R47), and `headAfter` the submission head after the packet that the control plane is taking (R56). -/
structure Queues where
  qps : FMap Qp
  mgmts : FMap Mgmt
  cmq : FMap Cmq
  fetched : Nat
  noFetch : Bool
  useCount : Nat
  waiting : List Waiting
  replies : List PendReply
  inta : List Nat
  visit : Nat
  headAfter : Nat
deriving DecidableEq, Repr

/-- A staged change plan (R92 to R98): the fields it sets, the units it has still to move, those of the slice of this
stride, those moved, and the moves held back (unit with count, R94). A unit is a field ID with a key of the field's owning
chapter. -/
structure Plan where
  scope : Nat
  slot : Nat
  sets : List (Nat × Nat)
  todo : List (Nat × Nat)
  slice : List (Nat × Nat)
  moved : List (Nat × Nat)
  again : FMap Nat
  damaged : Nat
  fenced : Nat
  cancelling : Bool
deriving DecidableEq, Repr

/-- What a long operation works on. -/
inductive OpBody where
  | plan (p : Plan)
  | extentGrant (idx cursor : Nat)
  | extentRelease (idx : Nat) (forced : Bool)
  | placeMove (slot first count tier cursor : Nat)
  | discard (slot first count cursor : Nat)
  | proof (seg table : Nat) (recode : Bool) (phase cursor : Nat) (hist : FMap Nat) (zeros : Nat) (todo : List Nat)
      (claimed : Bool)
  | streamLoad (stream cursor : Nat)
  | streamRun (stream : Nat)
  | operBind (binding cursor : Nat)
  | roundClose (binding cursor : Nat) (started : Bool)
  | imprOpen (id cursor mapCursor : Nat)
  | imprClose (id cursor : Nat) (draining : Bool)
  | dirRecall (slot first count cursor : Nat)
  | scrub (target stack first count cursor corrected rewritten uncorr poisoned firstUe firstSyn damaged : Nat) (sum : Nat)
  | retire (kind part : Nat) (immediate : Bool) (todo : List (Nat × Nat)) (started : Bool)
  | selftestLogic (kind unit cursor : Nat)
  | selftestStore (die mode bank cursor failing first : Nat) (locs : List Nat)
  | selftestStack (stack : Nat) (offline : Bool) (mask cursor failing first : Nat) (locs : List Nat)
  | dressageLoad (cursor : Nat) (bytes : List Byte)
  | herdForm (herd : Nat) (dev : Nat)
  | herdAdmit (dev : Nat) (voter : Bool) (identity : List Byte) (phase : Nat)
  | herdJoin (herd : Nat) (dev : Nat)
  | herdRemove (dev : Nat) (phase : Nat)
  | herdVoters (devs : List Nat) (force : Bool) (phase : Nat)
  | herdDomainSet (r : HdomRec) (phase : Nat)
  | herdStandby (hdom func partnerFunc : Nat) (clear sent : Bool)
  | park (slot phase : Nat)
  | erase (slot phase : Nat) (todo : List Nat)
  | fwStage (image : Image) (blocks cursor : Nat)
  | fwPrepare
  | fwActivate (accepted : Nat)
deriving DecidableEq, Repr

/-- A long operation (R66 to R74). `st` is STATE of R69; `ran` says that a slice of it ran in this stride (R70), `ending` the
final state and status that it takes at the next boundary. -/
structure Op where
  opcode : Nat
  o : Origin
  slot : Option Nat
  seq : Nat
  progAddr : U64
  st : Nat
  status : Nat
  update : Nat
  done : Nat
  total : Nat
  r0 : Nat
  r1 : Nat
  r2 : Nat
  cancel : Bool
  dead : Bool
  ran : Bool
  ending : Option (Nat × Nat)
  born : Nat
  word : U64
  body : OpBody
deriving DecidableEq, Repr

/-- The command operations of the device by handle; a final operation stays until its handle is taken again (R66,
R102). -/
structure Ops where
  tab : FMap Op
  last : Nat
deriving DecidableEq, Repr

/-! ## Addresses, plates and tiers -/

/-- An extent (R106), with the target of kinds 2 and 3, its sharer index (R297) and the stride of its offer (R108). -/
structure Extent where
  dpa : Nat
  len : Nat
  doff : Nat
  slot : Nat
  ld : Nat
  kind : Nat
  ro : Bool
  hdmDb : Bool
  st : Nat
  tetherLen : Nat
  expiry : Nat
  tag : List Byte
  target : Nat
  contributor : Nat
  sharer : Nat
  offered : Nat
  firstStack : Nat
deriving DecidableEq, Repr

/-- A window translation table entry (R139). -/
structure Window where
  doff : Nat
  len : Nat
  slot : Nat
  valid : Bool
  ro : Bool
deriving DecidableEq, Repr

/-- A plate map entry (R118), with the count of reads while resident that R125 uses. -/
structure MapEnt where
  t0Slot : Nat
  store : Nat
  version : Nat
  clen : Nat
  table : Nat
  coding : Nat
  remote : Bool
  moving : Bool
  damaged : Bool
  dirty : Bool
  res0 : Bool
  tier : Nat
  reads : Nat
deriving DecidableEq, Repr

/-- A map directory entry (R116, R117): the tier that holds the map page and where, its touched bit and its T0 slot. -/
structure MapPage where
  tier : Nat
  store : Nat
  touched : Bool
  t0Slot : Option Nat
deriving DecidableEq, Repr

/-- What a central-store slot of the resident region holds: a plate or a map page of a domain slot, with the
referenced bit of the clock and the streams that hold it (R124, R216). -/
structure T0Use where
  slot : Nat
  isPage : Bool
  num : Nat
  ref : Bool
  held : List Nat
deriving DecidableEq, Repr

/-- A 2 MiB chunk of T1 for a pinned extent or an operator work area (R134, R239); while it is copied to another place
(R350), the new stack and granule and the lines copied. -/
structure Chunk where
  stack : Nat
  granule : Nat
  isExtent : Bool
  owner : Nat
  index : Nat
  copyTo : Option (Nat × Nat × Nat)
deriving DecidableEq, Repr

/-- A new home written in this stride, to which the map entry switches at the next boundary (R127): whether the plate then
leaves T0, whether no write has reached it since, whether it is a unit of a staged change plan (R94), and whether it is a failed flash
unit written again, whose VERSION stays (R123, R369). -/
structure Switch where
  key : Nat
  tier : Nat
  store : Nat
  clen : Nat
  table : Nat
  coding : Nat
  damaged : Bool
  leaveT0 : Bool
  clean : Bool
  plan : Bool
  again : Bool
deriving DecidableEq, Repr

/-- The extent table, windows, plate maps, tier allocators and T0 residency. A plate's key is slot × 2^36 + plate; a
map page's is slot × 2^28 + page. `pageMoves` holds the new homes of map pages that move in this stride: tier, address, and whether
the page was found damaged (R93, R97). -/
structure Tiers where
  extents : FMap Extent
  windows : FMap Window
  renewals : List (Nat × Nat)
  released : List Nat
  nextStack : Nat
  map : FMap MapEnt
  pages : FMap MapPage
  t0 : FMap T0Use
  hands : FMap Nat
  chunks : List Chunk
  freeing : List (Nat × Nat × Nat × Nat)
  switches : List Switch
  demote : FMap Nat
  pageMoves : FMap (Nat × Nat × Bool)
  capT1 : Nat
  capT2 : Nat
  capT3 : Nat
  hits : U64
  misses : U64
  useSel : U64
  use : FMap (List Nat)
  changed : List Nat
deriving DecidableEq, Repr

/-- A domain slot of the domain table (R430), with its storage key (R440) and the change of it that the next boundary brings (R441,
R442). -/
structure Dom where
  st : Nat
  activating : Bool
  key : Option (BitVec 512)
  dueKey : Option (Option (BitVec 512))
deriving DecidableEq, Repr

/-! ## Accesses -/

/-- What an access does at its order point. -/
inductive AccKind where
  | read (mv : Meta)
  | write (mv : Meta) (full : Bool)
  | inv
  | ioRead
  | ioWrite
deriving DecidableEq, Repr

/-- What an access reaches: a line of the domain, a line of a pinned extent (R134), a line of an impression (R320), or an
operator alias window (R242). -/
inductive Target where
  | line
  | pinned (extent off : Nat)
  | impr (id off : Nat)
  | oper (binding contrib off : Nat)
deriving DecidableEq, Repr

/-- An access to one line of a domain, from its arrival until its completion (R21, R298 to R303): its requester, the address that it
named (an HPA, or an offset in an expansion window), the
line's number in the domain, what it does, its data, and the stride of its admission. `origin` is the herd member that
forwarded it, none for the device's own host; `credit` is the link that it came in on with the message slots whose credits its
admission gives back (R21, R388); `sent` says that it waits on another member. -/
structure Access where
  ld : Nat
  func : Nat
  addr : Nat
  sharer : Option Nat
  tag : Nat
  slot : Nat
  line : Nat
  kind : AccKind
  data : List Byte
  be : U64
  poison : Bool
  target : Target
  stride : Nat
  origin : Option Nat
  credit : Option (Nat × Nat)
  sent : Bool
deriving DecidableEq, Repr

/-- A Back-Invalidate snoop outstanding (R303, R304), with the operation or the sealing impression it belongs to; a late one
has timed out. A snoop of another member's line that this device forwards to its own host has the home and its tag in
`home` (R390). -/
structure Snoop where
  slot : Nat
  line : Nat
  sharer : Nat
  ld : Nat
  inv : Bool
  sent : Nat
  late : Bool
  owner : Option Nat
  sealing : Option Nat
  home : Option (Nat × Nat)
deriving DecidableEq, Repr

/-- A directory entry (R298): state A or S, and the sharer vector. -/
structure DirEnt where
  isA : Bool
  sharers : List Nat
deriving DecidableEq, Repr

/-- A recall in progress (R312): a range of a slot's domain offsets, for one logical device's sharer or for all, and the
next entry key to scan. -/
structure Recall where
  slot : Nat
  lo : Nat
  hi : Nat
  sharer : Option Nat
  ld : Nat
  cursor : Nat
  silent : Bool
  handle : Option Nat
deriving DecidableEq, Repr

/-- A copy-map entry of an impression other than SHARED (R315). -/
inductive CopyEnt where
  | copy (k : Nat) | torn | zero
deriving DecidableEq, Repr

/-- An impression (R315 to R321). `st`: 0 sealing, 1 captured, 2 closing, 3 accepted and not yet sealing, 4 returning its
plates. -/
structure Impr where
  slot : Nat
  first : Nat
  count : Nat
  area : Nat
  areaCount : Nat
  st : Nat
  capture : Nat
  copies : Nat
  torn : Nat
  map : FMap CopyEnt
  scanned : Nat
  snoops : List Nat
deriving DecidableEq, Repr

/-- A write of the device's own to a line of a plate that waits in the transit region until the plate has a T0 slot (R31, R123). -/
structure Owed where
  key : Nat
  line : Nat
  data : List Byte
  be : Nat
  poison : Bool
deriving DecidableEq, Repr

/-- Accesses in the device, the directory and impressions. A directory key is slot × 2^42 + line. -/
structure Shared where
  held : FMap Access
  waiting : FMap Access
  owed : List Owed
  nextId : Nat
  dir : FMap DirEnt
  dirHand : FMap Nat
  snoops : FMap Snoop
  nextSnoop : Nat
  recalls : List Recall
  acks : List (Nat × Nat × Nat)
  lostLog : FMap Nat
  imprs : FMap Impr
  dirSel : U64
  bisnp : U64
  conflict : U64
  timeouts : U64
  lost : U64
deriving DecidableEq, Repr

/-! ## Coding engines -/

/-- A job of a burin lane (R177): a decode that accesses wait for (kind 1), a decode whose plate the device has used already (kind 3), an
encode (kind 4) or a histogram (kind 5); its class, its nominal cycles and those above them, the lane that failed it before, the check
that failed first and the lines released. -/
structure Job where
  kind : Nat
  cls : Nat
  cycles : Nat
  key : Nat
  line : Nat
  failedOn : Option Nat
  check : Nat
  released : Nat
  order : Nat
  extra : Nat
deriving DecidableEq, Repr

/-- A burin lane (R174, R198). -/
structure Lane where
  faults : Nat
  off : Bool
  pendingOff : Bool
  queue : List Job
deriving DecidableEq, Repr

/-- A segment (R179, R196). -/
structure Seg where
  slot : Nat
  first : Nat
  count : Nat
  elem : Nat
  table : Option Nat
  escapes : Nat
  coded : Nat
  warn : Bool
  dropping : Bool
deriving DecidableEq, Repr

/-- A code table of the registry (R190, R191): its 64-byte record once it has joined. -/
structure Table where
  record : List Byte
  joined : Bool
deriving DecidableEq, Repr

/-- The coding engines: lanes, the jobs that an engine die holds beyond its queues, the lines that decode lanes have released of plates
in the transit region (a mask and the plate), segments and tables. -/
structure Coding where
  lanes : FMap Lane
  waiting : FMap (List Job)
  transit : FMap (Nat × List Byte)
  order : Nat
  segs : FMap Seg
  tables : FMap Table
  lastTable : Nat
  decoded : U64
  encoded : U64
  rawFallback : U64
  laneRetry : U64
  laneSel : U64
deriving DecidableEq, Repr

/-! ## Streams -/

/-- A layer entry of a stream schedule (R203). -/
structure Layer where
  first : Nat
  ntile : Nat
  conditional : Bool
  evWrite : Bool
  evPin : Option Nat
  deadline : Nat
  evIndex : Nat
deriving DecidableEq, Repr

/-- A tile descriptor (R204). -/
structure Tile where
  first : Nat
  nplate : Nat
  expert : Nat
  step : Nat
  deadline : Nat
  evWrite : Bool
  evPin : Option Nat
  evIndex : Nat
deriving DecidableEq, Repr

/-- A stream schedule (R202). -/
structure Sched where
  push : Bool
  compressed : Bool
  accept : Nat
  window : Nat
  ctrlLine : Nat
  maskLine : Nat
  maskLines : Nat
  nslot : Nat
  slotBytes : Nat
  ring : Nat
  evAddr : Nat
  layers : List Layer
  tiles : List Tile
deriving DecidableEq, Repr

/-- A tile of a layer sequence in delivery (R212 to R223): its anchor, its delivery slot, the plates done, the index entries
and records built so far, where in the slot its next bytes go, and the 64-byte pieces of its current plate still to be
written, each poisoned or not; `tables` are those of its plates in flight (R190). -/
structure TileRun where
  q : Nat
  tile : Nat
  anchor : Nat
  slotIdx : Nat
  slotSeq : Nat
  started : Bool
  doneP : Nat
  index : List U64
  nrec : Nat
  ptr : Nat
  rest : List (List Byte × Bool)
  tables : List Nat
  poison : Bool
  dataDone : Option Nat
  delivered : Bool
  late : Bool
deriving DecidableEq, Repr

/-- The run state of a stream (R206 to R217, R233). `next` is the lowest layer sequence that has not entered the window, `complete` counts
the layers that are complete, `finished` those that are complete or finished with, `cut` lists entered layers of which a tile was skipped
(R209). -/
structure Run where
  handle : Nat
  start : Nat
  passes : Nat
  func : Nat
  released : Nat
  masked : Nat
  entered : FMap Nat
  masks : FMap (BitVec 512 × Nat)
  tiles : List TileRun
  next : Nat
  ringUse : FMap Nat
  complete : Nat
  finished : Nat
  lateLayers : List Nat
  doneLayers : List Nat
  cut : List Nat
  fail : Option Nat
deriving DecidableEq, Repr

/-- A stream (R200); `released` is RELEASED at the last snapshot of a run (R232). -/
structure Stream where
  slot : Nat
  ready : Bool
  sched : Sched
  sent : List Nat
  slotSeq : Nat
  released : Nat
  run : Option Run
deriving DecidableEq, Repr

/-! ## Operators and digests -/

/-- The step parameters of a round (R266). -/
structure StepParams where
  lr : U32
  wd : U32
  c1 : U32
  c2 : U32
  gscale : U32
deriving DecidableEq, Repr

/-- An operator binding (R236 to R251). `st`: 0 binding, 1 active, 2 unbinding. Its tally records, accumulators and held
lines lie in its work area in T1. `snap` holds the bytes and poison of target and moments of each unit of the open round as
they stood at its first contribution; `pend` the units that await step parameters; `finishing` complete units that wait
for snoops or T0, both with whether they finish poisoned; `shadowCnt` the units of each shadow plate finished in the round. -/
structure Binding where
  slot : Nat
  func : Nat
  st : Nat
  op : Nat
  ordered : Bool
  keep : Bool
  nfSkip : Bool
  shadow : Bool
  evWrite : Bool
  evPin : Option Nat
  inElem : Nat
  outElem : Nat
  ncontrib : Nat
  evIndex : Nat
  pA : U32
  pB : U32
  pC : U32
  pD : U32
  pE : U32
  target : Nat
  tlen : Nat
  mBase : Nat
  vBase : Nat
  shadowBase : Nat
  evAddr : Nat
  round : Nat
  closing : Bool
  missing : Bool
  poisoned : Bool
  doneUnits : Nat
  pend : FMap Bool
  finishing : FMap Bool
  steps : FMap StepParams
  snap : FMap (List (List Byte × Bool))
  shadowCnt : FMap Nat
  shadowDue : List Nat
deriving DecidableEq, Repr

/-- A layer digest (R262 to R264). `st`: 0 opening, 1 open, 2 closing, 3 closed. -/
structure Digest where
  slot : Nat
  tag : Nat
  first : Nat
  count : Nat
  sum : U64
  n : Nat
  sum0 : U64
  n0 : Nat
  st : Nat
deriving DecidableEq, Repr

/-- The update-on-write operators. `half` counts the operator half-cycles of this stride by slot × 4 + engine die (R261). -/
structure Operators where
  binds : FMap Binding
  digests : FMap Digest
  half : FMap Nat
  sel : U64
  dup : U64
  offRound : U64
  partialW : U64
  nonfinite : U64
  targetWrite : U64
deriving DecidableEq, Repr

/-! ## DMA -/

/-- A DMA descriptor as fetched (R275, R276). -/
structure Desc where
  dseq : Nat
  evIndex : Nat
  evPin : Option Nat
  evWrite : Bool
  esize : Nat
  reshape : Nat
  dstDom : Bool
  srcDom : Bool
  src : Nat
  dst : Nat
  rowBytes : Nat
  rows : Nat
  srcPitch : Nat
  dstPitch : Nat
  shape : U64
  link : U64
  staged : Bool
deriving DecidableEq, Repr

/-- A burst of a descriptor (R273): bytes of one row of the contiguous side; `back` says that it writes what a staged descriptor has read
into its claim (R281). -/
structure Burst where
  row : Nat
  lo : Nat
  n : Nat
  back : Bool
deriving DecidableEq, Repr

/-- A DMA channel (R271 to R293). `next` is the state it takes at the next boundary; `cur` where the next burst of its descriptor begins: a
row, an offset in it (the end, where bursts run in descending order), and whether it writes from the claim; `flight` the bursts started and
not done; `moved` the bytes written; `stage` what lies in the claim; `bad` whether the descriptor has moved a poisoned line. -/
structure Chan where
  slot : Nat
  func : Nat
  prio : Nat
  parkLimit : Nat
  stAddr : Nat
  evArea : Nat
  st : Nat
  next : Option (Nat × Nat)
  lastDseq : Nat
  status : Nat
  poison : Bool
  update : Nat
  word : U64
  addr : Nat
  desc : Option Desc
  cur : Option (Nat × Nat × Bool)
  flight : List Burst
  moved : Nat
  stage : List (Byte × Bool)
  bad : Bool
  parkLeft : Nat
  reread : Bool
  ended : List (Nat × Nat × Bool × Option Nat × Bool)
  touch : Bool
deriving DecidableEq, Repr

/-- The DMA engine. By engine die and priority (4 × die + priority), `turns` holds the channel whose turn it is and the bursts left of the
turn, and `turnLen` the length of a turn in this stride; `started` counts the bursts that each die's mover has started in it (R274). -/
structure Dma where
  chans : FMap Chan
  chSel : U64
  bytes : U64
  staged : U64
  turns : FMap (Nat × Nat)
  turnLen : FMap Nat
  started : FMap Nat
deriving DecidableEq, Repr

/-- Staging-pool claims (R32): owner kind 0 operator, 1 DMA, 2 histogram, with its number and bytes. -/
structure Claim where
  kind : Nat
  owner : Nat
  bytes : Nat
  granted : Bool
deriving DecidableEq, Repr

/-! ## DRAM and flash -/

/-- A line access that a controller has accepted and not yet issued (R332): its granule, the stride it reached the controller in, and
its place in class 3 of R333: 0 a write of a draining buffer, 1 a read, 2 any other write (R335). -/
structure DramReq where
  gran : Nat
  since : Nat
  rank : Nat
deriving DecidableEq, Repr

/-- A pseudo-channel's controller. `st`: R348. `alerts`: the strides of its parity alerts (R342). `wbuf`: the granules of its write
buffer with the stride each was written in (R335). `training`: steps of a retraining still to run (R340). `lfsr`: R339. `missed`: lines
that patrol scrub has put off. `queue`: the accesses waiting, in order of arrival (R332). `rows`: the open row of each bank with its
consecutive column commands (R334). `served`: the bank last served in classes 2 to 5 (R333). `acts`: the activates of each bank since
its last refresh management, `marks`: the banks owed one (R339). `owed` and `issued`: refreshes owed, in 1/125, and issued (R338).
`steps`: training steps put off (R337, R349). `room`: line-times of the maintenance slot of this stride not yet used (R32). `took`: line
accesses admitted to it in this stride (R332). `lost`: command opportunities that a replay takes (R341). `last`: the stride of the last
access (R348). `bist`: line operations of a self-test done (R528). -/
structure Pc where
  st : Nat
  alerts : List Nat
  wbuf : List (Nat × Nat)
  training : Nat
  lfsr : U32
  missed : Nat
  retiring : Bool
  queue : List DramReq
  rows : FMap (Nat × Nat)
  served : List Nat
  acts : FMap Nat
  marks : List Nat
  owed : Nat
  issued : Nat
  steps : Nat
  room : Nat
  took : Nat
  lost : Nat
  last : Nat
  bist : Nat
deriving DecidableEq, Repr

/-- The DRAM controllers. `rows` holds the retired rows (stack, pseudo-channel, bank, row), `yokeMoves` the yoked plates that
move to a new run (R468), `pass` the steps left of the periodic training pass (R340) and `patrol` the lines that patrol scrub
has taken on each pseudo-channel (R473). `hot`: the stacks refreshed at the doubled rate in this stride (R338); `step`: a step of the
periodic pass runs in this stride, `lastPass`: when the last pass began; `strides` and `hotStrides`: the strides since reset and those of
them in which a stack ran hot; `granted`: the last stride in which a stack held a grant (R348). -/
structure Dram where
  pcs : FMap Pc
  hot : Nat
  pass : Nat
  step : Bool
  lastPass : Nat
  strides : Nat
  hotStrides : FMap Nat
  granted : FMap Nat
  patrol : Nat
  rows : List (Nat × Nat × Nat × Nat)
  degraded : Nat
  yokeMoves : List Nat
  pcSel : U64
  act : U64
  rfm : U64
  caReplay : U64
  fwd : U64
  rmw : U64
  yokeRead : U64
  unmapped : U64
deriving DecidableEq, Repr

/-- A flash codeword slot that has been written (R365), by its STORE_ADDR. -/
structure FSlot where
  payload : List Byte
  ident : Nat
  hdom : Nat
  kind : Nat
  version : Nat
  coding : Nat
  elem : Nat
  table : Nat
  clen : Nat
  encrypted : Bool
  wseq : Nat
  bad : Bool
deriving DecidableEq, Repr

/-- A stripe block (R363, R370), by key group × 65536 + block. `st`: 0 free, 1 open, 2 written, 3 erasing, 4 bad, 5 failed with its
live slots to be relocated, 6 being reclaimed. -/
structure FBlock where
  st : Nat
  erases : Nat
  pages : Nat
deriving DecidableEq, Repr

/-- The open unit of an engine die and mode (R368): stripe block, first page, slots filled, the stride of the first
slot, and whether it is programming. -/
structure FUnit where
  group : Nat
  block : Nat
  page : Nat
  slots : List Nat
  opened : Nat
  programming : Bool
deriving DecidableEq, Repr

/-- A flash read in progress (R373, R377): the plate it serves, whether it is a reconstruct read, whether soft retries run or have
failed, whether the rebuild has failed, and whether it is scrub's: patrol's, or that of the SCRUB with a handle. -/
structure FRead where
  key : Nat
  recon : Bool
  soft : Bool
  softFailed : Bool
  reconFailed : Bool
  patrol : Bool
  scrub : Option Nat
deriving DecidableEq, Repr

/-- The flash tiers. -/
structure Flash where
  pop : Option FlashPop
  profileBad : Bool
  groups : FMap (Nat × Nat)
  blocks : FMap FBlock
  units : FMap (List FUnit)
  slots : FMap FSlot
  reads : FMap FRead
  issue : FMap Nat
  wseq : FMap Nat
  lateRead : Bool
  worn : Bool
  groupSel : U64
  recon : U64
  suspend : U64
  pad : U64
  reloc : U64
  badBlock : U64
  fails : FMap (List Nat)
deriving DecidableEq, Repr

/-! ## Integrity, log and cores -/

/-- A log entry (R484). -/
structure LogEnt where
  lseq : Nat
  code : Nat
  sev : Nat
  stride : Nat
  slot : Option Nat
  count : Nat
  argA : Nat
  argB : Nat
deriving DecidableEq, Repr

/-- An armed injection (R476). -/
structure Flip where
  dram : Bool
  read : Bool
  stack : Nat
  line : Nat
  bits : List Nat
  addrXor : Nat
  shalf : Bool
deriving DecidableEq, Repr

/-- A control core (R480, R537): out of service, halted, whether a semaphore of it was released by force since it halted (R539), and
the strides of its watchdog expiries. -/
structure Core where
  out : Bool
  halted : Bool
  released : Bool
  expiries : List Nat
deriving DecidableEq, Repr

/-- A hardware semaphore that is not FREE (R537). `st`: 1 HELD, 2 HELD_BY_HALTED, 3 PREEMPTED. -/
structure Sem where
  st : Nat
  holder : Nat
deriving DecidableEq, Repr

/-- Data integrity, the event and RAS log, and the control cores. `rate` holds the LSEQ of each rate-limited entry of
this stride (R464, R573); `lost` the entries that are held no more (R483, R584). -/
structure Ras where
  log : List LogEnt
  nextLseq : Nat
  lost : List (Nat × Option Nat)
  pops : FMap Nat
  fatal : Bool
  logDrop : Bool
  ue : Bool
  ce : U64
  uec : U64
  poisonRd : U64
  dropCnt : U64
  rate : FMap Nat
  tracker : List (Nat × List Nat)
  spares : FMap Nat
  sparing : List (Nat × Nat)
  flips : FMap Flip
  cores : FMap Core
  mgmtDown : Bool
  sems : FMap Sem
deriving DecidableEq, Repr

/-! ## Test, debug and dressage -/

/-- A loaded dressage table (R517, R518): period, CRC and entries (slot, class, index, phase, grant, slice). -/
structure DTable where
  period : Nat
  crc : U32
  entries : List (Nat × Nat × Nat × Nat × Nat × Bool)
deriving DecidableEq, Repr

/-- Dressage mode, debug and trace. `laneTests` holds the lanes under test, 64 + die for an operator unit under test and 128 + die
for one out of service (R528, R529); `records` the trace records of this stride (R540); `sbData`, `sbCheck` and `sbSyn` the Debug
Module's system-bus data registers (R535), and the fields after them what else the Debug Module holds: its program buffer, the hart
array mask, and by hart × 65536 + number the triggers and the registers that abstract commands have written (R533). -/
structure Test where
  tables : FMap DTable
  dropping : List Nat
  inForce : Nat
  armed : Nat
  cause : Nat
  sig0 : U64
  sig : U64
  lastRec : List Byte
  level : Nat
  lockDue : Bool
  semSel : U64
  trace : U64
  tracePins : Nat
  peeks : U64
  ir : Byte
  laneTests : List Nat
  records : List U32
  sbData : List Byte
  sbCheck : U32
  sbSyn : U32
  progBuf : FMap U32
  hartMask : BitVec 16
  triggers : FMap U64
  hartRegs : FMap U64
deriving DecidableEq, Repr

/-! ## Herd -/

/-- One end of an Apyan link (R384 to R397). `credits` are those left per virtual channel, `seen` the CREDIT received last and
`freed` the slots of received messages freed, `retrySent` the FSEQ and the stride of the RETRY_REQ sent last; `req`, `reqLanes`
and `reqMine` are the pending request, its lane mask and whether this end raised it, `reqAt` the stride at which both ends enter
RECOVER, `out` the flits sent in this stride (R385). -/
structure Link where
  st : Nat
  lanes : Nat
  peer : Nat
  leads : Bool
  entered : Nat
  enabled : Bool
  txSeq : Nat
  rxSeq : Nat
  replay : List (Nat × List Msg)
  credits : List Nat
  seen : List Nat
  freed : List Nat
  retrySent : Option (Nat × Nat)
  req : Nat
  reqLanes : Nat
  reqMine : Bool
  reqAt : Nat
  peerDepth : Nat
  lastSync : Nat
  echo : Int
  peerStride : Nat
  badStride : Bool
  fwDiffers : Bool
  out : Nat
deriving DecidableEq, Repr

/-- Why the device sent a request over Apyan, so that its reply finds its use: a host access, the bytes of a whole plate for
work of the device's own, a line of a DMA burst, a parity delta, a part of a rebuild, a lock, a result of an operator binding, or nothing
further. -/
inductive TxnUse where
  | access (id : Nat)
  | plate (key : Nat)
  | dma (ch : Nat)
  | mark (key : Nat)
  | mirror (id : Nat)
  | part (key index : Nat)
  | lock (key : Nat)
  | move (handle key : Nat)
  | standby (handle : Nat)
  | commit (func index : Nat)
  | oper (binding : Nat)
  | place (handle : Nat)
  | quiet
deriving DecidableEq, Repr

/-- A request the device sent over Apyan and whose reply it waits on, by tag. -/
structure Txn where
  m : Msg
  use : TxnUse
deriving DecidableEq, Repr

/-- A plate being rebuilt from its row (R421): whether the stripe lock is held, and the plates of the row read so far, by
index: data below K, parity from K on. -/
structure Rebuild where
  keeper : Nat
  locked : Bool
  parts : FMap (List Byte × List Nat)
  wanted : List Nat
deriving DecidableEq, Repr

/-- A stripe lock at its keeper (R418): slot, row, the holder first and then those who wait, each with its tag and the plate that it
named. -/
structure StripeLock where
  slot : Nat
  row : Nat
  queue : List (Nat × Nat × Nat)
deriving DecidableEq, Repr

/-- A MIRROR record that a yoke partner keeps until a DONE_NOTE names it (R417): the primary, its logical
device, the host's tag, the standby function paired with that device, whether it was a write, and its line. -/
structure MirrorRec where
  src : Nat
  ld : Nat
  hostTag : Nat
  standby : Option Nat
  write : Bool
  slot : Nat
  line : Nat
deriving DecidableEq, Repr

/-- The plates of a herd domain that this member has to move to other members under a new record (R425): those still to be
sent, with the member that takes each, those sent, and the tables whose records a member has had. -/
structure HMove where
  hdom : Nat
  todo : List (Nat × Nat)
  sent : List (Nat × Nat)
  tables : List (Nat × Nat)
deriving DecidableEq, Repr

/-- The herd state of the device (R398 to R429). `shadows` holds the new records of domains whose plan runs (R425), `held` messages
of an epoch not yet adopted with the link they came on, `waitMsgs` requests that wait for snoops or room, `buf` plates that
arrived over Apyan for work of the device's own, `remotes` the sharer index of each remote logical device (slot, device, logical
device, index), `tookOver` the herd domain IDs in which this device stands at a lost member's position, `accepted` the proposals
accepted (key, proposer, stride), `offers` those rejected until their lockout ends, `votes` the voters that accepted the lead's
own proposal, `pendingAdopt` the changes committed with a commit stride to come and `forwarded` the keys of those passed on,
`lastSeen` the stride of the last sync block of each neighbour, `suspects` and `probation` the devices that the lead probes or
knows to be in probation with the stride since, `locks` and `dirtyMarks` the locks and marks it keeps as lock keeper, `rowLocks`
the rows whose home-copy writes a lock holds back (R418), `marked` the plates it has marked as their home (R416), `mirrors` the
records that it keeps as a partner, `ingress` the messages that a link's ingress buffer holds for want of grant (R21), `rx` the link and
the slots of the request being taken, whose credits are still owed, `tableIds` the local table of another member's (device × 65536 + table) and `newTables` the
record that preceded a plate (R419), `standbys` the pairings at a primary (domain, function, standby function) and `standbyOf`
those at a partner (primary, domain, standby function), `asked` and `adopt` the records asked for and received (R410), `nakd` the
requests to send again once adopted (R408), `ready` says that a joining member has told the lead, and `strideAdopted` that the
herd's stride count has been taken (R18). -/
structure Herd where
  st : Nat
  device : Nat
  herdId : U64
  epoch : Nat
  roster : List RosterRec
  domains : List HdomRec
  shadows : List HdomRec
  cause : Nat
  noQuorum : Bool
  links : FMap Link
  linkSel : U64
  routes : FMap U32
  offset : Int
  trim : Int
  depth : Nat
  parent : Nat
  aligned : Nat
  txns : FMap Txn
  nextTag : Nat
  outWait : List Msg
  held : List (Nat × Msg)
  waitMsgs : List Msg
  ingress : List (Nat × Msg)
  rx : Option (Nat × Nat)
  buf : FMap (List Byte × List Nat)
  remotes : List (Nat × Nat × Nat × Nat)
  rebuilds : FMap Rebuild
  tookOver : List Nat
  accepted : List (Nat × Nat × Nat)
  offers : List (Agreement × Msg)
  votes : List Nat
  proposing : Option Agreement
  pendingAdopt : List Agreement
  forwarded : List Nat
  lastSeen : FMap Nat
  suspects : FMap Nat
  probation : FMap Nat
  locks : List StripeLock
  dirtyMarks : List Nat
  rowLocks : List (Nat × Nat)
  marked : List Nat
  mirrors : List MirrorRec
  tableIds : FMap Nat
  newTables : List (Nat × List Byte)
  moves : List HMove
  standbys : List (Nat × Nat × Nat)
  standbyOf : List (Nat × Nat × Nat)
  asked : Bool
  adopt : Option HerdRecords
  nakd : List Nat
  ready : Bool
  strideAdopted : Bool
  replayCnt : U64
  fecUncorr : U64
  fwdCnt : U64
  nakCnt : U64
deriving DecidableEq, Repr

/-! ## Trust, hosts, power -/

/-- An SPDM session or exchange on one path (R450). `st`: 0 none, 1 versioned, 2 capable, 3 negotiated. -/
structure Spdm where
  st : Nat
  sessions : List (Nat × Bool × Bool)
  next : Nat
deriving DecidableEq, Repr

/-- Identity, firmware images and keys of the device (R448 to R461). -/
structure Trust where
  fuseSvn : Nat
  revoked : BitVec 4
  siliconRev : Byte
  identity : List Byte
  activeB : Bool
  standby : Nat
  imgA : Option Image
  imgB : Option Image
  ideIo : Byte
  ideMem : Byte
  spdm : FMap Spdm
  domSel : U64
  denied : U64
  prepared : Option Nat
deriving DecidableEq, Repr

/-- A head (R491 to R493). -/
structure Head where
  up : Bool
  rate : Nat
  width : Nat
  mld : Bool
  lopt : Bool
  l0p : Bool
  perst : Bool
deriving DecidableEq, Repr

/-- The state of one function (R495 to R516). `cfg` holds the writable dwords of its configuration header by offset, `latch` the
half latch (R577), and `events` the event records of each log. -/
structure Func where
  decoders : FMap HdmDecoder
  resetCause : Nat
  resetSeen : Bool
  cplTo : U64
  unmapped : U64
  intxDis : Bool
  d3hot : Bool
  cplRange : Nat
  cplDis : Bool
  maxPayload : Nat
  maxRead : Nat
  tags : Nat
  linkCap : U32
  cfg : FMap U32
  latch : Option (Nat × U32)
  events : FMap (List (Nat × Nat))
  policy : List Nat
  time : Nat
  timeSet : Nat
deriving DecidableEq, Repr

/-- Boot stage, thermal sensing and the package's pins (R554 to R570). `strides` counts the boundaries since CHIP_RST_N. -/
structure Pmu where
  stage : Nat
  inReset : Bool
  herdMode : Nat
  toActive : Nat
  subsysVendor : Nat
  subsysId : Nat
  tempSel : U64
  temps : FMap (BitVec 16 × BitVec 16)
  levels : FMap Nat
  nextLevels : Option (FMap Nat)
  estW : Nat
  strides : Nat
  thrStrides : U64
  thermtrip : Bool
deriving DecidableEq, Repr

/-- The whole device. `mem` holds the bytes of the central store and of the DRAM stacks at their system-bus addresses
(R534); `syn` holds the syndrome of R463 of every line whose stored bits are not good; `out` is what the device has
sent out since reset, oldest first. -/
structure State where
  pending : List Instr
  out : List Out
  mem : List Host.Cell
  syn : FMap U32
  str : Planner
  cfg : Config
  q : Queues
  ops : Ops
  ti : Tiers
  doms : FMap Dom
  sh : Shared
  cod : Coding
  streams : FMap Stream
  opr : Operators
  dma : Dma
  claims : List Claim
  dram : Dram
  fl : Flash
  ras : Ras
  tst : Test
  herd : Herd
  tr : Trust
  heads : FMap Head
  funcs : FMap Func
  pmu : Pmu
  cntClear : Nat
  atBoundary : List (Nat × Nat × Nat)
deriving DecidableEq, Repr

/-! ## Reset

The state right after CHIP_RST_N rises, before the boot ROM has run (R556). A table that the spec gives no entry at
reset is empty; an element that a table does not list holds the default named where the table is read. -/

/-- The planner at reset (R18, R33). -/
def Planner.reset : Planner :=
  { count := 0, snap := false, overran := [], overrun := false, late := false, broken := false, stagingWait := false, overrunCnt := 0,
    bridleSel := 0, grant := [], used := [], carry := [], demand := [], next := none, active := [], free := 0 }

/-- The configuration at reset: generation 1, every field at its default (R33, R79). -/
def Config.reset : Config := { gen := 1, fields := [], build := none, heldBlocks := [], locked := [], deferred := [] }

/-- The queues at reset (R99). -/
def Queues.reset : Queues :=
  { qps := [], mgmts := [], cmq := [], fetched := 0, noFetch := false, useCount := 0, waiting := [],
    replies := [], inta := [], visit := 0, headAfter := 0 }

/-- No operation; the handle taken as assigned last is 4,095 (R66). -/
def Ops.reset : Ops := { tab := [], last := 4095 }

/-- The tiers at reset: nothing mapped, capacities 0 (R146, R582). -/
def Tiers.reset : Tiers :=
  { extents := [], windows := [], renewals := [], released := [], nextStack := 0, map := [], pages := [], t0 := [],
    hands := [], chunks := [], freeing := [], switches := [], demote := [], pageMoves := [], capT1 := 0, capT2 := 0, capT3 := 0,
    hits := 0, misses := 0, useSel := 0, use := [], changed := [] }

/-- Sharing at reset: an empty directory, no access in the device (R326). -/
def Shared.reset : Shared :=
  { held := [], waiting := [], owed := [], nextId := 0, dir := [], dirHand := [], snoops := [], nextSnoop := 0, recalls := [], acks := [],
    lostLog := [],
    imprs := [], dirSel := 0, bisnp := 0, conflict := 0, timeouts := 0, lost := 0 }

/-- The coding engines at reset: every lane in service, no segment and no table (R198). -/
def Coding.reset : Coding :=
  { lanes := [], waiting := [], transit := [], order := 0, segs := [], tables := [], lastTable := 0xFFFE, decoded := 0, encoded := 0,
    rawFallback := 0, laneRetry := 0, laneSel := 0 }

/-- The operators at reset. -/
def Operators.reset : Operators :=
  { binds := [], digests := [], half := [], sel := 0, dup := 0, offRound := 0, partialW := 0, nonfinite := 0,
    targetWrite := 0 }

/-- The DMA engine at reset. -/
def Dma.reset : Dma := { chans := [], chSel := 0, bytes := 0, staged := 0, turns := [], turnLen := [], started := [] }

/-- The DRAM controllers at reset. -/
def Dram.reset : Dram :=
  { pcs := [], hot := 0, pass := 0, step := false, lastPass := 0, strides := 0, hotStrides := [], granted := [], patrol := 0,
    rows := [], degraded := 0, yokeMoves := [], pcSel := 0, act := 0, rfm := 0, caReplay := 0, fwd := 0, rmw := 0, yokeRead := 0, unmapped := 0 }

/-- The flash tiers at reset: no population found yet, every block free (R379). -/
def Flash.reset : Flash :=
  { pop := none, profileBad := false, groups := [], blocks := [], units := [], slots := [], reads := [],
    issue := [], wseq := [], lateRead := false, worn := false, groupSel := 0, recon := 0, suspend := 0, pad := 0,
    reloc := 0, badBlock := 0, fails := [] }

/-- The log and the fault state at reset (R489). -/
def Ras.reset : Ras :=
  { log := [], nextLseq := 0, lost := [], pops := [], fatal := false, logDrop := false, ue := false, ce := 0, uec := 0,
    poisonRd := 0, dropCnt := 0, rate := [], tracker := [], spares := [], sparing := [],
    flips := [], cores := [], mgmtDown := false, sems := [] }

/-- Test and debug at reset: debug level 0, no dressage table (R543). -/
def Test.reset : Test :=
  { tables := [], dropping := [], inForce := 0, armed := 0, cause := 0, sig0 := 0, sig := 0, lastRec := [], level := 0,
    lockDue := false, semSel := 0, trace := 0, tracePins := 0, peeks := 0, ir := 2, laneTests := [], records := [],
    sbData := [], sbCheck := 0, sbSyn := 0, progBuf := [], hartMask := 0, triggers := [], hartRegs := [] }

/-- The herd state at reset: standalone (R398, R428). -/
def Herd.reset : Herd :=
  { st := 0, device := 0, herdId := 0, epoch := 0, roster := [], domains := [], shadows := [], cause := 0, noQuorum := false,
    links := [], linkSel := 0, routes := [], offset := 0, trim := 0, depth := 7, parent := 0, aligned := 0, txns := [],
    nextTag := 0, outWait := [], held := [], waitMsgs := [], ingress := [], rx := none, buf := [], remotes := [], rebuilds := [], tookOver := [],
    accepted := [], offers := [], votes := [], proposing := none, pendingAdopt := [], forwarded := [], lastSeen := [],
    suspects := [], probation := [], locks := [], dirtyMarks := [], rowLocks := [], marked := [], mirrors := [], tableIds := [],
    newTables := [], moves := [], standbys := [], standbyOf := [], asked := false, adopt := none, nakd := [], ready := false,
    strideAdopted := false, replayCnt := 0, fecUncorr := 0, fwdCnt := 0, nakCnt := 0 }

/-- Trust state at reset; the fuses are read when CHIP_RST_N rises (R448, R460). -/
def Trust.reset : Trust :=
  { fuseSvn := 0, revoked := 0, siliconRev := 0, identity := [], activeB := false, standby := 0, imgA := none,
    imgB := none, ideIo := 0, ideMem := 0, spdm := [], domSel := 0, denied := 0, prepared := none }

/-- Boot stage 0 (ROM), CHIP_RST_N released (R556, R568). -/
def Pmu.reset : Pmu :=
  { stage := 0, inReset := false, herdMode := 0, toActive := 0, subsysVendor := 0, subsysId := 0, tempSel := 0,
    temps := [], levels := [], nextLevels := none, estW := 0, strides := 0, thrStrides := 0, thermtrip := false }

/-- The device right after CHIP_RST_N rises. -/
def State.reset : State :=
  { pending := [], out := [], mem := [], syn := [], str := Planner.reset, cfg := Config.reset, q := Queues.reset,
    ops := Ops.reset, ti := Tiers.reset, doms := [], sh := Shared.reset, cod := Coding.reset, streams := [],
    opr := Operators.reset, dma := Dma.reset, claims := [], dram := Dram.reset, fl := Flash.reset, ras := Ras.reset,
    tst := Test.reset, herd := Herd.reset, tr := Trust.reset, heads := [], funcs := [], pmu := Pmu.reset,
    cntClear := 0, atBoundary := [] }

end Sys2Proof.Machine
end

