-- ==== Sys2Proof/Machine/Catalogue.lean ====
section
/-! DEFINITION. The field catalogue (R79, R80 and the field tables of the owning chapters), the resource classes of R24
and the reading of a field's value. -/

namespace Sys2Proof.Machine

/-- The nominal grantable capacity of one index of a class (R24). -/
def capacity : Nat → Nat
  | 0 => 250 | 1 => 250 | 2 => 5888 | 3 => 5888 | 4 => 5216 | 5 => 16384 | 6 => 1024 | 7 => 224 | _ => 0

/-- How many indices a class has (R24). -/
def indexCount : Nat → Nat
  | 0 => 8 | 1 => 8 | 2 => 4 | 3 => 4 | 4 => 12 | 5 => 4 | 6 => 4 | 7 => 4 | _ => 0

/-- One row of the field catalogue (R79). -/
structure FieldSpec where
  id : Nat
  dom : Bool
  staged : Bool
  ownerOnly : Bool
  lock : Bool
  elems : Nat
  min : Nat
  max : Nat
  step : Nat
  dflt : Nat
deriving DecidableEq, Repr

def fBridleReserve : Nat := 0x08000001
def fBridleWeight : Nat := 0x08000002
def fBridleCeiling : Nat := 0x08000003
def fCmdLimit : Nat := 0x08000004
def fStagingPool : Nat := 0x08000005
def fPwrCap : Nat := 0x08000010
def fDirShare : Nat := 0x02000001
def fSnoopLimit : Nat := 0x02000002
def fLostPolicy : Nat := 0x02000003
def fImprLimit : Nat := 0x02000004
def fStreamShare : Nat := 0x03000001
def fStreamLimit : Nat := 0x03000002
def fOperLimit : Nat := 0x04000001
def fDigestLimit : Nat := 0x04000002
def fDmaLimit : Nat := 0x05000001
def fDmaPrioMax : Nat := 0x05000002
def fTierShare : Nat := 0x06000001
def fPlaceHighest : Nat := 0x06000002
def fPlaceLowest : Nat := 0x06000003
def fPromoteReads : Nat := 0x06000004
def fSweepPeriod : Nat := 0x06000005
def fEscWarn : Nat := 0x06000010
def fRetainMask : Nat := 0x06000020
def fYokeMib : Nat := 0x06000021
def fYokeT1 : Nat := 0x06000022
def fSrIdle : Nat := 0x06000023
def fTrainPeriod : Nat := 0x06000024
def fRfmSample : Nat := 0x06000025
def fT2Permil : Nat := 0x06000030
def fSparePermil : Nat := 0x06000031
def fPadStrides : Nat := 0x06000032
def fWearSpread : Nat := 0x06000033
def fScrubRate : Nat := 0x07000001
def fFlScrubH : Nat := 0x07000002
def fFlRelocBits : Nat := 0x07000003
def fCeRepeat : Nat := 0x07000004
def fWdogUs : Nat := 0x07000005
def fDressageTable : Nat := 0x09000001
def fHerdSlot : Nat := 0x0A000001
def fLossStrides : Nat := 0x0A000002
def fProbationLimit : Nat := 0x0A000003
def fAlignLimit : Nat := 0x0A000004
def fDomHdom : Nat := 0x0B000001
def fDomPriv : Nat := 0x0B000002
def fDomFuncs : Nat := 0x0B000003
def fT0Part : Nat := 0x0B000004
def fOwnerFunc : Nat := 0x0B000010
def fIngressCap : Nat := 0x0B000011

/-- The catalogue, in ascending field ID (R80, R144, R197, R235, R267, R294, R324, R355, R380, R427, R459, R488, R542,
R567). No field of the DLX-7725 has the LOCK flag. The greatest TIER_SHARE follows the tier's capacity. -/
def catalogue : List FieldSpec := [
  { id := fDirShare, dom := true, staged := true, ownerOnly := true, lock := false, elems := 1, min := 0, max := 2048,
    step := 1, dflt := 0x0 },
  { id := fSnoopLimit, dom := false, staged := false, ownerOnly := true, lock := false, elems := 1, min := 20, max := 1000,
    step := 1, dflt := 0x190 },
  { id := fLostPolicy, dom := true, staged := false, ownerOnly := true, lock := false, elems := 1, min := 0, max := 1,
    step := 1, dflt := 0x0 },
  { id := fImprLimit, dom := true, staged := false, ownerOnly := true, lock := false, elems := 1, min := 0, max := 65535,
    step := 1, dflt := 0x40 },
  { id := fStreamShare, dom := true, staged := false, ownerOnly := true, lock := false, elems := 1, min := 1, max := 256,
    step := 1, dflt := 0x80 },
  { id := fStreamLimit, dom := true, staged := false, ownerOnly := true, lock := false, elems := 1, min := 0, max := 256,
    step := 1, dflt := 0x8 },
  { id := fOperLimit, dom := true, staged := false, ownerOnly := true, lock := false, elems := 1, min := 0, max := 4096,
    step := 1, dflt := 0x10 },
  { id := fDigestLimit, dom := true, staged := false, ownerOnly := true, lock := false, elems := 1, min := 0, max := 1024,
    step := 1, dflt := 0x40 },
  { id := fDmaLimit, dom := true, staged := false, ownerOnly := true, lock := false, elems := 1, min := 0, max := 64,
    step := 1, dflt := 0x4 },
  { id := fDmaPrioMax, dom := true, staged := false, ownerOnly := true, lock := false, elems := 1, min := 0, max := 3,
    step := 1, dflt := 0x1 },
  { id := fTierShare, dom := true, staged := true, ownerOnly := true, lock := false, elems := 3, min := 0, max := 0,
    step := 2, dflt := 0x0 },
  { id := fPlaceHighest, dom := true, staged := false, ownerOnly := true, lock := false, elems := 1, min := 1, max := 3,
    step := 1, dflt := 0x1 },
  { id := fPlaceLowest, dom := true, staged := false, ownerOnly := true, lock := false, elems := 1, min := 1, max := 3,
    step := 1, dflt := 0x3 },
  { id := fPromoteReads, dom := true, staged := false, ownerOnly := false, lock := false, elems := 1, min := 0, max := 255,
    step := 1, dflt := 0x4 },
  { id := fSweepPeriod, dom := false, staged := false, ownerOnly := true, lock := false, elems := 1, min := 1, max := 65535,
    step := 1, dflt := 0x1E8 },
  { id := fEscWarn, dom := true, staged := false, ownerOnly := false, lock := false, elems := 1, min := 1, max := 1000,
    step := 1, dflt := 0x32 },
  { id := fRetainMask, dom := false, staged := true, ownerOnly := true, lock := false, elems := 384, min := 1, max := 255,
    step := 1, dflt := 0xFF },
  { id := fYokeMib, dom := false, staged := true, ownerOnly := true, lock := false, elems := 1, min := 0, max := 16384,
    step := 2, dflt := 0x0 },
  { id := fYokeT1, dom := true, staged := true, ownerOnly := true, lock := false, elems := 1, min := 0, max := 1,
    step := 1, dflt := 0x0 },
  { id := fSrIdle, dom := false, staged := false, ownerOnly := true, lock := false, elems := 1, min := 0, max := 65535,
    step := 1, dflt := 0x1000 },
  { id := fTrainPeriod, dom := false, staged := false, ownerOnly := true, lock := false, elems := 1, min := 20000, max := 2000000,
    step := 1, dflt := 0x30D40 },
  { id := fRfmSample, dom := false, staged := false, ownerOnly := true, lock := false, elems := 1, min := 6, max := 16,
    step := 1, dflt := 0xA },
  { id := fT2Permil, dom := false, staged := true, ownerOnly := true, lock := false, elems := 1, min := 0, max := 1000,
    step := 1, dflt := 0x7D },
  { id := fSparePermil, dom := false, staged := false, ownerOnly := true, lock := false, elems := 1, min := 32, max := 250,
    step := 1, dflt := 0x46 }] ++ [
  { id := fPadStrides, dom := false, staged := false, ownerOnly := true, lock := false, elems := 1, min := 1, max := 4096,
    step := 1, dflt := 0x40 },
  { id := fWearSpread, dom := false, staged := false, ownerOnly := true, lock := false, elems := 1, min := 10, max := 200,
    step := 1, dflt := 0x32 },
  { id := fScrubRate, dom := false, staged := false, ownerOnly := true, lock := false, elems := 1, min := 0, max := 7,
    step := 1, dflt := 0x1 },
  { id := fFlScrubH, dom := false, staged := false, ownerOnly := true, lock := false, elems := 1, min := 0, max := 8760,
    step := 1, dflt := 0xA8 },
  { id := fFlRelocBits, dom := false, staged := false, ownerOnly := true, lock := false, elems := 1, min := 8, max := 255,
    step := 1, dflt := 0x40 },
  { id := fCeRepeat, dom := false, staged := false, ownerOnly := true, lock := false, elems := 1, min := 2, max := 255,
    step := 1, dflt := 0x3 },
  { id := fWdogUs, dom := false, staged := false, ownerOnly := true, lock := false, elems := 1, min := 100, max := 100000,
    step := 100, dflt := 0x2710 },
  { id := fBridleReserve, dom := true, staged := false, ownerOnly := true, lock := false, elems := 2048, min := 0, max := 16384,
    step := 1, dflt := 0x0 },
  { id := fBridleWeight, dom := true, staged := false, ownerOnly := true, lock := false, elems := 2048, min := 1, max := 255,
    step := 1, dflt := 0x1 },
  { id := fBridleCeiling, dom := true, staged := false, ownerOnly := true, lock := false, elems := 2048, min := 0, max := 16384,
    step := 1, dflt := 0x4000 },
  { id := fCmdLimit, dom := true, staged := false, ownerOnly := true, lock := false, elems := 1, min := 1, max := 4096,
    step := 1, dflt := 0x40 },
  { id := fStagingPool, dom := false, staged := true, ownerOnly := true, lock := false, elems := 1, min := 64, max := 256,
    step := 16, dflt := 0x80 },
  { id := fPwrCap, dom := false, staged := false, ownerOnly := true, lock := false, elems := 1, min := 600, max := 1450,
    step := 10, dflt := 0x5AA },
  { id := fDressageTable, dom := false, staged := false, ownerOnly := true, lock := false, elems := 1, min := 0, max := 65535,
    step := 1, dflt := 0x0 },
  { id := fHerdSlot, dom := false, staged := false, ownerOnly := true, lock := false, elems := 1, min := 0, max := 4095,
    step := 1, dflt := 0x0 },
  { id := fLossStrides, dom := false, staged := false, ownerOnly := true, lock := false, elems := 1, min := 200, max := 20000,
    step := 1, dflt := 0x7D0 },
  { id := fProbationLimit, dom := false, staged := false, ownerOnly := true, lock := false, elems := 1, min := 100, max := 65535,
    step := 1, dflt := 0x3E8 },
  { id := fAlignLimit, dom := false, staged := false, ownerOnly := true, lock := false, elems := 1, min := 8, max := 255,
    step := 1, dflt := 0x40 },
  { id := fDomHdom, dom := true, staged := false, ownerOnly := true, lock := false, elems := 1, min := 0, max := 16777215,
    step := 1, dflt := 0xFFFFFFFFFFFFFFFF },
  { id := fDomPriv, dom := true, staged := false, ownerOnly := true, lock := false, elems := 1, min := 0, max := 1,
    step := 1, dflt := 0x0 },
  { id := fDomFuncs, dom := true, staged := false, ownerOnly := true, lock := false, elems := 2, min := 0, max := 18446744073709551615,
    step := 1, dflt := 0x0 },
  { id := fT0Part, dom := true, staged := true, ownerOnly := true, lock := false, elems := 1, min := 0, max := 800,
    step := 2, dflt := 0x0 },
  { id := fOwnerFunc, dom := false, staged := false, ownerOnly := true, lock := false, elems := 1, min := 0, max := 255,
    step := 1, dflt := 0xFF },
  { id := fIngressCap, dom := false, staged := false, ownerOnly := true, lock := false, elems := 1, min := 16, max := 2048,
    step := 16, dflt := 0x100 }]

/-- The catalogue row of a field ID. -/
def fieldSpec (id : Nat) : Option FieldSpec := catalogue.find? (fun f => f.id == id)

/-- Whether an element number is one of a bridle field's sparse elements (R81). -/
def bridleElem (e : Nat) : Bool := decide (e / 2048 = 0) && decide (e % 256 < indexCount (e / 256))

/-- Whether a field is one of the three bridle fields. -/
def isBridle (id : Nat) : Bool := id == fBridleReserve || id == fBridleWeight || id == fBridleCeiling

/-- Whether an element of a field exists (R79, R81). -/
def elemOk (f : FieldSpec) (e : Nat) : Bool := if isBridle f.id then bridleElem e else decide (e < f.elems)

/-- The elements of a field, in ascending order. -/
def elemsOf (f : FieldSpec) : List Nat :=
  if isBridle f.id then (List.range 8).flatMap (fun c => (List.range (indexCount c)).map (fun i => c * 256 + i))
  else List.range f.elems

/-- The key of one element of a field: of a slot for a domain field, of slot 0 for a device field. -/
def fkey (slot id elem : Nat) : Nat := 2 ^ 48 * slot + 65536 * id + elem

/-- The value of a field that nothing has written since reset (R79, R81, R434). -/
def fieldDefault (slot id elem : Nat) : Nat :=
  if id = fBridleCeiling then capacity (elem / 256)
  else if id = fDomHdom then slot
  else match fieldSpec id with
    | some f => f.dflt
    | none => 0

/-- The value of an element of a field in the generation in force. -/
def State.field (s : State) (slot id elem : Nat) : Nat :=
  s.cfg.fields.getD (fkey slot id elem) (fieldDefault slot id elem)

/-- A device field of one element. -/
def State.dev (s : State) (id : Nat) : Nat := s.field 0 id 0

/-- A domain field of one element. -/
def State.domF (s : State) (slot id : Nat) : Nat := s.field slot id 0

/-- The value of a field in the newest configuration: that of the generation being built, where one is armed and sets the
field, else the value in force (R82). -/
def State.newest (s : State) (slot id elem : Nat) : Nat :=
  let k := fkey slot id elem
  match s.cfg.build with
  | none => s.field slot id elem
  | some b => b.changes.foldl (fun v c => match c with
      | .field k' v' => if k' = k then v' else v
      | _ => v) (s.field slot id elem)

end Sys2Proof.Machine
end

