-- ==== Sys2Proof/Machine/Memory.lean ====
section
/-! DEFINITION. Byte memory: the central store and the DRAM stacks at their system-bus addresses (R534). The canonical
form lists rising addresses and no byte that equals what an unlisted address reads as. -/

namespace Sys2Proof.Machine

/-- What a byte reads as that nothing has written: the spec gives the stores no content at CHIP_RST_N.
DESIGN CHOICE, unsafe: zero (assumption 7). -/
def Memory.unlisted : Byte := 0

/-- One byte. -/
def Memory.get : List Host.Cell → Nat → Byte
  | [], _ => Memory.unlisted
  | (k, v) :: m, a => if a = k then v else Memory.get m a

/-- Write one byte, keeping the canonical form. -/
def Memory.put : List Host.Cell → Nat → Byte → List Host.Cell
  | [], a, b => if b = Memory.unlisted then [] else [(a, b)]
  | (k, v) :: m, a, b =>
    if a < k then (if b = Memory.unlisted then (k, v) :: m else (a, b) :: (k, v) :: m)
    else if a = k then (if b = Memory.unlisted then m else (a, b) :: m)
    else (k, v) :: Memory.put m a b

/-- `n` bytes from an address. -/
def Memory.getN (m : List Host.Cell) (a : Nat) : Nat → List Byte
  | 0 => []
  | n + 1 => Memory.get m a :: Memory.getN m (a + 1) n

/-- Write bytes from an address. -/
def Memory.putN (m : List Host.Cell) (a : Nat) : List Byte → List Host.Cell
  | [] => m
  | b :: bs => Memory.putN (Memory.put m a b) (a + 1) bs

/-- Every listed address lies above a bound, in strictly rising order, and no listed byte equals the unlisted one. -/
def Memory.wfFrom : Nat → List Host.Cell → Bool
  | _, [] => true
  | lo, (k, v) :: m => decide (lo ≤ k) && decide (v ≠ Memory.unlisted) && Memory.wfFrom (k + 1) m

/-- The canonical form. -/
def Memory.wf (m : List Host.Cell) : Bool := Memory.wfFrom 0 m

end Sys2Proof.Machine
end

