-- ==== Sys2Proof/Machine/Ops.lean ====
section
/-! DEFINITION. The shared operations over the state: counters (R577), the event and RAS log (R483 to R485), what the
device sends out, charges to bridles (R24), and the questions that many commands ask of the state. -/

namespace Sys2Proof.Machine

/-! ## Counters -/

/-- A counter after `n` events: COUNT modulo 2^63, OVF sticky (R577). -/
def cntAdd (c : U64) (n : Nat) : U64 :=
  let v := c.toNat % 2 ^ 63 + n
  let ovf := c.getLsbD 63 || decide (2 ^ 63 ≤ v)
  BitVec.ofNat 64 (v % 2 ^ 63 + bitAt ovf 63)

/-! ## The log -/

/-- The most entries the log holds (R483). -/
def logMax : Nat := 65536

/-- The severity of each log code (R485). -/
def logSev (code : Nat) : Nat :=
  if [0x0003, 0x0202, 0x0601, 0x0602, 0x060A, 0x0702, 0x0704, 0x0708, 0x0B02].contains code then 2
  else if [0x0603, 0x0607, 0x0608, 0x0701].contains code then 1
  else if code = 0x0707 then 3
  else 0

/-- A counter of RAS_LOG_DROP and the LOG_DROP bit for one dropped entry. -/
def Ras.drop (r : Ras) (lseq : Nat) (slot : Option Nat) : Ras :=
  { r with logDrop := true, dropCnt := cntAdd r.dropCnt 1, lost := r.lost ++ [(lseq, slot)] }

/-- Append an entry to the log (R483): a full log drops an entry of severity 0 or 1, and gives up its oldest such entry
for one of severity 2 or 3. -/
def Ras.append (r : Ras) (e : LogEnt) : Ras :=
  let r := { r with nextLseq := (r.nextLseq + 1) % 2 ^ 32, ue := r.ue || e.sev == 2 }
  if r.log.length < logMax then { r with log := r.log ++ [e] }
  else if e.sev < 2 then r.drop e.lseq e.slot
  else match r.log.find? (fun x => x.sev < 2) with
    | none => r.drop e.lseq e.slot
    | some old =>
      { r with log := r.log.filter (fun x => x.lseq != old.lseq) ++ [e], lost := r.lost ++ [(old.lseq, old.slot)] }

/-- Append a log entry under a code of R485. -/
def State.logE (s : State) (code : Nat) (slot : Option Nat) (a b : Nat) : State :=
  { s with ras := s.ras.append { lseq := s.ras.nextLseq, code := code, sev := logSev code, stride := s.str.count,
                                 slot := slot, count := 1, argA := a % 2 ^ 32, argB := b % 2 ^ 64 } }

/-- Append a log entry at most once in a stride for a key; a later event of the stride adds to its COUNT. -/
def State.logRated (s : State) (key code : Nat) (slot : Option Nat) (a b : Nat) : State :=
  match s.ras.rate.get? key with
  | some q =>
    { s with ras.log := s.ras.log.map (fun e =>
        if e.lseq = q then { e with count := min 65535 (e.count + 1) } else e) }
  | none => { s.logE code slot a b with ras.rate := s.ras.rate.set key s.ras.nextLseq }

/-- A register write that is ignored and logged under code 0x0004, at most one entry per function per stride (R573). -/
def State.ignored (s : State) (func off val : Nat) : State := s.logRated func 0x0004 none off val

/-- An event that makes a dressage run diverge sets its CAUSE bit while a table is in force (R527). -/
def State.diverge (s : State) (bit : Nat) : State :=
  if s.tst.inForce = 0 then s else { s with tst.cause := s.tst.cause ||| 2 ^ bit }

/-! ## What leaves the device -/

/-- Send something out. -/
def State.emit (s : State) (o : Out) : State := { s with out := s.out ++ [o] }

/-- Send several things out. -/
def State.emits (s : State) (os : List Out) : State := { s with out := s.out ++ os }

/-- The record source that trace carries: SOURCE of TST_TRACE while trace holds a pin (R540). -/
def State.traces (s : State) (source : Nat) : Bool := s.tst.tracePins != 0 && s.tst.trace.toNat / 256 % 16 == source

/-- A trace record of this stride. -/
def State.traceRec (s : State) (r : Nat) : State := { s with tst.records := s.tst.records ++ [BitVec.ofNat 32 r] }

/-- The trace record of a request ordered by the directory: its head and the low bits of the line's number (R540). -/
def State.traceOrder (s : State) (ld line : Nat) : State :=
  if s.traces 3 && decide (ld < 128) then s.traceRec (0x40000000 + 2 ^ 25 * (ld / 16) + line % 2 ^ 25) else s

/-! ## Open values -/

/-- The next of the values that the manual leaves open, as a word. -/
def State.freeWord (s : State) : State × U64 := ({ s with str.free := s.str.free + 1 }, Config.freeWord s.str.free)

/-- The next `n` bytes that the manual leaves open. -/
def State.freeBytes (s : State) (n : Nat) : State × List Byte :=
  ({ s with str.free := s.str.free + n }, (List.range n).map (fun i => Config.freeByte (s.str.free + i)))

/-- A log entry whose code and arguments the manual does not name. -/
def State.logOpen (s : State) : State :=
  let (s, c) := s.freeWord
  let (s, a) := s.freeWord
  let (s, b) := s.freeWord
  s.logE (c.toNat % 65536) none a.toNat b.toNat

/-- Drive a pulse on an event pin: one pulse a pin and stride (R228, R548). On a pin that trace holds it is logged and not driven (R32),
with an entry for which R485 names no code. -/
def State.pulse (s : State) (pin : Option Nat) : State :=
  match pin with
  | some p =>
    if s.tst.tracePins.testBit p then s.logOpen
    else if s.atBoundary.contains (9, p, 0) then s
    else { s.emit (.evtPulse p) with atBoundary := s.atBoundary ++ [(9, p, 0)] }
  | none => s

/-- Thermal throttling or an epoch change overrides the dressage table in force: DRESSAGE_BROKEN, with a log entry for which R485
names no code (R32). -/
def State.breakDressage (s : State) : State :=
  if s.tst.inForce = 0 || s.str.broken then s
  else
    let s := s.logOpen
    { s with str.broken := true }

/-! ## Charges -/

/-- The key of a bridle: slot, class and index. -/
def bridleKey (slot cls idx : Nat) : Nat := 2048 * slot + 256 * cls + idx

/-- Charge units to a slot's bridle in this stride (R22, R24). -/
def State.charge (s : State) (slot cls idx n : Nat) : State :=
  let k := bridleKey slot cls idx
  if n = 0 then s else { s with str.used := s.str.used.set k (s.str.used.getD k 0 + n) }

/-- What is left of a grant in this stride. -/
def State.left (s : State) (slot cls idx : Nat) : Nat :=
  let k := bridleKey slot cls idx
  s.str.grant.getD k 0 - s.str.used.getD k 0

/-! ## Questions that many commands ask -/

/-- MEMORY_ACTIVE, stage 5 (R559). -/
def State.isActive (s : State) : Bool := s.pmu.stage == 5

/-- The function that OWNER_FUNC names; 255 names none (R434). -/
def State.owner (s : State) : Nat := s.dev fOwnerFunc

/-- Whether a function is the owner function. -/
def State.isOwner (s : State) (func : Nat) : Bool := s.owner == func && decide (func < 128)

/-- Whether an origin is an owner queue or a management queue. -/
def State.ownerOrigin (s : State) : Origin → Bool
  | .qp f _ => s.isOwner f
  | .mgmt _ _ => true

/-- The key of a queue pair. -/
def qpKey (func num : Nat) : Nat := func * 64 + num

/-- The queue pair of a function and number. -/
def State.qp (s : State) (func num : Nat) : Option Qp := s.q.qps.get? (qpKey func num)

/-- States of a domain slot: 0 FREE, 1 ACTIVE, 2 PARKING, 3 PARKED, 4 ERASING (R430). -/
def State.domSt (s : State) (slot : Nat) : Nat :=
  match s.doms.get? slot with
  | some d => d.st
  | none => 0

/-- Whether a slot is activating (R430). -/
def State.activating (s : State) (slot : Nat) : Bool :=
  match s.doms.get? slot with
  | some d => d.activating
  | none => false

/-- Whether a slot is FREE and not activating. -/
def State.domFree (s : State) (slot : Nat) : Bool := s.domSt slot == 0 && !s.activating slot

/-- The slots that are not FREE, in ascending order. -/
def State.liveSlots (s : State) : List Nat := (s.doms.filter (fun p => p.2.st != 0)).map Prod.fst

/-- Whether a slot in a state is an active domain (R431): ACTIVE, PARKING or ERASING. -/
def activeSt (st : Nat) : Bool := st == 1 || st == 2 || st == 4

/-- The active domains, in ascending order (R431). -/
def State.activeSlots (s : State) : List Nat := (s.doms.filter (fun p => activeSt p.2.st)).map Prod.fst

/-- Whether DOM_FUNCS of a slot includes a function (R433). -/
def State.funcOf (s : State) (slot func : Nat) : Bool :=
  decide (func < 128) && (s.field slot fDomFuncs (func / 64)).testBit (func % 64)

/-- The state of a function; a function with no entry is as after reset (R572). -/
def Func.reset : Func :=
  { decoders := [], resetCause := 0, resetSeen := false, cplTo := 0, unmapped := 0, intxDis := false, d3hot := false,
    cplRange := 0, cplDis := false, maxPayload := 0, maxRead := 2, tags := 0, linkCap := 0, cfg := [], latch := none,
    events := [], policy := [], time := 0, timeSet := 0 }

/-- A function's state. -/
def State.func (s : State) (f : Nat) : Func := s.funcs.getD f Func.reset

/-- Change a function's state. -/
def State.modFunc (s : State) (f : Nat) (g : Func → Func) : State :=
  { s with funcs := s.funcs.set f (g (s.func f)) }

/-- A head that has not trained. -/
def Head.reset : Head := { up := false, rate := 0, width := 0, mld := false, lopt := false, l0p := false, perst := false }

/-- A head's state. -/
def State.head (s : State) (h : Nat) : Head := s.heads.getD h Head.reset

/-- Change a head's state. -/
def State.modHead (s : State) (h : Nat) (g : Head → Head) : State := { s with heads := s.heads.set h (g (s.head h)) }

/-- The head of a function: sixteen logical devices on each head (R495). -/
def headOf (func : Nat) : Nat := func / 16

/-- Whether a head presents a function: LD-ID 0 alone in SLD mode (R493). -/
def State.hasFunc (s : State) (f : Nat) : Bool :=
  decide (f < 128) && (s.head (headOf f)).up && ((s.head (headOf f)).mld || f % 16 == 0)

/-- Whether a function can reach its register window. -/
def State.regUp (s : State) (func : Nat) : Bool := s.isActive && s.hasFunc func

/-- A plate's key. -/
def plateKey (slot plate : Nat) : Nat := 2 ^ 36 * slot + plate

/-- A map page's key. -/
def pageKey (slot page : Nat) : Nat := 2 ^ 28 * slot + page

/-- Apply a function over a list, from the state. -/
def State.over {α : Type} (s : State) (l : List α) (f : State → α → State) : State := l.foldl f s

/-- An event that this boundary makes due: it happens once, in this stride, as its own row. The kinds: 1 a round completes (R246), 2 an
impression is captured (R317), 3 staging claims are granted (R32), 11 a plan commits and 12 a plan is abandoned (R93). -/
def State.takeDue (s : State) (kind id : Nat) : Option State :=
  if s.atBoundary.contains (kind, id, 0) then some { s with atBoundary := s.atBoundary.filter (· != (kind, id, 0)) } else none

end Sys2Proof.Machine
end

