-- ==== Sys2Proof/Machine/Packet.lean ====
section
/-! DEFINITION. Command packets: fetching (R47, R48), the checks in order (R587), sequence numbers (R62), replies (R56 to
R58), the interrupt (R52) and the acceptance and records of long operations (R30, R66 to R70). -/

namespace Sys2Proof.Machine

/-! ## Status codes (R61) and states (R69) -/

def stOk : Nat := 0x00
def stInProgress : Nat := 0x01
def stClamped : Nat := 0x02
def stBadOpcode : Nat := 0x10
def stBadParam : Nat := 0x11
def stNotPermitted : Nat := 0x12
def stNoResource : Nat := 0x13
def stBusyRetry : Nat := 0x14
def stDuplicate : Nat := 0x15
def stLocked : Nat := 0x16
def stDataError : Nat := 0x20
def stHerdDisagree : Nat := 0x21
def stAborted : Nat := 0x22
def stTimeout : Nat := 0x23
def stOverlap : Nat := 0x30

def opQueued : Nat := 0x00
def opRunning : Nat := 0x01
def opCancelling : Nat := 0x02
def opDone : Nat := 0x08
def opCancelled : Nat := 0x09
def opFailed : Nat := 0x0A
def opPlanned : Nat := 0x10
def opShadow : Nat := 0x11
def opMigrating : Nat := 0x12
def opFenced : Nat := 0x13
def opReverting : Nat := 0x14
def opCommitted : Nat := 0x18
def opAbandoned : Nat := 0x19

/-- Whether a STATE is final: STATE[3] (R68). -/
def isFinal (st : Nat) : Bool := st.testBit 3

/-! ## Layouts in host memory (R6, R53, R56, R67) -/

/-- The 64 bytes of a command packet (R53); the reserved word is zero. -/
def pktBytes (opcode : Nat) (p : Pkt) : List Byte :=
  le 2 opcode ++ le 2 p.flags.toNat ++ le 4 p.seq.toNat ++ le 2 p.slot.toNat ++ le 2 p.tag.toNat ++ zeros 4
    ++ le 8 p.progAddr.toNat ++ le 8 p.p0.toNat ++ le 8 p.p1.toNat ++ le 8 p.p2.toNat ++ le 8 p.p3.toNat ++ le 8 p.p4.toNat

/-- The OPCODE and the fields of a command packet's bytes (R53), with the bytes that its address parameters name; the reserved word plays
no part. -/
def pktOf (b data : List Byte) : Nat × Pkt :=
  (fieldAt b 0 2,
    { flags := BitVec.ofNat 16 (fieldAt b 2 2), seq := BitVec.ofNat 32 (fieldAt b 4 4), slot := BitVec.ofNat 16 (fieldAt b 8 2),
      tag := BitVec.ofNat 16 (fieldAt b 10 2), progAddr := BitVec.ofNat 64 (fieldAt b 0x10 8), p0 := BitVec.ofNat 64 (fieldAt b 0x18 8),
      p1 := BitVec.ofNat 64 (fieldAt b 0x20 8), p2 := BitVec.ofNat 64 (fieldAt b 0x28 8), p3 := BitVec.ofNat 64 (fieldAt b 0x30 8),
      p4 := BitVec.ofNat 64 (fieldAt b 0x38 8), data := data })

/-- The 32 bytes of a status reply with its PHASE (R56); reserved bits are zero. -/
def Reply.bytes (r : Reply) (phase : Bool) : List Byte :=
  le 2 r.tag ++ le 1 r.status ++ le 1 (bitAt phase 0 + bitAt r.report 1 + bitAt r.long 2) ++ le 4 r.seq ++ le 2 r.opcode
    ++ le 2 r.sqHead ++ le 2 (r.handle % 4096) ++ le 2 r.detail ++ le 8 r.r0 ++ le 8 r.r1

/-- The 64 bytes of a progress record (R67); the reserved half-word is zero. -/
def Progress.bytes (p : Progress) : List Byte :=
  le 8 p.word.toNat ++ le 8 p.stride ++ le 8 p.done ++ le 8 p.total ++ le 2 p.opcode ++ zeros 2 ++ le 4 p.seq ++ le 8 p.r0
    ++ le 8 p.r1 ++ le 4 p.r2 ++ le 4 p.countEnd

/-! ## Queue pairs -/

/-- The entries of a ring (R45). -/
def Qp.size (q : Qp) : Nat := 2 ^ q.sizeLog2

/-- The replies written and not yet released, by the sampled RQ_HEAD (R48). -/
def Qp.unreleased (q : Qp) : Nat := (q.nextReply + q.size - q.sampHead % q.size) % q.size

/-- The packets fetched and not yet answered are `unanswered`; the reply entries still free (R48). -/
def Qp.freeReplies (q : Qp) : Nat := q.size - 1 - q.unreleased - q.unanswered

/-- The submission entries between the head and the sampled tail. -/
def Qp.available (q : Qp) : Nat := (q.sampTail + q.size - q.head % q.size) % q.size

/-- The bus address of a submission entry (R45). -/
def Qp.sqAddr (q : Qp) (i : Nat) : Nat := q.sqBase + 64 * (i % q.size)

/-- The bus address of a reply entry (R45). -/
def Qp.rqAddr (q : Qp) (i : Nat) : Nat := q.rqBase + 32 * (i % q.size)

/-- Whether the fetcher may take a packet of `n` entries from a queue pair in this stride, by the limits of the queue pair itself
(R47, R49, R143). A queue pair that is to stop goes on until its boundary (R75, R101). -/
def Qp.fetchable (q : Qp) (n : Nat) : Bool :=
  q.enabled && !q.faulted && decide (n ≤ q.available) && decide (q.fetchedNow + n ≤ 8) && decide (1 ≤ q.freeReplies)

/-- The enabled queue pairs in the order in which the fetcher visits them in this stride: ascending, from the one it started from
(R47). -/
def State.visitOrder (s : State) : List Nat :=
  let on := (s.q.qps.filter (fun p => p.2.enabled)).map Prod.fst
  on.filter (fun k => decide (s.q.visit ≤ k)) ++ on.filter (fun k => decide (k < s.q.visit))

/-- Whether the fetcher has come to a queue pair: it has taken all that it may from those it visits before (R47). A queue pair with
room for one entry more may have stopped before a packet of two (R143), so that one does not hold the fetcher back. -/
def State.fetchTurn (s : State) (k : Nat) : Bool :=
  (s.visitOrder.takeWhile (· != k)).all (fun j => match s.q.qps.get? j with
    | some q => q.fetchedNow == 7 || !q.fetchable 1
    | none => true)

/-- Whether the fetcher may take `n` entries with one packet from a queue pair now (R47, R143). -/
def State.canFetch (s : State) (k : Nat) (q : Qp) (n : Nat) : Bool :=
  q.fetchable n && !s.q.noFetch && s.isActive && decide (s.q.fetched + n ≤ 512) && s.fetchTurn k

/-- Change a queue pair. -/
def State.modQp (s : State) (func num : Nat) (g : Qp → Qp) : State :=
  { s with q.qps := s.q.qps.modify (qpKey func num) g }

/-- Whether a reply is unreleased by the RQ_HEAD written last (R52). -/
def Qp.pending (q : Qp) : Bool := q.nextReply != q.rqHead % q.size

/-- Whether a function's INTA is asserted by its queue pairs (R52). -/
def State.intaDue (s : State) (func : Nat) : Bool :=
  s.q.qps.any (fun p => p.1 / 64 == func && p.2.intEn && p.2.pending) && !(s.func func).intxDis

/-- Assert or deassert INTA where its condition has changed (R52); in D3hot no message is sent (R505). -/
def State.updInta (s : State) (func : Nat) : State :=
  let now := s.intaDue func
  let was := s.q.inta.contains func
  if now = was ∨ (s.func func).d3hot then s
  else
    { s with q.inta := if now then s.q.inta ++ [func] else s.q.inta.filter (· != func) }.emit (.intx func now)

/-- Fault a queue pair (R49): its bit in CMQ_QP_FAULT, and the log entry with its cause. -/
def State.faultQp (s : State) (func num cause : Nat) : State :=
  match s.qp func num with
  | none => s
  | some q =>
    if q.faulted then s
    else
      let s := s.modQp func num (fun q => { q with faulted := true })
      let c := s.q.cmq.getD func { sqBase := 0, rqBase := 0, ctrl := 0, fault := 0, opSel := 0 }
      let s := { s with q.cmq := s.q.cmq.set func { c with fault := c.fault ||| BitVec.ofNat 64 (2 ^ num) } }
      s.logE 0x0801 q.slot (func * 256 + num) cause

/-! ## Replies -/

/-- Record a reply's status and handle in the window of its queue (R62); the reply to a duplicate leaves what the original's
recorded. -/
def markWindow (w : List WinEnt) (r : Reply) : List WinEnt :=
  w.map (fun e => if e.seq = r.seq ∧ r.status ≠ stDuplicate then
    { e with status := r.status, handle := if r.long then some r.handle else none } else e)

/-- Write a reply (R57, R58): on a queue pair at its next reply index, with the phase of the pass; on a management queue
in the response, with PHASE 0 (DESIGN CHOICE, assumption 109). A faulted queue pair gets none. -/
def State.writeReply (s : State) (o : Origin) (r : Reply) (inline : List Byte) : State :=
  let s := if r.status = stNotPermitted then { s with tr.denied := cntAdd s.tr.denied 1 } else s
  match o with
  | .qp f n =>
    match s.qp f n with
    | none => s
    | some q =>
      let s := s.modQp f n (fun q =>
        let i := q.nextReply + 1
        { q with unanswered := q.unanswered - 1, window := markWindow q.window r,
                 nextReply := if q.faulted then q.nextReply else i % q.size,
                 phase := if q.faulted then q.phase else if i = q.size then !q.phase else q.phase })
      if q.faulted then s
      else
        let s := s.emit (.reply f n (q.rqAddr q.nextReply) (r.bytes q.phase))
        let s := match q.slot with
          | some x => s.charge x 1 (headOf f) 1
          | none => s
        s.updInta f
  | .mgmt e _ =>
    { s with q.mgmts := s.q.mgmts.modify e (fun m => { m with window := markWindow m.window r }) }.emit
      (.mctpReply e (r.bytes false) inline)

/-- Whether a queue pair's reply ring is full: all but one of its entries hold replies not released by the sampled RQ_HEAD (R48). -/
def State.ringFull (s : State) : Origin → Bool
  | .qp f n => (s.qp f n).any (fun q => !q.faulted && decide (q.size ≤ q.unreleased + 1))
  | .mgmt _ _ => false

/-- Answer a packet: its reply is written, or waits for the next sample of RQ_HEAD while the ring is full (R48). -/
def State.reply (s : State) (o : Origin) (r : Reply) (inline : List Byte) : State :=
  if s.ringFull o then
    { s with q.replies := s.q.replies ++ [{ o := o, due := s.str.count + 1, r := r, inline := inline }] }
  else s.writeReply o r inline

/-- The submission head that a reply to an origin shows: the fetcher's after the packet (R56). A management queue has no ring, and
its replies show 0 (DESIGN CHOICE, assumption 109). -/
def State.sqHead (s : State) : Origin → Nat
  | .qp _ _ => s.q.headAfter
  | .mgmt _ _ => 0

/-- A reply without handle. -/
def mkReply (s : State) (o : Origin) (opcode : Nat) (p : Pkt) (status detail r0 r1 : Nat) : Reply :=
  { tag := p.tag.toNat, status := status, report := false, long := false, seq := p.seq.toNat, opcode := opcode,
    sqHead := s.sqHead o, handle := 0, detail := detail % 65536, r0 := r0 % 2 ^ 64, r1 := r1 % 2 ^ 64 }

/-! ## Long operations -/

/-- The status byte of an operation's status word (R68). -/
def Op.statusByte (op : Op) : Nat := if isFinal op.st then op.status else stInProgress

/-- The status word of an operation at its next write (R68). -/
def Op.mkWord (op : Op) (handle update : Nat) : U64 :=
  BitVec.ofNat 64 (2 ^ 32 * update + 65536 * handle + op.statusByte * 256 + op.st)

/-- The progress record of an operation (R67). -/
def Op.record (op : Op) (stride : Nat) (w : U64) (update : Nat) : Progress :=
  { word := w, stride := stride, done := op.done, total := op.total, opcode := op.opcode, seq := op.seq,
    r0 := op.r0 % 2 ^ 64, r1 := op.r1 % 2 ^ 64, r2 := op.r2 % 2 ^ 32, countEnd := update % 2 ^ 32 }

/-- Whether records of an origin still reach host memory: not on a management queue (R43), a faulted queue pair (R49) or
a queue pair that a reset disabled (R76). -/
def State.recordTo (s : State) (op : Op) : Option Nat :=
  match op.o with
  | .mgmt _ _ => none
  | .qp f n =>
    match s.qp f n with
    | some q => if op.dead || q.faulted then none else some f
    | none => none

/-- Write an operation's progress record and its mirror (R70). -/
def State.writeRecord (s : State) (h : Nat) : State :=
  match s.ops.tab.get? h with
  | none => s
  | some op =>
    let u := op.update + 1
    let w := op.mkWord h u
    let s' := { s with ops.tab := s.ops.tab.set h { op with update := u, word := w } }
    match s.recordTo op with
    | none => s'
    | some f =>
      let s' := s'.emit (.progress f op.progAddr (op.record s.str.count w u).bytes)
      match op.o, op.slot with
      | .qp f n, some x => if (s.qp f n).any (fun q => q.slot.isSome) then s'.charge x 1 (headOf f) 1 else s'
      | _, _ => s'

/-- The operations short of final. -/
def State.liveOps (s : State) : FMap Op := s.ops.tab.filter (fun p => !isFinal p.2.st)

/-- Change an operation. -/
def State.modOp (s : State) (h : Nat) (g : Op → Op) : State := { s with ops.tab := s.ops.tab.modify h g }

/-- The handle that the next operation takes: the first free one after the last, with wrap (R66). -/
def State.nextHandle (s : State) : Option Nat :=
  ((rangeFrom (s.ops.last + 1) 4096).map (· % 4096)).find? (fun h =>
    match s.ops.tab.get? h with
    | none => true
    | some op => isFinal op.st)

/-! ## The checks -/

/-- On which queues an opcode is accepted. -/
inductive Accept where
  | any
  | qp0
  | owner
  | ownerQ
  | mgmtOnly
  | nowhere
deriving DecidableEq, Repr

/-- What a command answers. -/
inductive Ans where
  /-- A reply now: status, DETAIL, results, and inline data for a management queue. -/
  | now (status detail r0 r1 : Nat) (inline : List Byte)
  /-- A reply at a later stride (R37, R87). -/
  | later (due status detail r0 r1 : Nat) (inline : List Byte)
  /-- The reply waits for a condition that the command's own state holds, or is already queued. -/
  | held
  /-- A long operation is accepted: what it works on, its total, its first results and its first state. -/
  | start (body : OpBody) (total r0 r1 : Nat) (st : Nat)
  /-- As `start`, with a clamp report written before the reply, and its bytes for a management queue (R84). -/
  | startReport (body : OpBody) (total r0 r1 : Nat) (st : Nat) (report : Bool) (inline : List Byte)

/-- A command of the table: its opcode, whether it is long and of domain scope, where it is accepted, how many submission
entries it takes, and what it does; `fails` says that its access to data in host memory fails (R586). -/
structure Cmd where
  opcode : Nat
  long : Bool
  dom : Bool
  accept : Accept
  entries : Nat
  run : State → Origin → Pkt → State × Ans
  fails : Bool := false

/-- The bound slot of an origin, if it is a domain queue bound to a slot (R38). -/
def State.bound (s : State) : Origin → Option Nat
  | .qp f n => if s.isOwner f then none else (s.qp f n).bind Qp.slot
  | .mgmt _ _ => none

/-- Whether an origin is a domain queue bound to no slot: queue pair 0 of a function other than the owner (R38). -/
def State.unbound (s : State) : Origin → Bool
  | .qp f n => !s.isOwner f && ((s.qp f n).bind Qp.slot).isNone
  | .mgmt _ _ => false

/-- The slot that a packet addresses (R39). -/
def slotOf (p : Pkt) : Nat := p.slot.toNat % 4096

/-- Whether an opcode is accepted on an origin's kind of queue (R41, R60, and the owning chapters). -/
def State.accepts (s : State) (c : Cmd) (o : Origin) : Bool :=
  let range := match o with
    | .mgmt _ _ => [0x01, 0x08, 0x09, 0x0A, 0x0B].contains (c.opcode / 256)
    | .qp _ _ => true
  range && (match c.accept, o with
    | .any, _ => true
    | .qp0, .qp _ n => n == 0
    | .qp0, .mgmt _ _ => false
    | .owner, _ => s.ownerOrigin o
    | .ownerQ, .qp f _ => s.isOwner f
    | .ownerQ, .mgmt _ _ => false
    | .mgmtOnly, .mgmt _ _ => true
    | .mgmtOnly, .qp _ _ => true
    | .nowhere, _ => false)

/-- The status of the first of checks 2 to 4 of R587 that a packet fails, with the stage rule of R559 and the parking rule
of R433. Where these two stand among the checks, after check 2 and after check 4, is the model's choice, and a nonzero PROG_ADDR of a
long opcode on a management queue is accepted, though R43 says that it is zero (DESIGN CHOICE, assumption 109). -/
def State.checks (s : State) (c : Cmd) (o : Origin) (p : Pkt) : Option Nat :=
  let early := c.opcode / 256 == 0x0A || (decide (0x0B20 ≤ c.opcode) && decide (c.opcode ≤ 0x0B24))
  let mg := match o with
    | .mgmt _ _ => true
    | .qp _ _ => false
  let parked := match s.bound o with
    | some x => (s.domSt x == 2 || s.domSt x == 3) && !([0x01, 0x0B, 0x08].contains (c.opcode / 256))
    | none => false
  if !s.accepts c o then some stBadOpcode
  else if !s.isActive && !early then some stBusyRetry
  else if (match s.bound o with
      | some x => slotOf p != x
      | none => false) then some stNotPermitted
  else if s.unbound o && c.dom then some stNotPermitted
  else if c.long && !mg && (p.progAddr == 0 || p.progAddr.toNat % 64 != 0) then some stBadParam
  else if !c.long && p.progAddr != 0 then some stBadParam
  else if parked then some stBusyRetry
  else none

/-- How many live operations count toward a domain (R30). -/
def State.domOps (s : State) (slot : Nat) : Nat := (s.liveOps.filter (fun p => p.2.slot == some slot)).length

/-- Whether an operation counts toward a domain, and which (R30). Of a device-scope opcode on a bound domain queue the first point of
R30 says the bound slot and the third no domain: the model takes the bound slot (DESIGN CHOICE, assumption 109). -/
def State.opSlot (s : State) (c : Cmd) (o : Origin) (p : Pkt) : Option Nat :=
  match s.bound o with
  | some x => some x
  | none => if c.dom && s.ownerOrigin o then some (slotOf p) else none

/-- Whether another long operation would exceed a limit of R30. -/
def State.opLimit (s : State) (slot : Option Nat) : Bool :=
  decide (4096 ≤ s.liveOps.length) || (match slot with
    | some x => decide (s.domF x fCmdLimit ≤ s.domOps x)
    | none => false)

/-- Accept a long operation: its handle, its first record, then its reply (R58, R66, R70). -/
def State.acceptOp (s : State) (c : Cmd) (o : Origin) (p : Pkt) (body : OpBody) (total r0 r1 st : Nat) (report : Bool)
    (inline : List Byte) : State :=
  match s.nextHandle with
  | none => s.reply o (mkReply s o c.opcode p stBusyRetry 0 0 0) []
  | some h =>
    let op : Op :=
      { opcode := c.opcode, o := o, slot := s.opSlot c o p, seq := p.seq.toNat, progAddr := p.progAddr, st := st,
        status := stOk, update := 0, done := 0, total := total, r0 := r0, r1 := r1, r2 := 0, cancel := false,
        dead := false, ran := false, ending := none, born := s.str.count, word := 0, body := body }
    let s := { s with ops.tab := s.ops.tab.set h op, ops.last := h }
    let s := s.writeRecord h
    s.reply o { mkReply s o c.opcode p stInProgress 0 r0 r1 with long := true, handle := h, report := report } inline

/-- Run a command that has passed its checks (check 5 of R587 is the command's own). A long command beyond a limit is
turned away before it has any effect (R30). -/
def State.execute (s : State) (c : Cmd) (o : Origin) (p : Pkt) : State :=
  match s.checks c o p with
  | some st => s.reply o (mkReply s o c.opcode p st 0 0 0) []
  | none =>
    match c.run s o p with
    | (s', .now st d r0 r1 inl) => s'.reply o (mkReply s' o c.opcode p st d r0 r1) inl
    | (s', .later due st d r0 r1 inl) =>
      { s' with q.replies := s'.q.replies ++
          [{ o := o, due := due, r := mkReply s' o c.opcode p st d r0 r1, inline := inl }] }
    | (s', .held) => s'
    | (s', .start b t r0 r1 st) =>
      if s.opLimit (s.opSlot c o p) then s.reply o (mkReply s o c.opcode p stBusyRetry 0 0 0) []
      else s'.acceptOp c o p b t r0 r1 st false []
    | (s', .startReport b t r0 r1 st rep inl) =>
      if s.opLimit (s.opSlot c o p) then s.reply o (mkReply s o c.opcode p stBusyRetry 0 0 0) []
      else s'.acceptOp c o p b t r0 r1 st rep inl

/-! ## Sequence numbers (R62) -/

/-- The window after the expected value moves: the 256 sequence numbers that precede it. -/
def prune (w : List WinEnt) (expected : Nat) : List WinEnt :=
  w.filter (fun e => decide ((expected + 2 ^ 32 - e.seq) % 2 ^ 32 ≤ 256))

/-- The expected value and the window of an origin's queue. -/
def State.seqOf (s : State) : Origin → Nat × List WinEnt
  | .qp f n => match s.qp f n with
    | some q => (q.expected, q.window)
    | none => (0, [])
  | .mgmt e _ => match s.q.mgmts.get? e with
    | some m => (m.expected, m.window)
    | none => (0, [])

/-- Set the expected value and the window. -/
def State.setSeq (s : State) (o : Origin) (x : Nat) (w : List WinEnt) : State :=
  match o with
  | .qp f n => s.modQp f n (fun q => { q with expected := x, window := w })
  | .mgmt e _ => { s with q.mgmts := s.q.mgmts.modify e (fun m => { m with expected := x, window := w }) }

/-- Whether a packet of this origin waits for the commands before it: FENCE with an earlier command not final, or a
command of the same queue that waits already (R51). -/
def State.mustWait (s : State) (o : Origin) (p : Pkt) : Bool :=
  s.q.waiting.any (fun w => w.o == o) ||
    (p.flags.getLsbD 0 && (s.q.replies.any (fun r => r.o == o) || s.liveOps.any (fun x => x.2.o == o && !x.2.dead)
      || s.cfg.heldBlocks.any (fun b => b.o == o) || s.q.qps.any (fun x => x.2.deleting.any (fun r => r.o == o))))

/-- The state once a packet's sequence number is accepted (R62), where it is the expected one; NOP with SEQ 0 starts a management
queue again (R44). -/
def State.inOrder (s : State) (c : Cmd) (o : Origin) (p : Pkt) : Option State :=
  let (x, w) := s.seqOf o
  let q := p.seq.toNat
  let restart := match o with
    | .mgmt _ _ => c.opcode == 0x0800 && q == 0
    | .qp _ _ => false
  if restart then some (s.setSeq o 1 [])
  else if q = x then
    let x' := (x + 1) % 2 ^ 32
    some (s.setSeq o x' (prune (w ++ [{ seq := q, status := stInProgress, handle := none }]) x'))
  else none

/-- Answer a packet out of order (R62): DUPLICATE within the window, with the reply status of the packet that had the number, else
BAD_PARAM with the expected value. -/
def State.outOfOrder (s : State) (c : Cmd) (o : Origin) (p : Pkt) : State :=
  let (x, w) := s.seqOf o
  match w.find? (fun e => e.seq == p.seq.toNat) with
  | some e =>
    s.reply o { mkReply s o c.opcode p stDuplicate e.status 0 0 with
      long := e.handle.isSome, handle := e.handle.getD 0 } []
  | none => s.reply o (mkReply s o c.opcode p stBadParam (x % 65536) 0 0) []

/-- Take a fetched packet through SEQ and, where it executes, through the rest (R62, R587). -/
def State.sequence (s : State) (c : Cmd) (o : Origin) (p : Pkt) : State :=
  match s.inOrder c o p with
  | some s => s.execute c o p
  | none => s.outOfOrder c o p

/-- The code of a command among the packets that wait: its opcode, with bit 16 where its data access fails. -/
def Cmd.code (c : Cmd) : Nat := c.opcode + bitAt c.fails 16

/-- Start a packet now, or keep it behind the commands it must follow (R51). -/
def State.begin (s : State) (c : Cmd) (img : Option Image) (o : Origin) (p : Pkt) : State :=
  if s.mustWait o p then
    { s with q.waiting := s.q.waiting ++ [{ o := o, code := c.code, p := p, img := img, head := s.q.headAfter }] }
  else s.sequence c o p

/-- The management queue of an endpoint, made at its first packet; a seventeenth displaces the one idle longest (R44). -/
def State.openMgmt (s : State) (eid seq : Nat) : State :=
  let n := s.q.useCount + 1
  let s := { s with q.useCount := n }
  match s.q.mgmts.get? eid with
  | some m => { s with q.mgmts := s.q.mgmts.set eid { m with lastUse := n } }
  | none =>
    let ms := if s.q.mgmts.length < 16 then s.q.mgmts
      else match minOf? (s.q.mgmts.map (fun p => p.2.lastUse)) with
        | some u => s.q.mgmts.filter (fun p => p.2.lastUse != u)
        | none => s.q.mgmts
    { s with q.mgmts := ms.set eid { expected := seq, window := [], lastUse := n } }

/-- Whether the management plane answers: from CORE_INIT on, not in recovery or after a trip, and not while the management
core restarts (R457, R480, R559). -/
def State.mgmtUp (s : State) : Bool :=
  decide (1 ≤ s.pmu.stage) && decide (s.pmu.stage ≤ 5) && !s.ras.mgmtDown

/-- Fetch a packet from a queue pair: its entries are read, the head advances, and the fetch is counted and charged (R45, R47,
R48). -/
def State.fetch (s : State) (f n entries : Nat) (q : Qp) : State :=
  let s := s.emits ((rangeFrom q.head entries).map (fun i => .ringRead f n (q.sqAddr i)))
  let s := { s with q.headAfter := (q.head + entries) % q.size }
  let s := s.modQp f n (fun q => { q with head := (q.head + entries) % q.size, unanswered := q.unanswered + 1,
                                          fetchedNow := q.fetchedNow + entries })
  let s := { s with q.fetched := s.q.fetched + entries }
  match q.slot with
  | some x => s.charge x 0 (headOf f) 1
  | none => s

/-- The most bytes that travel inline after a packet or a reply on a management queue (R42). -/
def inlineMax : Nat := 65536

/-- The state with a packet received: fetched from its ring, or in the management plane, whose messages carry at most 65,536 bytes after
the packet (R42); none where it cannot be taken now. -/
def State.receivePacket (s : State) (c : Cmd) (o : Origin) (p : Pkt) : Option State :=
  match o with
  | .qp f n =>
    match s.qp f n with
    | none => none
    | some q => if s.canFetch (qpKey f n) q c.entries then some (s.fetch f n c.entries q) else none
  | .mgmt e _ => if s.mgmtUp && decide (p.data.length ≤ inlineMax) then some (s.openMgmt e p.seq.toNat) else none

/-- A packet reaches the device: the fetcher takes it from its ring, or the management plane receives it. Where the fetcher
may not take it now, nothing happens (assumption 1). -/
def State.packet (s : State) (c : Cmd) (img : Option Image) (o : Origin) (p : Pkt) : State :=
  match s.receivePacket c o p with
  | some s => s.begin c img o p
  | none => s

/-- A command answered at once without data. -/
def done (s : State) (st r0 r1 : Nat) : State × Ans := (s, .now st 0 r0 r1 [])

/-- A command refused with a status and no effect. -/
def deny (s : State) (st : Nat) : State × Ans := (s, .now st 0 0 0 [])

/-- The bytes that a command may return to a buffer of a size: at most 65,536 on a management queue (R42). -/
def roomFor (o : Origin) (size : Nat) : Nat :=
  match o with
  | .qp _ _ => size
  | .mgmt _ _ => min size inlineMax

/-- Write bytes that a command returns to the buffer it names, or inline on a management queue (R42), where an address parameter that
is not zero, as R42 says it is, plays no part (DESIGN CHOICE, assumption 109). -/
def State.returnData (s : State) (o : Origin) (buf : Nat) (bytes : List Byte) : State × List Byte :=
  match o with
  | .qp f _ => (s.emit (.hostWrite f buf bytes false), [])
  | .mgmt _ _ => (s, bytes)

/-- A command answered with data. -/
def doneData (s : State) (o : Origin) (buf : Nat) (bytes : List Byte) (st r0 r1 : Nat) : State × Ans :=
  let (s, inl) := s.returnData o buf bytes
  (s, .now st 0 r0 r1 inl)

end Sys2Proof.Machine
end

