-- ==== Sys2Proof/Machine/Queues.lean ====
section
/-! DEFINITION. The queues and their doorbells (R36 to R49), queue pair 0 and its registers (R99 to R101), and the commands of
the 0x08xx range that concern queues and operations (R44, R60, R73 to R75). -/

namespace Sys2Proof.Machine

/-! ## Registers of queue pair 0 -/

/-- The CMQ_ registers of a function at reset (R99). -/
def Cmq.reset : Cmq := { sqBase := 0, rqBase := 0, ctrl := 0, fault := 0, opSel := 0 }

/-- The CMQ_ registers of a function. -/
def State.cmq (s : State) (f : Nat) : Cmq := s.q.cmq.getD f Cmq.reset

/-- Change the CMQ_ registers of a function. -/
def State.modCmq (s : State) (f : Nat) (g : Cmq → Cmq) : State := { s with q.cmq := s.q.cmq.set f (g (s.cmq f)) }

/-- A register value with the part that an access reaches replaced (R574). -/
def mergePart (old : U64) (part : Part) (val : U64) : U64 :=
  match part with
  | .whole => val
  | .low => (old &&& 0xFFFFFFFF00000000#64) ||| (val &&& 0xFFFFFFFF#64)
  | .high => (old &&& 0xFFFFFFFF#64) ||| (val <<< 32)

/-- The bits that a write of a part clears where they are 1 (R571, R574). -/
def w1cPart (part : Part) (val : U64) : U64 :=
  match part with
  | .whole => val
  | .low => val &&& 0xFFFFFFFF#64
  | .high => val <<< 32

/-- The queue pairs enabled in the device, with those whose enabling awaits its boundary: queue pair 0 counts from the write
that sets ENABLE (R36, R37, R100). -/
def State.enabledCount (s : State) : Nat :=
  (s.q.qps.filter (fun p => p.2.enabled || p.2.awaiting)).length
    + (s.q.cmq.filter (fun p => p.2.ctrl.getLsbD 8
        && !(s.qp p.1 0).any (fun q => q.enabled || q.awaiting))).length

/-- A new queue pair (R37, R57): its indices start at 0, PHASE at 1, and the window is empty (R62). -/
def Qp.fresh (sq rq size : Nat) (intEn : Bool) (slot : Option Nat) (seqInit : Nat) : Qp :=
  { sqBase := sq, rqBase := rq, sizeLog2 := size, intEn := intEn, slot := slot, expected := seqInit, window := [],
    head := 0, sqTail := 0, rqHead := 0, sampTail := 0, sampHead := 0, nextReply := 0, phase := true, enabled := false,
    awaiting := true, stopping := false, deleting := none, faulted := false, fetchedNow := 0, unanswered := 0 }

/-- The writable bits of CMQ_QP_0_CTRL (R99). -/
def ctrlMask : U64 := 0xFFFFFFFF0000031F#64

/-- The offsets of CMQ_QP_0_SQ_BASE, CMQ_QP_0_RQ_BASE and CMQ_QP_0_CTRL in the register window. -/
def offSqBase : Nat := 0x80000
def offRqBase : Nat := 0x80008
def offCtrl : Nat := 0x80010

/-- Whether a write of CMQ_QP_0_CTRL is accepted, over the whole register as it would stand (R100, R574): while ENABLE is 1, one that
clears ENABLE, or changes INT_EN and no other field. -/
def State.ctrlOk (s : State) (old new : U64) : Bool :=
  if old.getLsbD 8 then !new.getLsbD 8 || (decide ((old ^^^ new) &&& ~~~0x300#64 = 0) && old.getLsbD 9 != new.getLsbD 9)
  else if new.getLsbD 8 then
    decide (4 ≤ fld new.toNat 0 5) && decide (fld new.toNat 0 5 ≤ 16) && decide (s.enabledCount < 4096)
  else true

/-- Write CMQ_QP_0_CTRL (R99 to R101): INT_EN acts at once, ENABLE at the next boundary. -/
def State.writeCtrl (s : State) (f : Nat) (part : Part) (val : U64) : State :=
  let old := (s.cmq f).ctrl
  let new := mergePart old part val &&& ctrlMask
  if s.ctrlOk old new then
    let s := s.modCmq f (fun c => { c with ctrl := new })
    let s := s.modQp f 0 (fun q => { q with
      intEn := new.getLsbD 9,
      stopping := q.stopping || (q.enabled && old.getLsbD 8 && !new.getLsbD 8) })
    s.updInta f
  else s.ignored f offCtrl val.toNat

/-- Write a ring base of queue pair 0; ignored and logged while ENABLE is 1 (R100). -/
def State.writeBase (s : State) (f : Nat) (reply : Bool) (part : Part) (val : U64) : State :=
  if (s.cmq f).ctrl.getLsbD 8 then s.ignored f (if reply then offRqBase else offSqBase) val.toNat
  else s.modCmq f (fun c =>
    if reply then { c with rqBase := mergePart c.rqBase part val &&& ~~~0xFFF#64 }
    else { c with sqBase := mergePart c.sqBase part val &&& ~~~0xFFF#64 })

/-- QP0_ENABLE: a write of CMQ_QP_0_CTRL that sets ENABLE. -/
def execQp0Enable (func : Nat) (part : Part) (val : U64) (s : State) : Host.Outcome State Fault Refusal :=
  .next (if !s.regUp func then s
    else if !(s.cmq func).ctrl.getLsbD 8 && (mergePart (s.cmq func).ctrl part val).getLsbD 8 then s.writeCtrl func part val
    else s)

/-- QP0_DISABLE: a write of CMQ_QP_0_CTRL that clears ENABLE. -/
def execQp0Disable (func : Nat) (part : Part) (val : U64) (s : State) : Host.Outcome State Fault Refusal :=
  .next (if !s.regUp func then s
    else if (s.cmq func).ctrl.getLsbD 8 && !(mergePart (s.cmq func).ctrl part val).getLsbD 8 then s.writeCtrl func part val
    else s)

/-- QP0_INT_EN_WRITE: a write of CMQ_QP_0_CTRL that leaves ENABLE as it is. -/
def execQp0IntEnWrite (func : Nat) (part : Part) (val : U64) (s : State) : Host.Outcome State Fault Refusal :=
  .next (if !s.regUp func then s
    else if (s.cmq func).ctrl.getLsbD 8 == (mergePart (s.cmq func).ctrl part val).getLsbD 8 then s.writeCtrl func part val
    else s)

/-- QP0_BASE_WRITE: a write of a ring base of queue pair 0. -/
def execQp0BaseWrite (func : Nat) (reply : Bool) (part : Part) (val : U64) (s : State) :
    Host.Outcome State Fault Refusal :=
  .next (if s.regUp func then s.writeBase func reply part val else s)

/-! ## Doorbells -/

/-- Whether a doorbell write has a size that R498 takes. -/
def doorbellSize (size : Nat) : Bool := size == 4 || size == 8

/-- The index that a doorbell write carries: bits [15:0]. -/
def doorbellIndex (val : U64) : Nat := val.toNat % 65536

/-- SQ_TAIL_WRITE (R46, R49): the doorbell of an enabled queue pair takes its value, a value beyond the ring faults it; a
write to any other page, or of another size, is ignored and logged. -/
def State.sqTailWrite (s : State) (func qp size : Nat) (val : U64) : State :=
  match s.qp func qp with
  | some q =>
    if q.enabled && doorbellSize size then
      if q.size ≤ doorbellIndex val then s.faultQp func qp 0
      else s.modQp func qp (fun q => { q with sqTail := doorbellIndex val })
    else s.ignored func (4096 * qp) val.toNat
  | none => s.ignored func (4096 * qp) val.toNat

/-- RQ_HEAD_WRITE (R46, R49, R52): as SQ_TAIL, and the replies it passes are released for INTA at once. -/
def State.rqHeadWrite (s : State) (func qp size : Nat) (val : U64) : State :=
  match s.qp func qp with
  | some q =>
    if q.enabled && doorbellSize size then
      if q.size ≤ doorbellIndex val then s.faultQp func qp 0
      else (s.modQp func qp (fun q => { q with rqHead := doorbellIndex val })).updInta func
    else s.ignored func (4096 * qp + 8) val.toNat
  | none => s.ignored func (4096 * qp + 8) val.toNat

/-- SQ_TAIL_WRITE. -/
def execSqTailWrite (func qp size : Nat) (val : U64) (s : State) : Host.Outcome State Fault Refusal :=
  .next (if s.regUp func then s.sqTailWrite func qp size val else s)

/-- RQ_HEAD_WRITE. -/
def execRqHeadWrite (func qp size : Nat) (val : U64) (s : State) : Host.Outcome State Fault Refusal :=
  .next (if s.regUp func then s.rqHeadWrite func qp size val else s)

/-- The operations of a queue pair short of final, by handle. -/
def State.opsOf (s : State) (f n : Nat) : List Nat :=
  (s.liveOps.filter (fun p => p.2.o == .qp f n && !p.2.dead)).map Prod.fst

/-- Whether a queue pair still has something to write: packets not yet answered, or operations short of final (R75, R101). -/
def State.qpBusy (s : State) (f n : Nat) : Bool :=
  (s.qp f n).any (fun q => q.unanswered != 0) || !(s.opsOf f n).isEmpty || s.q.replies.any (fun r => r.o == .qp f n)

/-- RING_ACCESS_FAILURE: a bus-master read of the submission ring, or a write of a reply or record, fails (R49), of a queue pair that is
enabled or still has something to write. -/
def execRingAccessFailure (func qp : Nat) (s : State) : Host.Outcome State Fault Refusal :=
  .next (if (s.qp func qp).any Qp.enabled || s.qpBusy func qp then s.faultQp func qp 1 else s)

/-! ## Queue commands -/

/-- A short command with nothing but its run. -/
def shortCmd (opcode : Nat) (dom : Bool) (accept : Accept) (run : State → Origin → Pkt → State × Ans) : Cmd :=
  { opcode := opcode, long := false, dom := dom, accept := accept, entries := 1, run := run }

/-- A long command with nothing but its run. -/
def longCmd (opcode : Nat) (dom : Bool) (accept : Accept) (run : State → Origin → Pkt → State × Ans) : Cmd :=
  { opcode := opcode, long := true, dom := dom, accept := accept, entries := 1, run := run }

/-- NOP (R60): the stride counter at execution. -/
def cNop : Cmd := shortCmd 0x0800 false .any (fun s _ _ => done s stOk s.str.count 0)

/-- QUEUE_CREATE (R37, R38, R45, R60). The order of its own checks is the model's: BAD_PARAM, NOT_PERMITTED, NO_RESOURCE (DESIGN
CHOICE, assumption 109). -/
def cQueueCreate : Cmd := shortCmd 0x0801 false .qp0 (fun s o p =>
  match o with
  | .mgmt _ _ => deny s stBadOpcode
  | .qp f _ =>
    let n := fld p.p2.toNat 0 6
    let size := fld p.p2.toNat 8 5
    let slot := fld p.p2.toNat 32 12
    if n = 0 ∨ size < 4 ∨ 16 < size ∨ p.p0.toNat % 4096 ≠ 0 ∨ p.p1.toNat % 4096 ≠ 0 ∨ (s.qp f n).isSome then deny s stBadParam
    else if !s.isOwner f && !(s.funcOf slot f && [1, 2, 3].contains (s.domSt slot)) then deny s stNotPermitted
    else if 4096 ≤ s.enabledCount then deny s stNoResource
    else
      let q := Qp.fresh p.p0.toNat p.p1.toNat size (p.p2.getLsbD 16) (if s.isOwner f then none else some slot)
        (p.p3.toNat % 2 ^ 32)
      ({ s with q.qps := s.q.qps.set (qpKey f n) q }, .later (s.str.count + 1) stOk 0 0 0 []))

/-- QUEUE_DELETE (R75): the fetcher stops at the next boundary, and the reply waits for the operations of the queue
pair. Of a queue pair that does not exist, or whose QUEUE_DELETE is not yet answered, it answers BAD_PARAM (DESIGN CHOICE, assumption
109). -/
def cQueueDelete : Cmd := shortCmd 0x0802 false .qp0 (fun s o p =>
  match o with
  | .mgmt _ _ => deny s stBadOpcode
  | .qp f _ =>
    let n := fld p.p0.toNat 0 6
    match s.qp f n with
    | none => deny s stBadParam
    | some q =>
      if n == 0 || q.deleting.isSome then deny s stBadParam
      else
        let r : PendReply := { o := o, due := s.str.count + 1, r := mkReply s o 0x0802 p stOk 0 0 0, inline := [] }
        (s.modQp f n (fun q => { q with stopping := true, deleting := some r }), .held))

/-- Whether an origin may see a handle: one issued through its function, or any on an owner or management queue (R73). -/
def State.seesHandle (s : State) (o : Origin) (op : Op) : Bool :=
  s.ownerOrigin o || (match o, op.o with
    | .qp f _, .qp g _ => f == g
    | _, _ => false)

/-- Ask for an operation's cancellation; a plan from FENCED on and a final operation take no notice (R74, R96). No chapter names another
operation that cannot be cancelled (DEDUCED, assumption 92). -/
def Op.askCancel (op : Op) : Op :=
  if isFinal op.st || op.st == opFenced || op.st == opReverting then op else { op with cancel := true }

/-- OP_CANCEL (R73, R74). -/
def cOpCancel : Cmd := shortCmd 0x0820 false .any (fun s o p =>
  let h := fld p.p0.toNat 0 12
  match s.ops.tab.get? h with
    | none => deny s stBadParam
    | some op =>
      if !s.seesHandle o op then deny s stNotPermitted
      else done (s.modOp h Op.askCancel) stOk op.word.toNat 0)

/-- OP_STATUS_READ (R73): the status word last written and DONE. -/
def cOpStatusRead : Cmd := shortCmd 0x0821 false .any (fun s o p =>
  let h := fld p.p0.toNat 0 12
  match s.ops.tab.get? h with
    | none => deny s stBadParam
    | some op => if !s.seesHandle o op then deny s stNotPermitted else done s stOk op.word.toNat op.done)

/-- NOP, and the management queue that its endpoint's first packet brings into being (R44). -/
def execNop (o : Origin) (p : Pkt) (s : State) : Host.Outcome State Fault Refusal := .next (s.packet cNop none o p)

/-- QUEUE_CREATE. -/
def execQueueCreate (o : Origin) (p : Pkt) (s : State) : Host.Outcome State Fault Refusal :=
  .next (s.packet cQueueCreate none o p)

/-- QUEUE_DELETE. -/
def execQueueDelete (o : Origin) (p : Pkt) (s : State) : Host.Outcome State Fault Refusal :=
  .next (s.packet cQueueDelete none o p)

/-- OP_CANCEL. -/
def execOpCancel (o : Origin) (p : Pkt) (s : State) : Host.Outcome State Fault Refusal :=
  .next (s.packet cOpCancel none o p)

/-- OP_STATUS_READ. -/
def execOpStatusRead (o : Origin) (p : Pkt) (s : State) : Host.Outcome State Fault Refusal :=
  .next (s.packet cOpStatusRead none o p)

/-! ## The boundary's part -/

/-- At a boundary: queue pairs are enabled and disabled, their doorbells sampled (R37, R47, R99, R101). -/
def Qp.atBoundary (q : Qp) : Qp :=
  let on := (q.enabled || q.awaiting) && !q.stopping
  { q with enabled := on, awaiting := false, stopping := false, sampTail := q.sqTail, sampHead := q.rqHead, fetchedNow := 0 }

/-- Queue pair 0 of a function whose ENABLE is set and which is not enabled: it starts anew (R99). -/
def State.enableQp0 (s : State) (f : Nat) : State :=
  let c := s.cmq f
  let live := (s.qp f 0).any (fun q => q.enabled && !q.stopping)
  if c.ctrl.getLsbD 8 && !live then
    let q := Qp.fresh c.sqBase.toNat c.rqBase.toNat (fld c.ctrl.toNat 0 5) (c.ctrl.getLsbD 9) none (fld c.ctrl.toNat 32 32)
    { s with q.qps := s.q.qps.set (qpKey f 0) q }
  else s

/-- Whether OP_CANCEL would act on an operation whose cancellation is not asked for yet. -/
def Op.takesCancel (op : Op) : Bool := !op.cancel && op.askCancel.cancel

/-- A queue pair being deleted (R75): from the boundary after the command on, its operations are cancelled, those also that a packet
fetched before starts later, and RESULT_0 counts them; the reply comes once each is final and every packet is answered. -/
def State.deleteStep (s : State) (f n : Nat) (r : PendReply) : State :=
  if s.str.count < r.due then s
  else
    let hs := s.opsOf f n
    let mine := hs.filter (fun h => (s.ops.tab.get? h).any Op.takesCancel)
    let r := { r with r := { r.r with r0 := r.r.r0 + mine.length } }
    let s := (s.over mine (fun s h => s.modOp h Op.askCancel)).modQp f n (fun q => { q with deleting := some r })
    if hs.isEmpty && (s.qp f n).any (fun q => q.unanswered == 0) then
      ({ s with q.qps := s.q.qps.del (qpKey f n) }.reply r.o r.r []).updInta f
    else s

/-- The queue pair from which the fetcher starts in a stride: the enabled one after that of the stride before, with wrap (R47; from
reset on, DESIGN CHOICE, assumption 17). -/
def State.nextVisit (s : State) : Nat :=
  let on := (s.q.qps.filter (fun p => p.2.enabled)).map Prod.fst
  match on.find? (fun k => decide (s.q.visit < k)) with
  | some k => k
  | none => on.head?.getD 0

/-- Queue pairs are enabled and disabled, the doorbells are sampled, and the fetcher's start moves on (R37, R47, R99, R101); a function
whose queue pair 0 starts anew holds no reply of it any more (R52). -/
def State.sampleDoorbells (s : State) : State :=
  let s := s.over (s.q.cmq.map Prod.fst) State.enableQp0
  let s := { s with q.qps := s.q.qps.map (fun (p : Nat × Qp) => (p.1, p.2.atBoundary)), q.fetched := 0 }
  { s with q.visit := s.nextVisit }.over s.q.inta State.updInta

/-- The queue pairs that are being deleted go on (R75). -/
def State.deletesBoundary (s : State) : State :=
  s.over s.q.qps (fun s p => match p.2.deleting with
    | some r => s.deleteStep (p.1 / 64) (p.1 % 64) r
    | none => s)

end Sys2Proof.Machine
end

