-- ==== Sys2Proof/Machine/PlateFormat.lean ====
section
/-! DEFINITION. The compressed plate format (R148 to R169): bit streams, code tables, the unique encoding and the ten
checks of a decoder; the build of a code table from a histogram (R186); the cost of lane work (R175). -/

namespace Sys2Proof.Machine

/-- The plate size in bytes (R2). -/
def plateBytes : Nat := 4096

/-- TABLE_ID for none. -/
def noTable : Nat := 0xFFFF

/-- The coding values (R149). -/
def cRaw : Nat := 0
def cXe16 : Nat := 1
def cXe32 : Nat := 2
def cSpz : Nat := 3

/-- The split of an element type: bytes of an element, exponent bits E, sign-and-mantissa bits W (R157). -/
structure Split where
  bytes : Nat
  e : Nat
  w : Nat
deriving DecidableEq, Repr

/-- The split of BF16, FP16 and FP32; other types take no coding. -/
def splitOf : Nat → Option Split
  | 1 => some { bytes := 2, e := 8, w := 8 }
  | 2 => some { bytes := 2, e := 5, w := 11 }
  | 3 => some { bytes := 4, e := 8, w := 24 }
  | _ => none

/-- The exponent of an element (R157). -/
def expOf (sp : Split) (x : Nat) : Nat := fld x (sp.w - 1) sp.e

/-- The sign-and-mantissa value of an element (R157). -/
def smOf (sp : Split) (x : Nat) : Nat := fld x (sp.e + sp.w - 1) 1 * 2 ^ (sp.w - 1) + x % 2 ^ (sp.w - 1)

/-- The element rebuilt from its parts (R157). -/
def rebuild (sp : Split) (sm e : Nat) : Nat :=
  fld sm (sp.w - 1) 1 * 2 ^ (sp.e + sp.w - 1) + e * 2 ^ (sp.w - 1) + sm % 2 ^ (sp.w - 1)

/-- The elements of bytes, little-endian, `n` bytes each. -/
def elements (n : Nat) : Nat → List Byte → List Nat
  | 0, _ => []
  | k + 1, bs => leNat (bs.take n) :: elements n k (bs.drop n)

/-! ## Bit streams (R158) -/

/-- The low `n` bits of a value, least significant first. -/
def bitsLsb : Nat → Nat → List Bool
  | 0, _ => []
  | n + 1, v => (v % 2 == 1) :: bitsLsb n (v / 2)

/-- The low `n` bits of a value, most significant first. -/
def bitsMsb (n v : Nat) : List Bool := (bitsLsb n v).reverse

/-- The value of bits, least significant first. -/
def lsbNat : List Bool → Nat
  | [] => 0
  | b :: bs => (if b then 1 else 0) + 2 * lsbNat bs

/-- The bytes of a stream, `k` of them, the last padded with zero bits. -/
def packBits : Nat → List Bool → List Byte
  | 0, _ => []
  | k + 1, bs => BitVec.ofNat 8 (lsbNat (bs.take 8)) :: packBits k (bs.drop 8)

/-- A stream padded to whole bytes. -/
def packStream (bs : List Bool) : List Byte := packBits ((bs.length + 7) / 8) bs

/-- The bits of bytes in stream order. -/
def unpackBits (bs : List Byte) : List Bool := bs.flatMap (fun b => bitsLsb 8 b.toNat)

/-! ## Code tables -/

/-- One assigned code: symbol (256 for the escape), code value and length. -/
structure Code where
  sym : Nat
  code : Nat
  len : Nat
deriving DecidableEq, Repr

/-- The escape, as a symbol. -/
def escSym : Nat := 256

/-- A valid code table: its ID, element type and codes. -/
structure CodeTable where
  id : Nat
  elem : Nat
  codes : List Code
deriving DecidableEq, Repr

/-- Give the symbols of one length their codes, then the escape where it has this length (R164). -/
def assignLen (len : Nat) : List Nat → Nat → List Code → Option (Nat × List Code)
  | [], c, acc => some (c, acc)
  | y :: ys, c, acc =>
    if 2 ^ len ≤ c then none else assignLen len ys (c + 1) (acc ++ [{ sym := y, code := c, len := len }])

/-- The canonical assignment over the lengths from `len` on (R164). -/
def assignFrom (pairs : List (Nat × Nat)) : List Nat → Nat → List Code → Option (List Code)
  | [], _, acc => some acc
  | len :: ls, c, acc =>
    match assignLen len ((pairs.filter (fun p => p.1 == len)).map Prod.snd) c acc with
    | none => none
    | some (c', acc') => assignFrom pairs ls (2 * c') acc'

/-- The canonical codes of symbols with lengths, and of the escape. -/
def assignCodes (pairs : List (Nat × Nat)) (esc : Nat) : Option (List Code) :=
  assignFrom (pairs ++ [(esc, escSym)]) (rangeFrom 1 12) 0 []

/-- Whether pairs rise strictly, by length and then by symbol. -/
def pairsRise : List (Nat × Nat) → Bool
  | (l, y) :: (l', y') :: r => (decide (l < l') || (l == l' && decide (y < y'))) && pairsRise ((l', y') :: r)
  | _ => true

/-- Length `i` of a table record (R162). -/
def recLen (r : List Byte) (i : Nat) : Nat := fld (fieldAt r (4 + i / 2) 1) (4 * (i % 2)) 4

/-- The code table of a 64-byte record, where the record is valid (R163). -/
def parseTable (r : List Byte) : Option CodeTable :=
  let ve := fieldAt r 2 1
  let nsym := fieldAt r 3 1
  let elem := ve / 16
  let pairs := (List.range nsym).map (fun i => (recLen r i, fieldAt r (0x14 + i) 1))
  let esc := recLen r 31
  match splitOf elem with
  | none => none
  | some sp =>
    if r.length = 64 ∧ fieldAt r 0x3C 4 = (crc32c (sub r 0 0x3C)).toNat ∧ ve % 16 = 1 ∧ nsym ≤ 31
        ∧ fieldAt r 0 2 ≠ noTable ∧ zeroAt r 0x34 8 ∧ zeroAt r (0x14 + nsym) (32 - nsym)
        ∧ (rangeFrom nsym (31 - nsym)).all (fun i => recLen r i == 0)
        ∧ (esc :: pairs.map Prod.fst).all (fun l => decide (1 ≤ l ∧ l ≤ 12))
        ∧ pairs.all (fun p => decide (p.2 < 2 ^ sp.e)) ∧ pairsRise pairs
    then (assignCodes pairs esc).map (fun cs => { id := fieldAt r 0 2, elem := elem, codes := cs })
    else none

/-- The 64-byte record of a table (R162). -/
def tableRecord (id elem : Nat) (pairs : List (Nat × Nat)) (esc : Nat) : List Byte :=
  let lens := pairs.map Prod.fst ++ List.replicate (31 - pairs.length) 0 ++ [esc]
  let body := le 2 id ++ [BitVec.ofNat 8 (elem * 16 + 1), BitVec.ofNat 8 pairs.length]
    ++ (List.range 16).map (fun i => BitVec.ofNat 8 (lens.getD (2 * i) 0 + 16 * lens.getD (2 * i + 1) 0))
    ++ sub (pairs.map (fun p => BitVec.ofNat 8 p.2)) 0 32 ++ zeros 8
  body ++ le 4 (crc32c body).toNat

/-- The code of a symbol, if the table has one. -/
def CodeTable.codeOf (t : CodeTable) (y : Nat) : Option Code := t.codes.find? (fun c => c.sym == y)

/-! ## Building a table (R186) -/

/-- Insert an item by ascending weight, after items of its weight. -/
def insertItem (x : Nat × List Nat) : List (Nat × List Nat) → List (Nat × List Nat)
  | [] => [x]
  | y :: ys => if x.1 < y.1 then x :: y :: ys else y :: insertItem x ys

/-- Pair adjacent items into packages; an odd last item is left out. -/
def packages : List (Nat × List Nat) → List (Nat × List Nat)
  | a :: b :: r => (a.1 + b.1, a.2 ++ b.2) :: packages r
  | _ => []

/-- Merge packages into leaves: on equal weight a leaf comes first. -/
def mergePackages (leaves pk : List (Nat × List Nat)) : List (Nat × List Nat) := pk.foldl (fun l p => insertItem p l) leaves

/-- The code lengths of package-merge with limit 12: how often each symbol occurs in the first 2n − 2 items. -/
def packageMerge (weights : List (Nat × Nat)) : List (Nat × Nat) :=
  let leaves := weights.foldl (fun l p => insertItem (p.2, [p.1]) l) []
  let top := iter (fun l => mergePackages leaves (packages l)) 11 leaves
  let used := (top.take (2 * weights.length - 2)).flatMap Prod.snd
  weights.map (fun p => (p.1, used.count p.1))

/-- Insert a symbol with its count by descending count, the lower exponent first on equal counts. -/
def insertDesc (x : Nat × Nat) : List (Nat × Nat) → List (Nat × Nat)
  | [] => [x]
  | y :: ys => if y.2 < x.2 then x :: y :: ys else y :: insertDesc x ys

/-- Insert a (length, symbol) pair in ascending order. -/
def insertPair (x : Nat × Nat) : List (Nat × Nat) → List (Nat × Nat)
  | [] => [x]
  | y :: ys => if x.1 < y.1 ∨ (x.1 = y.1 ∧ x.2 < y.2) then x :: y :: ys else y :: insertPair x ys

/-- The symbols of the table that a histogram (exponent, count; ascending exponents) gives: (length, symbol) pairs in
record order, and the escape's length. -/
def buildCodes (hist : List (Nat × Nat)) : List (Nat × Nat) × Nat :=
  let t := sumOf (hist.map Prod.snd)
  if t = 0 then ([], 1)
  else
    let thr := roundUp t 1024
    let kept := ((hist.filter (fun p => decide (thr ≤ p.2))).foldl (fun l p => insertDesc p l) []).take 31
    let rest := t - sumOf (kept.map Prod.snd)
    let sorted := hist.filter (fun p => kept.contains p)
    let lens := packageMerge (sorted ++ [(escSym, max thr rest)])
    let pairs := (lens.filter (fun p => p.1 != escSym)).foldl (fun l p => insertPair (p.2, p.1) l) []
    (pairs, (lens.find? (fun p => p.1 == escSym)).elim 1 Prod.snd)

/-- The mean exponent bits times 1,000 of a histogram under the lengths, rounded down; 0 without elements (R196). -/
def meanBits (hist : List (Nat × Nat)) (pairs : List (Nat × Nat)) (esc eBits : Nat) : Nat :=
  let t := sumOf (hist.map Prod.snd)
  let bits := sumOf (hist.map (fun p =>
    match pairs.find? (fun q => q.2 == p.1) with
    | some q => p.2 * q.1
    | none => p.2 * (esc + eBits)))
  if t = 0 then 0 else bits * 1000 / t

/-! ## Encoding (R159 to R161, R165) -/

/-- The bits of one exponent, and 1 where it is an escape. -/
def expBits (t : CodeTable) (sp : Split) (e : Nat) : List Bool × Nat :=
  match t.codeOf e with
  | some c => (bitsMsb c.len c.code, 0)
  | none =>
    match t.codeOf escSym with
    | some c => (bitsMsb c.len c.code ++ bitsLsb sp.e e, 1)
    | none => (bitsLsb sp.e e, 1)

/-- The bytes of one decode lane under a table, and its escapes. -/
def encodeLane (t : CodeTable) (sp : Split) (vs : List Nat) : List Byte × Nat :=
  let sm := packStream (vs.flatMap (fun v => bitsLsb sp.w (smOf sp v)))
  let es := vs.map (fun v => expBits t sp (expOf sp v))
  (sm ++ packStream (es.flatMap Prod.fst), sumOf (es.map Prod.snd))

/-- The elements of decode lane `k` (R156). -/
def laneElems (sp : Split) (elems : List Nat) (k : Nat) : List Nat :=
  let n := 512 / sp.bytes
  (elems.drop (n * k)).take n

/-- The ends of the lanes, from the body start. -/
def laneEnds : Nat → List (List Byte) → List Nat
  | _, [] => []
  | a, l :: ls => (a + l.length) :: laneEnds (a + l.length) ls

/-- The coded plate of expanded bytes, and its escapes (R165). -/
def encodePlate (coding elem : Nat) (sp : Split) (tab : Option CodeTable) (plate : List Byte) : List Byte × Nat :=
  let elems := elements sp.bytes (plateBytes / sp.bytes) plate
  let nz := elems.filter (· != 0)
  let lanes := (List.range 8).map (fun k =>
    let vs := laneElems sp elems k
    let vs := if coding = cSpz then vs.filter (· != 0) else vs
    match tab with
    | some t => encodeLane t sp vs
    | none => (vs.flatMap (le 2), 0))
  let bitmap := if coding = cSpz then packStream (elems.map (· != 0)) else []
  let ends := laneEnds (32 + bitmap.length) (lanes.map Prod.fst)
  let clen := ends.getD 7 0
  let head := [0x1D#8, BitVec.ofNat 8 (elem * 16 + coding)] ++ le 2 (tab.elim noTable CodeTable.id)
    ++ le 2 nz.length ++ le 2 clen ++ le 4 (crc32c plate).toNat ++ ends.flatMap (le 2) ++ zeros 4
  (head ++ bitmap ++ (lanes.map Prod.fst).flatten, sumOf (lanes.map Prod.snd))

/-- What the encoder keeps (R179, R180): coding, table, stored length, stored bytes, escapes and exponents of the candidate kept, and
whether a lane was used. -/
structure Encoded where
  coding : Nat
  table : Nat
  clen : Nat
  bytes : List Byte
  escapes : Nat
  exponents : Nat
  laneUsed : Bool
deriving DecidableEq, Repr

/-- A plate stored RAW for which no lane is used (R180). -/
def rawPlate (plate : List Byte) : Encoded :=
  { coding := cRaw, table := noTable, clen := plateBytes, bytes := plate, escapes := 0, exponents := 0, laneUsed := false }

/-- The exponents that a candidate codes (R181): those of all elements, of an SPZ plate those of its nonzero elements. -/
def codedExponents (coding : Nat) (sp : Split) (plate : List Byte) : Nat :=
  let elems := elements sp.bytes (plateBytes / sp.bytes) plate
  if coding = cSpz then (elems.filter (· != 0)).length else elems.length

/-- The candidate codings of an element type and a current table, in ascending coding (R179). -/
def candidates (elem : Nat) (tab : Option CodeTable) : List Nat :=
  if elem = 1 ∨ elem = 2 then (if tab.isSome then [cXe16, cSpz] else [cSpz])
  else if elem = 3 ∧ tab.isSome then [cXe32]
  else []

/-- The choice of a coding (R179, R180): the least CLEN, on equal CLEN the lower coding; RAW where that reaches 4,096
rounded up, or where there is no candidate. -/
def choose (elem : Nat) (tab : Option CodeTable) (plate : List Byte) : Encoded :=
  match splitOf elem with
  | none => rawPlate plate
  | some sp =>
    let cands := (candidates elem tab).map (fun c =>
      let r := encodePlate c elem sp tab plate
      ({ coding := c, table := tab.elim noTable CodeTable.id, clen := r.1.length, bytes := r.1, escapes := r.2,
         exponents := codedExponents c sp plate, laneUsed := true } : Encoded))
    match cands with
    | [] => rawPlate plate
    | a :: r =>
      let best := r.foldl (fun x y => if y.clen < x.clen then y else x) a
      if 4096 ≤ (best.clen + 63) / 64 * 64 then
        { best with coding := cRaw, table := noTable, clen := plateBytes, bytes := plate }
      else best

/-! ## Decoding (R167) -/

/-- The header fields of a coded plate (R153). -/
structure PlateHead where
  coding : Nat
  elem : Nat
  table : Nat
  nz : Nat
  clen : Nat
  crc : Nat
  ends : List Nat
deriving DecidableEq, Repr

/-- The header of coded bytes. -/
def plateHead (p : List Byte) : PlateHead :=
  { coding := fieldAt p 1 1 % 16, elem := fieldAt p 1 1 / 16, table := fieldAt p 2 2, nz := fld (fieldAt p 4 2) 0 12,
    clen := fieldAt p 6 2, crc := fieldAt p 8 4, ends := (List.range 8).map (fun k => fieldAt p (12 + 2 * k) 2) }

/-- Whether ends rise from a start. -/
def endsRise : Nat → List Nat → Bool
  | _, [] => true
  | a, e :: es => decide (a ≤ e) && endsRise e es

/-- Checks 1 to 5 on the header, against the coding, table and CLEN carried beside the plate: the number of the first
that fails. -/
def headCheck (p : List Byte) (coding table clen : Nat) (tab : Option CodeTable) : Option Nat :=
  let h := plateHead p
  let start := if h.coding = cSpz then 0x120 else 0x20
  if fieldAt p 0 1 ≠ 0x1D then some 1
  else if ¬(h.coding = 1 ∨ h.coding = 2 ∨ h.coding = 3) ∨ (h.coding = cXe32 ∧ h.elem ≠ 3)
      ∨ (h.coding ≠ cXe32 ∧ h.elem ≠ 1 ∧ h.elem ≠ 2) ∨ (h.coding ≠ cSpz ∧ h.table = noTable)
      ∨ fieldAt p 4 2 / 4096 ≠ 0 ∨ fieldAt p 28 4 ≠ 0 ∨ h.coding ≠ coding ∨ h.table ≠ table ∨ h.clen ≠ clen then some 2
  else if h.clen < 288 ∨ 4032 < h.clen ∨ endsRise start h.ends = false ∨ h.ends.getD 7 0 ≠ h.clen then some 3
  else if h.table ≠ noTable ∧ (match tab with
      | some t => decide (t.id ≠ h.table ∨ t.elem ≠ h.elem)
      | none => true) = true then some 4
  else if h.coding = cSpz ∧ (unpackBits (sub p 0x20 256)).count true ≠ h.nz then some 5
  else none

/-- Read the next code, one bit at a time (check 7; check 6 at the lane's end). -/
def nextCode (t : CodeTable) : Nat → Nat → Nat → List Bool → Except Nat (Nat × List Bool)
  | 0, _, _, _ => .error 7
  | _ + 1, _, _, [] => .error 6
  | f + 1, len, c, b :: bs =>
    let c' := 2 * c + (if b then 1 else 0)
    match t.codes.find? (fun x => x.len == len + 1 && x.code == c') with
    | some x => .ok (x.sym, bs)
    | none => nextCode t f (len + 1) c' bs

/-- Read the exponents of `n` elements: the exponents, the escapes and the bits left (checks 6 to 8). -/
def readExps (t : CodeTable) (sp : Split) : Nat → List Bool → Except Nat (List Nat × Nat × List Bool)
  | 0, bs => .ok ([], 0, bs)
  | n + 1, bs =>
    match nextCode t 12 0 0 bs with
    | .error c => .error c
    | .ok (y, bs) =>
      if y = escSym then
        let e := lsbNat (bs.take sp.e)
        if bs.length < sp.e ∨ (t.codeOf e).isSome then .error 8
        else match readExps t sp n (bs.drop sp.e) with
          | .error c => .error c
          | .ok (es, k, r) => .ok (e :: es, k + 1, r)
      else match readExps t sp n bs with
        | .error c => .error c
        | .ok (es, k, r) => .ok (y :: es, k, r)

/-- Values of `w` bits, least significant bit first. -/
def readVals (w : Nat) : Nat → List Bool → List Nat
  | 0, _ => []
  | n + 1, bs => lsbNat (bs.take w) :: readVals w n (bs.drop w)

/-- Decode one lane of a plate that has passed checks 1 to 5: the lane's elements in place, and its escapes. -/
def decodeLane (p : List Byte) (h : PlateHead) (sp : Split) (tab : Option CodeTable) (k : Nat) :
    Except Nat (List Nat × Nat) :=
  let body := if h.coding = cSpz then 0x120 else 0x20
  let start := if k = 0 then body else h.ends.getD (k - 1) 0
  let bits := unpackBits (sub p start (h.ends.getD k 0 - start))
  let cnt := 512 / sp.bytes
  let marks := if h.coding = cSpz then unpackBits (sub p (0x20 + 32 * k) 32) else List.replicate cnt true
  let n := marks.count true
  let vals : Except Nat (List Nat × Nat) :=
    match (if h.table = noTable then none else tab) with
    | none => if bits.length < 16 * n then .error 6
        else if 16 * n < bits.length then .error 6 else .ok (readVals 16 n bits, 0)
    | some t =>
      let smBits := n * sp.w
      let pad := (8 - smBits % 8) % 8
      let rest := bits.drop (smBits + pad)
      if bits.length < smBits + pad ∨ ((bits.drop smBits).take pad).any id then .error 6
      else match readExps t sp n rest with
        | .error c => .error c
        | .ok (es, esc, left) =>
          if left.length ≠ (8 - (rest.length - left.length) % 8) % 8 ∨ left.any id then .error 6
          else .ok (List.zipWith (rebuild sp) (readVals sp.w n bits) es, esc)
  match vals with
  | .error c => .error c
  | .ok (vs, esc) =>
    if h.coding = cSpz ∧ vs.any (· == 0) then .error 9
    else
      let placed := (marks.foldl (fun (acc : List Nat × List Nat) m =>
        if m then (acc.1 ++ [acc.2.headD 0], acc.2.drop 1) else (acc.1 ++ [0], acc.2)) ([], vs)).1
      .ok (placed, esc)

/-- What a decode gives: the expanded plate and the lane cycles, or the first check that failed with the decode lanes that had
passed before it and the plate that they give (R169), zero elsewhere. -/
inductive Decoded where
  | good (plate : List Byte) (cycles : Nat)
  | bad (check : Nat) (lanes : List Nat) (plate : List Byte)
deriving DecidableEq, Repr

/-- The plate of the decode lanes that have passed, zero elsewhere. -/
def lanesPlate (sp : Split) (m : FMap (List Nat × Nat)) : List Byte :=
  (List.range 8).flatMap (fun k => match m.get? k with
    | some r => r.1.flatMap (le sp.bytes)
    | none => zeros 512)

/-- Decode the lanes in an order, keeping the good ones; stop at the first that fails. -/
def decodeLanes (p : List Byte) (h : PlateHead) (sp : Split) (tab : Option CodeTable) :
    List Nat → FMap (List Nat × Nat) → Except (Nat × FMap (List Nat × Nat)) (FMap (List Nat × Nat))
  | [], acc => .ok acc
  | k :: ks, acc =>
    match decodeLane p h sp tab k with
    | .error c => .error (c, acc)
    | .ok r => decodeLanes p h sp tab ks (acc.set k r)

/-- Decode a plate, taking the decode lane `first` first and the others in ascending order with wrap (R178). -/
def decodePlate (p : List Byte) (coding table clen : Nat) (tab : Option CodeTable) (first : Nat) : Decoded :=
  match headCheck p coding table clen tab with
  | some c => .bad c [] (zeros plateBytes)
  | none =>
    let h := plateHead p
    match splitOf h.elem with
    | none => .bad 2 [] (zeros plateBytes)
    | some sp =>
      match decodeLanes p h sp tab ((List.range 8).map (fun i => (first + i) % 8)) [] with
      | .error (c, m) => .bad c (m.map Prod.fst) (lanesPlate sp m)
      | .ok m =>
        let elems := m.flatMap (fun e => e.2.1)
        let plate := elems.flatMap (le sp.bytes)
        let cost := sumOf (m.map (fun e => 8 + (e.2.2 + 3) / 4))
        if h.coding ≠ cSpz ∧ (elems.filter (· != 0)).length ≠ h.nz then .bad 9 (List.range 8) plate
        else if (crc32c plate).toNat ≠ h.crc then .bad 10 (List.range 8) plate
        else .good plate (4 + cost)

/-! ## The cost of lane work (R175, R176) -/

/-- The nominal cost of a decode. -/
def decodeNominal : Nat := 68

/-- The nominal cost of an encode. -/
def encodeNominal : Nat := 132

/-- The cycles of an encode with escapes. -/
def encodeCycles (esc : Nat) : Nat := 132 + (esc + 7) / 8

/-- The cycles of a histogram of a plate held in T0. -/
def histCycles : Nat := 64

/-- The counts of exponents of a plate's elements, and of its zero elements (R184). -/
def histogram (sp : Split) (plate : List Byte) (h : FMap Nat) : FMap Nat × Nat :=
  let elems := elements sp.bytes (plateBytes / sp.bytes) plate
  (elems.foldl (fun m x => m.set (expOf sp x) (m.getD (expOf sp x) 0 + 1)) h, elems.count 0)

end Sys2Proof.Machine
end

