-- ==== Sys2Proof/Machine/StorageCode.lean ====
section
/-! DEFINITION. The storage code (R462, R463), reads and writes of lines of the central store and of the stacks (R331,
R464), armed injections (R476) and the sparing of central-store banks (R478, R479). A line is named by its number: its
system-bus address divided by 64 (R534). The state keeps each line's stored data bits and its syndrome, from which the
stored check word follows. -/

namespace Sys2Proof.Machine

/-- The syndrome of a poisoned line (R462). -/
def zSyn : U32 := 0xFFFFFFFE#32

/-- The 512 data columns in ascending order: the 32-bit values with exactly three bits set (R462). -/
def hCols : List U32 :=
  (List.range 16).flatMap (fun c => (List.range c).flatMap (fun b => (List.range b).map (fun a =>
    BitVec.ofNat 32 (2 ^ a + 2 ^ b + 2 ^ c)))) |>.take 512

/-- The column of data bit `j`. -/
def hCol (j : Nat) : U32 := hCols.getD j 0

/-- P(D) of the data bytes (R462). -/
def parityOf (d : List Byte) : U32 :=
  (List.range 512).foldl (fun a j => if (d.getD (j / 8) 0).getLsbD (j % 8) then a ^^^ hCol j else a) 0

/-- The address term of a granule or line index, without the stack term (R462). -/
def addrTerm (g : Nat) : U32 :=
  (List.range 30).foldl (fun a i => if g.testBit i then a ^^^ BitVec.ofNat 32 (2 ^ i) ^^^ 0x80000000#32 else a) 0

/-- The stack term (R462). -/
def stackTerm : U32 := 0xC0000000#32

/-- The outcome of a syndrome (R463). -/
inductive SynOut where
  | good
  | data (j : Nat)
  | check
  | poison
  | uncorr
deriving DecidableEq, Repr

/-- Act on a syndrome (R463). -/
def synOut (x : U32) : SynOut :=
  if x = 0 then .good
  else if x = zSyn then .poison
  else match hCols.findIdx? (· == x) with
    | some j => .data j
    | none => if (List.range 32).any (fun i => x == BitVec.ofNat 32 (2 ^ i)) then .check else .uncorr

/-- The line number of central-store line index `i`. -/
def csLine (i : Nat) : Nat := 0x4000000 + i

/-- The line number of granule `g` of stack `k`. -/
def dramLine (k g : Nat) : Nat := 0x400000000 + 2 ^ 30 * k + g

/-- Whether a line lies in a stack. -/
def isDram (l : Nat) : Bool := decide (0x400000000 ≤ l)

/-- The stack of a DRAM line. -/
def lineStack (l : Nat) : Nat := l / 2 ^ 30 - 16

/-- The granule of a DRAM line. -/
def lineGran (l : Nat) : Nat := l % 2 ^ 30

/-- The index of a central-store line. -/
def lineIndex (l : Nat) : Nat := l - 0x4000000

/-- The granule or line index that A(L) folds in. -/
def lineG (l : Nat) : Nat := if isDram l then lineGran l else lineIndex l

/-- The address term of a line (R462). -/
def lineAddrTerm (l : Nat) : U32 :=
  addrTerm (lineG l) ^^^ (if isDram l && decide (6 ≤ lineStack l) then stackTerm else 0)

/-- The location of a line in a log entry (R484). -/
def lineLoc (l : Nat) : Nat :=
  if isDram l then 2 ^ 30 * lineStack l + lineGran l else 2 ^ 60 + lineIndex l

/-- The bank of a central-store line (R12). -/
def csBank (i : Nat) : Nat := (fld i 0 8 ^^^ fld i 8 8) ^^^ fld i 16 8

/-- The row of a central-store line within its bank (R12). -/
def csRow (i : Nat) : Nat := fld i 8 16

/-- The pseudo-channel of a granule (R329). -/
def granPc (g : Nat) : Nat := fld g 4 5

/-- The bank of a granule (R329). -/
def granBank (g : Nat) : Nat := g / 512 % 48

/-- The row of a granule (R329). -/
def granRow (g : Nat) : Nat := g / 512 / 48

/-- The retention segment of a granule (R329). -/
def granSeg (g : Nat) : Nat := g / 70778880

/-- The granules of a stack (R328). -/
def stackGranules : Nat := 566231040

/-- The key under which corrected lines are logged once a stride: the pseudo-channel or the store die (R464). -/
def ceKey (l : Nat) : Nat :=
  1000 + (if isDram l then lineStack l * 32 + granPc (lineGran l) else 400 + csBank (lineIndex l) / 64)

/-- The stored syndrome of a line. -/
def State.synOf (s : State) (l : Nat) : U32 := s.syn.getD l 0

/-- Set a line's syndrome; a good line is not listed. -/
def State.setSyn (s : State) (l : Nat) (x : U32) : State :=
  { s with syn := if x = 0 then s.syn.del l else s.syn.set l x }

/-- The stored data bytes of a line, uncorrected. -/
def State.rawLine (s : State) (l : Nat) : List Byte := Memory.getN s.mem (l * 64) 64

/-- The stored check word of a line. -/
def State.checkWord (s : State) (l : Nat) : U32 := s.synOf l ^^^ parityOf (s.rawLine l) ^^^ lineAddrTerm l

/-- Invert the data bits named by positions below 512. -/
def flipBits (d : List Byte) (pos : List Nat) : List Byte :=
  (List.range d.length).map (fun i => pos.foldl (fun (b : Byte) p =>
    if p < 512 ∧ p / 8 = i then b ^^^ BitVec.ofNat 8 (2 ^ (p % 8)) else b) (d.getD i 0))

/-- What inverted positions add to a syndrome: the column of a data bit, the bit itself of a check bit. -/
def flipSyn (pos : List Nat) : U32 :=
  pos.foldl (fun a p => a ^^^ (if p < 512 then hCol p else BitVec.ofNat 32 (2 ^ (p - 512)))) 0

/-- What an injection adds to the syndrome (R476). -/
def Flip.syn (f : Flip) : U32 :=
  flipSyn f.bits ^^^ addrTerm f.addrXor ^^^ (if f.shalf then stackTerm else 0)

/-- The line an injection names. -/
def Flip.lineNo (f : Flip) : Nat := if f.dram then dramLine f.stack f.line else csLine f.line

/-- The armed injections that fire on an access of a line; they disarm (R476). -/
def State.fire (s : State) (l : Nat) (read : Bool) : State × List Flip :=
  let hit := s.ras.flips.filter (fun p => p.2.lineNo == l && p.2.read == read)
  if hit.isEmpty then (s, [])
  else
    let s := { s with ras.flips := s.ras.flips.filter (fun p => !(p.2.lineNo == l && p.2.read == read)) }
    (s.over hit (fun s p => s.logE 0x0705 none p.2.syn.toNat (lineLoc l)), hit.map Prod.snd)

/-! ## Device Fatal and spare banks -/

/-- Raise Device Fatal with a cause 1 to 3 (R479): the fatal entry, and an uncorrectable fatal error on every head
(R322). -/
def State.deviceFatal (s : State) (cause : Nat) : State :=
  if s.ras.fatal then s
  else
    let s := { s.logE 0x0707 none cause 0 with ras.fatal := true }
    s.emits ((List.range 8).map Out.aerFatal)

/-- The spares a store die has taken: banks spared or being spared. -/
def State.sparesUsed (s : State) (die : Nat) : Nat :=
  (s.ras.spares.filter (fun p => p.1 / 64 == die)).length + (s.ras.sparing.filter (fun p => p.1 / 64 == die)).length

/-- Spare a bank at its first uncorrectable line or on RETIRE (R478); a fifth on one store die is fatal (R479). -/
def State.startSpare (s : State) (bank : Nat) : State :=
  let used := s.sparesUsed (bank / 64)
  if s.ras.spares.has bank || s.ras.sparing.any (fun p => p.1 == bank) then s
  else if 4 ≤ used then s.deviceFatal 1
  else { s with ras.sparing := s.ras.sparing ++ [(bank, used)] }

/-! ## Pseudo-channels and their write buffers (R335, R348) -/

/-- A pseudo-channel controller after reset (R339, R348). -/
def Pc.reset (key : Nat) : Pc :=
  { st := 0, alerts := [], wbuf := [], training := 0, lfsr := BitVec.ofNat 32 (key + 1), missed := 0, retiring := false,
    queue := [], rows := [], served := [47, 47, 47, 47], acts := [], marks := [], owed := 0, issued := 0, steps := 0, room := 37,
    took := 0, lost := 0, last := 0, bist := 0 }

/-- The refreshes, in 1/125, that a pseudo-channel is owed in a stride: 16 for each of 48 banks in 125 strides, twice as many above
85 °C, of the segments it retains (R338, R351). -/
def refreshRate (hot : Bool) (segs : Nat) : Nat := (if hot then 192 else 96) * segs

/-- A controller that nothing but the strides has changed since reset: it has issued every refresh owed, and what its refreshes and a
training step leave of the maintenance slot is still there (R337, R338). -/
def State.freshPc (s : State) (k p : Nat) : Pc :=
  let hot := s.dram.hot.testBit k
  let owed := 768 * (s.dram.strides + s.dram.hotStrides.getD k 0)
  let before := (owed - refreshRate hot 8) / 125
  { Pc.reset (32 * k + p) with
    owed := owed
    issued := owed / 125
    room := 37 - 2 * (owed / 125 - before) - (if s.dram.step then 8 else 0) }

/-- A pseudo-channel controller, by stack and number. -/
def State.pc (s : State) (k p : Nat) : Pc := s.dram.pcs.getD (32 * k + p) (s.freshPc k p)

/-- Change a pseudo-channel controller. -/
def State.modPc (s : State) (k p : Nat) (g : Pc → Pc) : State :=
  { s with dram.pcs := s.dram.pcs.set (32 * k + p) (g (s.pc k p)) }

/-- Whether a pseudo-channel is retired. -/
def State.pcOff (s : State) (k p : Nat) : Bool := (s.pc k p).st == 3

/-- The pseudo-channels of a stack in service. -/
def State.pcsOn (s : State) (k : Nat) : Nat := 32 - (s.dram.pcs.filter (fun e => e.1 / 32 == k && e.2.st == 3)).length

/-- Whether a stack is retired: all its pseudo-channels are (R353). -/
def State.stackOff (s : State) (k : Nat) : Bool := s.pcsOn k == 0

/-- Put a write in the buffer (R335): a write of a buffered granule merges into its entry, and a buffer that reaches 48 entries drains
to 16, ahead of reads. Which entries have drained is the device's to choose between these bounds (DESIGN CHOICE, assumption 31): an
entry stays until it must go. -/
def Pc.put (c : Pc) (g n : Nat) : Pc :=
  if c.wbuf.any (fun e => e.1 == g) then c
  else
    let w := c.wbuf ++ [(g, n)]
    let go := if 48 ≤ w.length then w.length - 16 else 0
    { c with
      wbuf := w.drop go
      queue := c.queue ++ (w.take go).map (fun e => ⟨e.1, n, 0⟩) }

/-- A write enters the write buffer of its pseudo-channel (R335). -/
def State.buffer (s : State) (l : Nat) : State :=
  if isDram l then
    let g := lineGran l
    let n := s.str.count
    s.modPc (lineStack l) (granPc g) (fun c => { c.put g n with took := c.took + 1, last := n })
  else s

/-- A read of a buffered granule is served from the write buffer and counted (R335); any other enters the controller's queue
(R332). -/
def State.forward (s : State) (l : Nat) : State :=
  if isDram l then
    let g := lineGran l
    let n := s.str.count
    let c := s.pc (lineStack l) (granPc g)
    let held := c.wbuf.any (fun e => e.1 == g)
    let s := s.modPc (lineStack l) (granPc g) (fun c =>
      { c with took := c.took + 1, last := n, queue := if held then c.queue else c.queue ++ [⟨g, n, 1⟩] })
    if held then { s with dram.fwd := cntAdd s.dram.fwd 1 } else s
  else s

/-- Whether a pseudo-channel may be admitted `n` line accesses more in this stride (R332). -/
def State.pcFits (s : State) (k p n : Nat) : Bool := decide ((s.pc k p).took + n ≤ 163)

/-- Whether every pseudo-channel may be admitted its lines of a run of granules (R332). -/
def State.runFits (s : State) (k g n : Nat) : Bool :=
  ((rangeFrom (g / 16) ((g % 16 + n + 15) / 16)).eraseDups).all (fun b =>
    s.pcFits k (b % 32) ((rangeFrom g n).filter (fun x => granPc x == b % 32)).length)

/-! ## The maintenance slot (R32, R337) -/

/-- The line-times of this stride's maintenance slot that a pseudo-channel has left for patrol, SCRUB and self-tests, in this order; one
in self-refresh issues no commands (R348). -/
def State.slotRoom (s : State) (k p : Nat) : Nat :=
  let c := s.pc k p
  if c.st = 1 ∨ c.st = 3 then 0 else c.room

/-- Use line-times of a slot; a rewrite may use the last one twice. -/
def State.useSlot (s : State) (k p n : Nat) : State := s.modPc k p (fun c => { c with room := c.room - n, took := c.took - n })

/-! ## Reading and writing a line -/

/-- What a reader of a line gets: its bytes, and whether they are good, poisoned or uncorrectable. -/
inductive LineRead where
  | good (d : List Byte)
  | poison (d : List Byte)
  | uncorr (d : List Byte) (x : U32)
deriving DecidableEq, Repr

/-- Count and log a corrected line (R464). -/
def State.corrected (s : State) (l : Nat) (x : U32) : State :=
  { s.logRated (ceKey l) 0x0701 none x.toNat (lineLoc l) with ras.ce := cntAdd s.ras.ce 1 }

/-- Count and log an uncorrectable line; the bank of a central-store line is spared (R466, R478). -/
def State.uncorrectable (s : State) (l : Nat) (x : U32) : State :=
  let s := { s.logE 0x0702 none x.toNat (lineLoc l) with ras.uec := cntAdd s.ras.uec 1 }.diverge 4
  if isDram l then s else s.startSpare (csBank (lineIndex l))

/-- Read a line through the storage code (R463, R464, R476): a corrected line is served corrected and the stored bits
stay. -/
def State.readLine (s : State) (l : Nat) : State × LineRead :=
  let (s, fl) := (s.forward l).fire l true
  let x := fl.foldl (fun a f => a ^^^ f.syn) (s.synOf l)
  let d := fl.foldl (fun d f => flipBits d f.bits) (s.rawLine l)
  match synOut x with
  | .good => (s, .good d)
  | .data j => (s.corrected l x, .good (flipBits d [j]))
  | .check => (s.corrected l x, .good d)
  | .poison => (s, .poison d)
  | .uncorr => (s.uncorrectable l x, .uncorr d x)

/-- Store a whole line with a correct check word, or with the poisoned pattern; an armed injection inverts the bits it
names as the line is stored (R462, R476). -/
def State.writeLine (s : State) (l : Nat) (d : List Byte) (poison : Bool) : State :=
  let (s, fl) := (s.buffer l).fire l false
  let x := fl.foldl (fun a f => a ^^^ f.syn) (if poison then zSyn else 0)
  let d := fl.foldl (fun d f => flipBits d f.bits) (sub d 0 64)
  { s with mem := Memory.putN s.mem (l * 64) d }.setSyn l x

/-- The 64 byte enables. -/
def allBe : Nat := 2 ^ 64 - 1

/-- Write the enabled bytes of a line (R331, R471): a full write clears poison, a partial write to a poisoned line is
applied and the line stays poisoned; the new data may itself be poisoned (R503). A partial write to an uncorrectable
line leaves the line's bits until a full-line write (R466; assumption 20). -/
def State.writeBe (s : State) (l : Nat) (d : List Byte) (be : Nat) (poison : Bool) : State :=
  if be % 2 ^ 64 = allBe then s.writeLine l d poison
  else
    let s := if isDram l then { s with dram.rmw := cntAdd s.dram.rmw 1 } else s
    match s.readLine l with
    | (s, .good old) => s.writeLine l (maskBytes old d be) poison
    | (s, .poison old) => s.writeLine l (maskBytes old d be) true
    | (s, .uncorr _ _) => s

end Sys2Proof.Machine
end

