-- ==== Sys2Proof/Machine/Tiers.lean ====
section
/-! DEFINITION. The plate map (R115 to R119), the regions of the central store (R31), partitions and the clock (R124, R435,
R436), shares and their use (R130 to R132, R354), and the allocation of T1 granules and chunks (R134, R343, R347). -/

namespace Sys2Proof.Machine

/-! ## Map entries -/

/-- The 128 bits of a map entry (R118). -/
def MapEnt.word (e : MapEnt) : Nat :=
  1 + e.tier * 2 + bitAt e.res0 3 + bitAt e.dirty 4 + bitAt e.damaged 5 + bitAt e.moving 6 + bitAt e.remote 7
    + e.coding * 2 ^ 8 + 2 ^ 16 * e.table + 2 ^ 32 * e.clen + 2 ^ 48 * e.version + 2 ^ 64 * e.store
    + 2 ^ 108 * e.t0Slot

/-- The entry of a plate; absent means never-written (R121). -/
def State.ent (s : State) (slot plate : Nat) : Option MapEnt := s.ti.map.get? (plateKey slot plate)

/-- The key of the map page of a plate: 256 plates a page (R115). -/
def pageOf (slot plate : Nat) : Nat := pageKey slot (plate / 256)

/-- Mark a map page as changed; its home is written at the boundary (R467). -/
def State.touchMap (s : State) (pk : Nat) : State :=
  if s.ti.changed.contains pk then s else { s with ti.changed := s.ti.changed ++ [pk] }

/-- Set a plate's entry. -/
def State.setEnt (s : State) (slot plate : Nat) (e : MapEnt) : State :=
  { s with ti.map := s.ti.map.set (plateKey slot plate) e }.touchMap (pageOf slot plate)

/-- Change a plate's entry, where it has one. -/
def State.modEnt (s : State) (slot plate : Nat) (g : MapEnt → MapEnt) : State :=
  match s.ent slot plate with
  | some e => s.setEnt slot plate (g e)
  | none => s

/-- The plates of a slot, with their entries, in ascending order. -/
def State.platesOf (s : State) (slot : Nat) : List (Nat × MapEnt) :=
  (s.ti.map.filter (fun p => p.1 / 2 ^ 36 == slot)).map (fun p => (p.1 % 2 ^ 36, p.2))

/-- The map page of a plate. -/
def State.page (s : State) (slot plate : Nat) : Option MapPage := s.ti.pages.get? (pageOf slot plate)

/-- The 4,096 bytes of a map page. -/
def State.pageBytes (s : State) (pk : Nat) : List Byte :=
  let slot := pk / 2 ^ 28
  let base := 256 * (pk % 2 ^ 28)
  (List.range 256).flatMap (fun i => match s.ent slot (base + i) with
    | some e => le 16 e.word
    | none => zeros 16)

/-- The damaged or never-written reading of TABLE_ID and CLEN for an entry without a home copy. -/
def MapEnt.fresh (t0Slot : Nat) : MapEnt :=
  { t0Slot := t0Slot, store := 0, version := 0, clen := 0, table := noTable, coding := cRaw, remote := false,
    moving := false, damaged := false, dirty := true, res0 := true, tier := 0, reads := 0 }

/-- The granules of a stored plate (R119). -/
def granules (clen : Nat) : Nat := (clen + 63) / 64

/-! ## The central store (R31) -/

/-- The value that new allocations follow: the target of a running plan from SHADOW on, else the value in force (R93). -/
def State.planned (s : State) (slot id elem : Nat) : Nat :=
  let k := fkey slot id elem
  match s.ops.tab.find? (fun p => decide (0x11 ≤ p.2.st) && decide (p.2.st ≤ 0x13) && (match p.2.body with
      | .plan pl => pl.sets.any (fun c => c.1 == k)
      | _ => false)) with
  | some (_, op) => match op.body with
    | .plan pl => (pl.sets.find? (fun c => c.1 == k)).elim (s.field slot id elem) Prod.snd
    | _ => s.field slot id elem
  | none => s.field slot id elem

/-- The first T0 slot of the resident region, of the larger of the staging pool in force and its target (R31, R98): transit
and control come first, then the pool (DESIGN CHOICE, assumption 8). -/
def State.resStart (s : State) : Nat := 40960 + 256 * max (s.dev fStagingPool) (s.planned 0 fStagingPool 0)

/-- The T0 slots of the central store. -/
def t0Slots : Nat := 262144

/-- The resident region in MiB for a staging pool (R31). -/
def residentMib (pool : Nat) : Nat := 864 - pool

/-- The first number from `n` that no listed key below the bound holds; the keys rise. -/
def firstGap : List Nat → Nat → Nat
  | [], n => n
  | k :: ks, n => if k < n then firstGap ks n else if k = n then firstGap ks (n + 1) else n

/-- A free T0 slot of the resident region. -/
def State.freeT0 (s : State) : Option Nat :=
  let n := firstGap (s.ti.t0.map Prod.fst) s.resStart
  if n < t0Slots then some n else none

/-- The slots that are not FREE, or about to leave FREE (R430, R431): those that the limits of the configuration count. -/
def State.upSlots (s : State) : List Nat := (s.doms.filter (fun p => p.2.st != 0 || p.2.activating)).map Prod.fst

/-- The T0 slots a domain occupies (R435). -/
def State.occupied (s : State) (slot : Nat) : Nat := (s.ti.t0.filter (fun p => p.2.slot == slot)).length

/-- A domain's effective partition in T0 slots (R436). -/
def State.partition (s : State) (slot : Nat) : Nat :=
  let tot := sumOf (s.liveSlots.map (fun x => s.domF x fT0Part))
  let res := residentMib (s.dev fStagingPool)
  let p := s.planned slot fT0Part 0
  256 * (if tot ≤ res then p else p * res / tot / 2 * 2)

/-- Whether effective partitions are in force (R436). -/
def State.effT0 (s : State) : Bool :=
  decide (residentMib (s.dev fStagingPool) < sumOf (s.liveSlots.map (fun x => s.domF x fT0Part)))

/-- The lines of a T0 slot. -/
def t0Line (t i : Nat) : Nat := csLine (64 * t + i)

/-- Whether any plate of a map page is resident (R117). -/
def State.pageHeld (s : State) (slot page : Nat) : Bool :=
  s.ti.t0.any (fun p => p.2.slot == slot && !p.2.isPage && p.2.num / 256 == page)

/-- Whether the clock may take a T0 slot's content: not a plate in its slice, not a plate that a stream holds, not a map
page that R117 holds (R124, R216). -/
def State.evictable (s : State) (u : T0Use) : Bool :=
  if u.isPage then !s.pageHeld u.slot u.num
  else u.held.isEmpty && (match s.ent u.slot u.num with
    | some e => !e.moving
    | none => true)

/-- One sweep of the clock over T0 slots in order: a referenced slot loses its bit, the first unreferenced evictable one is
the victim (R124). -/
def State.sweep (s : State) : List Nat → State × Option Nat
  | [] => (s, none)
  | t :: ts =>
    match s.ti.t0.get? t with
    | none => s.sweep ts
    | some u =>
      if !s.evictable u then s.sweep ts
      else if u.ref then { s with ti.t0 := s.ti.t0.set t { u with ref := false } }.sweep ts
      else ({ s with ti.hands := s.ti.hands.set u.slot (t + 1) }, some t)

/-- The clock's victim among a domain's T0 slots, from the hand on (R124). -/
def State.victim (s : State) (slot : Nat) : State × Option Nat :=
  let mine := (s.ti.t0.filter (fun p => p.2.slot == slot)).map Prod.fst
  let h := s.ti.hands.getD slot 0
  let order := mine.filter (fun t => decide (h ≤ t)) ++ mine.filter (fun t => decide (t < h))
  s.sweep (order ++ order)

/-- Set the referenced bit of a T0 slot. -/
def State.refT0 (s : State) (t : Nat) : State := { s with ti.t0 := s.ti.t0.modify t (fun u => { u with ref := true }) }

/-! ## Shares (R130 to R132, R354, R371) -/

/-- Bytes of a MiB. -/
def mib : Nat := 1048576

/-- The capacity of tier 1 to 3 in GiB. -/
def State.capOf (s : State) (tier : Nat) : Nat :=
  if tier = 1 then s.ti.capT1 else if tier = 2 then s.ti.capT2 else s.ti.capT3

/-- Bytes of a 2 MiB block. -/
def blk : Nat := 2 * mib

/-- A domain's share of a tier in bytes. -/
def State.share (s : State) (slot tier : Nat) : Nat := mib * s.field slot fTierShare (tier - 1)

/-- The sum of the shares of a tier over the slots that are not FREE, in MiB. -/
def State.shareSum (s : State) (tier : Nat) : Nat := sumOf (s.liveSlots.map (fun x => s.field x fTierShare (tier - 1)))

/-- Whether effective shares of a tier are in force (R354, R371). -/
def State.effShare (s : State) (tier : Nat) : Bool := decide (1024 * s.capOf tier < s.shareSum tier)

/-- A domain's effective share of a tier in bytes (R354). -/
def State.effectiveShare (s : State) (slot tier : Nat) : Nat :=
  if s.effShare tier then
    2 * mib * (s.planned slot fTierShare (tier - 1) * (s.capOf tier * 1024) / s.shareSum tier / 2)
  else mib * s.planned slot fTierShare (tier - 1)

/-- The bytes of a domain's pinned extents and operator work areas charged to T1 (R130, R239). -/
def State.pinned (s : State) (slot : Nat) : Nat :=
  sumOf (s.ti.chunks.map (fun c =>
    let owner := if c.isExtent then (s.ti.extents.get? c.owner).map Extent.slot
      else (s.opr.binds.get? c.owner).map Binding.slot
    if owner = some slot then 2 * mib else 0))

/-- The homes that a domain's plates have in a tier: granules of T1, or plates of T2 and T3. -/
def State.tierHeld (s : State) (slot tier : Nat) : Nat :=
  let w := fun (clen : Nat) => if tier = 1 then granules clen else 1
  sumOf ((s.platesOf slot).map (fun p => if p.2.tier = tier ∧ ¬p.2.remote then w p.2.clen else 0))

/-- The homes that a domain's plates have or are about to have in a tier. -/
def State.tierUse (s : State) (slot tier : Nat) : Nat :=
  let w := fun (clen : Nat) => if tier = 1 then granules clen else 1
  s.tierHeld slot tier
    + sumOf (s.ti.switches.map (fun x => if x.key / 2 ^ 36 = slot ∧ x.tier = tier then w x.clen else 0))

/-- Whether a domain's share of a tier has room for a plate of a stored length (R125, R130). -/
def State.room (s : State) (slot tier clen : Nat) : Bool :=
  if tier = 1 then decide (s.tierUse slot 1 * 64 + s.pinned slot + granules clen * 64 ≤ s.effectiveShare slot 1)
  else decide (4096 * (s.tierUse slot tier + 1) ≤ s.effectiveShare slot tier)

/-- A domain's SIZE in bytes (R131). -/
def State.size (s : State) (slot : Nat) : Nat :=
  2 * mib * ((s.share slot 1 + s.share slot 2 + s.share slot 3 - s.pinned slot) / (2 * mib))

/-- The destination of a home copy written at eviction (R125), with the tier it has, its reads while resident and its new
stored length. No promotion while a dressage table is in force (R522). -/
def State.destination (s : State) (slot : Nat) (e : MapEnt) (clen : Nat) : Nat :=
  let hi := s.domF slot fPlaceHighest
  let lo := s.domF slot fPlaceLowest
  let pr := s.domF slot fPromoteReads
  let first := fun (a : Nat) => ((rangeFrom a 3).filter (fun t => decide (t ≤ lo))).find? (fun t => s.room slot t clen)
  if 2 ≤ e.tier then
    if pr ≠ 0 ∧ pr ≤ e.reads ∧ hi = 1 ∧ s.tst.inForce = 0 ∧ s.room slot 1 clen then 1 else e.tier
  else if e.tier = 1 then
    -- the plate's own old granules leave with its old home
    if s.tierUse slot 1 * 64 + s.pinned slot + granules clen * 64 ≤ s.effectiveShare slot 1 + granules e.clen * 64 then 1
    else (first (max 2 hi)).getD 1
  else (first hi).getD hi

/-! ## Allocation in T1 -/

/-- The stack of a T1 storage address (R119). -/
def storeStack (a : Nat) : Nat := a / 2 ^ 30 % 16

/-- The first granule of a T1 storage address. -/
def storeGran (a : Nat) : Nat := a % 2 ^ 30

/-- A T1 storage address. -/
def t1Addr (k g : Nat) : Nat := 2 ^ 30 * k + g

/-- Whether a granule lies in the yoke region of its stack: the highest YOKE_MIB of it (R343). -/
def State.inYoke (s : State) (g : Nat) : Bool := decide (stackGranules ≤ g + 16384 * s.dev fYokeMib)

/-- Whether a granule's segment is retained, by the mask in force and by a plan's target (R347, R350). -/
def State.retained (s : State) (k g : Nat) : Bool :=
  let e := 32 * k + granPc g
  (s.field 0 fRetainMask e).testBit (granSeg g) && (s.planned 0 fRetainMask e).testBit (granSeg g)

/-- Whether a granule lies on the part that a RETIRE names: a row, a pseudo-channel or a stack (R482, R487). -/
def retireHits (kind part k g : Nat) : Bool :=
  decide (part % 16 = k) && (match kind with
    | 0 => granPc g == fld part 4 5 && granBank g == fld part 9 6 && granRow g == fld part 15 15
    | 1 => granPc g == fld part 4 5
    | 2 => true
    | _ => false)

/-- The planned retirements of DRAM parts under way: (kind, part) (R352, R482). -/
def State.retirements (s : State) : List (Nat × Nat) :=
  s.ops.tab.filterMap (fun p => match p.2.body with
    | .retire kind part false _ _ => if kind < 3 ∧ ¬p.2.st.testBit 3 then some (kind, part) else none
    | _ => none)

/-- Whether a granule may be allocated: below the end, its pseudo-channel in service, its segment retained, its row not
retired, and no part of a planned retirement (R329, R347, R352, R482). -/
def State.granOk (s : State) (k g : Nat) : Bool :=
  decide (g < stackGranules) && !s.pcOff k (granPc g) && s.retained k g
    && !s.dram.rows.contains (k, granPc g, granBank g, granRow g)
    && !s.retirements.any (fun r => retireHits r.1 r.2 k g)

/-- The rows that no chunk may cover: those retired and those of a planned retirement (R482). -/
def State.rowsGone (s : State) : List (Nat × Nat × Nat × Nat) :=
  s.dram.rows ++ (s.retirements.filter (fun r => r.1 == 0)).map (fun r =>
    (r.2 % 16, fld r.2 4 5, fld r.2 9 6, fld r.2 15 15))

/-- The granules of the fixed 8 GiB of T1 on each stack, in whole chunks (R132; DESIGN CHOICE, assumption 9). -/
def fixedGranules : Nat := 11206656

/-- The granule runs in use on a stack: (first, length). -/
def State.runs (s : State) (k : Nat) : List (Nat × Nat) :=
  let one := fun (a clen : Nat) => if storeStack a = k then [(storeGran a, granules clen)]
    else if s.inYoke (storeGran a) ∧ storeStack a = (k + 6) % 12 then [(storeGran a, granules clen)] else []
  s.ti.map.flatMap (fun p => if p.2.tier = 1 ∧ ¬p.2.remote ∧ p.2.clen ≠ 0 then one p.2.store p.2.clen else [])
    ++ s.ti.pages.flatMap (fun p => if p.2.tier = 1 then one p.2.store 4096 else [])
    ++ s.ti.switches.flatMap (fun x => if x.tier = 1 then one x.store x.clen else [])
    ++ s.ti.pageMoves.flatMap (fun p => if p.2.1 = 1 then one p.2.2.1 4096 else [])
    ++ s.ti.freeing.flatMap (fun f => if f.2.1 = 1 then one f.2.2.1 f.2.2.2 else [])
    ++ s.ti.chunks.flatMap (fun c => (if c.stack = k then [(c.granule, 32768)] else [])
      ++ (match c.copyTo with
        | some (k', g, _) => if k' = k then [(g, 32768)] else []
        | none => []))

/-- Whether a run from `g` of `n` granules is free on a stack and may be allocated. -/
def State.runFree (s : State) (k : Nat) (used : List (Nat × Nat)) (g n : Nat) : Bool :=
  used.all (fun u => decide (g + n ≤ u.1) || decide (u.1 + u.2 ≤ g))
    && (List.range ((n + 15) / 16 + 1)).all (fun i => s.granOk k (min (g + 16 * i) (g + n - 1)))
    && granSeg g == granSeg (g + n - 1)

/-- The places a run may start in a range: its start, the ends of used runs, and 16-granule steps after each. -/
def starts (used : List (Nat × Nat)) (lo hi : Nat) : List Nat :=
  let ends := lo :: (used.map (fun u => u.1 + u.2)).filter (fun e => decide (lo < e) && decide (e < hi))
  ends ++ ends.flatMap (fun e => (rangeFrom (e / 16 + 1) 33).map (· * 16))

/-- The lowest free start of a run in a range of a stack. -/
def State.findRun (s : State) (k n lo hi : Nat) : Option Nat :=
  let used := s.runs k
  minOf? ((starts used lo hi).filter (fun g => decide (g + n ≤ hi) && s.runFree k used g n))

/-- The end of the storage below the yoke region. -/
def State.plateEnd (s : State) : Nat :=
  stackGranules - 16384 * max (s.dev fYokeMib) (s.planned 0 fYokeMib 0)

/-- A free run for a plate on one stack: from the highest-numbered segment below the yoke region (R347). -/
def State.stackRun (s : State) (k n : Nat) : Option Nat :=
  ((List.range 8).reverse).findSome? (fun seg =>
    s.findRun k n (max fixedGranules (70778880 * seg)) (min s.plateEnd (70778880 * (seg + 1))))

/-- A free run for a yoked plate, on both stacks of a pair (R343). -/
def State.yokeRun (s : State) (k n : Nat) : Option Nat :=
  let lo := stackGranules - 16384 * s.dev fYokeMib
  let used := s.runs k ++ s.runs (k + 6)
  minOf? ((starts used lo stackGranules).filter (fun g => decide (g + n ≤ stackGranules)
    && s.runFree k used g n && s.runFree (k + 6) used g n))

/-- Whether a domain's T1 copies are yoked, by the target of a plan from SHADOW on (R343). -/
def State.yoked (s : State) (slot : Nat) : Bool := s.planned slot fYokeT1 0 == 1

/-- A free run for a plate of a domain: the stacks are tried from the plate's own on, where its home lies in T1 (R350), else
from the plate number modulo 12 on (DESIGN CHOICE, assumption 9). -/
def State.allocT1 (s : State) (slot plate clen : Nat) : Option Nat :=
  let n := granules clen
  let plate := match s.ent slot plate with
    | some e => if e.tier = 1 ∧ ¬e.remote then storeStack e.store else plate
    | none => plate
  if s.yoked slot then
    ((List.range 6).map (fun i => (plate + i) % 6)).findSome? (fun k => (s.yokeRun k n).map (t1Addr k))
  else
    ((List.range 12).map (fun i => (plate + i) % 12)).findSome? (fun k =>
      if s.stackOff k then none else (s.stackRun k n).map (t1Addr k))

/-- A free 2 MiB chunk on a stack, from the lowest-numbered segment up (R347). -/
def State.chunkRun (s : State) (k : Nat) : Option Nat :=
  let used := s.runs k
  let cands := fixedGranules / 32768 :: used.map (fun u => roundUp (u.1 + u.2) 32768)
  let ok := fun (c : Nat) => decide (32768 * (c + 1) ≤ s.plateEnd) && decide (fixedGranules ≤ 32768 * c)
    && used.all (fun u => decide (32768 * (c + 1) ≤ u.1) || decide (u.1 + u.2 ≤ 32768 * c))
    && (List.range 32).all (fun p => !s.pcOff k p && s.retained k (32768 * c + 16 * p)
      && s.retained k (32768 * c + 32767 - 16 * p)
      && !s.retirements.any (fun r => r.1 != 0 && retireHits r.1 r.2 k (32768 * c + 16 * p)))
    && s.rowsGone.all (fun r => !(r.1 == k && decide (32768 * c / 512 / 48 ≤ r.2.2.2)
      && decide (r.2.2.2 ≤ (32768 * c + 32767) / 512 / 48)))
  (minOf? (cands.filter ok)).map (32768 * ·)

/-- A free chunk on the first stack from `k` on that has one: for a chunk that is copied to a new place (R350). -/
def State.allocChunk (s : State) (k : Nat) : Option (Nat × Nat) :=
  ((List.range 12).map (fun i => (k + i) % 12)).findSome? (fun k => (s.chunkRun k).map (fun g => (k, g)))

/-! ## Who owns a granule -/

/-- What a granule of a stack holds. -/
inductive Holder where
  | plate (slot plate : Nat)
  | page (key : Nat)
  | chunk (c : Chunk)
  | nothing
deriving DecidableEq, Repr

/-- What a granule of a stack holds, by primary or mirror. -/
def State.holder (s : State) (k g : Nat) : Holder :=
  let hit := fun (a clen : Nat) => decide (storeGran a ≤ g) && decide (g < storeGran a + granules clen)
    && (storeStack a == k || (s.inYoke g && storeStack a == (k + 6) % 12))
  match s.ti.map.find? (fun p => p.2.tier == 1 && !p.2.remote && hit p.2.store p.2.clen) with
  | some (key, _) => .plate (key / 2 ^ 36) (key % 2 ^ 36)
  | none =>
    match s.ti.pages.find? (fun p => p.2.tier == 1 && hit p.2.store 4096) with
    | some (key, _) => .page key
    | none =>
      match s.ti.chunks.find? (fun c => c.stack == k && decide (c.granule ≤ g) && decide (g < c.granule + 32768)) with
      | some c => .chunk c
      | none => .nothing

end Sys2Proof.Machine
end

