-- ==== Sys2Proof/Machine/FlashOps.lean ====
section
/-! DEFINITION. The flash tiers' geometry and capacity (R360 to R364, R372), and the writing of codeword slots (R365,
R368). Mode 0 is pSLC (T2) and mode 1 is native (T3). -/

namespace Sys2Proof

/-- Whether a die index is in use: present on all 32 channels (R360). -/
def FlashPop.hasDie (p : FlashPop) (d : Nat) : Bool := decide (d < p.dies) && p.unusedDies.all (fun u => u.2 != d)

/-- Whether a population meets R362. -/
def FlashPop.ok (p : FlashPop) : Bool :=
  p.dataArea == 16384 && decide (2048 ≤ p.spareArea) && decide (2 ≤ p.bpc) && decide (p.bpc ≤ 4)
    && decide (1025 ≤ p.blocks) && decide (p.blocks ≤ 65535) && decide (256 ≤ p.pages) && decide (p.pages ≤ 16384)
    && decide (p.trPslcNs ≤ 3000) && decide (p.trNativeNs ≤ 14000) && decide (p.suspendNs ≤ 1000)
    && decide (20000 ≤ p.ratedPslc) && decide (1000 ≤ p.ratedNative)

/-- B_T2: the blocks per die in pSLC mode (R363), for a T2_PERMIL. -/
def FlashPop.bT2 (p : FlashPop) (permil : Nat) : Nat := (p.blocks - 1) * permil / 1000

/-- The pages of a block in a mode (R363). -/
def FlashPop.pagesIn (p : FlashPop) (mode : Nat) : Nat := if mode = 0 then p.pages / p.bpc else p.pages

/-- The stripe pages of one unit of a mode (R368). -/
def FlashPop.unitPages (p : FlashPop) (mode : Nat) : Nat := if mode = 0 then 1 else p.bpc

end Sys2Proof

namespace Sys2Proof.Machine

/-- The population in use: none where the profile is bad (R362). -/
def State.pop (s : State) : Option FlashPop := if s.fl.profileBad then none else s.fl.pop

/-- The state of a stripe group: 0 NORMAL, 1 DEGRADED, 2 RETIRED, 3 ABSENT (R382). -/
def State.groupSt (s : State) (g : Nat) : Nat :=
  match s.pop with
  | none => 3
  | some p => if p.hasDie (g % 16) then (match s.fl.groups.get? g with
      | some x => x.1
      | none => 0) else 3

/-- The blocks of a mode: first and last. -/
def State.modeBlocks (s : State) (p : FlashPop) (mode : Nat) : Nat × Nat :=
  let b := p.bT2 (s.dev fT2Permil)
  let b' := p.bT2 (s.planned 0 fT2Permil 0)
  if mode = 0 then (1, min b b') else (max b b' + 1, p.blocks - 1)

/-- The mode of a block under the split in force (R363). -/
def State.blockMode (s : State) (p : FlashPop) (b : Nat) : Nat := if b ≤ p.bT2 (s.dev fT2Permil) then 0 else 1

/-- The key of a stripe block. -/
def blockKey (g b : Nat) : Nat := 65536 * g + b

/-- A stripe block that nothing has changed since reset (R379). -/
def FBlock.reset : FBlock := { st := 0, erases := 0, pages := 0 }

/-- A stripe block. -/
def State.block (s : State) (g b : Nat) : FBlock := s.fl.blocks.getD (blockKey g b) FBlock.reset

/-- Change a stripe block. -/
def State.modBlock (s : State) (g b : Nat) (f : FBlock → FBlock) : State :=
  { s with fl.blocks := s.fl.blocks.set (blockKey g b) (f (s.block g b)) }

/-- A flash storage address (R364). -/
def flashAddr (ch die block page cw : Nat) : Nat := 65536 * (65536 * (16 * ch + die) + block) + 4 * page + cw

/-- The channel of a flash address. -/
def faCh (a : Nat) : Nat := a / 2 ^ 36 % 32

/-- The die index of a flash address. -/
def faDie (a : Nat) : Nat := a / 2 ^ 32 % 16

/-- The block of a flash address. -/
def faBlock (a : Nat) : Nat := a / 65536 % 65536

/-- The page of a flash address. -/
def faPage (a : Nat) : Nat := a / 4 % 16384

/-- The engine die of a flash address. -/
def faEngine (a : Nat) : Nat := faCh a / 8

/-- The stripe group of a flash address: 16e + d (R360). -/
def faGroup (a : Nat) : Nat := 16 * faEngine a + faDie a

/-- The address of data slot `i` of a unit (R364, R368): page order, then codeword 0 to 3, then data channel ascending, the
parity channel left out. -/
def unitSlot (g block page i : Nat) : Nat :=
  let k := page + i / 28
  let par := (block + k) % 8
  let j := i % 28
  let ch := j % 7
  flashAddr (8 * (g / 16) + (if ch < par then ch else ch + 1)) (g % 16) block k (j / 7)

/-! ## Capacity (R132, R346, R372) -/

/-- The stripe blocks of a mode in the groups that a test admits, less the bad ones. -/
def State.stripeBlocks (s : State) (p : FlashPop) (mode : Nat) (grp : Nat → Bool) (bad : Nat → Nat → Bool) : Nat :=
  let (lo, hi) := (if mode = 0 then (1, p.bT2 (s.dev fT2Permil)) else (p.bT2 (s.dev fT2Permil) + 1, p.blocks - 1))
  let grown : List (Nat × Nat) := (s.fl.blocks.filter (fun x => x.2.st == 4)).map (fun x => (x.1 / 65536, x.1 % 65536))
  let all := p.badBlocks ++ grown.filter (fun x => !p.badBlocks.contains x)
  sumOf ((List.range 64).map (fun g => if grp g then
    (hi + 1 - lo) - (all.filter (fun x =>
      x.1 == g && decide (lo ≤ x.2) && decide (x.2 ≤ hi) && bad x.1 x.2)).length else 0))

/-- The stripe blocks of a mode as found at bring-up. -/
def State.blocksFound (s : State) (p : FlashPop) (mode : Nat) : Nat :=
  s.stripeBlocks p mode (fun g => p.hasDie (g % 16)) (fun g b => p.badBlocks.contains (g, b))

/-- The stripe blocks of a mode usable now. -/
def State.blocksNow (s : State) (p : FlashPop) (mode : Nat) : Nat :=
  s.stripeBlocks p mode (fun g => s.groupSt g == 0 || s.groupSt g == 1) (fun _ _ => true)

/-- Whether the spare reserve of a mode has fallen to half its size or below (R371). -/
def State.wornMode (s : State) (p : FlashPop) (mode : Nat) : Bool :=
  let found := s.blocksFound p mode
  let lost := found - s.blocksNow p mode
  decide (lost ≠ 0) && decide (found * s.dev fSparePermil ≤ 2000 * lost)

/-- T2 raw or T3 raw in GiB for given T2_PERMIL-derived block counts and SPARE_PERMIL (R372). -/
def rawGib (blocks pages spare : Nat) : Nat := blocks * pages * 28 * 4096 * (1000 - spare) / 1000 / 2 ^ 30

/-- T2 raw or T3 raw now: unchanged while the spare reserve stays above half (R371, R372). -/
def State.flashRaw (s : State) (mode spare : Nat) : Nat :=
  match s.pop with
  | none => 0
  | some p =>
    rawGib (if s.wornMode p mode then s.blocksNow p mode else s.blocksFound p mode) (p.pagesIn mode) spare

/-- The retained capacity D in MiB, rounded down to GiB (R346), for a retention mask function. -/
def State.retainedMib (s : State) (mask : Nat → Nat) : Nat :=
  let segs := sumOf ((List.range 384).map (fun e => if s.pcOff (e / 32) (e % 32) then 0
    else ((bitsSet (mask e) 8).length)))
  1024 * (135 * segs / 1024)

/-- C1, C2 and C3 in GiB (R132, R346) from D and the yoke size in MiB, T2 raw and T3 raw in GiB. -/
def capacities (dMib yoke t2 t3 : Nat) : Nat × Nat × Nat :=
  let x := dMib - 6 * yoke
  (x / 1024 - 8 - roundUp (x + 1024 * t2) 262144, t2 - roundUp t3 256, t3)

/-- The tier capacities that follow from the state now. -/
def State.capsNow (s : State) : Nat × Nat × Nat :=
  capacities (s.retainedMib (fun e => s.field 0 fRetainMask e)) (s.dev fYokeMib)
    (s.flashRaw 0 (s.dev fSparePermil)) (s.flashRaw 1 (s.dev fSparePermil))

/-- Take the capacities that follow from the state; they change only at a boundary (R582). -/
def State.setCaps (s : State) : State :=
  let (a, b, c) := s.capsNow
  let worn := match s.pop with
    | some p => s.wornMode p 0 || s.wornMode p 1
    | none => false
  { s with ti.capT1 := a, ti.capT2 := b, ti.capT3 := c, fl.worn := worn }

/-! ## Free slots and the open unit (R368) -/

/-- A free stripe block of a group and mode: (erase count, block), an unlisted one first. -/
def State.freeBlockIn (s : State) (p : FlashPop) (mode g : Nat) : Option (Nat × Nat) :=
  let (lo, hi) := s.modeBlocks p mode
  let listed := s.fl.blocks.filter (fun x => x.1 / 65536 == g)
  let bad := (p.badBlocks.filter (fun x => x.1 == g)).map Prod.snd
  let n := firstGap (listed.map (fun x => x.1 % 65536)) lo
  let n := iter (fun n => if bad.contains n then firstGap (listed.map (fun x => x.1 % 65536)) (n + 1) else n) bad.length n
  if n ≤ hi then some (0, n)
  else
    let free := listed.filter (fun x => x.2.st == 0 && decide (lo ≤ x.1 % 65536) && decide (x.1 % 65536 ≤ hi))
    match minOf? (free.map (fun x => x.2.erases)) with
    | none => none
    | some e => (free.find? (fun x => x.2.erases == e)).map (fun x => (e, x.1 % 65536))

/-- Whether a planned retirement of a die empties a stripe group (R482): its PARAM_1 holds channel and die. -/
def State.groupLeaving (s : State) (g : Nat) : Bool :=
  s.ops.tab.any (fun p => !p.2.st.testBit 3 && (match p.2.body with
    | .retire 3 part false _ _ => 16 * (part % 32 / 8) + fld part 8 4 == g
    | _ => false))

/-- The groups of an engine die that take writes. -/
def State.groupsOf (s : State) (e : Nat) : List Nat :=
  ((List.range 16).map (16 * e + ·)).filter (fun g => s.groupSt g == 0 && !s.groupLeaving g)

/-- The free stripe blocks of a mode in a group. -/
def State.freeCount (s : State) (p : FlashPop) (mode g : Nat) : Nat :=
  let (lo, hi) := s.modeBlocks p mode
  let inMode := fun (b : Nat) => decide (lo ≤ b) && decide (b ≤ hi)
  let bad := (p.badBlocks.filter (fun x => x.1 == g && inMode x.2)).length
  let used := (s.fl.blocks.filter (fun x => x.1 / 65536 == g && inMode (x.1 % 65536) && x.2.st != 0
    && !p.badBlocks.contains (g, x.1 % 65536))).length
  (hi + 1 - lo) - bad - used

/-- The open unit of an engine die and mode, if it has one. -/
def State.openUnit (s : State) (e mode : Nat) : Option FUnit :=
  match (s.fl.units.getD (2 * e + mode) []).getLast? with
  | some u => if u.programming then none else some u
  | none => none

/-- The open stripe block of an engine die and mode with pages left. -/
def State.openBlock (s : State) (p : FlashPop) (e mode : Nat) : Option (Nat × Nat × FBlock) :=
  (s.fl.blocks.find? (fun x => x.1 / 65536 / 16 == e && x.2.st == 1 && s.groupSt (x.1 / 65536) == 0
    && !s.groupLeaving (x.1 / 65536) && s.blockMode p (x.1 % 65536) == mode
    && decide (x.2.pages + p.unitPages mode ≤ p.pagesIn mode))).map (fun x => (x.1 / 65536, x.1 % 65536, x.2))

/-- The free codeword slots of an engine die in a mode (R368). -/
def State.freeSlots (s : State) (p : FlashPop) (e mode : Nat) : Nat :=
  let blocks := sumOf ((s.groupsOf e).map (s.freeCount p mode))
  let unit := match s.openUnit e mode with
    | some u => 28 * p.unitPages mode - u.slots.length
    | none => 0
  let blk := match s.openBlock p e mode with
    | some (_, _, b) => (p.pagesIn mode - b.pages) * 28
    | none => 0
  blocks * p.pagesIn mode * 28 + unit + blk

/-- The engine die with the most free slots in a mode, the lowest-numbered on a tie (R368). -/
def State.pickDie (s : State) (p : FlashPop) (mode : Nat) : Option Nat :=
  let l : List (Nat × Nat) := (List.range 4).map (fun e => (e, s.freeSlots p e mode))
  let m : Nat := l.foldl (fun a x => max a x.2) 0
  if m = 0 then none else (l.find? (fun x => x.2 == m)).map Prod.fst

/-- Open a unit on an engine die: in the open stripe block, else in the free one with the lowest erase count, erased before
its first program (R368, R371, R379). -/
def State.openNew (s : State) (p : FlashPop) (e mode : Nat) : Option (State × FUnit) :=
  let take := fun (s : State) (g b : Nat) =>
    let blk := s.block g b
    let pages := blk.pages + p.unitPages mode
    let st := if p.pagesIn mode < pages + p.unitPages mode then 2 else 1
    let s := s.modBlock g b (fun x => { x with pages := pages, st := st })
    some (s, ({ group := g, block := b, page := blk.pages, slots := [], opened := s.str.count,
                programming := false } : FUnit))
  match s.openBlock p e mode with
  | some (g, b, _) => take s g b
  | none =>
    let cands := (s.groupsOf e).filterMap (fun g => (s.freeBlockIn p mode g).map (fun x => (x.1, g, x.2)))
    match minOf? (cands.map Prod.fst) with
    | none => none
    | some m =>
      match cands.find? (fun c => c.1 == m) with
      | none => none
      | some (_, g, b) =>
        let fresh := !s.fl.blocks.has (blockKey g b)
        take (s.modBlock g b (fun x => { x with st := 1, pages := 0, erases := if fresh then 1 else x.erases })) g b

/-- Put a codeword into the next slot of a mode: its STORE_ADDR, or none where the mode has no room. A unit whose last slot
fills begins to program (R368). -/
def State.flashPut (s : State) (mode : Nat) (c : Nat → Nat → FSlot) : Option (State × Nat) :=
  match s.pop with
  | none => none
  | some p =>
    match s.pickDie p mode with
    | none => none
    | some e =>
      let k := 2 * e + mode
      let us := s.fl.units.getD k []
      let got : Option (State × List FUnit × FUnit) := match s.openUnit e mode with
        | some u => some (s, us.dropLast, u)
        | none => (s.openNew p e mode).map (fun r => (r.1, us, r.2))
      match got with
      | none => none
      | some (s, older, u) =>
        let a := unitSlot u.group u.block u.page u.slots.length
        let slots := u.slots ++ [a]
        let full := slots.length == 28 * p.unitPages mode
        let u := { u with slots := slots, opened := if u.slots.isEmpty then s.str.count else u.opened,
                          programming := full }
        let w := s.fl.wseq.getD e 0
        some ({ s with fl.units := s.fl.units.set k (older ++ [u]), fl.slots := s.fl.slots.set a (c a w),
                       fl.wseq := s.fl.wseq.set e (if u.slots.length = 1 then w + p.unitPages mode else w) }, a)

/-- The live slots of a stripe block. -/
def State.liveSlotsOf (s : State) (g b : Nat) : List Nat :=
  (s.fl.slots.filter (fun x => faGroup x.1 == g && faBlock x.1 == b)).map Prod.fst

/-- Whether a slot's unit still waits in the write buffer, so that its reads are served from there (R368). -/
def State.inWriteBuffer (s : State) (a : Nat) : Bool := s.fl.units.any (fun x => x.2.any (fun u => u.slots.contains a))

/-- The failed channel of a degraded group. -/
def State.failedCh (s : State) (g : Nat) : Option Nat :=
  match s.fl.groups.get? g with
  | some (st, ch) => if st = 1 ∨ st = 2 then some ch else none
  | none => none

/-- A read of `n` dies of a stripe group that programs or erases suspends it on each (R374). -/
def State.suspends (s : State) (a n : Nat) : State :=
  let g := faGroup a
  if s.fl.units.any (fun x => x.2.any (fun u => u.group == g && u.programming))
      || s.fl.blocks.any (fun x => x.1 / 65536 == g && x.2.st == 3) then
    { s with fl.suspend := cntAdd s.fl.suspend n }
  else s

/-- Take the next issue slot of a channel: read starts are 3 strides apart (R373, R374). -/
def State.takeIssue (s : State) (ch : Nat) : State :=
  { s with fl.issue := s.fl.issue.set ch ((s.fl.issue.get? ch).elim s.str.count (fun n => max s.str.count (n + 3))) }

/-- The other channels of a slot's stripe group, which a reconstruct read reads (R373). -/
def peerChannels (a : Nat) : List Nat := (rangeFrom (8 * faEngine a) 8).filter (· != faCh a)

/-- Start a read of a slot in its channel's issue slot, or of its stripe peers in theirs (R373); a read that patrol or SCRUB makes takes
no slot of an admission (R473). -/
def State.beginRead (s : State) (a key : Nat) (recon patrol : Bool) (scrub : Option Nat) : State :=
  let s := if patrol then s else s.over (if recon then peerChannels a else [faCh a]) State.takeIssue
  { s.suspends a (if recon then 7 else 1) with
    fl.reads := s.fl.reads.set a
      { key := key, recon := recon, soft := false, softFailed := false, reconFailed := false, patrol := patrol, scrub := scrub } }

/-- Whether a read uses a die: its own, or for a reconstruct read those of its stripe peers, and its own while soft retries run (R373,
R377). -/
def FRead.uses (r : FRead) (a ch die : Nat) : Bool :=
  faDie a == die && (if r.recon then faEngine a == ch / 8 && (faCh a != ch || r.soft) else faCh a == ch)

/-- Whether a read of a slot must be a reconstruct read because its die has failed (R378). -/
def State.onFailedDie (s : State) (a : Nat) : Bool := s.failedCh (faGroup a) == some (faCh a % 8)

/-- Whether a die is read-available: not failed, and with no read in progress (R373). -/
def State.dieFree (s : State) (a : Nat) : Bool :=
  !s.onFailedDie a && !s.fl.reads.any (fun p => p.2.uses p.1 (faCh a) (faDie a))

/-- Whether a channel has a free issue slot within 3 strides: one read start every 3 strides (R373, R374). -/
def State.issueFree (s : State) (ch : Nat) : Bool :=
  match s.fl.issue.get? ch with
  | some n => decide (n + 3 ≤ s.str.count + 3)
  | none => true

/-- Whether a read of a flash slot is admitted, direct or by reconstruction (R373). -/
def State.flashReadable (s : State) (a : Nat) : Bool :=
  if s.dieFree a then s.issueFree (faCh a)
  else (List.range 8).all (fun j =>
    let ch := 8 * faEngine a + j
    ch == faCh a || (s.dieFree (flashAddr ch (faDie a) (faBlock a) (faPage a) (a % 4)) && s.issueFree ch))

/-- Whether another member of a slot's stripe also fails, so that no reconstruct read passes: a second codeword of the same
stripe position that cannot be read (R373, R477). -/
def State.reconFails (s : State) (a : Nat) : Bool :=
  s.fl.slots.any (fun x => x.1 != a && faGroup x.1 == faGroup a && x.1 % 2 ^ 32 == a % 2 ^ 32
    && (x.2.bad || s.onFailedDie x.1)) || (match s.failedCh (faGroup a) with
      | some ch => ch != faCh a % 8
      | none => false)

end Sys2Proof.Machine
end

