-- ==== Sys2Proof/Machine/HerdWire.lean ====
section
/-! DEFINITION. The bytes of the Apyan stream: message heads (R389), flits (R386) and sync blocks (R402). -/

namespace Sys2Proof.Machine

/-! ## Messages (R388 to R390) -/

/-- The virtual channel of a message opcode (R390). -/
def mopVc (mop : Nat) : Nat := if mop < 0x10 then 0 else if mop < 0x18 then 1 else if mop < 0x20 then 2 else 3

/-- The 64-byte slots of a message: its head and its data slots. -/
def msgSlots (m : Msg) : Nat := 1 + (m.data.length + 63) / 64

/-- The 64-byte message head (R389). -/
def msgHead (m : Msg) : List Byte :=
  le 1 m.mop ++ le 1 (bitAt m.poison 0 + bitAt m.resent 1 + bitAt m.nak 2) ++ le 2 m.dst ++ le 2 m.src ++ le 1 m.hops
    ++ le 1 (msgSlots m - 1) ++ le 4 m.epoch ++ le 4 m.tag ++ le 4 (m.hdom % 2 ^ 24) ++ zeros 4
    ++ le 8 (m.plate % 2 ^ 36 + 2 ^ 36 * (m.line % 64)) ++ le 8 m.be.toNat ++ le 16 m.arg.toNat ++ zeros 8

/-- The slots of a message with their kinds: its head, then its data (R386, R389). -/
def slotsOf (m : Msg) : List (Nat × List Byte) :=
  (1, msgHead m) :: (List.range (msgSlots m - 1)).map (fun i => (2, sub m.data (64 * i) 64))

/-! ## Flits (R386) -/

/-- A flit (R386): its FTYPE, FSEQ and ACK, the kind of each slot on a virtual channel, the credits, the sender, FCRC and the slots. -/
def flitBytes (ftype fseq ack : Nat) (credit : List Nat) (sender vc : Nat) (slots : List (Nat × List Byte)) : List Byte :=
  let kinds := (List.range 8).foldl (fun (v : Nat) i => match slots[i]? with
    | some x => v + (vc + 4 * x.1) * 2 ^ (4 * i)
    | none => v) 0
  let head := le 4 (ftype + 2 ^ 8 * (fseq % 4096) + 2 ^ 20 * (ack % 4096)) ++ le 4 kinds
    ++ (List.range 4).flatMap (fun v => le 2 (credit.getD v 0)) ++ le 2 sender ++ zeros 6
  let body := sub (slots.flatMap (fun x => sub x.2 0 64)) 0 512
  head ++ le 8 (crc64 (head ++ body)).toNat ++ body

/-- The flits that a message takes: eight slots each (R386). No two messages share a flit (DESIGN CHOICE, assumption 114). -/
def msgFlits (m : Msg) : Nat := (msgSlots m + 7) / 8

/-- The PAYLOAD flits of a message from an FSEQ on (R386). -/
def payloadFlits (m : Msg) (fseq ack : Nat) (credit : List Nat) (sender : Nat) : List (List Byte) :=
  (List.range (msgFlits m)).map (fun i =>
    flitBytes 1 (fseq + i) ack credit sender (mopVc m.mop) (((slotsOf m).drop (8 * i)).take 8))

/-- The FTYPE of a received flit (R386); 3 is reserved. -/
def flitType (f : Flit) : Nat := fieldAt f.bytes 0 4 % 4

/-- The FSEQ of a received flit. -/
def flitSeq (f : Flit) : Nat := fld (fieldAt f.bytes 0 4) 8 12

/-- The ACK of a received flit. -/
def flitAck (f : Flit) : Nat := fld (fieldAt f.bytes 0 4) 20 12

/-- The CREDIT of a received flit, by virtual channel. -/
def flitCredit (f : Flit) : List Nat := (List.range 4).map (fun v => fieldAt f.bytes (8 + 2 * v) 2)

/-- Whether FCRC matches the head and the slots of a received flit. -/
def flitGood (f : Flit) : Bool := fieldAt f.bytes 0x18 8 == (crc64 (sub f.bytes 0 24 ++ sub f.bytes 32 512)).toNat

/-- The flits that a link carries in a stride with a lane mask (R385). -/
def linkFlits (lanes : Nat) : Nat :=
  match (bitsSet lanes 4).length with
  | 4 => 92
  | 2 => 45
  | 1 => 22
  | _ => 0

/-! ## Sync blocks (R402) -/

/-- The SYNC field of a sync block. -/
def syncMark : Nat := 0xA5D10C5AA5D10C5A

/-- The 124 bytes of a sync block before SCRC. -/
def syncBody (b : SyncBlock) : List Byte :=
  le 8 syncMark ++ le 8 b.stride ++ le 8 b.herdId.toNat ++ le 4 b.epoch ++ le 4 b.proto ++ le 8 b.digest.toNat ++ le 2 b.deviceId
    ++ le 1 (b.state % 8 + bitAt b.idValid 3 + bitAt b.voter 4 + 32 * (b.depth % 8)) ++ le 1 (b.req % 4 + 16 * (b.lanes % 16))
    ++ le 4 (BitVec.ofInt 32 b.echo).toNat ++ le 8 b.fwver.toNat ++ le 8 b.serial.toNat ++ le 2 b.echoStride ++ zeros 58

/-- The 128 bytes of a sync block. -/
def syncBytes (b : SyncBlock) : List Byte := syncBody b ++ le 4 (crc32c (syncBody b)).toNat

/-- The sync block that 128 bytes hold, where SYNC and SCRC match, with the time its first byte arrived. -/
def syncOf (d : List Byte) (arrival : Int) : Option SyncBlock :=
  if fieldAt d 0 8 = syncMark ∧ fieldAt d 0x7C 4 = (crc32c (sub d 0 0x7C)).toNat then
    let st := fieldAt d 0x2A 1
    let rq := fieldAt d 0x2B 1
    some
      { stride := fieldAt d 8 8, herdId := BitVec.ofNat 64 (fieldAt d 0x10 8), epoch := fieldAt d 0x18 4, proto := fieldAt d 0x1C 4,
        digest := BitVec.ofNat 64 (fieldAt d 0x20 8), deviceId := fieldAt d 0x28 2, state := st % 8, idValid := st.testBit 3,
        voter := st.testBit 4, depth := fld st 5 3, req := rq % 4, lanes := fld rq 4 4,
        echo := (BitVec.ofNat 32 (fieldAt d 0x2C 4)).toInt, fwver := BitVec.ofNat 64 (fieldAt d 0x30 8),
        serial := BitVec.ofNat 64 (fieldAt d 0x38 8), echoStride := fieldAt d 0x40 2, arrival := arrival }
  else none

end Sys2Proof.Machine
end

