-- ==== Sys2Proof/Machine/HerdNet.lean ====
section
/-! DEFINITION. The herd's layouts and parity (R413 to R415), routes and the sending of messages (R388, R389, R399,
R401). -/

namespace Sys2Proof.Machine

/-! ## Layouts (R413, R414) -/

/-- Whether a herd domain record's counts are a valid combination (R413). -/
def hdomOk (r : HdomRec) : Bool :=
  decide (1 ≤ r.w) && decide (r.w ≤ 64) && decide (r.m ≤ 4) && decide (r.u ≤ 16) && r.members.length == r.w
    && (match r.kind with
      | 0 => r.w == 1 && r.k == 1 && r.m == 0
      | 1 => r.k == r.w && r.m == 0
      | 2 => decide (2 ≤ r.k) && decide (r.k ≤ 16) && decide (1 ≤ r.m) && decide (r.k + r.m ≤ r.w)
      | 3 => r.w == 2 && r.k == 1 && r.m == 1
      | _ => false)

/-- The unit of a plate. -/
def hUnit (r : HdomRec) (p : Nat) : Nat := p / 2 ^ r.u

/-- The row of a plate. -/
def hRow (r : HdomRec) (p : Nat) : Nat := hUnit r p / r.k

/-- The data index of a plate in its row. -/
def hIndex (r : HdomRec) (p : Nat) : Nat := hUnit r p % r.k

/-- The position that is home to a plate: in a YOKE domain always position 0. -/
def hPos (r : HdomRec) (p : Nat) : Nat := if r.kind = 3 then 0 else (hRow r p + hIndex r p) % r.w

/-- The position of parity unit `j` of a row. -/
def hParPos (r : HdomRec) (row j : Nat) : Nat := (row + r.k + j) % r.w

/-- The device at a position, if the position has one. -/
def hAt (r : HdomRec) (pos : Nat) : Option Nat :=
  if r.vacant.testBit pos then none else r.members[pos]?

/-- The lock keeper of a row: the member of the lowest-numbered parity position that has one (R414, R420). -/
def hKeeper (r : HdomRec) (row : Nat) : Option Nat := (List.range r.m).findSome? (fun j => hAt r (hParPos r row j))

/-- The plate of data index `i` in the row of plate `p`, at the same offset within its unit. -/
def hPlate (r : HdomRec) (p i : Nat) : Nat := (hRow r p * r.k + i) * 2 ^ r.u + p % 2 ^ r.u

/-- The plate number under which a member's own map lists parity unit `j` of the row of plate `p` (DESIGN CHOICE,
assumption 26). -/
def hParPlate (r : HdomRec) (p j : Nat) : Nat := 2 ^ 35 + (hRow r p * r.m + j) * 2 ^ r.u + p % 2 ^ r.u

/-- Whether the device takes part in a herd (R428). -/
def State.inHerd (s : State) : Bool := s.herd.st != 0

/-- The herd domain record of a slot. -/
def State.hdom (s : State) (slot : Nat) : Option HdomRec :=
  if s.inHerd then s.herd.domains.find? (fun r => r.hdom == s.domF slot fDomHdom) else none

/-- The slot that maps a herd domain ID (R432). -/
def State.slotOfHdom (s : State) (h : Nat) : Option Nat := s.liveSlots.find? (fun x => s.domF x fDomHdom == h)

/-- Where a plate's home is. -/
inductive PHome where
  | here
  | at (device : Nat)
  | lost
deriving DecidableEq, Repr

/-- The home of a plate of a slot (R414, R420); an expelled device reaches no home but its own (R412). -/
def State.plateHome (s : State) (slot plate : Nat) : PHome :=
  match s.hdom slot with
  | none => .here
  | some r =>
    if 2 ^ 35 ≤ plate then .here
    else match hAt r (hPos r plate) with
      | none => .lost
      | some d => if d = s.herd.device then .here else if s.herd.st = 4 then .lost else .at d

/-- Whether this device stands, for a plate that its own map does not list, at a lost member's position (R421). -/
def State.lostHere (s : State) (slot plate : Nat) : Bool :=
  s.plateHome slot plate == .here && decide (plate < 2 ^ 35) && s.herd.tookOver.contains (s.domF slot fDomHdom)
    && (s.ent slot plate).isNone

/-- Whether a stripe lock holds back the home-copy writes of a plate (R418). -/
def State.rowHeld (s : State) (slot plate : Nat) : Bool :=
  decide (plate < 2 ^ 35) && (s.hdom slot).any (fun r => r.kind == 2 && s.herd.rowLocks.contains (slot, hRow r plate))

/-- A write to a plate that has been sent to another member makes it due again (R94, R425). -/
def State.moveAgain (s : State) (slot plate : Nat) : State :=
  if s.herd.moves.isEmpty then s
  else
    let h := s.domF slot fDomHdom
    { s with herd.moves := s.herd.moves.map (fun (v : HMove) =>
        let back := v.sent.filter (fun x => x.1 == plate)
        if v.hdom = h ∧ ¬back.isEmpty then
          { v with sent := v.sent.filter (fun x => x.1 != plate), todo := v.todo ++ back }
        else v) }

/-! ## Parity (R415) -/

/-- Doubling in GF(2^8) with polynomial 0x11D. -/
def gfDouble (a : Byte) : Byte := if a.getLsbD 7 then (a <<< 1) ^^^ 0x1D#8 else a <<< 1

/-- The product in GF(2^8). -/
def gfMul (a b : Byte) : Byte :=
  ((List.range 8).foldl (fun (x : Byte × Byte) i =>
    (if b.getLsbD i then x.1 ^^^ x.2 else x.1, gfDouble x.2)) (0, a)).1

/-- a^(2^n): a is squared n times. -/
def gfSquares (a : Byte) : Nat → Byte
  | 0 => a
  | n + 1 => gfSquares (gfMul a a) n

/-- The inverse: a^254. -/
def gfInv (a : Byte) : Byte := (rangeFrom 1 7).foldl (fun x n => gfMul x (gfSquares a n)) 1

/-- g_j,i (R415). -/
def gCoef (j i : Nat) : Byte := gfInv (BitVec.ofNat 8 (j ^^^ (16 + i)))

/-- A coefficient times bytes. -/
def gfScale (c : Byte) (d : List Byte) : List Byte := d.map (gfMul c)

/-- Solve for the unknown data plates of a row by elimination: each equation holds the coefficient of each unknown, and its
right side. The solution of unknown `t`, if the equations give one. -/
def gfSolve (n : Nat) (t : Nat) (eqs : List (List Byte × List Byte)) : Option (List Byte) :=
  let reduced := (List.range n).foldl (fun (a : List (List Byte × List Byte) × List (List Byte × List Byte)) c =>
    match a.1.find? (fun e => e.1.getD c 0 != 0) with
    | none => a
    | some p =>
      let inv := gfInv (p.1.getD c 0)
      let p' := (p.1.map (gfMul inv), gfScale inv p.2)
      let clear := fun (e : List Byte × List Byte) =>
        let k := e.1.getD c 0
        (xorBytes e.1 (p'.1.map (gfMul k)), xorBytes e.2 (gfScale k p'.2))
      ((a.1.erase p).map clear, (a.2.map clear) ++ [p'])) (eqs, [])
  (reduced.2.find? (fun e => e.1.getD t 0 == 1 && (List.range n).all (fun c => c == t || e.1.getD c 0 == 0))).map Prod.snd

/-- The data plate of index `want` from any K plates of its row: (index, bytes), data below K, parity from K on (R415,
R421). -/
def rebuildPlate (r : HdomRec) (want : Nat) (parts : List (Nat × List Byte)) : Option (List Byte) :=
  let known := parts.filter (fun p => decide (p.1 < r.k))
  match known.find? (fun p => p.1 == want) with
  | some p => some p.2
  | none =>
    let unknown := (List.range r.k).filter (fun i => !(known.any (fun p => p.1 == i)))
    let eqs := (parts.filter (fun p => decide (r.k ≤ p.1))).map (fun p =>
      (unknown.map (fun i => gCoef (p.1 - r.k) i),
       known.foldl (fun d q => xorBytes d (gfScale (gCoef (p.1 - r.k) q.1) q.2)) p.2))
    match unknown.findIdx? (· == want) with
    | some t => gfSolve unknown.length t eqs
    | none => none

/-! ## Sending -/

/-- A link end that has not trained (R394). -/
def Link.reset : Link :=
  { st := 0, lanes := 0, peer := 0, leads := false, entered := 0, enabled := true, txSeq := 0, rxSeq := 0, replay := [],
    credits := [0, 0, 0, 0], seen := [0, 0, 0, 0], freed := [0, 0, 0, 0], retrySent := none, req := 0, reqLanes := 0,
    reqMine := false, reqAt := 0, peerDepth := 7, lastSync := 0,
    echo := 0, peerStride := 0, badStride := false, fwDiffers := false, out := 0 }

/-- A link end. -/
def State.link (s : State) (n : Nat) : Link := s.herd.links.getD n Link.reset

/-- Change a link end. -/
def State.modLink (s : State) (n : Nat) (g : Link → Link) : State :=
  { s with herd.links := s.herd.links.set n (g (s.link n)) }

/-- The route entry of a destination: PRIMARY, ALTERNATE, HOPS and whether it has an alternate, where VALID (R399). -/
def State.route (s : State) (dst : Nat) : Option (Nat × Option Nat × Nat) :=
  match s.herd.routes.get? dst with
  | none => none
  | some w =>
    if w.getLsbD 15 then
      some (fld w.toNat 0 5, if w.getLsbD 13 then some (fld w.toNat 5 5) else none, fld w.toNat 10 3)
    else none

/-- The link on which a message leaves (R399): none where neither is ACTIVE and it waits. -/
def State.outLink (s : State) (r : Nat × Option Nat × Nat) : Option Nat :=
  if (s.link r.1).st = 5 then some r.1
  else match r.2.1 with
    | some a => if (s.link a).st = 5 then some a else none
    | none => none

/-- The slot that pays for a message on this member: the one that maps its herd domain, or the herd slot for control and
forwarded messages (R401). -/
def State.payer (s : State) (m : Msg) (forwarded : Bool) : Nat :=
  if mopVc m.mop = 3 ∨ forwarded then s.dev fHerdSlot
  else (s.slotOfHdom m.hdom).getD (s.dev fHerdSlot)

/-- The FSEQ before another. -/
def prevSeq (n : Nat) : Nat := (n + 4095) % 4096

/-- Put a message on a link: charged to fabric egress, its flits kept in the replay buffer, where the message stands with its last
(R385, R391, R401). -/
def State.putLink (s : State) (l : Nat) (m : Msg) (forwarded : Bool) : State :=
  let s := s.charge (s.payer m forwarded) 3 (l / 8) (msgSlots m)
  let s := if forwarded then { s with herd.fwdCnt := cntAdd s.herd.fwdCnt (msgSlots m) } else s
  let k := s.link l
  let n := msgFlits m
  let kept := (List.range n).map (fun i => ((k.txSeq + i) % 4096, if i + 1 = n then [m] else []))
  let s := s.modLink l (fun k => { k with txSeq := (k.txSeq + n) % 4096, replay := k.replay ++ kept, out := k.out + n })
  s.emit (.apyan l m (payloadFlits m k.txSeq (prevSeq k.rxSeq) k.freed s.herd.device))

/-- Whether a message may leave on a link now: the replay buffer and the stride have room for its flits, and the channel's credits
cover it (R385, R388, R391). -/
def State.linkRoom (s : State) (l : Nat) (m : Msg) : Bool :=
  let k := s.link l
  decide (k.replay.length + msgFlits m ≤ 512) && decide (k.out + msgFlits m ≤ linkFlits k.lanes)
    && decide (msgSlots m ≤ k.credits.getD (mopVc m.mop) 0)

/-- Whether a slot's fabric grants cover what a request to another member sends and what its answer brings, on the link that it leaves by
(R21, R401). -/
def State.fabricGrant (s : State) (slot dev sent answer : Nat) : Bool :=
  match (s.route dev).bind s.outLink with
  | none => true
  | some l => decide (sent ≤ s.left slot 3 (l / 8)) && decide (answer ≤ s.left slot 2 (l / 8))

/-- Whether the herd slot's grant lets a message pass on (R401): a forwarded request waits for it, no other message does. -/
def State.passGrant (s : State) (l : Nat) (m : Msg) (forwarded : Bool) : Bool :=
  !(forwarded && mopVc m.mop == 0) || decide (msgSlots m ≤ s.left (s.payer m true) 3 (l / 8))

/-- Discard a message and log it (R390, R399). -/
def State.discardMsg (s : State) (m : Msg) : State := s.logE 0x0A01 none m.mop (65536 * m.src + m.dst)

/-- Whether messages of a destination wait behind those that a downed link still holds (R393); LINK_LAST itself does not. -/
def State.behindDown (s : State) (m : Msg) : Bool :=
  m.mop != 0x2B && s.herd.links.any (fun l => decide (l.2.st < 5) && l.2.replay.any (fun f => f.2.any (fun x => x.dst == m.dst)))

/-- Send a message by the route table, or let it wait (R388, R399). Messages of one destination keep their order; one to the
device itself joins the messages that it has yet to take. -/
def State.sendMsg (s : State) (m : Msg) (forwarded : Bool) : State :=
  if m.dst = s.herd.device ∧ m.src = s.herd.device then { s with herd.waitMsgs := s.herd.waitMsgs ++ [m] }
  else match s.route m.dst with
  | none => s.discardMsg m
  | some r =>
    match s.outLink r with
    | none => { s with herd.outWait := s.herd.outWait ++ [m] }
    | some l =>
      if s.linkRoom l m && s.passGrant l m forwarded && !s.herd.outWait.any (fun w => w.dst == m.dst && mopVc w.mop == mopVc m.mop) && !s.behindDown m then
        let v := mopVc m.mop
        let s := s.modLink l (fun k => { k with credits := k.credits.set v (k.credits.getD v 0 - msgSlots m) })
        s.putLink l m forwarded
      else { s with herd.outWait := s.herd.outWait ++ [m] }

/-- Send what waits, in order, as far as links and credits allow. -/
def State.flushOut (s : State) : State :=
  let ms := s.herd.outWait
  ms.foldl (fun s m => s.sendMsg m (m.src != s.herd.device)) { s with herd.outWait := [] }

/-- A message of this device to another, with nothing in its optional fields (R389). -/
def State.mkMsg (s : State) (mop dst slot tag : Nat) : Msg :=
  { mop := mop, poison := false, resent := false, nak := false, dst := dst, src := s.herd.device,
    hops := ((s.route dst).map (fun r => r.2.2)).getD 0, epoch := s.herd.epoch, tag := tag, hdom := s.domF slot fDomHdom,
    plate := 0, line := 0, be := 0, arg := 0, data := [] }

/-- Send a request and keep its use by its tag. -/
def State.request (s : State) (m : Msg) (u : TxnUse) : State :=
  let t := s.herd.nextTag
  let m := { m with tag := t }
  { s with herd.nextTag := (t + 1) % 2 ^ 32, herd.txns := s.herd.txns.set t { m := m, use := u } }.sendMsg m false

/-- Answer a message: a CMP with a status (R390), or NAK. -/
def State.sendCmp (s : State) (m : Msg) (status : Nat) (nak : Bool) : State :=
  s.sendMsg { mop := 0x10, poison := false, resent := false, nak := nak, dst := m.src, src := s.herd.device,
              hops := ((s.route m.src).map (fun r => r.2.2)).getD 0, epoch := s.herd.epoch, tag := m.tag, hdom := m.hdom,
              plate := m.plate, line := m.line, be := 0, arg := BitVec.ofNat 128 status, data := [] } false

/-- Answer a read with data: one line, or a plate's 64 lines with the poisoned ones in ARG (R390, R471). -/
def State.sendData (s : State) (m : Msg) (d : List Byte) (bad : List Nat) (mv : Nat) : State :=
  s.sendMsg { mop := 0x11, poison := !bad.isEmpty, resent := false, nak := false, dst := m.src, src := s.herd.device,
              hops := ((s.route m.src).map (fun r => r.2.2)).getD 0, epoch := s.herd.epoch, tag := m.tag, hdom := m.hdom,
              plate := m.plate, line := m.line, be := 0,
              arg := BitVec.ofNat 128 (if d.length = 64 then mv else bitMask bad), data := d } false

end Sys2Proof.Machine
end

