-- ==== Sys2Proof/Machine/Home.lean ====
section
/-! DEFINITION. Home copies: reading a stored plate from its tier (R344, R366, R466), expanding it (R174 to R178, R194),
writing a new home (R123, R127, R344, R368, R472), the burin lanes' queues (R177), eviction (R124, R182) and bringing a
plate into T0 (R121, R469). -/

namespace Sys2Proof.Machine

/-! ## Damage -/

/-- Write 64 lines of a plate into a T0 slot, the listed ones poisoned. -/
def State.writeT0 (s : State) (t : Nat) (d : List Byte) (bad : List Nat) : State :=
  s.over (List.range 64) (fun s i => s.writeLine (t0Line t i) (sub d (64 * i) 64) (bad.contains i))

/-- Mark a plate damaged with the number of the first failed check (R168); a storage fault has number 0 (assumption 21). The
lines of a copy in T0 are poisoned with it, as R469 has them for a damaged plate. -/
def State.damage (s : State) (slot plate check : Nat) : State :=
  match s.ent slot plate with
  | none => s
  | some e => if e.damaged then s
    else
      let s := if e.res0 then s.writeT0 e.t0Slot (zeros 4096) (List.range 64) else s
      (s.setEnt slot plate { e with damaged := true }).logE 0x0601 (some slot) check plate

/-! ## Segments and tables -/

/-- The segment that a plate belongs to (R178). -/
def State.segOf (s : State) (slot plate : Nat) : Option (Nat × Seg) :=
  s.cod.segs.find? (fun p => p.2.slot == slot && decide (p.2.first ≤ plate) && decide (plate < p.2.first + p.2.count))

/-- The valid record of a live table that has joined the registry. -/
def State.table (s : State) (id : Nat) : Option CodeTable :=
  match s.cod.tables.get? id with
  | some t => if t.joined then parseTable t.record else none
  | none => none

/-- The element type and current table under which a plate is encoded (R179, R182). -/
def State.coder (s : State) (slot plate : Nat) : Nat × Option CodeTable :=
  match s.segOf slot plate with
  | none => (0, none)
  | some (_, g) => (g.elem, g.table.bind s.table)

/-- Count a coded plate's escapes against its segment, and warn once beyond ESC_WARN_PERMIL (R181). -/
def State.countEscapes (s : State) (slot plate : Nat) (enc : Encoded) : State :=
  match s.segOf slot plate with
  | none => s
  | some (id, g) =>
    if enc.table = noTable ∨ g.table ≠ some enc.table then s
    else
      let g' := { g with escapes := g.escapes + enc.escapes, coded := g.coded + enc.exponents }
      let warn := decide (g'.coded * s.domF slot fEscWarn < g'.escapes * 1000)
      let s := { s with cod.segs := s.cod.segs.set id { g' with warn := g.warn || warn } }
      if warn && !g.warn then s.logE 0x0605 (some slot) id g'.escapes else s

/-! ## Reading a stored plate -/

/-- The mirror's stack. -/
def partner (k : Nat) : Nat := (k + 6) % 12

/-- A mirror line is read in place of its primary: counted and logged (R344). -/
def State.mirrorRead (s : State) (slot k plate : Nat) : State :=
  ({ s with dram.yokeRead := cntAdd s.dram.yokeRead 1 }.logE 0x0608 (some slot) k plate).diverge 4

/-- After a primary is rewritten from its mirror it is read back; an uncorrectable readback has the plate moved to a new run
(R468). -/
def State.readBack (s : State) (slot plate k g : Nat) : State :=
  match s.readLine (dramLine k g) with
  | (s, .uncorr _ _) =>
    if s.dram.yokeMoves.contains (plateKey slot plate) then s
    else { s with dram.yokeMoves := s.dram.yokeMoves ++ [plateKey slot plate] }
  | (s, _) => s

/-- Read a line of T1; where the primary fails beyond correction or lies on a retired pseudo-channel, a yoked copy's mirror
serves and the primary is rewritten from it (R344, R352, R468). -/
def State.readT1 (s : State) (slot plate k g : Nat) : State × LineRead :=
  let mirrored := s.yoked slot && s.inYoke g
  let (s, r) := if s.pcOff k (granPc g) then (s, LineRead.uncorr (zeros 64) 0) else s.readLine (dramLine k g)
  match r with
  | .uncorr d x =>
    if mirrored ∧ ¬s.pcOff (partner k) (granPc g) then
      match s.readLine (dramLine (partner k) g) with
      | (s, .good d) =>
        let s := s.mirrorRead slot k plate
        (if s.pcOff k (granPc g) then s else (s.writeLine (dramLine k g) d false).readBack slot plate k g, .good d)
      | (s, r) => (s, r)
    else (s, .uncorr d x)
  | r => (s, r)

/-- What reading a plate's home gives: its stored bytes with the lines that are poisoned, or damage. -/
inductive Stored where
  | bytes (b : List Byte) (poison : List Nat)
  | damaged
deriving DecidableEq, Repr

/-- Read `n` granules of T1: the bytes, and the indices of the lines that are poisoned or uncorrectable. -/
def State.readRun (s : State) (slot plate k g : Nat) : Nat → State × List Byte × List Nat
  | 0 => (s, [], [])
  | n + 1 =>
    let (s, b, bad) := s.readRun slot plate k g n
    match s.readT1 slot plate k (g + n) with
    | (s, .good d) => (s, b ++ d, bad)
    | (s, .poison d) => (s, b ++ d, bad ++ [n])
    | (s, .uncorr d _) => (s, b ++ d, bad ++ [n])

/-- The identity that a codeword of a plate or map page must carry (R366). -/
def FSlot.matches (f : FSlot) (kind ident hdom version coding table clen : Nat) : Bool :=
  f.kind == kind && f.ident == ident && f.hdom == hdom && f.version == version && f.coding == coding
    && f.table == table && f.clen == clen

/-- Whether the slot's storage key opens a codeword (R367, R442). -/
def State.opens (s : State) (slot : Nat) (f : FSlot) : Bool :=
  !f.encrypted || (s.doms.get? slot).any (fun d => d.key.isSome)

/-- Whether a flash slot is read directly, or must be rebuilt from its stripe (R373, R378). -/
def State.directRead (s : State) (a : Nat) : Bool :=
  !s.onFailedDie a && !(s.fl.slots.get? a).any FSlot.bad

/-- Whether a fetch of a slot is a reconstruct read (R373): its die has failed or its codeword does, or the die is busy and its stripe peers
can be read. A busy die whose peers are busy too is waited for, as a continuation does (R376). -/
def State.fetchRecon (s : State) (a : Nat) : Bool := !s.directRead a || (!s.dieFree a && s.flashReadable a)

/-- Charge the read of a plate's home (R24, R375): nothing where its unit's write buffer serves it (R368). -/
def State.chargeHome (s : State) (slot : Nat) (e : MapEnt) : State :=
  if e.damaged then s
  else if e.tier = 1 then s.charge slot 4 (storeStack e.store) (granules e.clen)
  else if s.inWriteBuffer e.store then s
  else s.charge slot 7 (faEngine e.store) (if s.directRead e.store then 72 else 504)

/-! ## Burin lanes (R177, R195) -/

/-- A lane in service with an empty queue. -/
def Lane.reset : Lane := { faults := 0, off := false, pendingOff := false, queue := [] }

/-- A lane. -/
def State.lane (s : State) (n : Nat) : Lane := s.cod.lanes.getD n Lane.reset

/-- Change a lane. -/
def State.modLane (s : State) (n : Nat) (g : Lane → Lane) : State :=
  { s with cod.lanes := s.cod.lanes.set n (g (s.lane n)) }

/-- The lanes of an engine die in service and not under test (R528); with every lane out, the lowest takes the work
(assumption 22). -/
def State.lanesOn (s : State) (e : Nat) : List Nat :=
  let l := (rangeFrom (16 * e) 16).filter (fun n => !(s.lane n).off && !s.tst.laneTests.contains n)
  if l.isEmpty then [16 * e] else l

/-- The nominal cycles queued on a lane. -/
def Lane.load (l : Lane) : Nat := sumOf (l.queue.map Job.cycles)

/-- Put a job into a queue by class and then by order of admission (R177). -/
def insertJob (j : Job) : List Job → List Job
  | [] => [j]
  | k :: ks => if j.cls < k.cls ∨ (j.cls = k.cls ∧ j.order < k.order) then j :: k :: ks else k :: insertJob j ks

/-- The lane among a list with a free entry and the fewest nominal cycles, the lowest-numbered on a tie (R177). -/
def State.pickLane (s : State) (ls : List Nat) : Option Nat :=
  let free := ls.filter (fun n => decide ((s.lane n).queue.length < 8))
  match minOf? (free.map (fun n => (s.lane n).load)) with
  | none => none
  | some m => free.find? (fun n => (s.lane n).load == m)

/-- The lane of an engine die that takes a job: never one that has failed it, where another is in service (R177, R193, R194). -/
def State.laneFor (s : State) (e : Nat) (j : Job) : Option Nat :=
  let all := s.lanesOn e
  s.pickLane (match j.failedOn with
    | some n => if (all.filter (· != n)).isEmpty then all else all.filter (· != n)
    | none => all)

/-- Put a job on a lane's queue, behind the one that the lane works on. -/
def State.queueJob (s : State) (n : Nat) (j : Job) : State :=
  s.modLane n (fun l => { l with queue := match l.queue with
    | [] => [j]
    | h :: t => h :: insertJob j t })

/-- A die's first waiting job that a lane can take moves to it (R177). -/
def State.dispatchLanes (s : State) (e : Nat) : State :=
  let w := s.cod.waiting.getD e []
  match w.findSome? (fun j => (s.laneFor e j).map (fun n => (j, n))) with
  | some (j, n) => { s with cod.waiting := s.cod.waiting.set e (w.erase j) }.queueJob n j
  | none => s

/-- Give a job to an engine die: to a lane of it, or to the die's waiting list, behind which no new job passes (R177). -/
def State.giveJob (s : State) (e : Nat) (j : Job) : State :=
  let w := s.cod.waiting.getD e []
  match (if w.isEmpty then s.laneFor e j else none) with
  | some n => s.queueJob n j
  | none => { s with cod.waiting := s.cod.waiting.set e (insertJob j w) }

/-- A new job; `extra` are the cycles above the nominal ones, charged when the lane finishes it (R176). -/
def State.newJob (s : State) (e kind cls cycles key line extra : Nat) : State :=
  { s with cod.order := s.cod.order + 1 }.giveJob e
    { kind := kind, cls := cls, cycles := cycles, key := key, line := line, failedOn := none, check := 0,
      released := 0, order := s.cod.order, extra := extra }

/-- Count a failure that a second attempt on another lane has passed (R193 to R195). -/
def State.laneFault (s : State) (n : Nat) (counted : Bool) (slot plate : Nat) : State :=
  let s := { s with cod.laneRetry := cntAdd s.cod.laneRetry 1 }
  let s := s.logE 0x0603 (some slot) n plate
  if counted then s.modLane n (fun l => { l with faults := min 4 (l.faults + 1),
                                                 pendingOff := l.pendingOff || decide (4 ≤ l.faults + 1) })
  else s

/-- Lane work whose data the device has already: a decode (kind 3), an encode (kind 4) or a histogram (kind 5) that stands on a lane's
queue until the lane is done with it, and may fail there (R177, R193, R194; DESIGN CHOICE, assumption 41). Its nominal cycles are
charged at once, the others when the lane finishes it (R176). -/
def State.laneWork (s : State) (slot e kind cls nominal key extra : Nat) : State :=
  (s.charge slot 5 e nominal).newJob e kind cls nominal key 0 extra

/-- Whether a lane has still to pass the verify of an encode of a plate (R193). -/
def State.verifying (s : State) (key : Nat) : Bool :=
  s.cod.lanes.any (fun p => p.2.queue.any (fun j => j.kind == 4 && j.key == key))
    || s.cod.waiting.any (fun p => p.2.any (fun j => j.kind == 4 && j.key == key))

/-- Read a plate's home copy from its tier, without waiting (R366, R377, R466). -/
def State.readHome (s : State) (slot plate : Nat) (e : MapEnt) : State × Stored :=
  if e.damaged then (s, .damaged)
  else if e.tier = 1 then
    let n := granules e.clen
    let (s, b, bad) := s.readRun slot plate (storeStack e.store) (storeGran e.store) n
    if bad.isEmpty then (s, .bytes (b.take e.clen) [])
    else if e.coding = cRaw then (s, .bytes (b.take e.clen) bad)
    else (s, .damaged)
  else
    match s.fl.slots.get? e.store with
    | none => (s, .damaged)
    | some f =>
      let direct := s.directRead e.store
      let s := if direct then s else { s with fl.recon := cntAdd s.fl.recon 1 }
      if (direct || !s.reconFails e.store) && s.opens slot f
          && f.matches 1 plate (s.domF slot fDomHdom) e.version e.coding e.table e.clen
      then (s, .bytes f.payload []) else (s, .damaged)

/-- Expand stored bytes (R167, R178): the 4,096 bytes, and the lane cycles; or the first failed check. -/
def State.expand (s : State) (e : MapEnt) (b : List Byte) (line : Nat) : Decoded :=
  if e.coding = cRaw then .good (sub b 0 plateBytes) 0
  else decodePlate b e.coding e.table e.clen (s.table e.table) (line / 8)

/-- The engine die of a storage address of a tier (R9, R174). -/
def storeDie (tier store : Nat) : Nat := if tier = 1 then storeStack store / 3 else faEngine store

/-- The engine die that serves a plate's home (R174). -/
def homeDie (e : MapEnt) (plate : Nat) : Nat := if e.tier = 0 then plate % 12 / 3 else storeDie e.tier e.store

/-- A plate's stored content expanded at once, for an internal copy of a plate that is not resident (R183, R298): the
bytes with the poisoned lines, or none where the plate is found damaged. -/
def State.expandHome (s : State) (slot plate : Nat) (e : MapEnt) (cls : Nat := 4) : State × Option (List Byte × List Nat) :=
  let die := homeDie e plate
  let key := plateKey slot plate
  match (s.chargeHome slot e).readHome slot plate e with
  | (s, .damaged) => (s.damage slot plate 0, none)
  | (s, .bytes b bad) =>
    match s.expand e b 0 with
    | .good d c =>
      (if e.coding = cRaw then s
        else { s with cod.decoded := cntAdd s.cod.decoded 1 }.laneWork slot die 3 cls decodeNominal key (c - decodeNominal),
        some (d, bad))
    | .bad c _ _ =>
      -- read from its tier again and decoded once more (R176, R194)
      match (((s.charge slot 5 die decodeNominal).charge slot 5 die decodeNominal).chargeHome slot e).readHome slot plate e with
      | (s, .damaged) => (s.damage slot plate c, none)
      | (s, .bytes b bad) => match s.expand e b 0 with
        | .good d _ => ({ s with cod.decoded := cntAdd s.cod.decoded 1 }, some (d, bad))
        | .bad _ _ _ => (s.damage slot plate c, none)

/-! ## T0 copies -/

/-- Read one line of a resident plate (R466): an uncorrectable line of a dirty plate is rewritten with Z; one of a clean
plate is read again from its home into T0. -/
def State.readT0 (s : State) (slot plate : Nat) (e : MapEnt) (i : Nat) : State × List Byte × Bool :=
  match s.readLine (t0Line e.t0Slot i) with
  | (s, .good d) => (s, d, false)
  | (s, .poison d) => (s, d, true)
  | (s, .uncorr d _) =>
    if e.dirty then (s.writeLine (t0Line e.t0Slot i) d true, d, true)
    else match s.expandHome slot plate e with
      | (s, some (p, bad)) =>
        (s.writeT0 e.t0Slot p bad, sub p (64 * i) 64, bad.contains i)
      | (s, none) => (s.writeLine (t0Line e.t0Slot i) d true, d, true)

/-- The 64 lines of a resident plate: the bytes and the poisoned lines. -/
def State.readT0Plate (s : State) (slot plate : Nat) (e : MapEnt) : State × List Byte × List Nat :=
  (List.range 64).foldl (fun (a : State × List Byte × List Nat) i =>
    let (s, d, bad) := a.1.readT0 slot plate e i
    (s, a.2.1 ++ d, if bad then a.2.2 ++ [i] else a.2.2)) (s, [], [])

/-- A plate as it is stored (R298): from T0 where it is resident, else from its home. A never-written plate reads as zero, a damaged one
wholly poisoned (R121, R122). -/
def State.storedPlate (s : State) (slot plate cls : Nat) : State × List Byte × List Nat :=
  match s.ent slot plate with
  | none => (s, zeros 4096, [])
  | some e =>
    if e.damaged then (s, zeros 4096, List.range 64)
    else if e.res0 then s.readT0Plate slot plate e
    else match s.expandHome slot plate e cls with
      | (s, some (d, bad)) => (s, d, bad)
      | (s, none) => (s, zeros 4096, List.range 64)

/-- The poisoned lines of a resident plate (R472). -/
def State.poisonLines (s : State) (e : MapEnt) : List Nat :=
  (List.range 64).filter (fun i => s.synOf (t0Line e.t0Slot i) == zSyn)

/-! ## Writing a home copy -/

/-- Store bytes in granules of T1, the listed lines poisoned, the tail of the last granule zero (R166). -/
def State.writeRun (s : State) (k g : Nat) (b : List Byte) (bad : List Nat) : State :=
  s.over (List.range (granules b.length)) (fun s i =>
    s.writeLine (dramLine k (g + i)) (sub b (64 * i) 64) (bad.contains i))

/-- Write a coded or raw plate to a tier (R123, R344, R368, R472): its new storage address. A yoked copy is written with its
mirror. -/
def State.storeTo (s : State) (slot plate tier : Nat) (enc : Encoded) (bad : List Nat) (version : Nat) :
    Option (State × Nat) :=
  if tier = 1 then
    match s.allocT1 slot plate enc.clen with
    | none => none
    | some a =>
      let n := granules enc.clen
      let k := storeStack a
      let s := (s.charge slot 4 k n).writeRun k (storeGran a) enc.bytes bad
      let s := if s.yoked slot then (s.charge slot 4 (partner k) n).writeRun (partner k) (storeGran a) enc.bytes bad
        else s
      some (s, a)
  else
    let cw := fun (_ w : Nat) =>
      ({ payload := enc.bytes, ident := plate, hdom := s.domF slot fDomHdom, kind := 1, version := version,
         coding := enc.coding, elem := (s.coder slot plate).1, table := enc.table, clen := enc.clen,
         encrypted := (s.doms.get? slot).any (fun d => d.key.isSome), wseq := w, bad := false } : FSlot)
    (s.flashPut (tier - 2) cw).map (fun r => (r.1.charge slot 7 (faEngine r.2) 83, r.2))

/-- Send each parity member of a plate's row the change of the plate's home copy (R416). -/
def State.sendDelta (s : State) (slot plate : Nat) (old new : List Byte) : State :=
  match s.hdom slot with
  | none => s
  | some r =>
    if r.kind ≠ 2 ∨ 2 ^ 35 ≤ plate ∨ old = new then s
    else s.over (List.range r.m) (fun s j =>
      match hAt r (hParPos r (hRow r plate) j) with
      | none => s
      | some d =>
        s.request { s.mkMsg 0x07 d slot 0 with
          plate := plate, arg := BitVec.ofNat 128 (hIndex r plate), data := xorBytes old new } .quiet)

/-- Free a home's storage at a stride (R127). -/
def State.freeAt (s : State) (due : Nat) (tier store clen : Nat) : State :=
  if tier = 0 ∨ clen = 0 then s else { s with ti.freeing := s.ti.freeing ++ [(due, tier, store, clen)] }

/-- A free run of T1 for a map page: the stacks are tried from a number on (DESIGN CHOICE, assumption 9). -/
def State.pageRun (s : State) (first : Nat) : Option Nat :=
  ((List.range 12).map (fun i => (first + i) % 12)).findSome? (fun k =>
    if s.stackOff k then none else (s.stackRun k 64).map (t1Addr k))

/-- Put a map page into a run of T1; false where no stack has one. -/
def State.pageToT1 (s : State) (key : Nat) (pg : MapPage) : State × Bool :=
  match s.pageRun key with
  | none => (s, false)
  | some a =>
    let s := if pg.t0Slot.isSome then s else s.charge (key / 2 ^ 28) 7 (faEngine pg.store) 72
    let s := (s.charge (key / 2 ^ 28) 4 (storeStack a) 64).writeRun (storeStack a) (storeGran a) (s.pageBytes key) []
    let s := s.freeAt (s.str.count + 1) pg.tier pg.store 4096
    ({ s with ti.pages := s.ti.pages.set key { pg with tier := 1, store := a } }, true)

/-- Before a plate of a map page takes a home tier up to T2 its page, where it lies in T2, moves to T1 in the same slice (R116).
False where no stack has room for it. -/
def State.pageUp (s : State) (slot plate tier : Nat) : State × Bool :=
  match s.page slot plate with
  | some pg => if pg.tier = 1 ∨ 2 < tier then (s, true) else s.pageToT1 (pageOf slot plate) pg
  | none => (s, true)

/-- Write a plate's new home and record the switch of its entry at the next boundary (R127). A poisoned plate sent to flash
is damaged there and logged (R472). None where the tier has no room. -/
def State.newHome (s : State) (slot plate tier : Nat) (enc : Encoded) (bad : List Nat) (leave plan : Bool) :
    Option State :=
  match s.ent slot plate with
  | none => none
  | some e =>
    let (s, up) := s.pageUp slot plate tier
    if (e.dirty && s.rowHeld slot plate) || !up then none
    else match s.storeTo slot plate tier enc bad ((e.version + 1) % 65536) with
    | none => none
    | some (s, a) =>
      let s := if e.dirty && (s.hdom slot).any (fun r => r.kind == 2) then
          let new := match decodePlate enc.bytes enc.coding enc.table enc.clen (s.table enc.table) 0 with
            | .good d _ => d
            | .bad _ _ _ => sub enc.bytes 0 plateBytes
          let (s, old) := if e.tier = 0 then (s, zeros 4096) else match s.expandHome slot plate e with
            | (s, some (d, _)) => (s, d)
            | (s, none) => (s, zeros 4096)
          s.sendDelta slot plate old (if enc.coding = cRaw then sub enc.bytes 0 plateBytes else new)
        else s
      let lost := decide (2 ≤ tier) && !bad.isEmpty
      let s := if lost then s.logE 0x0708 (some slot) 0 plate else s
      let s := s.modEnt slot plate (fun e => { e with moving := true })
      some { s with ti.switches := s.ti.switches ++
        [{ key := plateKey slot plate, tier := tier, store := a, clen := enc.clen, table := enc.table,
           coding := enc.coding, damaged := lost, leaveT0 := leave, clean := true, plan := plan, again := false }] }

/-- Release a T0 slot. -/
def State.dropT0 (s : State) (t : Nat) : State := { s with ti.t0 := s.ti.t0.del t }

/-- Release the T0 slot of a plate whose entry is about to be replaced. -/
def State.dropCopy (s : State) (slot plate : Nat) : State :=
  match s.ent slot plate with
  | some e => if e.res0 then s.dropT0 e.t0Slot else s
  | none => s

/-- Switch a map entry to its new home (R127); the old home is freed at the boundary after. -/
def State.applySwitch (s : State) (x : Switch) : State :=
  let slot := x.key / 2 ^ 36
  let plate := x.key % 2 ^ 36
  match s.ent slot plate with
  | none => s.freeAt (s.str.count + 1) x.tier x.store x.clen
  | some e =>
    if x.plan ∧ ¬x.clean then
      (s.setEnt slot plate { e with moving := false }).freeAt (s.str.count + 1) x.tier x.store x.clen
    else
      let leaves := x.leaveT0 && x.clean && e.res0
      let s := s.freeAt (s.str.count + 1) (if e.remote then 0 else e.tier) e.store e.clen
      let s := if leaves then s.dropT0 e.t0Slot
        else if x.damaged && !e.damaged && e.res0 then s.writeT0 e.t0Slot (zeros 4096) (List.range 64) else s
      s.setEnt slot plate { e with
        tier := x.tier, store := x.store, clen := x.clen, table := x.table, coding := x.coding,
        version := if x.again then e.version else (e.version + 1) % 65536, moving := false, remote := false, damaged := e.damaged || x.damaged,
        dirty := e.dirty && !x.clean, res0 := e.res0 && !leaves, t0Slot := if leaves then 0 else e.t0Slot,
        reads := if leaves then 0 else e.reads }

/-! ## Eviction (R124, R125, R182) -/

/-- Encode a resident plate as it leaves for its home (R179, R182, R472): a plate with a poisoned line has no candidate. -/
def State.encodeOf (s : State) (slot plate : Nat) (d : List Byte) (bad : List Nat) : Encoded :=
  let (elem, tab) := s.coder slot plate
  if bad.isEmpty then choose elem tab d else rawPlate d

/-- An encode of a class occupies a lane of a die, or stores the plate RAW without one; its escapes are counted (R175, R180, R181,
R198). -/
def State.countEncode (s : State) (slot plate die : Nat) (enc : Encoded) (cls : Nat) : State :=
  let s := if enc.laneUsed then
      s.laneWork slot die 4 cls encodeNominal (plateKey slot plate) (encodeCycles enc.escapes - encodeNominal)
    else s
  let s := if enc.coding = cRaw then { s with cod.rawFallback := cntAdd s.cod.rawFallback 1 } else s
  s.countEscapes slot plate enc

/-- Write an encoded plate to a new home, with its encode on a lane of the engine die that the home belongs to (R174): the lane still
has to pass its verify before the entry switches (R193). None where the tier has no room, or where the domain's class-5 grant on that
die is used up (R176). -/
def State.encodeHome (s : State) (slot plate tier : Nat) (enc : Encoded) (bad : List Nat) (leave plan : Bool) (cls : Nat) :
    Option State :=
  match s.newHome slot plate tier enc bad leave plan with
  | none => none
  | some t =>
    let die := match t.ti.switches.getLast? with
      | some x => storeDie x.tier x.store
      | none => 0
    if enc.laneUsed && s.left slot 5 die == 0 then none else some (t.countEncode slot plate die enc cls)

/-- The tier to which an evicted plate goes (R125); a poisoned plate stays in T1 while the share has room (R472). -/
def State.evictTier (s : State) (slot : Nat) (e : MapEnt) (enc : Encoded) (bad : List Nat) : Nat :=
  if !bad.isEmpty && s.room slot 1 4096 then 1 else s.destination slot e enc.clen

/-- Encode a resident plate and write it home, to leave T0 at the boundary that ends the slice; `plan` says that a staged change
plan moves it. None where that cannot be done now. -/
def State.writeOut (s : State) (slot plate : Nat) (e : MapEnt) (plan : Bool) (cls : Nat) : Option State :=
  let (s, d, bad) := s.readT0Plate slot plate e
  let enc := s.encodeOf slot plate d bad
  s.encodeHome slot plate (s.evictTier slot e enc bad) enc bad true plan cls

/-- Let a clean content leave a T0 slot. -/
def State.leaveT0 (s : State) (t : Nat) (u : T0Use) : State :=
  let s := s.dropT0 t
  if u.isPage then { s with ti.pages := s.ti.pages.modify (pageKey u.slot u.num) (fun p => { p with t0Slot := none }) }
  else s.modEnt u.slot u.num (fun e => { e with res0 := false, t0Slot := 0, reads := 0 })

/-- The stored length that an encode of a resident plate would give now. -/
def State.codedLen (s : State) (slot plate : Nat) (e : MapEnt) : Nat :=
  let (s, d, bad) := s.readT0Plate slot plate e
  (s.encodeOf slot plate d bad).clen

/-- Whether R125 promotes a plate as it leaves T0: where T1 has room for its coded size. -/
def State.promotes (s : State) (slot plate : Nat) (e : MapEnt) : Bool :=
  decide (2 ≤ e.tier) && !e.remote && !e.damaged && s.destination slot e 0 == 1
    && s.destination slot e (s.codedLen slot plate e) == 1

/-- Whether the content of a T0 slot leaves without a write (R124). -/
def State.leavesClean (s : State) (u : T0Use) : Bool :=
  u.isPage || (match s.ent u.slot u.num with
    | none => true
    | some e => !e.dirty && !s.promotes u.slot u.num e)

/-- Evict the content of a T0 slot: a clean content leaves at once; a dirty plate, or one that R125 promotes, is encoded and written
home, and leaves T0 at the boundary that ends its slice (R124, R127, R182). -/
def State.evict (s : State) (t : Nat) : State :=
  match s.ti.t0.get? t with
  | none => s
  | some u =>
    if s.leavesClean u then s.leaveT0 t u
    else match s.ent u.slot u.num with
      | none => s.leaveT0 t u
      | some e => if e.moving then s else (s.writeOut u.slot u.num e false 3).getD s

/-- Whether a domain may take `n` more T0 slots without an eviction (R435). -/
def State.hasT0 (s : State) (slot n : Nat) : Bool :=
  decide (s.occupied slot + n ≤ s.partition slot) && s.freeT0.isSome

/-- Evict what a domain's partition gives up for `n` more T0 slots (R124, R435). -/
def State.makeRoom (s : State) (slot : Nat) : Nat → State
  | 0 => s
  | n + 1 =>
    let s := s.makeRoom slot n
    if s.hasT0 slot (n + 1) then s
    else match s.victim slot with
      | (s, some t) => s.evict t
      | (s, none) => s

/-- A T0 slot for a domain (R124, R435): where its partition is full it evicts, and where what it evicts leaves at a boundary, there is
no slot yet. -/
def State.takeT0 (s : State) (slot : Nat) (u : T0Use) : State × Option Nat :=
  let s := s.makeRoom slot 1
  if s.hasT0 slot 1 then match s.freeT0 with
    | some t => ({ s with ti.t0 := s.ti.t0.set t u }, some t)
    | none => (s, none)
  else (s, none)

/-- A T0 use of a plate. -/
def useOf (slot : Nat) (isPage : Bool) (num : Nat) : T0Use :=
  { slot := slot, isPage := isPage, num := num, ref := true, held := [] }

/-- The plates of an uncorrectable line of a map page's home get DAMAGED; their storage stays allocated until CHIP_RST_N
(R466). -/
def State.damagePageLine (s : State) (pk i : Nat) : State :=
  let slot := pk / 2 ^ 28
  s.over (rangeFrom (pk % 2 ^ 28 * 256 + 4 * i) 4) (fun s plate =>
    match s.ent slot plate with
    | none => s
    | some e =>
      let s := (s.freeAt (2 ^ 64) (if e.remote then 0 else e.tier) e.store e.clen).damage slot plate 0
      s.modEnt slot plate (fun e => if e.remote ∨ e.tier = 0 then e else
        { e with store := 0, clen := 4096, table := noTable, coding := cRaw }))

/-- Read a map page from its home (R366, R373, R466): an uncorrectable line damages its four plates, a codeword that cannot be
read or rebuilt all of them. -/
def State.readPage (s : State) (pk : Nat) (pg : MapPage) : State :=
  if pg.tier = 1 then
    s.over (List.range 64) (fun s i =>
      match s.readT1 (pk / 2 ^ 28) (pk % 2 ^ 28 * 256) (storeStack pg.store) (storeGran pg.store + i) with
      | (s, .uncorr _ _) => s.damagePageLine pk i
      | (s, _) => s)
  else if s.directRead pg.store then s
  else
    let s := { s with fl.recon := cntAdd s.fl.recon 1 }
    if s.reconFails pg.store then s.over (List.range 64) (fun s i => s.damagePageLine pk i) else s

/-- What a fetch of a map page takes (R117, R368, R373, R375): the line accesses of T1, or the read of its flash slot in an issue slot. -/
def State.chargePage (s : State) (slot : Nat) (pg : MapPage) : State :=
  if pg.tier = 1 then s.charge slot 4 (storeStack pg.store) 64
  else if s.inWriteBuffer pg.store then s
  else
    let recon := s.fetchRecon pg.store
    let s := s.charge slot 7 (faEngine pg.store) (if recon then 504 else 72)
    let s := s.over (if recon then peerChannels pg.store else [faCh pg.store]) State.takeIssue
    let s := s.suspends pg.store (if recon then 7 else 1)
    if recon && s.directRead pg.store then { s with fl.recon := cntAdd s.fl.recon 1 } else s

/-- Bring a map page into T0, counting the lookup (R117, R146); a page fetched from T1 or T2 is charged. A new page is made
in T1 (R116). False where no T0 slot can be had, or no stack has room for a new page. -/
def State.bringPage (s : State) (slot plate : Nat) : State × Bool :=
  let pk := pageOf slot plate
  match s.ti.pages.get? pk with
  | some pg =>
    let s := { s with ti.pages := s.ti.pages.set pk { pg with touched := true } }
    match pg.t0Slot with
    | some t => ({ s with ti.hits := cntAdd s.ti.hits 1 }.refT0 t, true)
    | none =>
      match s.takeT0 slot (useOf slot true (plate / 256)) with
      | (s, some t) =>
        let s := { s with ti.misses := cntAdd s.ti.misses 1 }
        let s := (s.chargePage slot pg).readPage pk pg
        let s := { s with ti.pages := s.ti.pages.modify pk (fun p => { p with t0Slot := some t }) }
        (s.writeT0 t (s.pageBytes pk) [], true)
      | (s, none) => (s, false)
  | none =>
    match s.pageRun (plate / 256) with
    | none => (s, false)
    | some a =>
      match s.takeT0 slot (useOf slot true (plate / 256)) with
      | (s, some t) =>
        ({ s with ti.pages := s.ti.pages.set pk { tier := 1, store := a, touched := true, t0Slot := some t } }.touchMap pk,
          true)
      | (s, none) => (s, false)

/-- Tell the lock keeper of an ERASURE row that a clean plate becomes dirty, where no mark has been sent for it (R416). -/
def State.markDirty (s : State) (slot plate : Nat) : State :=
  match s.hdom slot with
  | none => s
  | some r =>
    if r.kind ≠ 2 ∨ 2 ^ 35 ≤ plate ∨ (s.ent slot plate).any MapEnt.dirty then s
    else if s.herd.marked.contains (plateKey slot plate) then
      { s with herd.marked := s.herd.marked.filter (· != plateKey slot plate) }
    else match hKeeper r (hRow r plate) with
      | some d => s.request { s.mkMsg 0x06 d slot 0 with plate := plate } .quiet
      | none => s

/-- A write has reached a plate: it is dirty, and a switch of it in this stride is no longer of its newest content (R123,
R127). -/
def State.noteWrite (s : State) (slot plate : Nat) : State :=
  let s := (s.markDirty slot plate).moveAgain slot plate
  let s := s.modEnt slot plate (fun e => { e with dirty := true })
  { s with ti.switches := s.ti.switches.map (fun x =>
      if x.key = plateKey slot plate then { x with clean := false } else x) }

/-! ## Writes that wait for a T0 slot -/

/-- Whether a plate has writes that wait for its T0 slot. -/
def State.owes (s : State) (slot plate : Nat) : Bool := s.sh.owed.any (fun o => o.key == plateKey slot plate)

/-- The writes that wait for a plate reach it in its T0 slot. -/
def State.payOwed (s : State) (slot plate t : Nat) : State :=
  if !s.owes slot plate then s
  else
    let key := plateKey slot plate
    let mine := s.sh.owed.filter (fun o => o.key == key)
    let s := { s with sh.owed := s.sh.owed.filter (fun o => o.key != key) }
    (s.over mine (fun s o => s.writeBe (t0Line t o.line) o.data o.be o.poison)).noteWrite slot plate

/-- A plate's content with the writes that wait for it. -/
def State.withOwed (s : State) (slot plate : Nat) (d : List Byte) (bad : List Nat) : List Byte × List Nat :=
  (s.sh.owed.filter (fun o => o.key == plateKey slot plate)).foldl (fun (a : List Byte × List Nat) o =>
    (splice a.1 (64 * o.line) (maskBytes (sub a.1 (64 * o.line) 64) o.data o.be),
     if o.poison then (if a.2.contains o.line then a.2 else a.2 ++ [o.line])
     else if o.be % 2 ^ 64 = allBe then a.2.filter (· != o.line) else a.2)) (d, bad)

/-- Place a plate's expanded content in a T0 slot and set RES0. -/
def State.fillT0 (s : State) (slot plate t : Nat) (d : List Byte) (bad : List Nat) (dirty : Bool) : State :=
  ((s.writeT0 t d bad).modEnt slot plate (fun e => { e with res0 := true, t0Slot := t, dirty := e.dirty || dirty, reads := 0 })).payOwed
    slot plate t

/-- Have the map page of a plate in T0 for an access that has looked it up already: its touched bit is set, and it is fetched again
where it has left (R116, R117). -/
def State.havePage (s : State) (slot plate : Nat) : State × Bool :=
  match s.page slot plate with
  | some pg =>
    if pg.t0Slot.isSome then
      ({ s with ti.pages := s.ti.pages.set (pageOf slot plate) { pg with touched := true } }, true)
    else s.bringPage slot plate
  | none => s.bringPage slot plate

/-- Bring a plate whose map page has been looked up into T0 at once (R121, R123, R469): a never-written plate is made with zeros; a
damaged one is brought in with every line poisoned. False where no T0 slot can be had. -/
def State.bringPlate (s : State) (slot plate : Nat) (cls : Nat := 4) : State × Bool :=
  match s.havePage slot plate with
  | (s, false) => (s, false)
  | (s, true) =>
    match s.ent slot plate with
    | some e =>
      if e.res0 then (s.refT0 e.t0Slot, true)
      else match s.takeT0 slot (useOf slot false plate) with
        | (s, none) => (s, false)
        | (s, some t) =>
          let (s, d, bad) := s.storedPlate slot plate cls
          (s.fillT0 slot plate t d bad (!bad.isEmpty), true)
    | none =>
      match s.takeT0 slot (useOf slot false plate) with
      | (s, none) => (s, false)
      | (s, some t) => match s.pageUp slot plate 0 with
        | (s, true) =>
          ((((s.markDirty slot plate).setEnt slot plate (MapEnt.fresh t)).writeT0 t (zeros 4096) []).payOwed slot plate t, true)
        | (s, false) => (s.dropT0 t, false)

/-- Look up a plate and bring it into T0 at once, as an access of the device's own does; `cls` is the class of its lane work. -/
def State.bringIn (s : State) (slot plate : Nat) (cls : Nat := 4) : State × Bool :=
  match s.bringPage slot plate with
  | (s, false) => (s, false)
  | (s, true) => s.bringPlate slot plate cls

/-- The device's copy of a plate for an internal copy (R298), with the writes that wait for its T0 slot. -/
def State.plateCopy (s : State) (slot plate : Nat) (cls : Nat := 4) : State × List Byte × List Nat :=
  let (s, d, bad) := s.storedPlate slot plate cls
  (s, s.withOwed slot plate d bad)

/-- Write enabled bytes of one line of a resident plate. -/
def State.mergeLine (s : State) (slot plate i : Nat) (d : List Byte) (be : Nat) (poison : Bool) : State :=
  match s.ent slot plate with
  | none => s
  | some e => (s.writeBe (t0Line e.t0Slot i) d be poison).noteWrite slot plate

/-- Write enabled bytes of a line of a plate as an access of the device's own (R123): at once where the plate can be had in T0, else as
soon as it can. -/
def State.oweWrite (s : State) (slot line : Nat) (d : List Byte) (be : Nat) (poison : Bool) : State :=
  match s.bringIn slot (line / 64) with
  | (s, true) => s.mergeLine slot (line / 64) (line % 64) d be poison
  | (s, false) => { s with sh.owed := s.sh.owed ++
      [{ key := plateKey slot (line / 64), line := line % 64, data := d, be := be, poison := poison }] }

/-- Try again to bring in the plates for which writes wait. -/
def State.retryOwed (s : State) : State :=
  s.over (s.sh.owed.map Owed.key).eraseDups (fun s k => (s.bringIn (k / 2 ^ 36) (k % 2 ^ 36)).1)

/-- Remove a plate: never-written from here on; its storage is freed and it leaves T0 (R129). -/
def State.forget (s : State) (slot plate : Nat) : State :=
  let s := { s with sh.owed := s.sh.owed.filter (fun o => o.key != plateKey slot plate) }
  match s.ent slot plate with
  | none => s
  | some e =>
    let s := if e.res0 then s.dropT0 e.t0Slot else s
    let s := s.freeAt (s.str.count + 1) (if e.remote then 0 else e.tier) e.store e.clen
    { s with ti.map := s.ti.map.del (plateKey slot plate) }.touchMap (pageOf slot plate)

/-- The stored length that a plate has after a move of its home: what an encode gives for one that is dirty or has no home copy. -/
def State.movedLen (s : State) (slot plate : Nat) (e : MapEnt) : Nat :=
  if e.res0 && (e.dirty || e.tier == 0) then s.codedLen slot plate e else e.clen

/-- Move a plate's home copy to a tier in its stored coding (R128, R370): the switch follows at the boundary. A damaged plate
is not copied (R470). None where the tier has no room. -/
def State.moveHome (s : State) (slot plate tier : Nat) (plan : Bool) : Option State :=
  match s.ent slot plate with
  | none => none
  | some e =>
    let gone : Switch :=
      { key := plateKey slot plate, tier := tier, store := 0, clen := 4096, table := noTable, coding := cRaw,
        damaged := true, leaveT0 := false, clean := true, plan := plan, again := false }
    let keepDamaged := fun (s : State) =>
      some { s.modEnt slot plate (fun e => { e with moving := true }) with ti.switches := s.ti.switches ++ [gone] }
    if e.damaged then keepDamaged s
    else if e.tier = 0 ∨ e.dirty then
      let (s, d, bad) := s.plateCopy slot plate
      let enc := s.encodeOf slot plate d bad
      s.encodeHome slot plate tier enc bad false plan 4
    else match (s.chargeHome slot e).readHome slot plate e with
      | (s, .damaged) => keepDamaged (s.damage slot plate 0)
      | (s, .bytes b bad) =>
        s.newHome slot plate tier { coding := e.coding, table := e.table, clen := e.clen, bytes := b, escapes := 0,
                                    exponents := 0, laneUsed := false } bad false plan

end Sys2Proof.Machine
end

