-- ==== Sys2Proof/Machine/HerdBase.lean ====
section
/-! DEFINITION. The requests that a herd member sends for plates at home on other members, for work of its own. -/

namespace Sys2Proof.Machine

/-! ## Plates of other members for work of the device's own -/

/-- Whether a request of a plate for the device's own work is outstanding. -/
def State.fetching (s : State) (key : Nat) : Bool := s.herd.txns.any (fun t => t.2.use == .plate key)

/-- Have the listed plates of a slot at hand: those at home on another member are asked for with RD_PLATE and kept until
used (R390, R419). True once none is missing. -/
def State.needPlates (s : State) (slot : Nat) (plates : List Nat) : State × Bool :=
  plates.foldl (fun (a : State × Bool) p =>
    let s := a.1
    match s.plateHome slot p with
    | .at d =>
      let key := plateKey slot p
      if s.herd.buf.has key then a
      else if s.fetching key then (s, false)
      else (s.request { s.mkMsg 0x02 d slot 0 with plate := p } (.plate key), false)
    | _ => a) (s, true)

/-- A copy of a plate for work of the device's own, wherever its home is (R183, R298): from the buffer where it came over
Apyan; a plate at a lost position reads poisoned (R421). -/
def State.copyOf (s : State) (slot plate : Nat) (cls : Nat := 4) : State × List Byte × List Nat :=
  match s.plateHome slot plate with
  | .here => if s.lostHere slot plate then (s, zeros 4096, List.range 64) else s.plateCopy slot plate cls
  | .lost => (s, zeros 4096, List.range 64)
  | .at _ =>
    let key := plateKey slot plate
    match s.herd.buf.get? key with
    | some (d, bad) => ({ s with herd.buf := s.herd.buf.del key }, d, bad)
    | none => (s, zeros 4096, List.range 64)

/-- The map entry that a write to a plate of another member leaves (R118, R119). -/
def MapEnt.remoteAt (d : Nat) : MapEnt :=
  { t0Slot := 0, store := d, version := 0, clen := 0, table := 0, coding := 0, remote := true, moving := false,
    damaged := false, dirty := false, res0 := false, tier := 0, reads := 0 }

/-- Whether T0 holds a copy of a plate of another member, which a pull delivery holds there (R216; DESIGN CHOICE, assumption 112). -/
def State.heldHere (s : State) (slot plate : Nat) : Bool := (s.ent slot plate).any (fun e => e.remote && e.res0)

/-- A write that goes to a plate's home on another member lands also in the copy of the plate that T0 holds. -/
def State.writeHeld (s : State) (slot line : Nat) (d : List Byte) (be : Nat) (poison : Bool) : State :=
  match s.ent slot (line / 64) with
  | some e => if e.remote && e.res0 then s.writeBe (t0Line e.t0Slot (line % 64)) d be poison else s
  | none => s

/-- Send a line write to a plate's home (R390): MetaValue and sharer in ARG (DESIGN CHOICE, assumption 26). -/
def State.remoteWrite (s : State) (dev slot line : Nat) (d : List Byte) (be : U64) (poison : Bool) (arg : Nat)
    (u : TxnUse) : State :=
  let s := if (s.ent slot (line / 64)).any (fun e => !e.remote || e.store == dev) then s
    else (s.dropCopy slot (line / 64)).setEnt slot (line / 64) (MapEnt.remoteAt dev)
  (s.writeHeld slot line d be.toNat poison).request { s.mkMsg 0x03 dev slot 0 with
    plate := line / 64, line := line % 64, be := be, poison := poison, data := d, arg := BitVec.ofNat 128 arg } u

/-! ## Writes of the device's own to its own plates (R416, R417) -/

/-- A write that makes a clean plate of an ERASURE domain dirty waits for the lock keeper's CMP (R416): the keeper to ask,
where it has not been asked. -/
def State.needsMark (s : State) (slot plate : Nat) : Option Nat :=
  match s.hdom slot with
  | none => none
  | some r =>
    if r.kind ≠ 2 || decide (2 ^ 35 ≤ plate) || (s.ent slot plate).any MapEnt.dirty
        || s.herd.marked.contains (plateKey slot plate) then none
    else hKeeper r (hRow r plate)

/-- Send the mark of a plate that a write of the device's own makes dirty; the write is complete once it is answered (R416). -/
def State.ownMark (s : State) (slot plate : Nat) (u : TxnUse) : State :=
  match s.needsMark slot plate with
  | some k => { s with herd.marked := s.herd.marked ++ [plateKey slot plate] }.request { s.mkMsg 0x06 k slot 0 with plate := plate } u
  | none => s

/-- Send the MIRROR of a write of the device's own at the primary of a YOKE domain; the write is complete once it is answered (R417). ARG
bit 32 says that no host waits for it, so that no record of it is kept (DESIGN CHOICE, assumption 26). -/
def State.ownMirror (s : State) (slot line : Nat) (d : List Byte) (be : Nat) (poison : Bool) (u : TxnUse) : State :=
  match s.hdom slot with
  | none => s
  | some r =>
    if r.kind ≠ 3 ∨ hAt r 0 ≠ some s.herd.device ∨ 2 ^ 35 ≤ line / 64 then s
    else match hAt r 1 with
      | none => s
      | some k => s.request { s.mkMsg 0x05 k slot 0 with
          plate := line / 64, line := line % 64, be := BitVec.ofNat 64 be, poison := poison, data := d,
          arg := BitVec.ofNat 128 (2 ^ 23 + 2 ^ 32) } u

/-- Write enabled bytes of a line as work of the device's own, wherever the plate's home is (R123, R270, R390); a line at a lost position
is dropped, as every write is under Device Fatal (R322). `u` is the use of the messages whose answers complete the write. -/
def State.ownWrite (s : State) (slot line : Nat) (d : List Byte) (be : Nat) (poison : Bool) (u : TxnUse) : State :=
  if s.ras.fatal then s
  else match s.plateHome slot (line / 64) with
  | .here => ((s.ownMark slot (line / 64) u).oweWrite slot line d be poison).ownMirror slot line d be poison u
  | .at dev => s.remoteWrite dev slot line d (BitVec.ofNat 64 be) poison 0 u
  | .lost => s

end Sys2Proof.Machine
end

