-- ==== Sys2Proof/Machine/Sharing.lean ====
section
/-! DEFINITION. Translation of host addresses (R103 to R105, R500), the directory and its snoops (R297 to R308), lost lines
(R313), device-side accesses (R298), and the copies made for impressions (R315 to R319). -/

namespace Sys2Proof.Machine

/-! ## Translation -/

/-- The log2 of an HDM interleave: ways and granularity as counts and bytes (R500). -/
def hdmDpa (d : HdmDecoder) (hpa : Nat) : Nat :=
  let off := hpa - d.base
  off / (d.gran * d.ways) * d.gran + off % d.gran

/-- The DPA of a host physical address: the DPAs of the committed decoders follow one another in decoder order (R103, R500;
PRESUMED from CXL 3.1, assumption 24). -/
def State.dpaOf (s : State) (ld hpa : Nat) : Option Nat :=
  let go := (s.func ld).decoders.foldl (fun (a : Nat × Option Nat) p =>
    let d := p.2
    if !d.committed then a
    else
      let span := if d.ways = 0 then 0 else d.size / d.ways
      let hit := decide (d.base ≤ hpa) && decide (hpa < d.base + d.size) && decide (0 < d.gran) && decide (0 < d.ways)
        && (hpa - d.base) / d.gran % d.ways == d.position
      (a.1 + span, if a.2.isSome then a.2 else if hit then some (a.1 + hdmDpa d hpa) else none)) (0, none)
  go.2

/-- Whether an extent serves accesses: ACTIVE, or RELEASING until its release (R104, R108). -/
def Extent.serves (e : Extent) : Bool := e.st == 2 || e.st == 3

/-- Whether an ACTIVE extent's tether has run out by a stride: at cycle 0 of that stride it is EXPIRED (R113). -/
def Extent.lapsed (e : Extent) (n : Nat) : Bool := e.st == 2 && decide (e.expiry ≤ n)

/-- The extent of an access, with its index (R104). -/
def State.extentAt (s : State) (ld dpa : Nat) : Option (Nat × Extent) :=
  s.ti.extents.find? (fun p => p.2.ld == ld && p.2.serves && !p.2.lapsed s.str.count && decide (p.2.dpa ≤ dpa) && decide (dpa < p.2.dpa + p.2.len))

/-- Log an unmapped access, once per logical device and stride (R105). -/
def State.logUnmapped (s : State) (ld dpa : Nat) : State :=
  (s.modFunc ld (fun f => { f with unmapped := cntAdd f.unmapped 1 })).logRated (2000 + ld) 0x0101 none ld dpa

/-- DevLoad of a domain on a head, from the requests the head holds for it (R439). -/
def State.devLoad (s : State) (head slot : Nat) : Nat :=
  let n := (s.sh.held.filter (fun p => headOf p.2.func == head && p.2.slot == slot)).length
  let cap := s.dev fIngressCap
  if n * 4 < cap then 0 else if n * 2 < cap then 1 else if n < cap then 2 else 3

/-! ## Events and completions -/

/-- Put a record into a function's event log (R313, R322, R504): kind and address. -/
def State.addEvent (s : State) (func kind addr : Nat) : State :=
  if 128 ≤ func then s else s.modFunc func (fun f => { f with events := f.events.set 2 (f.events.getD 2 [] ++ [(kind, addr)]) })

/-- Count a line sent poisoned (R489). -/
def State.countPoison (s : State) (poison : Bool) : State :=
  if poison then { s with ras.poisonRd := cntAdd s.ras.poisonRd 1 } else s

/-- The number of a MetaValue: 0 I, 1 S, 2 A. -/
def metaNum : Meta → Nat
  | .I => 0
  | .S => 1
  | .A => 2

/-- The access as the message that brought it from another member. -/
def Access.msg (a : Access) (dev hdom : Nat) : Msg :=
  { mop := 0x01, poison := false, resent := false, nak := false, dst := 0, src := dev, hops := 0, epoch := 0, tag := a.tag,
    hdom := hdom, plate := a.line / 64, line := a.line % 64, be := 0, arg := 0, data := [] }

/-- Complete an access of another member: data or a completion over Apyan (R390). -/
def State.completeRemote (s : State) (a : Access) (dev : Nat) (d : List Byte) (poison : Bool) : State :=
  let m := a.msg dev (s.domF a.slot fDomHdom)
  match a.kind with
  | .read v => (s.countPoison poison).sendData m d (if poison then [0] else []) (metaNum v)
  | .ioRead => (s.countPoison poison).sendData m d (if poison then [0] else []) 0
  | _ => s.sendCmp m 0 false

/-- Complete an access toward its requester; a head without a link discards it (R502). -/
def State.complete (s : State) (a : Access) (d : List Byte) (poison : Bool) : State :=
  match a.origin with
  | some dev => s.completeRemote a dev d poison
  | none =>
  if !(s.head (headOf a.func)).up then s
  else
    let ql := s.devLoad (headOf a.func) a.slot
    let mv := fun (m : Meta) => if a.sharer.isSome then m else Meta.I
    match a.kind with
    | .read m => (s.countPoison poison).emit (.memData a.ld a.tag (mv m) d poison ql)
    | .inv => s.emit (.memCmp a.ld a.tag (mv .A) true ql)
    | .write m _ => s.emit (.memCmp a.ld a.tag (mv m) false ql)
    | .ioRead => (s.countPoison poison).emit (.ioData a.func d poison)
    | .ioWrite => s

/-- Whether an access writes. -/
def Access.writes (a : Access) : Bool :=
  match a.kind with
  | .write _ _ => true
  | .ioWrite => true
  | _ => false

/-- An access that answers as unmapped: a read is poisoned, a write is dropped and completes (R105). -/
def State.answerUnmapped (s : State) (a : Access) : State := s.complete a (zeros 64) true

/-! ## The directory (R298 to R302) -/

/-- The key of a directory entry. -/
def dirKey (slot line : Nat) : Nat := 2 ^ 42 * slot + line

/-- The entry of a line. -/
def State.dirEnt (s : State) (slot line : Nat) : Option DirEnt := s.sh.dir.get? (dirKey slot line)

/-- Set or remove an entry: one without sharers is removed. -/
def State.setDir (s : State) (slot line : Nat) (e : Option DirEnt) : State :=
  let k := dirKey slot line
  match e with
  | some e => if e.sharers.isEmpty then { s with sh.dir := s.sh.dir.del k } else { s with sh.dir := s.sh.dir.set k e }
  | none => { s with sh.dir := s.sh.dir.del k }

/-- Set or remove an entry where the access has one. -/
def State.setDirIf (s : State) (p : Bool) (slot line : Nat) (e : Option DirEnt) : State :=
  if p then s.setDir slot line e else s

/-- The entries of a domain. -/
def State.dirOf (s : State) (slot : Nat) : List (Nat × DirEnt) :=
  (s.sh.dir.filter (fun p => p.1 / 2 ^ 42 == slot)).map (fun p => (p.1 % 2 ^ 42, p.2))

/-- The sharing group that maps a line under HDM-DB: its extents (R297). -/
def State.groupAt (s : State) (slot line : Nat) : List Extent :=
  (s.ti.extents.filter (fun p => p.2.slot == slot && p.2.hdmDb && p.2.kind == 0 && p.2.st != 0 && decide (p.2.doff ≤ line * 64)
    && decide (line * 64 < p.2.doff + p.2.len))).map Prod.snd

/-- The logical device of a sharer index at a line: a number from 128 on names a logical device of another member, as
128 × (1 + device) + logical device (R390). -/
def State.sharerLd (s : State) (slot line sharer : Nat) : Option Nat :=
  match (s.groupAt slot line).find? (fun e => e.sharer == sharer) with
  | some e => some e.ld
  | none => (s.herd.remotes.find? (fun r => r.1 == slot && r.2.2.2 == sharer)).map (fun r => 128 * (1 + r.2.1) + r.2.2.1)

/-- The sharer index of another member's logical device, the lowest free one at its first use (R297, R390); none where all
sixteen are taken. -/
def State.remoteSharer (s : State) (slot dev ld : Nat) : State × Option Nat :=
  match s.herd.remotes.find? (fun r => r.1 == slot && r.2.1 == dev && r.2.2.1 == ld) with
  | some r => (s, some r.2.2.2)
  | none =>
    let used := (s.herd.remotes.filter (fun r => r.1 == slot)).map (fun r => r.2.2.2)
      ++ (s.ti.extents.filter (fun p => p.2.slot == slot && p.2.hdmDb && p.2.st != 0)).map (fun p => p.2.sharer)
    match (List.range 16).find? (fun i => !used.contains i) with
    | some i => ({ s with herd.remotes := s.herd.remotes ++ [(slot, dev, ld, i)] }, some i)
    | none => (s, none)

/-- The snoops an access needs before it acts: whether they invalidate, and to whom (R301). -/
def snoopsFor (e : Option DirEnt) (req : Option Nat) (k : AccKind) : Option (Bool × List Nat) :=
  match e with
  | none => none
  | some e =>
    let others := e.sharers.filter (fun x => some x != req)
    let pick := fun (inv : Bool) (l : List Nat) => if l.isEmpty then none else some (inv, l)
    match k with
    | .read .A => pick true others
    | .inv => pick true others
    | .read _ => if e.isA then pick false others else none
    | .ioRead => if e.isA then pick false others else none
    | .write _ _ => if e.isA && req.isSome && others.isEmpty then none else pick true others
    | .ioWrite => pick true others

/-- The entry after an access acts (R301); `holds` says that the requester held the line in A. -/
def dirAfter (e : Option DirEnt) (req : Option Nat) (k : AccKind) : Option DirEnt :=
  match req with
  | none => match k with
    | .write _ _ => none
    | .ioWrite => none
    | _ => e
  | some r =>
    let held := e.any (fun e => e.isA && e.sharers == [r])
    match k with
    | .read .I => e
    | .read .S => match e with
      | none => some { isA := false, sharers := [r] }
      | some e => if held then some e
        else some { isA := false, sharers := if e.sharers.contains r then e.sharers else e.sharers ++ [r] }
    | .read .A => some { isA := true, sharers := [r] }
    | .inv => some { isA := true, sharers := [r] }
    | .write .I _ => none
    | .write .S _ => if held then some { isA := false, sharers := [r] } else none
    | .write .A _ => if held then e else none
    | .ioRead => e
    | .ioWrite => none

/-- The lowest number that no outstanding snoop has. -/
def State.snoopId (s : State) : Nat := firstGap (s.sh.snoops.map Prod.fst) 0

/-- Send a snoop to a sharer, a logical device (R302, R303): charged in the domain's bridle, never waiting for grant. -/
def State.sendSnoopTo (s : State) (slot line sharer ld : Nat) (inv : Bool) (owner sealing : Option Nat) : State :=
    if s.sh.snoops.any (fun p => p.2.slot == slot && p.2.line == line && p.2.sharer == sharer && !p.2.late) then s
    else
      let id := s.snoopId
      let s := if ld < 128 then s.charge slot 1 (headOf ld) 1 else s
      let sn : Snoop := { slot := slot, line := line, sharer := sharer, ld := ld, inv := inv, sent := s.str.count,
                          late := false, owner := owner, sealing := sealing, home := none }
      let s := { s with sh.bisnp := cntAdd s.sh.bisnp 1, sh.snoops := s.sh.snoops.set id sn }
      if 128 ≤ ld then
        s.sendMsg { s.mkMsg 0x18 (ld / 128 - 1) slot id with
          plate := line / 64, line := line % 64, arg := BitVec.ofNat 128 (bitAt inv 0 + ld % 128 * 2) } false
      else if (s.head (headOf ld)).up then s.emit (.biSnp ld id line inv) else s

/-- Send a snoop to a sharer of a line, where its index names a logical device. -/
def State.sendSnoop (s : State) (slot line sharer : Nat) (inv : Bool) (owner sealing : Option Nat) : State :=
  match s.sharerLd slot line sharer with
  | none => s
  | some ld => s.sendSnoopTo slot line sharer ld inv owner sealing

/-- Whether a snoop of a line is outstanding. -/
def State.snooping (s : State) (slot line : Nat) : Bool :=
  s.sh.snoops.any (fun p => p.2.slot == slot && p.2.line == line && !p.2.late)

/-- The entries a domain's share allows (R299). -/
def State.dirShare (s : State) (slot : Nat) : Nat := 65536 * s.planned slot fDirShare 0

/-- The clock's victim among a domain's entries: the next without a snoop outstanding from the hand on (R299). -/
def State.dirVictim (s : State) (slot : Nat) : Option (Nat × DirEnt) :=
  let l := (s.dirOf slot).filter (fun p => !s.snooping slot p.1)
  let h := s.sh.dirHand.getD slot 0
  match l.find? (fun p => decide (h ≤ p.1)) with
  | some p => some p
  | none => l.head?

/-- Recall an entry from every holder (R299, R312). -/
def State.recallEntry (s : State) (slot line : Nat) (e : DirEnt) (owner : Option Nat) : State :=
  s.over e.sharers (fun s x => s.sendSnoop slot line x true owner none)

/-! ## Lost lines (R313) -/

/-- The key under which the lost lines of one sharer in one extent share a log entry. -/
def State.lostKey (s : State) (slot line sharer : Nat) : Nat :=
  let ext := s.ti.extents.find? (fun p => p.2.slot == slot && p.2.hdmDb && p.2.kind == 0 && p.2.st != 0 && p.2.sharer == sharer
    && decide (p.2.doff ≤ line * 64) && decide (line * 64 < p.2.doff + p.2.len))
  (slot * 16 + sharer) * 2 ^ 20 + (ext.map (fun p => p.1 + 1)).getD 0

/-- Declare a line lost whose A holder was removed without an answer: one log entry and one event record of an extent for the recall. -/
def State.loseLine (s : State) (slot line sharer ld : Nat) : State :=
  let s := if s.domF slot fLostPolicy = 0 then s.oweWrite slot line (zeros 64) allBe true else s
  let s := { s with sh.lost := cntAdd s.sh.lost 1 }
  let key := s.lostKey slot line sharer
  match s.sh.lostLog.get? key with
  | some q =>
    { s with ras.log := s.ras.log.map (fun e => if e.lseq = q then { e with count := min 65535 (e.count + 1) } else e) }
  | none =>
    let s := { s.logE 0x0202 (some slot) sharer (line * 64) with sh.lostLog := s.sh.lostLog.set key s.ras.nextLseq }
    s.over ((s.groupAt slot line).filter (fun e => e.ld != ld)) (fun s e =>
      s.addEvent e.ld 1 (e.dpa + (line * 64 - e.doff)))

/-- Remove a sharer from an entry without an answer; a line it held in A is lost (R304, R312). -/
def State.dropHolder (s : State) (slot line sharer ld : Nat) : State × Bool :=
  match s.dirEnt slot line with
  | none => (s, false)
  | some e =>
    if e.sharers.contains sharer then
      let s := s.setDir slot line (some { e with sharers := e.sharers.filter (· != sharer), isA := false })
      if e.isA then (s.loseLine slot line sharer ld, true) else (s, false)
    else (s, false)

/-! ## Impressions (R315 to R320) -/

/-- The plates of the copy map (R315). -/
def mapPlates (n : Nat) : Nat := roundUp (4 * n) 4096

/-- Write a copy-map entry: the record, and its four bytes in the copy area. -/
def State.setCopy (s : State) (id : Nat) (m : Impr) (i : Nat) (c : CopyEnt) : State :=
  let v := match c with
    | .copy k => k
    | .torn => 0xFFFFFFFE
    | .zero => 0xFFFFFFFF
  let s := { s with sh.imprs := s.sh.imprs.set id { m with map := m.map.set i c } }
  let plate := m.area + 4 * i / 4096
  s.oweWrite m.slot (plate * 64 + 4 * i % 4096 / 64) (zeros (4 * i % 64) ++ le 4 v ++ zeros (60 - 4 * i % 64)) (15 * 2 ^ (4 * i % 64))
    false

/-- Copy a source plate for one impression whose entry is SHARED (R318, R319). -/
def State.copyFor (s : State) (id : Nat) (m : Impr) (plate : Nat) : State :=
  let i := plate - m.first
  if m.map.has i then s
  else match s.ent m.slot plate with
    | none => s.setCopy id m i .zero
    | some _ =>
      let k := m.copies + 1
      if m.areaCount < mapPlates m.count + k then
        let s := s.logE 0x0203 (some m.slot) id plate
        s.setCopy id { m with torn := m.torn + 1 } i .torn
      else
        let dst := m.area + mapPlates m.count + k - 1
        let (s, d, bad) := s.plateCopy m.slot plate
        let s := (s.forget m.slot dst).over (List.range 64) (fun s j =>
          s.oweWrite m.slot (dst * 64 + j) (sub d (64 * j) 64) allBe (bad.contains j))
        s.setCopy id { m with copies := k } i (.copy k)

/-- Copy a plate for every open captured impression that shares it, before it is written, granted in A or discarded
(R318). -/
def State.preserve (s : State) (slot plate : Nat) : State :=
  let l := s.sh.imprs.filter (fun p => p.2.slot == slot && (p.2.st == 1 || p.2.st == 2) && decide (p.2.first ≤ plate)
    && decide (plate < p.2.first + p.2.count) && !p.2.map.has (plate - p.2.first))
  s.over l (fun s p => match s.sh.imprs.get? p.1 with
    | some m => s.copyFor p.1 m plate
    | none => s)

/-- Whether a request with MetaValue A to a line is held because its range is sealing (R317). -/
def State.sealed (s : State) (slot line : Nat) : Bool :=
  s.sh.imprs.any (fun p => p.2.slot == slot && p.2.st == 0 && decide (p.2.first ≤ line / 64)
    && decide (line / 64 < p.2.first + p.2.count))

/-! ## Device-side accesses (R298, R301) -/

/-- Take a line from its holders for a device-side read or write: the snoops it needs are sent and it is not ready, or the
directory entry is as after the access. -/
def State.clearLine (s : State) (slot line : Nat) (write : Bool) : State × Bool :=
  if s.snooping slot line then (s, false)
  else
    let e := s.dirEnt slot line
    let k := if write then AccKind.ioWrite else AccKind.ioRead
    match snoopsFor e none k with
    | some (inv, l) => (s.over l (fun s x => s.sendSnoop slot line x inv none none), false)
    | none => (if e.isSome && write then s.setDir slot line none else s, true)

/-- Take several lines from their holders; ready only when each of them is. -/
def State.clearLines (s : State) (slot : Nat) (lines : List Nat) (write : Bool) : State × Bool :=
  lines.foldl (fun a l =>
    let (s, ok) := a.1.clearLine slot l write
    (s, a.2 && ok)) (s, true)

end Sys2Proof.Machine
end

