-- ==== Sys2Proof/Machine/ConfigOps.lean ====
section
/-! DEFINITION. Generations (R87 to R91), configuration blocks and their checks (R77, R78), the clamping of values with every
dependency of the catalogue (R82, R83), clamp reports (R84) and the commands that read the configuration (R588, R79). -/

namespace Sys2Proof.Machine

/-! ## Generations -/

/-- The number after a generation's (R89). -/
def nextGen (g : Nat) : Nat := if g = 2 ^ 32 - 1 then 1 else g + 1

/-- The number of the newest generation: the armed one, else the one in force (R90). -/
def State.newestGen (s : State) : Nat :=
  match s.cfg.build with
  | some b => b.num
  | none => s.cfg.gen

/-- Whether the build window of the armed generation is closed: from the demand snapshot of cycle 768 of its last stride on, and until
the boundary that the generation takes, also where a firmware activation takes an earlier one (R32, R87). -/
def State.portClosed (s : State) : Bool :=
  match s.cfg.build with
  | some b => decide (b.window < s.str.count) || (b.window == s.str.count && s.str.snap)
  | none => false

/-- Let changes join the generation being built, arming it where none is armed; after its window closed they join the next
one (R87). The second is the generation they join, the third the stride in which it takes effect. -/
def State.join (s : State) (cs : List Change) : State × Nat × Nat :=
  let n := s.str.count
  match s.cfg.build with
  | some b =>
    if s.portClosed then ({ s with cfg.deferred := s.cfg.deferred ++ cs }, nextGen b.num, n + 2)
    else ({ s with cfg.build := some { b with changes := b.changes ++ cs } }, b.num, b.due)
  | none =>
    let w := if s.str.snap then n + 1 else n
    ({ s with cfg.build := some { num := nextGen s.cfg.gen, window := w, due := w + 1, changes := cs } },
     nextGen s.cfg.gen, w + 1)

/-! ## Clamping (R82) -/

/-- The value of a field while a block is taken: as an earlier entry of the block left it, else in the newest
configuration (R82). -/
def State.pend (s : State) (ov : FMap Nat) (slot id elem : Nat) : Nat :=
  (ov.get? (fkey slot id elem)).getD (s.newest slot id elem)

/-- The running plans with the fields they set. -/
def State.plans (s : State) : List (Nat × Op × Plan) :=
  s.ops.tab.filterMap (fun p => match p.2.body with
    | .plan pl => if isFinal p.2.st then none else some (p.1, p.2, pl)
    | _ => none)

/-- The most that a field's element of a slot is, or comes to be by a running plan (R25, R132). -/
def State.pendMost (s : State) (ov : FMap Nat) (slot id elem : Nat) : Nat :=
  s.plans.foldl (fun v x => x.2.2.sets.foldl (fun v c => if c.1 = fkey slot id elem then max v c.2 else v) v)
    (s.pend ov slot id elem)

/-- The sum of a field's element over the slots that are not FREE, other than one. -/
def State.pendSum (s : State) (ov : FMap Nat) (slot id elem : Nat) : Nat :=
  sumOf ((s.upSlots.filter (· != slot)).map (fun x => s.pendMost ov x id elem))

/-- The sum of a tier's shares over the slots that are not FREE, in MiB. -/
def State.pendShares (s : State) (ov : FMap Nat) (e : Nat) : Nat :=
  sumOf (s.upSlots.map (fun x => s.pendMost ov x fTierShare e))

/-- The capacities in GiB that pending values give (R132, R346, R372). -/
def State.capsPend (s : State) (mask : Nat → Nat) (yoke spare : Nat) : Nat × Nat × Nat :=
  capacities (s.retainedMib mask) yoke (s.flashRaw 0 spare) (s.flashRaw 1 spare)

/-- The flash capacities in GiB with another T2_PERMIL in place (R380). -/
def State.capsPermil (s : State) (ov : FMap Nat) (permil : Nat) : Nat × Nat × Nat :=
  let s' := { s with cfg.fields := s.cfg.fields.set (fkey 0 fT2Permil 0) permil }
  let sp := s.pend ov 0 fSparePermil 0
  capacities (s.retainedMib (fun e => s.pend ov 0 fRetainMask e)) (s.pend ov 0 fYokeMib 0) (s'.flashRaw 0 sp)
    (s'.flashRaw 1 sp)

/-- The end of the highest domain offset that a slot's extents map, those granted whose offer is not yet in force counted too
(R131). -/
def State.highestMapped (s : State) (slot : Nat) : Nat :=
  (s.ti.extents.filter (fun p => p.2.slot == slot && p.2.kind != 1)).foldl
    (fun a p => max a (p.2.doff + (if p.2.kind = 2 then (match s.opr.binds.get? p.2.target with
      | some b => b.tlen
      | none => 0) else p.2.len))) 0

/-- The slots with YOKE_T1 set that are not FREE, other than one. -/
def State.yokedSlots (s : State) (ov : FMap Nat) (slot : Nat) : List Nat :=
  (s.upSlots.filter (· != slot)).filter (fun x => s.pend ov x fYokeT1 0 == 1)

/-- The sum of the T1 shares of the other yoked domains, in MiB. -/
def State.yokedSum (s : State) (ov : FMap Nat) (slot : Nat) : Nat :=
  sumOf ((s.yokedSlots ov slot).map (fun x => s.pend ov x fTierShare 0))

/-- The greatest value of a field as it stands (R79). -/
def State.fieldMax (s : State) (f : FieldSpec) (elem : Nat) : Nat :=
  if f.id = fTierShare then s.capOf (elem + 1) * 1024 else f.max

/-- A dependency: a range, a test of single values, or nothing. -/
inductive Dep where
  | range (lo hi : Nat)
  | only (ok : Nat → Bool)
  | into (f : Nat → Nat)
  | best (ok : Nat → Bool)
  | free

/-- The members that a slot holds of each limited kind. -/
def State.heldOf (s : State) (slot id : Nat) : Nat :=
  if id = fStreamLimit then (s.streams.filter (fun p => p.2.slot == slot)).length
  else if id = fOperLimit then (s.opr.binds.filter (fun p => p.2.slot == slot)).length
  else if id = fDigestLimit then (s.opr.digests.filter (fun p => p.2.slot == slot)).length
  else if id = fDmaLimit then (s.dma.chans.filter (fun p => p.2.slot == slot)).length
  else (s.sh.imprs.filter (fun p => p.2.slot == slot)).length

/-- The yoke region of a stack reaches these retention segments (R347): a mask of bits that stay set. -/
def yokeSegs (yoke : Nat) : Nat :=
  if yoke = 0 then 0 else bitMask ((List.range 8).filter (fun g => decide (stackGranules < 70778880 * (g + 1) + 16384 * yoke)))

/-- The dependency of a field's element (R80, R144, R233, R267, R294, R324, R355, R356, R380, R459, R520). -/
def State.depOf (s : State) (ov : FMap Nat) (mg : Bool) (slot id elem : Nat) : Dep :=
  let cur := s.pend ov slot
  let cap := capacity (elem / 256)
  if id = fBridleReserve then
    .range 0 (min (cur fBridleCeiling elem) (cap - s.pendSum ov slot id elem))
  else if id = fBridleCeiling then .range (cur fBridleReserve elem) cap
  else if id = fTierShare then
    let spare := s.pend ov 0 fSparePermil 0
    let (c1, c2, c3) := s.capsPend (fun e => s.pend ov 0 fRetainMask e) (s.pend ov 0 fYokeMib 0) spare
    let c := (if elem = 0 then c1 else if elem = 1 then c2 else c3) * 1024
    let hi := c - s.pendSum ov slot id elem
    let hi := if elem = 0 ∧ cur fYokeT1 0 = 1 then min hi (6 * s.pend ov 0 fYokeMib 0 - s.yokedSum ov slot) else hi
    let hi := if elem + 1 < cur fPlaceHighest 0 ∨ cur fPlaceLowest 0 < elem + 1 then 0 else hi
    let need := 2 * roundUp (s.highestMapped slot + s.pinned slot) (2 * mib)
    .range (need - sumOf (((List.range 3).filter (· != elem)).map (fun e => cur fTierShare e))) hi
  else if id = fPlaceHighest then
    match (List.range 3).find? (fun e => cur fTierShare e != 0) with
    | some e => .range 1 (e + 1)
    | none => .free
  else if id = fPlaceLowest then
    .range (((List.range 3).filter (fun e => cur fTierShare e != 0)).foldl (fun a e => max a (e + 1)) (cur fPlaceHighest 0)) 3
  else if [fStreamLimit, fOperLimit, fDigestLimit, fDmaLimit, fImprLimit].contains id then
    .range (s.heldOf slot id) (2 ^ 64)
  else if id = fDirShare then
    let holds := s.ti.extents.any (fun p => p.2.slot == slot && p.2.hdmDb && p.2.st != 0)
    .range (if holds then 1 else 0) (2048 - s.pendSum ov slot id 0)
  else if id = fRetainMask then
    let segs := yokeSegs (s.pend ov 0 fYokeMib 0)
    .only (fun v => v.testBit 0 && (v &&& segs) == segs
      && decide (s.pendShares ov 0 ≤ (s.capsPend (fun e => if e = elem then v else s.pend ov 0 fRetainMask e)
        (s.pend ov 0 fYokeMib 0) (s.pend ov 0 fSparePermil 0)).1 * 1024))
  else if id = fYokeMib then
    let sum := s.pendShares ov 0
    let ok := fun (y : Nat) => decide (sum ≤ (s.capsPend (fun e => s.pend ov 0 fRetainMask e) y
      (s.pend ov 0 fSparePermil 0)).1 * 1024)
    match ((List.range 8193).map (2 * ·)).reverse.find? ok with
    | some hi => .range ((s.yokedSum ov 4096 + 5) / 6) hi
    | none => .only (fun _ => false)
  else if id = fYokeT1 then
    .range 0 (if s.yokedSum ov slot + cur fTierShare 0 ≤ 6 * s.pend ov 0 fYokeMib 0 then 1 else 0)
  else if id = fT2Permil then
    let ok := fun (v : Nat) => decide (s.pendShares ov 1 ≤ (s.capsPermil ov v).2.1 * 1024)
      && decide (s.pendShares ov 2 ≤ (s.capsPermil ov v).2.2 * 1024)
    match (List.range 1001).find? ok, (List.range 1001).reverse.find? ok with
    | some lo, some hi => .range lo hi
    | _, _ => .only (fun _ => false)
  else if id = fSparePermil then
    .best (fun v =>
      let c := s.capsPend (fun e => s.pend ov 0 fRetainMask e) (s.pend ov 0 fYokeMib 0) v
      decide (32 ≤ v) && decide (s.pendShares ov 1 ≤ c.2.1 * 1024) && decide (s.pendShares ov 2 ≤ c.2.2 * 1024))
  else if id = fDomHdom then
    .only (fun v => s.domFree slot && !(s.upSlots.filter (· != slot)).any (fun x => s.pend ov x fDomHdom 0 == v))
  else if id = fDomPriv then
    .range (if s.ti.extents.any (fun p => p.2.slot == slot && p.2.kind == 1 && p.2.st != 0) then 1 else 0) 1
  else if id = fDomFuncs then
    .into (fun v => v ||| bitMask ((s.q.qps.filter (fun p => p.2.slot == some slot && p.1 / 64 / 64 == elem)).map
      (fun p => p.1 / 64 % 64)))
  else if id = fT0Part then
    .range (if s.domFree slot then 0 else 16) (residentMib (s.pend ov 0 fStagingPool 0) - s.pendSum ov slot id 0)
  else if id = fOwnerFunc then
    if mg then .into (fun v => if 128 ≤ v then 255 else v) else .only (fun _ => false)
  else if id = fDressageTable then .only (fun v => v == 0 || (s.tst.tables.has v && !s.tst.dropping.contains v))
  else .free

/-- Step 5 of R82: the value within the dependency, or the current value where the dependency excludes single values or no
value satisfies it. -/
def Dep.apply (d : Dep) (v cur : Nat) : Nat :=
  match d with
  | .free => v
  | .range lo hi => if hi < lo then cur else max lo (min v hi)
  | .only ok => if ok v then v else cur
  | .into f => f v
  | .best ok => ((List.range (v + 1)).reverse.find? ok).getD cur

/-- The field of a key. -/
def keyField (k : Nat) : Nat := k / 65536 % 2 ^ 32

/-- The slot of a key. -/
def keySlot (k : Nat) : Nat := k / 2 ^ 48

/-- The element of a key. -/
def keyElem (k : Nat) : Nat := k % 65536

/-- Whether a running plan holds a field's element: its own fields and those its chapter lists as dependent (R95, R145, R356,
R381). -/
def State.underPlan (s : State) (slot id elem : Nat) : Bool :=
  s.plans.any (fun x =>
    let own := x.2.2.sets.any (fun c => keyField c.1 == id && keySlot c.1 == slot)
    let sets := fun (l : List Nat) => x.2.2.sets.any (fun c => l.contains (keyField c.1))
    let share := x.2.2.sets.any (fun c => keyField c.1 == fTierShare && keySlot c.1 == slot)
    own || (share && (id == fPlaceHighest || id == fPlaceLowest))
      || (sets [fRetainMask, fYokeMib, fYokeT1]
          && ([fRetainMask, fYokeMib, fYokeT1].contains id || (id == fTierShare && elem == 0)))
      || (sets [fT2Permil] && (id == fT2Permil || id == fSparePermil || (id == fTierShare && elem != 0))))

/-- One entry of a block: field ID, element and value. -/
structure Entry where
  id : Nat
  elem : Nat
  val : Nat
deriving DecidableEq, Repr

/-- One clamp: the entry's index, its applied value and its reason bits (R84). -/
structure Clamp where
  idx : Nat
  entry : Entry
  applied : Nat
  reason : Nat
deriving DecidableEq, Repr

/-- The applied value and the reason of one entry (R82). -/
def State.clampEntry (s : State) (ov : FMap Nat) (mg : Bool) (slot : Nat) (f : FieldSpec) (e : Entry) : Nat × Nat :=
  let cur := s.pend ov slot f.id e.elem
  if f.lock && s.cfg.locked.contains (fkey slot f.id e.elem) then (cur, 32)
  else if s.underPlan slot f.id e.elem then (cur, 16)
  else
    let mx := s.fieldMax f e.elem
    let v1 := max f.min (min e.val mx)
    let r1 := (if e.val < f.min then 1 else 0) + (if mx < e.val then 2 else 0)
    let v2 := f.min + (v1 - f.min) / f.step * f.step
    let r2 := if v2 = v1 then 0 else 4
    let v3 := (s.depOf ov mg slot f.id e.elem).apply v2 cur
    let r3 := if v3 = v2 then 0 else 8
    (v3, r1 + r2 + r3)

/-- The applied values of a block and its clamps, in block order. -/
def State.clampBlock (s : State) (mg : Bool) (slot : Nat) (es : List (Nat × FieldSpec × Entry)) :
    FMap Nat × List (Nat × Nat) × List Clamp :=
  es.foldl (fun (a : FMap Nat × List (Nat × Nat) × List Clamp) x =>
    let (i, f, e) := x
    let (v, r) := s.clampEntry a.1 mg slot f e
    let k := fkey slot f.id e.elem
    (a.1.set k v, a.2.1 ++ [(k, v)], if r = 0 then a.2.2 else a.2.2 ++ [{ idx := i, entry := e, applied := v, reason := r }]))
    ([], [], [])

/-! ## Blocks (R77, R78) -/

/-- The entries of a block. -/
def blockEntries (b : List Byte) (n : Nat) : List Entry :=
  (List.range n).map (fun i => { id := fieldAt b (32 + 16 * i) 4, elem := fieldAt b (36 + 16 * i) 4,
                                 val := fieldAt b (40 + 16 * i) 8 })

/-- The CRC of a block with its CRC field taken as zero. -/
def blockCrc (b : List Byte) : Nat := (crc32c (splice b 12 (zeros 4))).toNat

/-- What the checks of R78 find: the status with DETAIL, or the scope, the slot and the entries with their catalogue rows. -/
inductive Checked where
  | bad (status detail : Nat)
  | ok (dom : Bool) (slot : Nat) (es : List (Nat × FieldSpec × Entry))

/-- Check a block's entries in order (R78). -/
def State.checkEntries (s : State) (owner plan dom : Bool) (seen : List (Nat × Nat)) :
    Nat → List Entry → Except (Nat × Nat) (List (Nat × FieldSpec × Entry))
  | _, [] => .ok []
  | i, e :: es =>
    match fieldSpec e.id with
    | none => .error (stBadParam, i)
    | some f =>
      if f.dom ≠ dom ∨ ¬elemOk f e.elem then .error (stBadParam, i)
      else if seen.contains (e.id, e.elem) then .error (stBadParam, i)
      else if f.staged ≠ plan then .error (stBadParam, i)
      else if f.ownerOnly && !owner then .error (stNotPermitted, i)
      else match s.checkEntries owner plan dom (seen ++ [(e.id, e.elem)]) (i + 1) es with
        | .ok l => .ok ((i, f, e) :: l)
        | .error x => .error x

/-- Check a block (R78): the header, its TARGET, then each entry. -/
def State.checkBlock (s : State) (o : Origin) (plan : Bool) (p : Pkt) : Checked :=
  let b := p.data
  let n := fieldAt b 6 2
  let scope := fieldAt b 3 1
  let target := fieldAt b 4 2
  let mg := match o with
    | .mgmt _ _ => true
    | .qp _ _ => false
  if fieldAt b 0 2 ≠ 0xCB10 ∨ fieldAt b 2 1 ≠ 1 ∨ 1 < scope ∨ 4096 ≤ target ∨ (scope = 0 ∧ target ≠ 0) ∨ ¬zeroAt b 16 16 then
    .bad stBadParam 0xFFFF
  else if n = 0 ∨ 4094 < n ∨ p.p1.toNat ≠ 32 + 16 * n then .bad stBadParam 0xFFFF
  else if fieldAt b 12 4 != blockCrc (sub b 0 (32 + 16 * n)) || (!mg && (p.p0.toNat % 64 != 0 || p.p2.toNat % 64 != 0)) then
    .bad stBadParam 0xFFFF
  else if (scope == 1 && s.unbound o) || (match s.bound o with
      | some x => x != target
      | none => false) then .bad stNotPermitted 0xFFFF
  else match s.checkEntries (s.ownerOrigin o) plan (scope == 1) [] 0 (blockEntries b n) with
    | .error (st, i) => .bad st i
    | .ok es => .ok (scope == 1) target es

/-! ## Clamp reports (R84) -/

/-- The bytes of a clamp report for a buffer size; empty where it does not hold the header. -/
def reportBytes (cs : List Clamp) (size gen status : Nat) : List Byte :=
  if size < 32 then []
  else
    let w := min cs.length ((size - 32) / 32)
    le 4 cs.length ++ le 4 w ++ le 4 gen ++ le 1 status ++ zeros 19
      ++ (cs.take w).flatMap (fun c => le 4 c.entry.id ++ le 4 c.entry.elem ++ le 8 c.entry.val ++ le 8 c.applied
        ++ le 1 c.reason ++ zeros 3 ++ le 4 c.idx)

/-- Write a clamp report where the block asks for one: whether REPORT is set, and the inline bytes (R84). -/
def State.report (s : State) (o : Origin) (p : Pkt) (bytes : List Byte) : State × Bool × List Byte :=
  match o with
  | .qp f _ =>
    if p.p2 = 0 ∨ bytes = [] then (s, false, []) else (s.emit (.hostWrite f p.p2.toNat bytes false), true, [])
  | .mgmt _ _ => if bytes = [] then (s, false, []) else (s, true, bytes.take inlineMax)

/-- The status that clamps give (R85). -/
def clampStatus (cs : List Clamp) : Nat :=
  if cs.any (fun c => c.reason.testBit 5) then stLocked else if cs.isEmpty then stOk else stClamped

/-- The log entries of locked fields (R85). -/
def State.logLocked (s : State) (dom : Bool) (slot : Nat) (cs : List Clamp) : State :=
  s.over (cs.filter (fun c => c.reason.testBit 5)) (fun s c =>
    s.logE 0x0802 (if dom then some slot else none) c.entry.id c.entry.elem)

/-- A block that has passed its checks, with its clamps: what it answers before it applies anything (R54, R90, R91), or
none where it applies. EXPECT_GEN comes before STRICT and DRY_RUN, and a block that it turns away gets no clamp report (DESIGN CHOICE,
assumption 109). -/
def State.heldBack (s : State) (p : Pkt) (cs : List Clamp) : Option (Nat × Nat × Nat) :=
  let expect := fieldAt p.data 8 4
  if expect ≠ 0 ∧ expect ≠ s.newestGen then some (stBusyRetry, 0, s.newestGen)
  else if p.flags.getLsbD 2 && !cs.isEmpty then
    some (stBadParam, (cs.head?.map Clamp.idx).getD 0, 0)
  else if p.flags.getLsbD 1 then some (clampStatus cs, 0, 0)
  else none

/-- Take a CONFIG_WRITE block from the port (R82 to R91): reject it, report it, or let it join the generation being
built. A LOCKED entry of a DRY_RUN block, which changes nothing, is not logged (DESIGN CHOICE, assumption 109). -/
def State.takeWrite (s : State) (o : Origin) (p : Pkt) : State :=
  let answer := fun (s : State) (st d r0 r1 : Nat) (rep : Bool) (inl : List Byte) =>
    s.reply o { mkReply s o 0x0810 p st d r0 r1 with report := rep } inl
  match s.checkBlock o false p with
  | .bad st d => answer s st d 0 0 false []
  | .ok dom slot es =>
    let mg := match o with
      | .mgmt _ _ => true
      | .qp _ _ => false
    let (_, sets, cs) := s.clampBlock mg slot es
    match s.heldBack p cs with
    | some (st, d, r0) =>
      if st = stBusyRetry then answer s st d r0 0 false []
      else
        let (s, rep, inl) := s.report o p (reportBytes cs p.p3.toNat 0 st)
        answer s st d r0 cs.length rep inl
    | none =>
      let keys := (es.filter (fun x => x.2.1.lock)).map (fun x => fkey slot x.2.1.id x.2.2.elem)
      let s := { s.logLocked dom slot cs with cfg.locked := s.cfg.locked ++ keys }
      let (s, g, due) := s.join (sets.map (fun c => .field c.1 c.2))
      let st := clampStatus cs
      let (s, rep, inl) := s.report o p (reportBytes cs p.p3.toNat g st)
      { s with q.replies := s.q.replies ++ [{ o := o, due := due, inline := inl,
                                              r := { mkReply s o 0x0810 p st 0 g cs.length with report := rep } }] }

/-- CONFIG_WRITE: held where the build window is closed or another block is
held (R87). -/
def cConfigWrite : Cmd := shortCmd 0x0810 false .any (fun s o p =>
  if s.portClosed || !s.cfg.heldBlocks.isEmpty then
    ({ s with cfg.heldBlocks := s.cfg.heldBlocks ++ [{ o := o, plan := false, p := p, head := s.q.headAfter }] }, .held)
  else (s.takeWrite o p, .held))

/-! ## Reading the configuration -/

/-- The entries that CONFIG_READ lists (R588). -/
def State.readEntries (s : State) (dom newest : Bool) (slot : Nat) : List Entry :=
  (catalogue.filter (fun f => f.dom == dom)).flatMap (fun f => (elemsOf f).map (fun e =>
    { id := f.id, elem := e,
      val := if newest ∧ ¬f.staged then s.newest slot f.id e else s.field slot f.id e }))

/-- The block that CONFIG_READ writes (R588). -/
def State.readBlock (s : State) (dom newest : Bool) (slot : Nat) : List Byte :=
  let es := s.readEntries dom newest slot
  let b := le 2 0xCB10 ++ le 1 1 ++ le 1 (if dom then 1 else 0) ++ le 2 slot ++ le 2 es.length
    ++ le 4 (if newest then s.newestGen else s.cfg.gen) ++ zeros 4 ++ zeros 16
    ++ es.flatMap (fun e => le 4 e.id ++ le 4 e.elem ++ le 8 e.val)
  splice b 12 (le 4 (blockCrc b))

/-- CONFIG_READ (R60, R588). -/
def cConfigRead : Cmd := shortCmd 0x0812 false .any (fun s o p =>
  let scope := fld p.p2.toNat 8 2
  let dom := scope == 1
  if 1 < scope then deny s stBadParam
  else if dom && s.unbound o then deny s stNotPermitted
  else
    let b := s.readBlock dom (p.p2.getLsbD 0) (if dom then slotOf p else 0)
    if roomFor o p.p1.toNat < b.length then done s stBadParam b.length 0
    else doneData s o p.p0.toNat b stOk b.length 0)

/-- WIDTH of a catalogue record (R79). -/
def FieldSpec.width (f : FieldSpec) : Nat := if f.id = fTierShare then 32 else f.max.log2 + 1

/-- A catalogue record (R79). -/
def State.fieldRecord (s : State) (f : FieldSpec) : List Byte :=
  let mx := (List.range (if f.id = fTierShare then 3 else 1)).foldl (fun a e => max a (s.fieldMax f e)) 0
  le 4 f.id ++ le 2 (bitAt f.staged 0 + bitAt f.ownerOnly 1 + bitAt f.lock 2 + bitAt f.dom 4) ++ le 1 f.width ++ zeros 1
    ++ le 4 f.elems ++ le 4 f.step ++ le 8 f.min ++ le 8 mx ++ le 8 f.dflt ++ zeros 24

/-- CATALOGUE_READ (R60): the records from the first field ID on, as many as the buffer holds. -/
def cCatalogueRead : Cmd := shortCmd 0x0813 false .any (fun s o p =>
  let l := catalogue.filter (fun f => decide (p.p2.toNat % 2 ^ 32 ≤ f.id))
  let n := min l.length (roomFor o p.p1.toNat / 64)
  let next := match l[n]? with
    | some f => f.id
    | none => 0
  doneData s o p.p0.toNat ((l.take n).flatMap s.fieldRecord) stOk n next)

/-- CONFIG_WRITE. -/
def execConfigWrite (o : Origin) (p : Pkt) (s : State) : Host.Outcome State Fault Refusal :=
  .next (s.packet cConfigWrite none o p)

/-- CONFIG_READ. -/
def execConfigRead (o : Origin) (p : Pkt) (s : State) : Host.Outcome State Fault Refusal :=
  .next (s.packet cConfigRead none o p)

/-- CATALOGUE_READ. -/
def execCatalogueRead (o : Origin) (p : Pkt) (s : State) : Host.Outcome State Fault Refusal :=
  .next (s.packet cCatalogueRead none o p)

/-- HELD_CONFIG_BLOCK_TAKE (R86, R87): the port, open again, takes the block held longest. -/
def State.takeHeld (s : State) (plan : State → Origin → Pkt → State) : State :=
  if s.portClosed then s
  else match s.cfg.heldBlocks with
    | [] => s
    | b :: l =>
      let s := { s with cfg.heldBlocks := l, q.headAfter := b.head }
      if b.plan then plan s b.o b.p else s.takeWrite b.o b.p

end Sys2Proof.Machine
end

