-- ==== Sys2Proof/Machine/Float32.lean ====
section
/-! DEFINITION. The arithmetic of the operators: conversion to and from binary32 (R254, R256) and the IEEE 754-2019
operations rounded to nearest with ties to even (R255, R257, R258). A finite value is held exactly, as a sign, a natural
mantissa and a power of two. -/

namespace Sys2Proof.Machine

/-- A floating-point datum: NaN, an infinity, or the exact value ± m × 2^e. -/
inductive Flt where
  | nan
  | inf (neg : Bool)
  | fin (neg : Bool) (m : Nat) (e : Int)
deriving DecidableEq, Repr

/-- A binary format: exponent bits, mantissa bits, bias, and whether the top exponent holds infinities and NaNs. -/
structure Fmt where
  eb : Nat
  mb : Nat
  bias : Nat
  ieee : Bool
deriving DecidableEq, Repr

def fmt32 : Fmt := { eb := 8, mb := 23, bias := 127, ieee := true }
def fmtBf16 : Fmt := { eb := 8, mb := 7, bias := 127, ieee := true }
def fmt16 : Fmt := { eb := 5, mb := 10, bias := 15, ieee := true }
def fmtE4m3 : Fmt := { eb := 4, mb := 3, bias := 7, ieee := false }
def fmtE5m2 : Fmt := { eb := 5, mb := 2, bias := 15, ieee := true }
def fmtE3m2 : Fmt := { eb := 3, mb := 2, bias := 3, ieee := false }
def fmtE2m3 : Fmt := { eb := 2, mb := 3, bias := 1, ieee := false }
def fmtE2m1 : Fmt := { eb := 2, mb := 1, bias := 1, ieee := false }

/-- The exact value of the bits of a format, without the NaN of a format that has no infinities. -/
def Fmt.read (f : Fmt) (x : Nat) : Flt :=
  let neg := x.testBit (f.eb + f.mb)
  let e := fld x f.mb f.eb
  let m := fld x 0 f.mb
  let bias : Int := f.bias + f.mb
  if f.ieee ∧ e = 2 ^ f.eb - 1 then (if m = 0 then .inf neg else .nan)
  else if e = 0 then .fin neg m (1 - bias)
  else .fin neg (2 ^ f.mb + m) (e - bias)

/-- An E4M3 byte: S.1111.111 is NaN (R254). -/
def readE4m3 (x : Nat) : Flt := if x % 128 = 127 then .nan else fmtE4m3.read x

/-- Round a right shift of a mantissa to nearest, ties to even; `sticky` says that more lies below the mantissa. -/
def shiftRne (m k : Nat) (sticky : Bool) : Nat :=
  let q := m / 2 ^ k
  let r := 2 * (m % 2 ^ k)
  if 2 ^ k < r then q + 1
  else if r = 2 ^ k then (if sticky || q % 2 == 1 then q + 1 else q)
  else q

/-- Round an exact value to the bits of an IEEE format, a zero keeping its sign (R255, R256). -/
def Fmt.round (f : Fmt) (neg : Bool) (m : Nat) (e : Int) (sticky : Bool) : Nat :=
  let sign := bitAt neg (f.eb + f.mb)
  let least : Int := 1 - f.bias - f.mb
  if m = 0 then sign
  else
    let top : Int := m.log2 + e - f.mb
    let q := max top least
    let r := if q ≤ e then m * 2 ^ (e - q).toNat else shiftRne m (q - e).toNat sticky
    let bits := (q - least).toNat * 2 ^ f.mb + r
    sign + min bits ((2 ^ f.eb - 1) * 2 ^ f.mb)

/-- The bits of a datum in an IEEE format, with the canonical NaN given (R255, R256). -/
def Fmt.write (f : Fmt) (nan : Nat) : Flt → Nat
  | .nan => nan
  | .inf neg => bitAt neg (f.eb + f.mb) + (2 ^ f.eb - 1) * 2 ^ f.mb
  | .fin neg m e => f.round neg m e false

/-- The canonical NaN (R255). -/
def nan32 : Nat := 0x7FC00000

/-- A datum rounded to binary32. -/
def toF32 (x : Flt) : U32 := BitVec.ofNat 32 (fmt32.write nan32 x)

/-- The datum of binary32 bits. -/
def ofF32 (x : U32) : Flt := fmt32.read x.toNat

/-- An exact sum of integers with a power of two, as a datum; an exact zero has the sign given. -/
def fltOfInt (v : Int) (e : Int) (zneg : Bool) : Flt :=
  if v = 0 then .fin zneg 0 0 else .fin (decide (v < 0)) v.natAbs e

/-- The signed mantissa of a finite datum at a smaller power of two. -/
def scaled (neg : Bool) (m : Nat) (e low : Int) : Int :=
  let v : Int := m * 2 ^ (e - low).toNat
  if neg then -v else v

/-- The exact sum (R255): opposite zeros and exact cancellation give +0. -/
def addX : Flt → Flt → Flt
  | .nan, _ => .nan
  | _, .nan => .nan
  | .inf a, .inf b => if a = b then .inf a else .nan
  | .inf a, _ => .inf a
  | _, .inf b => .inf b
  | .fin na ma ea, .fin nb mb eb =>
    let low := min ea eb
    fltOfInt (scaled na ma ea low + scaled nb mb eb low) low (ma == 0 && mb == 0 && na && nb)

/-- The exact product (R255). -/
def mulX : Flt → Flt → Flt
  | .nan, _ => .nan
  | _, .nan => .nan
  | .inf a, .inf b => .inf (a != b)
  | .inf a, .fin nb mb _ => if mb = 0 then .nan else .inf (a != nb)
  | .fin na ma _, .inf b => if ma = 0 then .nan else .inf (na != b)
  | .fin na ma ea, .fin nb mb eb => .fin (na != nb) (ma * mb) (ea + eb)

/-- a + b. -/
def fadd (a b : U32) : U32 := toF32 (addX (ofF32 a) (ofF32 b))

/-- a × b. -/
def fmul (a b : U32) : U32 := toF32 (mulX (ofF32 a) (ofF32 b))

/-- fma(a, b, c), rounded once. -/
def ffma (a b c : U32) : U32 := toF32 (addX (mulX (ofF32 a) (ofF32 b)) (ofF32 c))

/-- a ÷ b, correctly rounded. -/
def fdiv (a b : U32) : U32 :=
  match ofF32 a, ofF32 b with
  | .nan, _ => BitVec.ofNat 32 nan32
  | _, .nan => BitVec.ofNat 32 nan32
  | .inf _, .inf _ => BitVec.ofNat 32 nan32
  | .inf x, .fin y _ _ => toF32 (.inf (x != y))
  | .fin x _ _, .inf y => toF32 (.fin (x != y) 0 0)
  | .fin x m e, .fin y n g =>
    if n = 0 then (if m = 0 then BitVec.ofNat 32 nan32 else toF32 (.inf (x != y)))
    else
      let q := 2 ^ 64 * m / n
      let sticky := decide (2 ^ 64 * m % n ≠ 0)
      -- one more bit below the quotient tells an exact tie from one that is not
      BitVec.ofNat 32 (fmt32.round (x != y) (2 * q + bitAt sticky 0) (e - g - 65) false)

/-- The integer square root of a number below 2^(2k), bit by bit. -/
def isqrt (n : Nat) : Nat → Nat → Nat
  | 0, r => r
  | k + 1, r => if (r + 2 ^ k) * (r + 2 ^ k) ≤ n then isqrt n k (r + 2 ^ k) else isqrt n k r

/-- √a, correctly rounded; of −0 it is −0, of a negative number NaN. -/
def fsqrt (a : U32) : U32 :=
  match ofF32 a with
  | .nan => BitVec.ofNat 32 nan32
  | .inf neg => if neg then BitVec.ofNat 32 nan32 else a
  | .fin neg m e =>
    if m = 0 then a
    else if neg then BitVec.ofNat 32 nan32
    else
      let odd := e % 2 ≠ 0
      let m' := m * 2 ^ (if odd then 65 else 64)
      let e' := (if odd then e - 65 else e - 64) / 2
      let r := isqrt m' 46 0
      BitVec.ofNat 32 (fmt32.round false (2 * r + bitAt (decide (r * r ≠ m')) 0) (e' - 1) false)

/-- Sign flipped; NaN stays as it is. -/
def fneg (a : U32) : U32 := a ^^^ 0x80000000#32

/-- Whether bits are a NaN. -/
def isNan (a : U32) : Bool := ofF32 a == .nan

/-- Whether bits are finite. -/
def isFinite (a : U32) : Bool :=
  match ofF32 a with
  | .fin _ _ _ => true
  | _ => false

/-- A key that orders binary32 data other than NaN, with −0 below +0. -/
def orderKey (a : U32) : Int := if a.getLsbD 31 then -1 - (a.toNat % 2 ^ 31 : Nat) else (a.toNat : Int)

/-- IEEE 754-2019 maximum: NaN wins, +0 is above −0 (R257). -/
def fmax (a b : U32) : U32 :=
  if isNan a || isNan b then BitVec.ofNat 32 nan32 else if orderKey a < orderKey b then b else a

/-! ## Contribution lines and targets -/

/-- K: the elements of a contribution line by element type code; none for a type that R237 does not list. -/
def lineElems (elem : Nat) : Option Nat :=
  if elem = 3 then some 16
  else if elem = 1 ∨ elem = 2 then some 32
  else if elem = 4 ∨ elem = 5 then some 64
  else if 6 ≤ elem ∧ elem ≤ 0xB then some 32
  else none

/-- A datum times 2^k. -/
def Flt.scale (k : Int) : Flt → Flt
  | .fin n m e => .fin n m (e + k)
  | x => x

/-- A two's complement byte times 2^−6 (R254). -/
def readInt8 (x : Nat) : Flt :=
  if 128 ≤ x then .fin true (256 - x) (-6) else .fin false x (-6)

/-- An element of an MX line before its scale (R237, R254). -/
def mxElem (elem : Nat) (line : List Byte) (i : Nat) : Flt :=
  let bits := fun (w : Nat) => fld (leNat (sub line 0 32)) (w * i) w
  if elem = 6 then readE4m3 (bits 8)
  else if elem = 7 then fmtE5m2.read (bits 8)
  else if elem = 8 then fmtE3m2.read (bits 6)
  else if elem = 9 then fmtE2m3.read (bits 6)
  else if elem = 0xA then fmtE2m1.read (bits 4)
  else readInt8 (bits 8)

/-- Element `i` of a line of a format, converted to binary32 (R237, R254). A bf16 or binary32 NaN keeps its bits here; the
first operation makes it canonical. -/
def lineElem (elem : Nat) (line : List Byte) (i : Nat) : U32 :=
  if elem = 3 then BitVec.ofNat 32 (fieldAt line (4 * i) 4)
  else if elem = 1 then BitVec.ofNat 32 (fieldAt line (2 * i) 2 * 65536)
  else if elem = 2 then toF32 (fmt16.read (fieldAt line (2 * i) 2))
  else if elem = 4 then toF32 (readE4m3 (fieldAt line i 1))
  else if elem = 5 then toF32 (fmtE5m2.read (fieldAt line i 1))
  else
    let x := fieldAt line 63 1
    if x = 0xFF then BitVec.ofNat 32 nan32 else toF32 ((mxElem elem line i).scale ((x : Int) - 127))

/-- The bytes of an element of the target's type (R236). -/
def outBytes (elem : Nat) : Nat := if elem = 3 then 4 else 2

/-- A result in the target's type (R256). -/
def encElem (elem : Nat) (x : U32) : List Byte :=
  if elem = 3 then le 4 (if isNan x then nan32 else x.toNat)
  else if elem = 1 then le 2 (fmtBf16.write 0x7FC0 (ofF32 x))
  else le 2 (fmt16.write 0x7E00 (ofF32 x))

/-- bf16_rne (R256, R258). -/
def toBf16 (x : U32) : Nat := fmtBf16.write 0x7FC0 (ofF32 x)

end Sys2Proof.Machine
end

