-- ==== Sys2Proof/Machine/Operators.lean ====
section
/-! DEFINITION. The update-on-write operators: a binding's work area (R239), tally records (R243), contributions (R242 to
R244), finishes (R245, R249, R250, R257, R258), the cost of both (R261), and layer digests (R262 to R264). -/

namespace Sys2Proof.Machine

/-! ## Geometry of a binding -/

/-- K: elements of a contribution line (R237). -/
def Binding.k (b : Binding) : Nat := (lineElems b.inElem).getD 16

/-- U: the units of the target (R237). -/
def Binding.units (b : Binding) : Nat := b.tlen / outBytes b.outElem / b.k

/-- Q: the quarter size (R241). -/
def Binding.quarter (b : Binding) : Nat := 64 * b.units

/-- The lines of one tally record (R239). -/
def Binding.recLines (b : Binding) : Nat := (4 + (b.ncontrib + 3) / 4 + 63) / 64

/-- The lines of one unit's accumulator: 4K bytes. -/
def Binding.accLines (b : Binding) : Nat := b.k / 16

/-- The lines of the work area that hold something: tally records, then accumulators or holds (R239; the order within the
area is a DESIGN CHOICE, assumption 25). -/
def Binding.workLines (b : Binding) : Nat :=
  b.units * b.recLines + b.units * (if b.ordered then b.ncontrib else b.accLines)

/-- The 2 MiB chunks of the work area, 32,768 lines each, rounded up (R239). -/
def Binding.workChunks (b : Binding) : Nat := roundUp b.workLines 32768

/-- The work-area line of a unit's tally record. -/
def Binding.tallyLine (b : Binding) (u : Nat) : Nat := u * b.recLines

/-- The work-area line of a unit's accumulator. -/
def Binding.accLine (b : Binding) (u : Nat) : Nat := b.units * b.recLines + u * b.accLines

/-- The work-area line that holds contributor `j`'s line of a unit. -/
def Binding.holdLine (b : Binding) (u j : Nat) : Nat := b.units * b.recLines + u * b.ncontrib + j

/-- Whether a binding writes first and second moments. -/
def Binding.adamw (b : Binding) : Bool := b.op == 3

/-- The regions that a unit's finish writes: (domain offset, bytes): target, moments, shadow (R237, R258, R259). -/
def Binding.regions (b : Binding) (u : Nat) : List (Nat × Nat) :=
  let ob := outBytes b.outElem
  let t := [(b.target + u * b.k * ob, b.k * ob)]
  let mv := if b.adamw then [(b.mBase + u * b.k * 4, b.k * 4), (b.vBase + u * b.k * 4, b.k * 4)] else []
  let sh := if b.adamw && b.shadow then [(b.shadowBase + u * b.k * 2, b.k * 2)] else []
  t ++ mv ++ sh

/-- All the regions of a binding: (domain offset, bytes). -/
def Binding.areas (b : Binding) : List (Nat × Nat) :=
  [(b.target, b.tlen)] ++ (if b.adamw then [(b.mBase, b.tlen), (b.vBase, b.tlen)] else [])
    ++ (if b.adamw && b.shadow then [(b.shadowBase, b.tlen / 2)] else [])

/-- The engine die of a unit's operator work: its target plate's number modulo 4 (R261). -/
def Binding.die (b : Binding) (u : Nat) : Nat := (b.target + u * b.k * outBytes b.outElem) / 4096 % 4

/-- The lines of a region. -/
def regionLines (r : Nat × Nat) : List Nat := rangeFrom (r.1 / 64) ((r.1 + r.2 - 1) / 64 + 1 - r.1 / 64)

/-! ## The work area -/

/-- The line of T1 that an offset of a pinned extent or work area lies on (R134). -/
def State.chunkLine (s : State) (isExtent : Bool) (owner off : Nat) : Option (Nat × Nat) :=
  (s.ti.chunks.find? (fun c => c.isExtent == isExtent && c.owner == owner && c.index == off / (2 * mib))).map
    (fun c => (c.stack, c.granule + off % (2 * mib) / 64))

/-- Read a work-area line: its bytes, and whether it is poisoned or uncorrectable (R250, R352, R466). -/
def State.readWork (s : State) (id l : Nat) : State × List Byte × Bool :=
  match s.chunkLine false id (64 * l) with
  | none => (s, zeros 64, true)
  | some (k, g) =>
    if s.pcOff k (granPc g) then (s, zeros 64, true)
    else match s.readLine (dramLine k g) with
      | (s, .good d) => (s, d, false)
      | (s, .poison d) => (s, d, true)
      | (s, .uncorr d _) => (s, d, true)

/-- The second place that a write to a chunk is applied at while the chunk is copied (R350). -/
def State.chunkCopy (s : State) (isExtent : Bool) (owner off : Nat) : Option (Nat × Nat) :=
  ((s.ti.chunks.find? (fun c => c.isExtent == isExtent && c.owner == owner && c.index == off / (2 * mib))).bind
    Chunk.copyTo).map (fun c => (c.1, c.2.1 + off % (2 * mib) / 64))

/-- Write a work-area line, at both places while its chunk is copied (R350). -/
def State.writeWork (s : State) (id l : Nat) (d : List Byte) (poison : Bool) : State :=
  let s := match s.chunkCopy false id (64 * l) with
    | some (k, g) => (match s.opr.binds.get? id with
      | some b => s.charge b.slot 4 k 1
      | none => s).writeLine (dramLine k g) d poison
    | none => s
  match s.chunkLine false id (64 * l) with
  | none => s
  | some (k, g) => if s.pcOff k (granPc g) then s else s.writeLine (dramLine k g) d poison

/-- Read `n` work-area lines. -/
def State.readWorkN (s : State) (id l n : Nat) : State × List Byte × Bool :=
  (List.range n).foldl (fun (a : State × List Byte × Bool) i =>
    let (s, d, p) := a.1.readWork id (l + i)
    (s, a.2.1 ++ d, a.2.2 || p)) (s, [], false)

/-- Write work-area lines. -/
def State.writeWorkN (s : State) (id l : Nat) (d : List Byte) (poison : Bool) : State :=
  s.over (List.range (d.length / 64)) (fun s i => s.writeWork id (l + i) (sub d (64 * i) 64) poison)

/-- Charge accesses to class 4 of the stack that holds a work-area line (R261). -/
def State.chargeWork (s : State) (slot id l n : Nat) : State :=
  match s.chunkLine false id (64 * l) with
  | none => s
  | some (k, _) => s.charge slot 4 k n

/-- Charge operator half-cycles: a stride's charge is rounded up to whole cycles (R261). -/
def State.chargeHalf (s : State) (slot die n : Nat) : State :=
  let key := slot * 4 + die
  let h := s.opr.half.getD key 0
  { s with opr.half := s.opr.half.set key (h + n) }.charge slot 6 die ((h + n + 1) / 2 - (h + 1) / 2)

/-! ## Tally records (R243) -/

/-- A tally record of `n` contributors as read: its header fields and its bytes. -/
structure TallyRec where
  count : Nat
  rnd : Nat
  pending : Bool
  bytes : List Byte
deriving DecidableEq, Repr

/-- The record of bytes. -/
def tallyOf (d : List Byte) : TallyRec :=
  let h := fieldAt d 0 4
  { count := fld h 0 13, rnd := fld h 13 2, pending := h.testBit 15, bytes := d }

/-- The stamp of a contributor. -/
def TallyRec.stamp (t : TallyRec) (j : Nat) : Nat := fld (fieldAt t.bytes (4 + j / 4) 1) (2 * (j % 4)) 2

/-- The record with one stamp set. -/
def TallyRec.setStamp (t : TallyRec) (j v : Nat) : TallyRec :=
  let b := fieldAt t.bytes (4 + j / 4) 1
  { t with bytes := splice t.bytes (4 + j / 4) (le 1 (b - fld b (2 * (j % 4)) 2 * 4 ^ (j % 4) + v * 4 ^ (j % 4))) }

/-- The bytes of a record. -/
def TallyRec.enc (t : TallyRec) : List Byte :=
  splice t.bytes 0 (le 4 (t.count % 8192 + t.rnd * 8192 + bitAt t.pending 15))

/-- A record of `n` lines with a round number, every stamp that number, and a count. -/
def tallyAll (lines rnd count : Nat) : TallyRec :=
  { count := count, rnd := rnd, pending := false,
    bytes := zeros 4 ++ List.replicate (64 * lines - 4) (BitVec.ofNat 8 (rnd * 85)) }

/-! ## Bindings -/

/-- A binding. -/
def State.binding (s : State) (id : Nat) : Option Binding := s.opr.binds.get? id

/-- Change a binding. -/
def State.modBinding (s : State) (id : Nat) (g : Binding → Binding) : State :=
  { s with opr.binds := s.opr.binds.modify id g }

/-! ## Digests (R262 to R264) -/

/-- What a write contributes to a digest (R262). -/
def digestTerm (addr be : Nat) (d : List Byte) : U64 :=
  crc64 (le 8 addr ++ le 8 be ++ maskBytes (zeros 64) d be)

/-- Fold a write into every open digest of the slot whose range covers the line (R263). -/
def State.foldDigest (s : State) (slot line addr be : Nat) (d : List Byte) : State :=
  let hit := fun (g : Digest) => g.slot == slot && (g.st == 1 || g.st == 2) && decide (g.first ≤ line / 64)
    && decide (line / 64 < g.first + g.count)
  if s.opr.digests.any (fun p => hit p.2) then
    let t := digestTerm addr be d
    { s with opr.digests := s.opr.digests.map (fun p =>
        (p.1, if hit p.2 then { p.2 with sum := p.2.sum + t, n := p.2.n + 1 } else p.2)) }
  else s

/-! ## Plain writes (R251) -/

/-- The units of `w` bytes each, laid out over `n` bytes from a base, that meet a range of the domain. -/
def unitsIn (base n w lo hi : Nat) : List Nat :=
  let a := max lo base
  let z := min hi (base + n)
  if z ≤ a then [] else rangeFrom ((a - base) / w) ((z - 1 - base) / w + 1 - (a - base) / w)

/-- The units of a binding that a domain line belongs to. -/
def Binding.unitsAt (b : Binding) (line : Nat) : List Nat :=
  let ob := outBytes b.outElem
  ((b.areas.zip [b.k * ob, b.k * 4, b.k * 4, b.k * 2]).flatMap (fun x =>
    unitsIn x.1.1 x.1.2 x.2 (line * 64) (line * 64 + 64))).eraseDups

/-- Count and log a plain write to a line of a unit that the open round's finish overwrites (R251). -/
def State.targetWrite (s : State) (slot line : Nat) : State :=
  s.over (s.opr.binds.filter (fun p => p.2.slot == slot && p.2.st == 1
      && (p.2.unitsAt line).any (fun u => p.2.snap.has u))) (fun s p =>
    { s with opr.targetWrite := cntAdd s.opr.targetWrite 1 }.logRated (2000000 + p.1) 0x0402 (some slot) p.1 (line * 64))

/-- Fold a plain write into digests at its admission (R263). -/
def State.foldPlain (s : State) (slot line : Nat) (d : List Byte) (be : Nat) : State :=
  s.foldDigest slot line (line * 64) (be % 2 ^ 64) d

/-! ## Finishing a unit (R245, R250, R257, R258) -/

/-- The plates of a region. -/
def regionPlates (r : Nat × Nat) : List Nat := rangeFrom (r.1 / 4096) ((r.1 + r.2 - 1) / 4096 + 1 - r.1 / 4096)

/-- Read the lines of a region that lie in one plate: in T0, or in the copy that has come from the plate's home on another member
(R245, R253): the bytes and whether a line is poisoned; false in the last where no T0 slot can be had. -/
def State.readPart (s : State) (slot plate : Nat) (lines : List Nat) : State × List Byte × Bool × Bool :=
  match s.plateHome slot plate with
  | .here =>
    match s.bringIn slot plate with
    | (s, false) => (s, [], true, false)
    | (s, true) =>
      match s.ent slot plate with
      | none => (s, [], true, false)
      | some e =>
        let (s, d, p) := lines.foldl (fun (a : State × List Byte × Bool) l =>
          let (s, x, bad) := a.1.readT0 slot plate e (l % 64)
          (s, a.2.1 ++ x, a.2.2 || bad)) (s, [], e.damaged)
        (s, d, p, true)
  | _ =>
    let (s, d, bad) := s.copyOf slot plate
    (s, lines.flatMap (fun l => sub d (64 * (l % 64)) 64), lines.any (fun l => bad.contains (l % 64)), true)

/-- Read a region of the domain, plate by plate (R245, R250). -/
def State.readRegion (s : State) (slot : Nat) (r : Nat × Nat) : State × List Byte × Bool × Bool :=
  let (s, d, p, ok) := (regionPlates r).foldl (fun (a : State × List Byte × Bool × Bool) x =>
    let (s, d, p, ok) := a.1.readPart slot x ((regionLines r).filter (fun l => l / 64 == x))
    (s, a.2.1 ++ d, a.2.2.1 || p, a.2.2.2 && ok)) (s, [], false, true)
  (s, sub d (r.1 % 64) r.2, p, ok)

/-- Read several regions: each with whether a line is poisoned; false in the last where one cannot be read yet. Plates of other members
are asked for first, together. -/
def State.readRegions (s : State) (slot : Nat) (rs : List (Nat × Nat)) : State × List (List Byte × Bool) × Bool :=
  match s.needPlates slot (rs.flatMap regionPlates) with
  | (s, false) => (s, [], false)
  | (s, true) => rs.foldl (fun (a : State × List (List Byte × Bool) × Bool) r =>
      let (s, d, p, ok) := a.1.readRegion slot r
      (s, a.2.1 ++ [(d, p)], a.2.2 && ok)) (s, [], true)

/-- Bring the plates of regions into T0 where their home is here: whether each is resident. -/
def State.regionsIn (s : State) (slot : Nat) (rs : List (Nat × Nat)) : State × Bool :=
  (rs.flatMap regionPlates).foldl (fun (a : State × Bool) x =>
    if a.1.plateHome slot x == .here then
      let (s, ok) := a.1.bringIn slot x
      (s, a.2 && ok)
    else a) (s, true)

/-- Write part of a region of the domain, as the result of a binding's finish (R245, R250, R263, R318). -/
def State.writeRegion (s : State) (id slot : Nat) (r : Nat × Nat) (d : List Byte) (mask : Nat → Bool) (poison : Bool) : State :=
  s.over (regionLines r) (fun s l =>
    let at' := fun (i : Nat) => l * 64 + i - r.1
    let here := fun (i : Nat) => decide (r.1 ≤ l * 64 + i) && decide (l * 64 + i < r.1 + r.2) && mask (at' i)
    let be := bitMask ((List.range 64).filter here)
    let bytes := (List.range 64).map (fun i => if here i then d.getD (at' i) 0 else 0)
    ((s.preserve slot (l / 64)).foldDigest slot l (l * 64 + 2 * 2 ^ 60) allBe bytes).ownWrite slot l bytes be poison (.oper id))

/-- The start value of a fold for one element (R257), from the target element before the round. -/
def Binding.start (b : Binding) (t : U32) : U32 :=
  if b.op = 1 then (if b.keep then t else 0xFF800000#32)
  else if b.op = 0 ∧ b.keep then t
  else 0x80000000#32

/-- One fold step (R257). -/
def Binding.fold (b : Binding) (a c : U32) : U32 := if b.op = 1 then fmax a c else fadd a c

/-- The binary32 values of a region of `n` elements of a type. -/
def valuesOf (elem n : Nat) (d : List Byte) : List U32 := (List.range n).map (fun i => lineElem elem d i)

/-- The result of one element of ADAMW: w1, m1, v1, or none where NF_SKIP skips it (R258). -/
def adamwStep (b : Binding) (p : StepParams) (sum w m v : U32) : Option (U32 × U32 × U32) :=
  let g := fmul sum p.gscale
  if b.nfSkip && !isFinite g then none
  else
    let m1 := ffma b.pA m (fmul b.pB g)
    let v1 := ffma b.pC v (fmul b.pD (fmul g g))
    let mh := fmul m1 p.c1
    let vh := fmul v1 p.c2
    let u := fdiv mh (fadd (fsqrt vh) b.pE)
    let t := ffma p.wd w u
    some (ffma (fneg p.lr) t w, m1, v1)

/-- The outputs of a unit: the bytes of each region with which bytes of it are written, and the non-finite elements
(R255 to R258). -/
def Binding.outputs (b : Binding) (p : StepParams) (sum : List U32) (regs : List (List Byte)) :
    List (List Byte × List Bool) × Nat :=
  let k := b.k
  let t := valuesOf b.outElem k (regs.getD 0 [])
  let at' := fun (l : List U32) (i : Nat) => l.getD i 0
  if b.adamw then
    let m := valuesOf 3 k (regs.getD 1 [])
    let v := valuesOf 3 k (regs.getD 2 [])
    let r := (List.range k).map (fun i => (adamwStep b p (at' sum i) (at' t i) (at' m i) (at' v i), i))
    let pick := fun (old : List U32) (f : U32 × U32 × U32 → U32) => r.flatMap (fun x => match x.1 with
      | some y => encElem 3 (f y)
      | none => le 4 (at' old x.2).toNat)
    let all := fun (n : Nat) => List.replicate (k * n) true
    let sh := r.flatMap (fun x => match x.1 with
      | some y => le 2 (toBf16 y.1)
      | none => zeros 2)
    let shMask := r.flatMap (fun x => List.replicate 2 x.1.isSome)
    let bad := fun (x : U32) => if isFinite x then 0 else 1
    let nf := sumOf (r.map (fun x => match x.1 with
      | none => 1
      | some (w1, m1, v1) => bad w1 + bad m1 + bad v1
        + (if b.shadow then bad (lineElem 1 (le 2 (toBf16 w1)) 0) else 0)))
    ([(pick t (fun y => y.1), all 4), (pick m (fun y => y.2.1), all 4), (pick v (fun y => y.2.2), all 4), (sh, shMask)], nf)
  else
    let res := (List.range k).map (fun i =>
      if b.op = 2 then ffma b.pB (at' sum i) (fmul b.pA (at' t i)) else at' sum i)
    let bytes := res.map (encElem b.outElem)
    let nf := (bytes.filter (fun x => !isFinite (lineElem b.outElem x 0))).length
    ([(bytes.flatten, List.replicate (k * outBytes b.outElem) true)], nf)

/-- Take the lines that a unit's finish reads and writes from their holders, where they are at home here (R298). -/
def State.clearUnit (s : State) (b : Binding) (u : Nat) : State × Bool :=
  s.clearLines b.slot (((b.regions u).flatMap regionLines).filter (fun l => s.plateHome b.slot (l / 64) == .here)) true

/-- Whether a unit's finish reads the target and the moments (R257, R258). -/
def Binding.readsTarget (b : Binding) : Bool := b.adamw || b.op == 2 || b.keep

/-- The sum of a unit: the ordered fold of its held lines, or its accumulator; with whether poison reached it
(R252, R253). -/
def State.sumOfUnit (s : State) (id : Nat) (b : Binding) (u : Nat) (held : List Nat) (t : List U32) :
    State × List U32 × Bool :=
  if b.ordered then
    held.foldl (fun (a : State × List U32 × Bool) j =>
      let s := a.1.chargeWork b.slot id (b.holdLine u j) 1
      let (s, d, p) := s.readWork id (b.holdLine u j)
      (s, (List.range b.k).map (fun i => b.fold (a.2.1.getD i 0) (lineElem b.inElem d i)), a.2.2 || p))
      (s, (List.range b.k).map (fun i => b.start (t.getD i 0)), false)
  else
    let s := s.chargeWork b.slot id (b.accLine u) b.accLines
    let (s, d, p) := s.readWorkN id (b.accLine u) b.accLines
    (s, valuesOf 3 b.k d, p)

/-- The shadow plates that a unit writes (R259). -/
def Binding.shadowPlates (b : Binding) (u : Nat) : List Nat :=
  if b.adamw && b.shadow then regionPlates (b.shadowBase + u * b.k * 2, b.k * 2) else []

/-- The units of a shadow plate. -/
def Binding.shadowUnits (b : Binding) (plate : Nat) : Nat :=
  (unitsIn b.shadowBase (b.tlen / 2) (b.k * 2) (plate * 4096) (plate * 4096 + 4096)).length

/-- Note that a unit is finished (R246, R259). -/
def State.unitDone (s : State) (id u : Nat) (poison : Bool) : State :=
  s.modBinding id (fun b =>
    let ps := b.shadowPlates u
    { b with doneUnits := b.doneUnits + 1, poisoned := b.poisoned || poison, snap := b.snap.del u,
             finishing := b.finishing.del u, pend := b.pend.del u,
             shadowCnt := ps.foldl (fun m p => m.set p (m.getD p 0 + 1)) b.shadowCnt,
             shadowDue := b.shadowDue ++ ps.filter (fun p => b.shadowCnt.getD p 0 + 1 == b.shadowUnits p) })

/-- The half-cycles of a finish (R261). -/
def Binding.finishHalf (b : Binding) : Nat :=
  (if b.op = 3 then 9 else if b.op = 2 then 2 else 1) + (if b.ordered then b.ncontrib else 0)

/-- Finish a unit with the contributions of its record: fold, compute, and write the results (R245, R249, R250). False where
a line must be taken from its holders first or a T0 slot cannot be had: the unit stays to be finished. -/
def State.finishUnit (s : State) (id u : Nat) (bad : Bool) : State × Bool :=
  match s.binding id with
  | none => (s, false)
  | some b =>
    match s.clearUnit b u with
    | (s, false) => (s, false)
    | (s, true) =>
      let regs := b.regions u
      let (s, cur, ok) := s.readRegions b.slot (regs.take 3)
      let (s, all) := if ok then s.regionsIn b.slot regs else (s, false)
      if !all then (s, false)
      else
        let (s, d, tp) := s.readWorkN id (b.tallyLine u) b.recLines
        let rec0 := tallyOf d
        let held := (List.range b.ncontrib).filter (fun j => rec0.stamp j == b.round % 4)
        let snap := b.snap.getD u cur
        let t := valuesOf b.outElem b.k ((snap.map Prod.fst).getD 0 [])
        let (s, sum, sp) := s.sumOfUnit id b u held t
        let rp := b.readsTarget && ((snap.take 3).any Prod.snd || cur.any Prod.snd)
        let poison := bad || tp || sp || rp
        let p := b.steps.getD b.round { lr := 0, wd := 0, c1 := 0, c2 := 0, gscale := 0 }
        let (outs, nf) := b.outputs p sum (snap.map Prod.fst)
        let s := s.chargeHalf b.slot (b.die u) b.finishHalf
        let s := s.over (regs.zip outs) (fun s x => s.writeRegion id b.slot x.1 x.2.1 (fun i => x.2.2.getD i false) poison)
        let s := { s with opr.nonfinite := cntAdd s.opr.nonfinite nf }
        let s := if b.closing then
            s.writeWorkN id (b.tallyLine u)
              (tallyAll b.recLines (b.round % 4) (if tp then b.ncontrib else rec0.count)).enc false
          else if rec0.pending then s.writeWorkN id (b.tallyLine u) ({ rec0 with pending := false } : TallyRec).enc tp
          else s
        (s.unitDone id u poison, true)

/-- A complete unit: finish it now, or leave it PENDING for its step parameters, or to be finished when its lines can be had
(R245). It is finished poisoned where its operator unit is out of service (R529). -/
def State.completeUnit (s : State) (id u : Nat) (bad : Bool) : State :=
  match s.binding id with
  | none => s
  | some b =>
    let bad := bad || s.tst.laneTests.contains (128 + b.die u)
    if b.adamw ∧ ¬b.steps.has b.round then
      let (s, d, p) := s.readWorkN id (b.tallyLine u) b.recLines
      (s.writeWorkN id (b.tallyLine u) { tallyOf d with pending := true }.enc p).modBinding id
        (fun b => { b with pend := b.pend.set u bad })
    else match s.finishUnit id u bad with
      | (s, true) => s
      | (s, false) => s.modBinding id (fun b =>
          { b with finishing := b.finishing.set u bad })

/-- Finish the units that waited for snoops or T0. -/
def State.retryFinishes (s : State) : State :=
  s.over s.opr.binds (fun s p => s.over p.2.finishing (fun s u => (s.finishUnit p.1 u.1 u.2).1))

/-! ## Contributions (R242 to R244) -/

/-- The step of R243 that decides a contribution: 1 to 3 drop it, 4 accepts it. -/
def Binding.judge (b : Binding) (t : TallyRec) (q j be : Nat) : Nat :=
  if be % 2 ^ 64 ≠ allBe then 1
  else if q ≠ b.round % 4 ∨ b.closing then 2
  else if t.stamp j = b.round % 4 then 3
  else 4

/-- The class-4 accesses of a contribution to the tally record and to its accumulator or hold line, and its operator half-cycles (R261);
its unit's finish is left out. -/
def Binding.cost (b : Binding) (j step : Nat) : Nat × Nat × Nat :=
  if step < 4 then (2, 0, 0)
  else
    let t := if 64 ≤ 4 + j / 4 then 4 else 2
    if b.ordered then (t, 1, 0) else (t, 2 * b.accLines, 1)

/-- The work-area line that a contribution is combined into or held in. -/
def Binding.dataLine (b : Binding) (u j : Nat) : Nat := if b.ordered then b.holdLine u j else b.accLine u

/-- The work-area accesses of a contribution, and of its unit's finish where it is the last: the first line, and how many (R261). -/
def Binding.accesses (b : Binding) (u j step : Nat) (last : Bool) : List (Nat × Nat) :=
  let (t, d, _) := b.cost j step
  [(b.tallyLine u, t), (b.dataLine u j, d)]
    ++ (if !last then [] else if b.ordered then (List.range b.ncontrib).map (fun i => (b.holdLine u i, 1)) else [(b.accLine u, b.accLines)])

/-- The tally record of a unit as it lies in the work area. -/
def State.tallyNow (s : State) (id : Nat) (b : Binding) (u : Nat) : TallyRec :=
  tallyOf ((List.range b.recLines).flatMap (fun i =>
    match s.chunkLine false id (64 * (b.tallyLine u + i)) with
    | some (k, g) => s.rawLine (dramLine k g)
    | none => zeros 64))

/-- Whether an accepted contribution is the first of its unit in the round. -/
def Binding.isFirst (b : Binding) (t : TallyRec) : Bool := decide (t.rnd ≠ b.round % 4) || t.count == 0

/-- Drop a contribution: count it and log the first of the stride (R243). -/
def State.dropContrib (s : State) (id : Nat) (b : Binding) (u j step : Nat) : State :=
  let o := s.opr
  let s := { s with opr := if step = 1 then { o with partialW := cntAdd o.partialW 1 }
    else if step = 2 then { o with offRound := cntAdd o.offRound 1 } else { o with dup := cntAdd o.dup 1 } }
  s.logRated (1000000 + id) 0x0401 (some b.slot) (id + 2 ^ 16 * j + 2 ^ 28 * step) (b.target + u * b.k * outBytes b.outElem)

/-- The snapshot of target and moments that the first contribution of a round takes, where the finish reads them. -/
def State.snapUnit (s : State) (b : Binding) (u : Nat) : State × List (List Byte × Bool) :=
  if b.readsTarget then
    let (s, l, _) := s.readRegions b.slot ((b.regions u).take 3)
    (s, l)
  else (s, [])

/-- Whether a contribution may be decided now: the first of a unit whose finish reads its target waits until that can be read. -/
def State.contribReady (s : State) (id j off be : Nat) : State × Bool :=
  match s.binding id with
  | none => (s, true)
  | some b =>
    let u := off % b.quarter / 64
    let t := s.tallyNow id b u
    if b.st = 1 ∧ b.readsTarget ∧ b.judge t (off / b.quarter) j be = 4 ∧ b.isFirst t then
      let rs := (b.regions u).take 3
      match s.needPlates b.slot (rs.flatMap regionPlates) with
      | (s, false) => (s, false)
      | (s, true) => s.regionsIn b.slot rs
    else (s, true)

/-- Combine an accepted line into the accumulator, or hold it (R252, R253, R250). -/
def State.combine (s : State) (id : Nat) (b : Binding) (u j : Nat) (first : Bool) (d : List Byte) (poison : Bool)
    (snap : List (List Byte × Bool)) : State :=
  if b.ordered then s.writeWork id (b.holdLine u j) d poison
  else
    let t := valuesOf b.outElem b.k ((snap.map Prod.fst).getD 0 [])
    let (s, acc, p) :=
      if first then (s, (List.range b.k).map (fun i => b.start (t.getD i 0)), b.keep && snap.any Prod.snd)
      else
        let (s, x, p) := s.readWorkN id (b.accLine u) b.accLines
        (s, valuesOf 3 b.k x, p)
    let new := (List.range b.k).flatMap (fun i => le 4 (b.fold (acc.getD i 0) (lineElem b.inElem d i)).toNat)
    s.writeWorkN id (b.accLine u) new (p || poison)

/-- A write to an operator alias window, or a CONTRIB of the herd, takes its fate (R243, R245, R466). -/
def State.contribute (s : State) (id j off : Nat) (d : List Byte) (be : Nat) (poison : Bool) : State :=
  match s.binding id with
  | none => s
  | some b =>
    if b.st ≠ 1 then s
    else
      let q := off / b.quarter
      let u := off % b.quarter / 64
      let (s, raw, tp) := s.readWorkN id (b.tallyLine u) b.recLines
      let t := tallyOf raw
      let r4 := b.round % 4
      let step := b.judge t q j be
      let s := (s.over (b.accesses u j step false) (fun s x => s.chargeWork b.slot id x.1 x.2)).chargeHalf b.slot (b.die u) (b.cost j step).2.2
      if step < 3 then s.dropContrib id b u j step
      else if tp then
        -- the record cannot be read: the unit is finished poisoned and its record made whole
        (s.writeWorkN id (b.tallyLine u) (tallyAll b.recLines r4 b.ncontrib).enc false).completeUnit id u true
      else if step = 3 then s.dropContrib id b u j step
      else
        let first := b.isFirst t
        let count := (if t.rnd ≠ r4 then 0 else t.count) + 1
        let (s, snap) := if first then s.snapUnit b u else (s, b.snap.getD u [])
        let s := s.modBinding id (fun b => { b with snap := b.snap.set u snap })
        let s := s.combine id b u j first d poison snap
        let t' := ({ t with count := count, rnd := r4 } : TallyRec).setStamp j r4
        let s := s.writeWorkN id (b.tallyLine u) t'.enc false
        let el := b.target + u * b.k * outBytes b.outElem
        let s := s.foldDigest b.slot (el / 64) (el + 2 ^ 48 * j + 2 ^ 60) allBe d
        if count = b.ncontrib then s.completeUnit id u false else s

/-- Whether the domain holds the grants that a contribution needs: class 4 on every stack that holds one of its lines, and class 6
(R244, R261). -/
def State.contribGrant (s : State) (id j off : Nat) (be : Nat) : Bool :=
  match s.binding id with
  | none => true
  | some b =>
    if b.st ≠ 1 then true
    else
      let u := off % b.quarter / 64
      let t := s.tallyNow id b u
      let step := b.judge t (off / b.quarter) j be
      let last := step == 4 && (if t.rnd = b.round % 4 then t.count else 0) + 1 == b.ncontrib
      let half := (b.cost j step).2.2 + (if last then b.finishHalf else 0)
      let h := s.opr.half.getD (b.slot * 4 + b.die u) 0
      let need := (b.accesses u j step last).filterMap (fun x => (s.chunkLine false id (64 * x.1)).map (fun c => (c.1, x.2, granPc c.2)))
      (List.range 12).all (fun k => decide (sumOf ((need.filter (fun x => x.1 == k)).map (fun x => x.2.1)) ≤ s.left b.slot 4 k))
        && need.all (fun x => s.pcFits x.1 x.2.2 (sumOf ((need.filter (fun y => y.1 == x.1 && y.2.2 == x.2.2)).map (fun y => y.2.1))))
        && decide ((h + half + 1) / 2 - (h + 1) / 2 ≤ s.left b.slot 6 (b.die u))

/-! ## Rounds (R246, R249) -/

/-- Close one unit of a round under OPER_ROUND_CLOSE (R249): 0 where it was complete already, 1 where it is finished with
contributions missing or left PENDING for its step parameters, 2 with none; none where its lines must be taken from their
holders first. A finish under a closing round sets every stamp of its record. -/
def State.closeUnit (s : State) (id u : Nat) : State × Option Nat :=
  match s.binding id with
  | none => (s, some 0)
  | some b =>
    let r4 := b.round % 4
    let (s, raw, tp) := s.readWorkN id (b.tallyLine u) b.recLines
    let t := tallyOf raw
    let count := if t.rnd = r4 then t.count else 0
    if b.pend.has u || b.finishing.has u then (s, some 0)
    else if count = b.ncontrib ∧ ¬tp then (s, some 0)
    else
      let s := s.chargeWork b.slot id (b.tallyLine u) 2
      let gone := fun (s : State) => s.modBinding id (fun b => { b with missing := true })
      let none4 := fun (s : State) =>
        ((gone s).writeWorkN id (b.tallyLine u) (tallyAll b.recLines r4 0).enc false).unitDone id u false
      if 0 < count ∨ tp then ((gone s).completeUnit id u tp, some 1)
      else if b.op = 0 ∧ ¬b.keep then
        match s.clearUnit b u with
        | (s, false) => (s, none)
        | (s, true) => match s.regionsIn b.slot (b.regions u) with
          | (s, false) => (s, none)
          | (s, true) => (none4 (s.over (b.regions u) (fun s r => s.writeRegion id b.slot r (zeros r.2) (fun _ => true) false)), some 2)
      else (none4 s, some 2)

/-- Whether the open round of an active binding may complete: every unit finished and none PENDING (R246). -/
def Binding.roundOver (b : Binding) : Bool := b.st == 1 && b.doneUnits == b.units && b.pend.isEmpty && b.finishing.isEmpty

/-- Complete the open round (R246): its event word, its pin, and the next round. -/
def State.roundComplete (s : State) (id : Nat) : State :=
  match s.binding id with
  | none => s
  | some b =>
    let r := b.round + 1
    let w := r % 2 ^ 62 + bitAt b.missing 63 + bitAt b.poisoned 62
    let s := s.modBinding id (fun b => { b with
      round := r, closing := false, missing := false, poisoned := false, doneUnits := 0, steps := b.steps.del b.round,
      snap := [], shadowCnt := [] })
    let s := if b.evWrite ∧ b.evAddr ≠ 0 then s.emit (.hostWrite b.func (b.evAddr + 8 * b.evIndex) (le 8 w) false) else s
    s.pulse b.evPin

end Sys2Proof.Machine
end

