-- ==== Sys2Proof/Machine/Access.lean ====
section
/-! DEFINITION. Host and window accesses from their arrival to their completion: held and admitted (R20, R21, R29, R375),
their snoops and directory entries (R299 to R303), and the merge or the read itself (R121 to R123, R301, R320). -/

namespace Sys2Proof.Machine

/-! ## Translation (R103 to R107, R135, R140, R242, R320, R430) -/

/-- What an address reaches: a line of a domain slot, what it stands for, and the sharer index of an HDM-DB extent. -/
structure Place where
  slot : Nat
  line : Nat
  target : Target
  sharer : Option Nat
deriving DecidableEq, Repr

/-- Translate an address of a logical device; where it is unmapped, the address under which that is logged. A standby logical device
answers as unmapped while its primary lives (R423). -/
def State.placeOf (s : State) (ld hpa : Nat) (writes : Bool) : Except Nat Place :=
  match s.dpaOf ld hpa with
  | none => .error hpa
  | some dpa => match s.extentAt ld dpa with
    | none => .error dpa
    | some (idx, e) =>
      let off := dpa - e.dpa
      let stands := s.herd.standbyOf.any (fun x => x.2.2 == ld)
      let at' := fun (line : Nat) (t : Target) =>
        (.ok { slot := e.slot, line := line, target := t, sharer := if e.hdmDb then some e.sharer else none } : Except Nat Place)
      if (writes && e.ro) || s.domSt e.slot != 1 || stands then .error dpa
      else if e.kind = 0 then at' ((e.doff + off) / 64) .line
      else if e.kind = 1 then at' (off / 64) (.pinned idx (off / 64 * 64))
      else if e.kind = 2 then if writes then at' (off / 64) (.oper e.target e.contributor (off / 64 * 64)) else .error dpa
      else at' (off / 64) (.impr e.target (off / 64 * 64))

/-- The domain line that an offset of a function's expansion window reaches: its slot, its domain offset and whether it may
be written (R140). -/
def State.windowAt (s : State) (func off : Nat) : Option (Nat × Nat × Bool) :=
  match s.ti.windows.get? (func * 64 + off / 2 ^ 30) with
  | none => none
  | some w =>
    let x := off % 2 ^ 30
    if w.valid && decide (x < blk * w.len) && decide (w.doff + x < s.size w.slot) && s.domSt w.slot == 1
    then some (w.slot, w.doff + x, !w.ro) else none

/-- Translate an access again, by the generation current now (R88): where it is unmapped, the address under which that is logged. An
access of another member names its line. -/
def State.retarget (s : State) (a : Access) : Except Nat Access :=
  let io := match a.kind with
    | .ioRead => true
    | .ioWrite => true
    | _ => false
  if a.origin.isSome then .ok a
  else if io then match s.windowAt a.func a.addr with
    | some (slot, doff, w) => if a.writes && !w then .error a.addr else .ok { a with slot := slot, line := doff / 64 }
    | none => .error a.addr
  else match s.placeOf a.ld a.addr a.writes with
    | .ok p => .ok { a with slot := p.slot, line := p.line, target := p.target, sharer := p.sharer }
    | .error dpa => .error dpa

/-! ## Where an access finds its data -/

/-- What a read resolves to: zero, poison, or a line of a plate. -/
inductive Found where
  | zero
  | poison
  | at (plate line : Nat)
deriving DecidableEq, Repr

/-- The plate line that an access to a plate or an impression reaches (R320). -/
def State.resolve (s : State) (a : Access) : Found :=
  match a.target with
  | .impr id off =>
    match s.sh.imprs.get? id with
    | none => .poison
    | some m =>
      let i := off / 4096
      match m.map.get? i with
      | some .torn => .poison
      | some .zero => .zero
      | some (.copy k) => .at (m.area + mapPlates m.count + k - 1) (off % 4096 / 64)
      | none => .at (m.first + i) (off % 4096 / 64)
  | _ => .at (a.line / 64) (a.line % 64)

/-- The damaged entry under which a plate of a lost member stands (R421). -/
def MapEnt.lostEnt : MapEnt :=
  { t0Slot := 0, store := 0, version := 0, clen := 4096, table := noTable, coding := cRaw, remote := false,
    moving := false, damaged := true, dirty := false, res0 := false, tier := 1, reads := 0 }

/-- Begin to rebuild a plate of a lost member from its row: the stripe lock first (R418, R421). -/
def State.startRebuild (s : State) (slot plate : Nat) (r : HdomRec) : State :=
  let key := plateKey slot plate
  match hKeeper r (hRow r plate) with
  | none => s.setEnt slot plate MapEnt.lostEnt
  | some k =>
    let s := { s with herd.rebuilds := s.herd.rebuilds.set key { keeper := k, locked := false, parts := [], wanted := [] } }
    s.request { s.mkMsg 0x20 k slot 0 with plate := plate, arg := BitVec.ofNat 128 (hRow r plate) } (.lock key)

/-- Take up a plate that this device has to answer for since another member was lost (R421): in an ERASURE domain it is
rebuilt, in another it stands as damaged. -/
def State.settle (s : State) (slot plate : Nat) : State :=
  if !s.lostHere slot plate || s.herd.rebuilds.has (plateKey slot plate) then s
  else match s.hdom slot with
    | some r => if r.kind = 2 then s.startRebuild slot plate r else s.setEnt slot plate MapEnt.lostEnt
    | none => s

/-- Whether a plate's fill is under way: a decode of it queued, or a flash read of it. -/
def State.filling (s : State) (slot plate : Nat) : Bool :=
  let k := plateKey slot plate
  s.cod.lanes.any (fun p => p.2.queue.any (fun j => j.kind == 1 && j.key == k))
    || s.cod.waiting.any (fun p => p.2.any (fun j => j.kind == 1 && j.key == k))
    || s.fl.reads.any (fun p => p.2.key == k && !p.2.patrol)
    || s.herd.rebuilds.has k

/-- Begin to bring a plate into T0 (R176 to R178, R373): a RAW plate of T1 or of a write buffer at once, a coded one through a lane, a flash
plate through a read of its slot, or of its stripe peers where its die is not read-available. -/
def State.startFill (s : State) (slot plate line : Nat) (e : MapEnt) : State :=
  let s := (s.havePage slot plate).1
  if e.tier = 1 ∨ (2 ≤ e.tier ∧ s.inWriteBuffer e.store) then
    if e.coding = cRaw then
      match s.takeT0 slot (useOf slot false plate) with
      | (s, some t) =>
        match s.expandHome slot plate e with
        | (s, some (d, bad)) => s.fillT0 slot plate t d bad (!bad.isEmpty)
        | (s, none) => s.dropT0 t
      | (s, none) => s
    else
      let die := homeDie e plate
      ((s.chargeHome slot e).charge slot 5 die decodeNominal).newJob die 1 1 decodeNominal (plateKey slot plate) line 0
  else if e.tier = 0 then s
  else
    let recon := s.fetchRecon e.store
    let s := s.charge slot 7 (faEngine e.store) (if recon then 504 else 72)
    -- the decode that follows is charged at admission (R176)
    let s := if e.coding = cRaw then s else s.charge slot 5 (homeDie e plate) decodeNominal
    let s := if recon then { s with fl.recon := cntAdd s.fl.recon 1 } else s
    s.beginRead e.store (plateKey slot plate) recon false none

/-- A line of a plate that its decode lane has released (R178). -/
def State.released (s : State) (slot plate i : Nat) : Option (List Byte) :=
  match s.cod.transit.get? (plateKey slot plate) with
  | some (mask, d) => if mask.testBit i && !s.owes slot plate then some (sub d (64 * i) 64) else none
  | none => none

/-- Whether an access to a line may act on its plate now: a read needs no fill of a never-written or damaged plate, nor of a line
released by its decode lane. -/
def State.ready (s : State) (slot plate i : Nat) (w : Bool) : Bool :=
  match s.ent slot plate with
  | none => true
  | some e => e.res0 || (e.damaged && !e.remote) || (w && e.tier == 0 && !e.remote) || (!w && (s.released slot plate i).isSome)

/-! ## Acting at the order point -/

/-- Read a line of a plate that is ready (R121, R122): its bytes and whether it is poisoned. A damaged plate read by a host
is reported once per logical device (R322). -/
def State.readPlateLine (s : State) (ld slot plate i : Nat) : State × List Byte × Bool :=
  match s.ent slot plate with
  | none => (s, zeros 64, false)
  | some e =>
    if e.res0 && !e.damaged then
      let s := s.refT0 e.t0Slot
      let s := s.modEnt slot plate (fun e => { e with reads := e.reads + 1 })
      s.readT0 slot plate e i
    else if !e.damaged && (s.released slot plate i).isSome then (s, (s.released slot plate i).getD [], false)
    else
      let seen := ((s.func ld).events.getD 2 []).contains (2, plateKey slot plate)
      (if seen then s else s.addEvent ld 2 (plateKey slot plate), zeros 64, true)

/-- Read a line of a pinned extent (R135, R351, R352, R466). -/
def State.readPinned (s : State) (slot ext off : Nat) : State × List Byte × Bool :=
  match s.chunkLine true ext off with
  | none => (s, zeros 64, true)
  | some (k, g) =>
    if s.pcOff k (granPc g) then (s, zeros 64, true)
    else if !(s.field 0 fRetainMask (32 * k + granPc g)).testBit (granSeg g) then
      ({ s with dram.unmapped := cntAdd s.dram.unmapped 1 }, zeros 64, true)
    else match (s.charge slot 4 k 1).readLine (dramLine k g) with
      | (s, .good d) => (s, d, false)
      | (s, .poison d) => (s, d, true)
      | (s, .uncorr d _) => (s, d, true)

/-- Write to a line of a pinned extent (R135, R331). -/
def State.writePinned (s : State) (slot ext off : Nat) (d : List Byte) (be : Nat) (poison : Bool) : State :=
  let s := match s.chunkCopy true ext off with
    | some (k, g) => (s.charge slot 4 k (if be % 2 ^ 64 = allBe then 1 else 2)).writeBe (dramLine k g) d be poison
    | none => s
  match s.chunkLine true ext off with
  | none => s
  | some (k, g) =>
    if s.pcOff k (granPc g) then s
    else (s.charge slot 4 k (if be % 2 ^ 64 = allBe then 1 else 2)).writeBe (dramLine k g) d be poison

/-- Write to a line of a plate whose map page has been looked up; the plate is made or brought in where it is ready (R121, R123, R318,
R469). False where no T0 slot can be had. -/
def State.writeAdmitted (s : State) (slot line : Nat) (d : List Byte) (be : Nat) (poison : Bool) : State × Bool :=
  match (s.preserve slot (line / 64)).bringPlate slot (line / 64) with
  | (s, true) =>
    let s := s.targetWrite slot line
    (s.mergeLine slot (line / 64) (line % 64) d be poison, true)
  | (s, false) => (s, false)

/-- Look up a plate and write to a line of it. -/
def State.writePlateLine (s : State) (slot line : Nat) (d : List Byte) (be : Nat) (poison : Bool) : State × Bool :=
  (s.bringPage slot (line / 64)).1.writeAdmitted slot line d be poison

/-- The MIRROR of an admitted request of a YOKE domain at its primary (R417): a write with its line, a read by its head
alone. The host's tag and logical device lie in ARG (DESIGN CHOICE, assumption 26). -/
def State.mirrorMsg (s : State) (a : Access) : Option Msg :=
  match s.hdom a.slot with
  | none => none
  | some r =>
    if r.kind ≠ 3 ∨ hAt r 0 ≠ some s.herd.device then none
    else match hAt r 1 with
      | none => none
      | some d => some { s.mkMsg 0x05 d a.slot 0 with
          plate := a.line / 64, line := a.line % 64, be := a.be, poison := a.poison,
          data := if a.writes then a.data else [],
          arg := BitVec.ofNat 128 (a.ld + a.tag * 2 ^ 7 + bitAt a.writes 23
            + (match s.herd.standbys.find? (fun x => x.1 == r.hdom && x.2.1 == a.ld) with
              | some x => 2 ^ 31 + 2 ^ 24 * x.2.2
              | none => 0)) }

/-- The DONE_NOTE after a completion of a YOKE domain reached through a CXL switch (R417). -/
def State.doneNote (s : State) (a : Access) : State :=
  match s.mirrorMsg a with
  | some m =>
    if a.origin.isNone && (s.head (headOf a.func)).mld then
      s.sendMsg { m with mop := 0x2C, arg := 1, data := le 4 a.tag ++ zeros 60 } false
    else s
  | none => s

/-- Complete an access whose data is at hand, with the notes that its domain's layout asks for. -/
def State.finishAccess (s : State) (id : Nat) (a : Access) (d : List Byte) (poison : Bool) : State :=
  match s.mirrorMsg a with
  | some m =>
    if a.writes then
      -- the write completes only after the partner's CMP
      { s with sh.waiting := s.sh.waiting.set id { a with sent := true } }.request m (.mirror id)
    else if a.origin.isNone && (s.head (headOf a.func)).mld then
      ((s.request m .quiet).complete a d poison).doneNote a
    else s.complete a d poison
  | none => s.complete a d poison

/-- The member that is home to the unit that a contribution names, where it is not this device (R242). -/
def State.contribHome (s : State) (slot id off : Nat) : Option Nat :=
  match s.binding id with
  | none => none
  | some b =>
    match s.plateHome slot ((b.target + off % b.quarter / 64 * b.k * outBytes b.outElem) / 4096) with
    | .at d => some d
    | _ => none

/-- Send a contribution to the member that is home to its unit; ADDR names its line within the quarter (R390; DESIGN CHOICE,
assumption 26). -/
def State.sendContrib (s : State) (id dev b j off : Nat) (a : Access) : State :=
  let q := ((s.binding b).map Binding.quarter).getD 1
  { s with sh.waiting := s.sh.waiting.set id { a with sent := true } }.request
    { s.mkMsg 0x04 dev a.slot 0 with
      plate := off % q / 4096, line := off % q % 4096 / 64, be := a.be, poison := a.poison, data := a.data,
      arg := BitVec.ofNat 128 (b % 4096 + 2 ^ 16 * j + 2 ^ 32 * (off / q % 4)) } (.access id)

/-- Let an access act: read or merge, then complete (R300). -/
def State.act (s : State) (id : Nat) (a : Access) : State :=
  let taken := fun (s : State) => { s with sh.waiting := s.sh.waiting.del id }.traceOrder a.ld a.line
  -- under Device Fatal reads are poisoned and writes dropped (R322)
  if s.ras.fatal then (taken s).complete a (zeros 64) true
  else match a.target with
  | .pinned x off =>
    let s := taken s
    if a.writes then (s.writePinned a.slot x off a.data a.be.toNat a.poison).complete a [] false
    else
      let (s, d, p) := s.readPinned a.slot x off
      s.complete a d p
  | .oper b j off =>
    if a.writes then match s.contribHome a.slot b off with
      | some dev => (taken s).sendContrib id dev b j off a
      | none =>
        -- a contribution that needs the target waits until it can be read
        match s.contribReady b j off a.be.toNat with
        | (s, true) => ((taken s).contribute b j off a.data a.be.toNat a.poison).complete a [] false
        | (s, false) => s
    else ((taken s).logUnmapped a.ld off).complete a (zeros 64) true
  | _ =>
    if a.writes then
      -- a write that finds no T0 slot goes on waiting
      match s.writeAdmitted a.slot a.line a.data a.be.toNat a.poison with
      | (s, true) => (taken s).finishAccess id a [] false
      | (s, false) => s
    else
      let s := taken s
      let grantA := match a.kind with
        | .read .A => a.sharer.isSome
        | .inv => a.sharer.isSome
        | _ => false
      let s := if grantA then s.preserve a.slot (a.line / 64) else s
      match s.resolve a with
      | .zero => s.complete a (zeros 64) false
      | .poison => s.complete a (zeros 64) true
      | .at p i =>
        let (s, d, bad) := s.readPlateLine a.ld a.slot p i
        s.finishAccess id a d bad

/-- The logical device, sharer and MetaValue that a forwarded request carries in ARG (DESIGN CHOICE, assumption 26). -/
def Access.arg (a : Access) : Nat :=
  let mv := match a.kind with
    | .read m => metaNum m
    | .write m _ => metaNum m
    | .inv => 2 + 4
    | _ => 0
  mv + a.ld * 8 + bitAt a.sharer.isSome 10

/-- Send an access to the member that is home to its plate, once (R390). -/
def State.sendAccess (s : State) (id dev plate line : Nat) (a : Access) : State :=
  if a.sent then s
  else
    let s := { s with sh.waiting := s.sh.waiting.set id { a with sent := true } }
    if a.writes then s.remoteWrite dev a.slot (plate * 64 + line) a.data a.be a.poison a.arg (.access id)
    else s.request { s.mkMsg 0x01 dev a.slot 0 with plate := plate, line := line, arg := BitVec.ofNat 128 a.arg }
      (.access id)

/-- The T0 slots an access still needs: its plate's, and its map page's. -/
def State.t0Need (s : State) (slot plate : Nat) (w : Bool) : Nat :=
  let page := match s.page slot plate with
    | some p => if p.t0Slot.isSome then 0 else 1
    | none => 1
  match s.ent slot plate with
  | none => if w then 1 + page else 0
  | some e => if e.res0 then 0 else if e.damaged && !w then page else 1 + page

/-- Take an admitted access of this device's own plates as far as it can go: its snoops, then its directory entry, then its
plate, then its completion. `plain` says that it names the line itself and not a copy of it. -/
def State.tryLocal (s : State) (id : Nat) (a : Access) (plain : Bool) : State :=
  let e := if plain then s.dirEnt a.slot a.line else none
  match snoopsFor e a.sharer a.kind with
  | some (inv, l) => s.over l (fun s x => s.sendSnoop a.slot a.line x inv none none)
  | none =>
    let after := if plain then dirAfter e a.sharer a.kind else none
    let grows := e.isNone && after.isSome
    if grows && decide (s.dirShare a.slot ≤ (s.dirOf a.slot).length) then
      -- one victim for the request, which waits until that entry is gone (R299)
      if s.sh.snoops.any (fun p => p.2.owner == some (4096 + id) && !p.2.late) then s
      else match s.dirVictim a.slot with
        | some (l, v) =>
          { s with sh.dirHand := s.sh.dirHand.set a.slot (l + 1) }.recallEntry a.slot l v (some (4096 + id))
        | none => s
    else
      let fill := if a.kind = AccKind.inv then none else match s.resolve a with
        | .at p i => if s.ready a.slot p i a.writes then none else some (p, i)
        | _ => none
      let need := if a.writes && a.target == .line then s.t0Need a.slot (a.line / 64) true else 0
      if need ≠ 0 ∧ ¬s.hasT0 a.slot need then s.makeRoom a.slot need
      else match fill with
      | some (p, i) =>
        if s.filling a.slot p then s
        else match s.ent a.slot p with
          | some en =>
            let s := s.startFill a.slot p i en
            if s.ready a.slot p i a.writes then (s.setDirIf plain a.slot a.line after).act id a else s
          | none => s
      | none =>
        match (if a.writes then s.needsMark a.slot (a.line / 64) else none) with
        | some k =>
          if s.herd.txns.any (fun t => t.2.use == .mark (plateKey a.slot (a.line / 64))) then s
          else s.request { s.mkMsg 0x06 k a.slot 0 with plate := a.line / 64 } (.mark (plateKey a.slot (a.line / 64)))
        | none => (s.setDirIf plain a.slot a.line after).act id a

/-- An access to a plate whose position has no member (R421): a read of an ERASURE domain rebuilds the plate from its row for its
own use; any other read is poisoned, and a write reaches nothing. -/
def State.lostAccess (s : State) (id : Nat) (a : Access) (plate i : Nat) : State :=
  let key := plateKey a.slot plate
  let finish := fun (s : State) (d : List Byte) (bad : Bool) =>
    { s with sh.waiting := s.sh.waiting.del id }.complete a d bad
  if a.writes || s.herd.st == 4 then finish s (zeros 64) true
  else match s.herd.buf.get? key with
    | some (d, bad) => finish { s with herd.buf := s.herd.buf.del key } (sub d (64 * i) 64) (bad.contains i)
    | none =>
      if s.herd.rebuilds.has key then s
      else match s.hdom a.slot with
        | some r => if r.kind = 2 ∧ (hKeeper r (hRow r plate)).isSome then s.startRebuild a.slot plate r
          else finish s (zeros 64) true
        | none => finish s (zeros 64) true

/-- Take an admitted access of this device's own plates further, once the writes that wait for its plate have reached it. -/
def State.tryHere (s : State) (id : Nat) (a : Access) (plate : Nat) (plain : Bool) : State :=
  if !s.owes a.slot plate then s.tryLocal id a plain
  else match s.bringIn a.slot plate with
    | (s, true) => s.tryLocal id a plain
    | (s, false) => s

/-- Take one admitted access as far as it can go: behind earlier accesses of its line, to another member where its plate's
home is there, else through its snoops and its fill to its completion. -/
def State.tryAccess (s : State) (id : Nat) : State :=
  match s.sh.waiting.get? id with
  | none => s
  | some a =>
    match a.target with
    | .pinned _ _ => s.act id a
    | .oper _ _ _ => s.act id a
    | _ =>
      let plain := a.target == .line
      let behind := plain && s.sh.waiting.any (fun p => decide (p.1 < id) && p.2.slot == a.slot && p.2.line == a.line
        && p.2.target == .line)
      if behind || a.sent || (plain && s.snooping a.slot a.line) then s
      else match s.resolve a with
        | .at p i =>
          match s.plateHome a.slot p with
          | .at dev =>
            -- a read of a plate that a pull delivery holds is a T0 hit (R217)
            if s.heldHere a.slot p && !a.writes && a.sharer.isNone then s.tryLocal id a plain
            else s.sendAccess id dev p i a
          | .lost => s.lostAccess id a p i
          | .here =>
            let s := s.settle a.slot p
            if s.herd.rebuilds.has (plateKey a.slot p) then s else s.tryHere id a p plain
        | _ => s.tryLocal id a plain

/-- Let every waiting access go as far as it can, in order of admission. -/
def State.advance (s : State) : State := s.over (s.sh.waiting.map Prod.fst) State.tryAccess

/-! ## Admission (R20, R21, R29, R176, R373, R375) -/

/-- The requester of an access in the transaction tracker (R29): head 0 to 7, or 8 for the Apyan links together. -/
def Access.requester (a : Access) : Nat := if a.origin.isSome then 8 else headOf a.func

/-- The tracker entries reserved for a requester (R29): 9 is the device's own work. -/
def trackerReserve (g : Nat) : Nat := if g < 8 then 2048 else if g = 8 then 16384 else 8192

/-- The tracker entries that a requester holds: of the device's own work those of the bursts in flight (R273). -/
def State.trackerUse (s : State) (g : Nat) : Nat :=
  if g = 9 then sumOf (s.dma.chans.map (fun c => c.2.flight.length)) else (s.sh.waiting.filter (fun p => p.2.requester == g)).length

/-- Whether the transaction tracker has an entry for a requester: one reserved for it, or one of the shared pool (R29). -/
def State.trackerRoom (s : State) (g : Nat) : Bool :=
  decide (s.trackerUse g < trackerReserve g)
    || decide (sumOf ((List.range 10).map (fun h => s.trackerUse h - trackerReserve h)) < 24576)

/-- Whether the grants of an access's domain allow what its plate needs (R21, R176, R375). -/
def State.homeGrant (s : State) (slot plate : Nat) (e : MapEnt) : Bool :=
  if e.tier = 1 then
    decide (granules e.clen ≤ s.left slot 4 (storeStack e.store))
      && s.runFits (storeStack e.store) (storeGran e.store) (granules e.clen)
      && (e.coding == cRaw || decide (0 < s.left slot 5 (homeDie e plate)))
  else if e.tier = 0 then true
  else (s.inWriteBuffer e.store || (decide (0 < s.left slot 7 (faEngine e.store)) && s.flashReadable e.store))
    && (e.coding == cRaw || decide (0 < s.left slot 5 (homeDie e plate)))

/-- Whether the map page of a plate is fetched from flash (R373). -/
def State.pageInFlash (s : State) (slot plate : Nat) : Bool :=
  match s.page slot plate with
  | some pg => pg.t0Slot.isNone && pg.tier != 1 && !s.inWriteBuffer pg.store
  | none => false

/-- Whether the grants of an access's domain allow the fetch of a map page, and its flash slot can be read (R117, R373, R375). -/
def State.pageGrant (s : State) (slot plate : Nat) : Bool :=
  match s.page slot plate with
  | some pg =>
    if pg.t0Slot.isSome then true
    else if pg.tier = 1 then decide (64 ≤ s.left slot 4 (storeStack pg.store))
    else s.inWriteBuffer pg.store || (decide (0 < s.left slot 7 (faEngine pg.store)) && s.flashReadable pg.store)
  | none => true

/-- Whether an access may be admitted to a plate of this device: its map page and its home hold what they take. A plate of flash whose map
page comes from flash is read as a continuation, which is not admitted again (R373). -/
def State.plateAdmits (s : State) (slot plate : Nat) (e : MapEnt) : Bool :=
  s.pageGrant slot plate && (s.homeGrant slot plate e || (s.pageInFlash slot plate && decide (2 ≤ e.tier)
    && decide (0 < s.left slot 7 (faEngine e.store)) && (e.coding == cRaw || decide (0 < s.left slot 5 (homeDie e plate)))))

/-- Whether writes to a plate are held in this stride: its unit of a staged change plan has been moved again three times
and moves now (R94). -/
def State.planHolds (s : State) (slot plate : Nat) : Bool :=
  let key := plateKey slot plate
  s.ops.tab.any (fun x => match x.2.body with
    | .plan p => decide (3 ≤ p.again.getD key 0) && p.slice.any (fun u => u.2 % 2 ^ 50 == key && decide (u.2 < 2 ^ 60))
    | _ => false)

/-- Whether the fabric grants cover an access (R21, R401): to a plate at home on another member its request and the answer, of a YOKE
domain at its primary its MIRROR. -/
def State.farGrant (s : State) (a : Access) (plate : Nat) : Bool :=
  let n := bitAt a.writes 0
  match s.plateHome a.slot plate with
  | .at dev => (s.heldHere a.slot plate && !a.writes && a.sharer.isNone) || s.fabricGrant a.slot dev (1 + n) (2 - n)
  | .lost => true
  | .here => match s.mirrorMsg a with
    | some m => !(a.writes || (a.origin.isNone && (s.head (headOf a.func)).mld)) || s.fabricGrant a.slot m.dst (1 + n) 1
    | none => true

/-- Whether a held access may be admitted: no earlier held access of its logical device to its line, a tracker entry, head
and fabric grants, and what its line needs. -/
def State.admissible (s : State) (id : Nat) (a : Access) : Bool :=
  let head := headOf a.func
  let mine := s.sh.held.getD id a
  let first := !s.sh.held.any (fun p => decide (p.1 < id) && p.2.ld == a.ld && p.2.slot == mine.slot && p.2.line == mine.line)
  let grantA := match a.kind with
    | .read .A => a.sharer.isSome
    | .inv => a.sharer.isSome
    | _ => false
  let heads := a.origin.isSome || (decide (1 ≤ s.left a.slot 0 head) && decide (1 ≤ s.left a.slot 1 head))
  -- a member that disagrees with its herd holds its hosts' accesses to herd domains (R412)
  let agreed := (s.hdom a.slot).isNone || (s.herd.cause % 4 == 0 && !s.herd.asked)
  let data := match a.target with
    | .pinned x off => match s.chunkLine true x off with
      | some (k, g) =>
        let n := if a.writes && a.be != BitVec.ofNat 64 allBe then 2 else 1
        decide (n ≤ s.left a.slot 4 k) && s.pcFits k (granPc g) n
      | none => true
    | .oper b j off => !a.writes || s.contribGrant b j off a.be.toNat
    | _ => match s.resolve a with
      | .at p _ => s.farGrant a p && (s.plateHome a.slot p != .here || match s.ent a.slot p with
        | some e => e.res0 || e.remote || (e.damaged && !a.writes) || s.filling a.slot p || s.plateAdmits a.slot p e
        | none => !a.writes || s.pageGrant a.slot p)
      | _ => true
  let stays := a.writes && (match a.target with
    | .line => s.planHolds a.slot (a.line / 64)
    | _ => false)
  first && agreed && !stays && s.trackerRoom a.requester && heads && data && !(grantA && s.sealed a.slot a.line)

/-- The lookup of an admitted access's map page (R103, R117, R126, R146): none for a read of a never-written plate (R121), nor for a
plate at home elsewhere. -/
def State.lookUp (s : State) (a : Access) : State :=
  match a.target with
  | .pinned _ _ => s
  | .oper _ _ _ => s
  | _ => match s.resolve a with
    | .at p _ =>
      if s.plateHome a.slot p == .here && a.kind != AccKind.inv && ((s.ent a.slot p).isSome || a.writes) then
        (s.bringPage a.slot p).1
      else s
    | _ => s

/-- Give back the link credits of a request: its slots have left the ingress buffer (R21, R386, R388). -/
def State.creditBack (s : State) (c : Option (Nat × Nat)) : State :=
  match c with
  | some (l, n) => s.modLink l (fun k => { k with freed := k.freed.set 0 ((k.freed.getD 0 0 + n) % 65536) })
  | none => s

/-- Admit a held access where the state allows it: translate it by the generation current now (R88), charge it, then let it act (R20,
R21). -/
def State.admitAccess (s : State) (id : Nat) : State :=
  match s.sh.held.get? id with
  | none => s
  | some a => match s.retarget a with
  | .error dpa => ({ s with sh.held := s.sh.held.del id }.logUnmapped a.ld dpa).answerUnmapped a
  | .ok a =>
    if !s.admissible id a then s
    else
      let need := match a.target with
        | .pinned _ _ => 0
        | .oper _ _ _ => 0
        | _ => match s.resolve a with
          | .at p _ => if s.plateHome a.slot p == .here then s.t0Need a.slot p a.writes else 0
          | _ => 0
      let s := if s.hasT0 a.slot need || need == 0 then s else s.makeRoom a.slot need
      if need ≠ 0 ∧ ¬s.hasT0 a.slot need then s
      else
        let s := if a.origin.isSome then s
          else (s.charge a.slot 0 (headOf a.func) 1).charge a.slot 1 (headOf a.func) 1
        let s := { s with sh.held := s.sh.held.del id, sh.waiting := s.sh.waiting.set id { a with stride := s.str.count } }
        -- a plain write is folded at its admission (R263)
        let s := if a.writes && a.target == .line then s.foldPlain a.slot a.line a.data a.be.toNat else s
        ((s.creditBack a.credit).lookUp a).tryAccess id

/-- Hold a new access and let it in at once where the state allows it (R21); it takes over the credits that the request being taken is
owed. -/
def State.arrive (s : State) (a : Access) : State :=
  let id := s.sh.nextId
  { s with sh.nextId := id + 1, sh.held := s.sh.held.set id { a with credit := s.herd.rx }, herd.rx := none }.admitAccess id

end Sys2Proof.Machine
end

