-- ==== Sys2Proof/Machine/Placement.lean ====
section
/-! DEFINITION. Placement of plates: PLACE_MOVE, PLATE_QUERY, PLATE_DISCARD (R128, R129, R142), demotion (R126) and the sweep of
the touched bits. First the helpers by which every long operation advances (R22, R74). -/

namespace Sys2Proof.Machine

/-! ## Long operations -/

/-- Set what an operation works on. -/
def State.setBody (s : State) (h : Nat) (b : OpBody) : State := s.modOp h (fun o => { o with body := b })

/-- A slice of an operation ran in this stride: its DONE so far (R70, R72). -/
def State.ranTo (s : State) (h done : Nat) : State := s.modOp h (fun o => { o with done := max o.done done, ran := true })

/-- The operation becomes DONE at the next boundary, with a status. -/
def State.endOp (s : State) (h status : Nat) : State := s.modOp h (fun o => { o with ending := some (opDone, status) })

/-- The operation becomes FAILED at the next boundary, with a status. -/
def State.failOp (s : State) (h status : Nat) : State := s.modOp h (fun o => { o with ending := some (opFailed, status) })

/-- Set an operation's results. -/
def State.setResults (s : State) (h r0 r1 : Nat) : State := s.modOp h (fun o => { o with r0 := r0, r1 := r1 })

/-- The results of an operation. -/
def State.results (s : State) (h : Nat) : Nat × Nat :=
  match s.ops.tab.get? h with
  | some o => (o.r0, o.r1)
  | none => (0, 0)

/-! ## PLACE_MOVE (R128) -/

/-- What a slice of PLACE_MOVE does with one plate: nothing, it must wait, it stays in place, another member holds it, or it moves, found
damaged or not. -/
inductive Placed where
  | nothing
  | wait
  | left
  | remote (device : Nat)
  | moved (damaged : Bool)
deriving DecidableEq, Repr

/-- Whether the grants of a domain cover the move of a plate in this stride (R24, R128). -/
def State.moveGrant (s : State) (slot plate tier : Nat) (e : MapEnt) : Bool :=
  let out := if e.damaged || e.tier == 0 then true
    else if e.tier = 1 then decide (granules e.clen ≤ s.left slot 4 (storeStack e.store))
    else decide (0 < s.left slot 7 (faEngine e.store))
  let into := if e.damaged then true
    else if tier = 1 then (List.range 12).any (fun k => decide (granules e.clen ≤ s.left slot 4 k))
    else (List.range 4).any (fun d => decide (0 < s.left slot 7 d))
  let lane := if e.damaged || !(e.tier == 0 || e.dirty) then true else decide (0 < s.left slot 5 (homeDie e plate))
  out && into && lane

/-- Move one plate toward a tier: a plate at home on another member is moved by that member (R128). -/
def State.placeOne (s : State) (slot plate tier : Nat) : State × Placed :=
  match s.ent slot plate with
  | none => (s, .nothing)
  | some e =>
    if e.remote then (s, .remote e.store)
    else if e.tier == tier then (s, .nothing)
    else if e.moving then (s, .wait)
    else if tier < s.domF slot fPlaceHighest || s.domF slot fPlaceLowest < tier
        || !s.room slot tier (s.movedLen slot plate e) then (s, .left)
    else if !s.moveGrant slot plate tier e then (s, .wait)
    else match s.moveHome slot plate tier false with
      | none =>
        -- a stripe lock or a used-up lane grant holds it back; else the tier has no room
        let noLane := (e.dirty || e.tier == 0) && (List.range 4).any (fun d => s.left slot 5 d == 0)
        (s, if s.rowHeld slot plate || noLane then .wait else .left)
      | some s => (s, .moved ((s.ent slot plate).any MapEnt.damaged))

/-- Ask the member that holds a plate to move it to a tier (R128; DESIGN CHOICE, assumption 27). -/
def State.askPlace (s : State) (h dev slot plate tier : Nat) : State :=
  s.request { s.mkMsg 0x08 dev slot 0 with plate := plate, data := zeros 64, arg := BitVec.ofNat 128 (2 ^ 39 + 2 ^ 37 * tier) } (.place h)

/-- Up to `n` plates of a PLACE_MOVE: the next cursor with the plates left in place and those damaged. -/
def State.placeSome (s : State) (h slot first tier cursor l d : Nat) : Nat → State × Nat × Nat × Nat
  | 0 => (s, cursor, l, d)
  | n + 1 =>
    match s.placeOne slot (first + cursor) tier with
    | (s, .wait) => (s, cursor, l, d)
    | (s, .nothing) => s.placeSome h slot first tier (cursor + 1) l d n
    | (s, .left) => s.placeSome h slot first tier (cursor + 1) (l + 1) d n
    | (s, .moved b) => s.placeSome h slot first tier (cursor + 1) l (d + if b then 1 else 0) n
    | (s, .remote dev) => (s.askPlace h dev slot (first + cursor) tier).placeSome h slot first tier (cursor + 1) l d n

/-- One slice of PLACE_MOVE. -/
def State.placeSlice (s : State) (h slot first count tier cursor : Nat) : State :=
  let (r0, r1) := s.results h
  let (s, c, l, d) := s.placeSome h slot first tier cursor r0 r1 (min 64 (count - cursor))
  let s := ((s.setBody h (.placeMove slot first count tier c)).setResults h l d).ranTo h c
  if c < count || s.herd.txns.any (fun t => t.2.use == .place h) then s else s.endOp h (if d = 0 then stOk else stDataError)

/-- The plate range of a command, if it is one: first plate and plates from 1 to 2^24, within the 2^36 plates of a domain. -/
def plateRange (p : Pkt) : Option (Nat × Nat) :=
  let a := p.p0.toNat
  let n := p.p1.toNat
  if n = 0 ∨ 2 ^ 24 < n ∨ 2 ^ 36 < a + n then none else some (a, n)

/-- PLACE_MOVE. -/
def cPlaceMove : Cmd := longCmd 0x0600 true .any (fun s _ p =>
  let tier := fld p.p2.toNat 0 2
  match plateRange p with
  | none => deny s stBadParam
  | some (a, n) =>
    if tier = 0 then deny s stBadParam
    else (s, .start (.placeMove (slotOf p) a n tier 0) n 0 0 opQueued))

/-- PLATE_QUERY: the map entry; zero for never-written. -/
def cPlateQuery : Cmd := shortCmd 0x0601 true .any (fun s _ p =>
  if 2 ^ 36 ≤ p.p0.toNat then deny s stBadParam
  else
    let w := match s.ent (slotOf p) p.p0.toNat with
      | some e => e.word
      | none => 0
    done s stOk (w % 2 ^ 64) (w / 2 ^ 64))

/-! ## PLATE_DISCARD (R129) -/

/-- The end of the slice that begins at a cursor: the rest of its map page. -/
def discardEnd (first count cursor : Nat) : Nat := min count (((first + cursor) / 256 + 1) * 256 - first)

/-- The lines of a run of plates that some host holds. -/
def State.heldLines (s : State) (slot first n : Nat) : List Nat :=
  ((s.dirOf slot).filter (fun x => decide (first * 64 ≤ x.1) && decide (x.1 < (first + n) * 64))).map Prod.fst

/-- Begin a slice of PLATE_DISCARD: impressions keep what they share, and holders give up their lines (R298, R318). -/
def State.discardSlice (s : State) (h slot first count cursor : Nat) : State :=
  let n := discardEnd first count cursor - cursor
  let s := s.over (rangeFrom (first + cursor) n) (fun s p => s.preserve slot p)
  (s.clearLines slot (s.heldLines slot (first + cursor) n) true).1.ranTo h cursor

/-- The admitted writes to a run of plates that have not reached them are discarded with the plates: they complete without effect
(R129). -/
def State.dropWrites (s : State) (slot first n : Nat) : State :=
  s.over (s.sh.waiting.filter (fun x => x.2.slot == slot && x.2.target == .line && x.2.writes && !x.2.sent
      && decide (first ≤ x.2.line / 64) && decide (x.2.line / 64 < first + n))) (fun s x =>
    { s with sh.waiting := s.sh.waiting.del x.1 }.complete x.2 [] false)

/-- End a slice of PLATE_DISCARD at the boundary: its plates are never-written, once no host holds a line of them. -/
def State.discardEndSlice (s : State) (h slot first count cursor : Nat) : State :=
  let n := discardEnd first count cursor - cursor
  if !(s.heldLines slot (first + cursor) n).isEmpty then s
  else
    let s := (s.over (rangeFrom (first + cursor) n) (fun s p => s.forget slot p)).dropWrites slot (first + cursor) n
    let c := cursor + n
    let s := (s.setBody h (.discard slot first count c)).ranTo h c
    if count ≤ c then s.endOp h stOk else s

/-- PLATE_DISCARD. -/
def cPlateDiscard : Cmd := longCmd 0x0602 true .any (fun s _ p =>
  match plateRange p with
  | none => deny s stBadParam
  | some (a, n) => (s, .start (.discard (slotOf p) a n 0) n 0 0 opQueued))

/-! ## Demotion and the touched bits (R126) -/

/-- The T1 share that demotion keeps to: that in force, also while a plan sets another (DEDUCED, assumption 42). -/
def State.shareInForce (s : State) (slot : Nat) : Nat :=
  let f := mib * s.field slot fTierShare 0
  if s.effShare 1 then min f (s.effectiveShare slot 1) else f

/-- Whether a home copy in T1 holds a poisoned line (R471). -/
def State.homePoisoned (s : State) (e : MapEnt) : Bool :=
  e.coding == cRaw && !e.damaged
    && (List.range 64).any (fun i => s.synOf (dramLine (storeStack e.store) (storeGran e.store + i)) == zSyn)

/-- The plates of a domain that a demotion slice may take, from the pointer on with wrap: those of untouched map pages where
there is one, else any; a plate with a poisoned line stays while the share has room (R472). -/
def State.demotable (s : State) (slot ptr : Nat) : List (Nat × MapEnt) :=
  let l := (s.platesOf slot).filter (fun p => p.2.tier == 1 && !p.2.remote && !p.2.moving
    && !(s.homePoisoned p.2 && s.room slot 1 p.2.clen))
  let cold := l.filter (fun p => !(s.page slot p.1).any MapPage.touched)
  let l := if cold.isEmpty then l else cold
  l.filter (fun p => decide (ptr ≤ p.1)) ++ l.filter (fun p => decide (p.1 < ptr))

/-- The bytes of T1 that are charged to a domain, pinned ones included (R130), less those that its moving plates leave in this
stride. -/
def State.t1Use (s : State) (slot : Nat) : Nat :=
  64 * s.tierUse slot 1 + s.pinned slot - sumOf (s.ti.switches.map (fun x =>
    match (if x.key / 2 ^ 36 = slot then s.ti.map.get? x.key else none) with
    | some e => if e.tier = 1 ∧ ¬e.remote then granules e.clen * 64 else 0
    | none => 0))

/-- Whether a demotion of the domain is under way or due: `demote` holds twice the pointer, with 1 while it runs. -/
def State.demoting (s : State) (slot : Nat) : Bool :=
  let share := s.shareInForce slot
  let use := s.t1Use slot
  if s.ti.demote.getD slot 0 % 2 = 1 then decide (share * 7 < use * 8) else decide (share * 15 < use * 16)

/-- Move plates out of T1 until the use is at or below 7/8 of the share, at most as many as given (R126). -/
def State.demoteSome (s : State) (slot : Nat) : Nat → List (Nat × MapEnt) → State
  | 0, _ => s
  | _, [] => s
  | n + 1, (p, e) :: l =>
    if s.t1Use slot * 8 ≤ s.shareInForce slot * 7 then s
    else
      let dest := ((rangeFrom 2 2).filter (fun t => decide (t ≤ s.domF slot fPlaceLowest))).find? (fun t => s.room slot t e.clen)
      match dest.bind (fun t => s.moveHome slot p t false) with
      | none => s
      | some s => { s with ti.demote := s.ti.demote.set slot (2 * (p + 1) + 1) }.demoteSome slot n l

/-- DEMOTION_SLICE (R126): up to 16 plates; off while a dressage table is in force (R32). -/
def execDemotionSlice (slot : Nat) (s : State) : Host.Outcome State Fault Refusal :=
  .next (if s.tst.inForce != 0 || !s.isActive || s.domSt slot != 1 || !s.demoting slot then s
    else
      let ptr := s.ti.demote.getD slot 0 / 2
      let s := { s with ti.demote := s.ti.demote.set slot (2 * ptr + 1) }.demoteSome slot 16 (s.demotable slot ptr)
      if s.demoting slot then s
      else { s with ti.demote := s.ti.demote.set slot (s.ti.demote.getD slot 0 / 2 * 2) })

/-- TOUCHED_SWEEP (R126): every SWEEP_PERIOD × 4,096 strides the touched bits are cleared. -/
def execTouchedSweep (s : State) : Host.Outcome State Fault Refusal :=
  .next (if s.str.count % (4096 * s.dev fSweepPeriod) = 0 then
      { s with ti.pages := s.ti.pages.map (fun (p : Nat × MapPage) => (p.1, { p.2 with touched := false })) }
    else s)

/-- PLACE_MOVE. -/
def execPlaceMove (o : Origin) (p : Pkt) (s : State) : Host.Outcome State Fault Refusal :=
  .next (s.packet cPlaceMove none o p)

/-- PLATE_QUERY. -/
def execPlateQuery (o : Origin) (p : Pkt) (s : State) : Host.Outcome State Fault Refusal :=
  .next (s.packet cPlateQuery none o p)

/-- PLATE_DISCARD. -/
def execPlateDiscard (o : Origin) (p : Pkt) (s : State) : Host.Outcome State Fault Refusal :=
  .next (s.packet cPlateDiscard none o p)

end Sys2Proof.Machine
end

