-- ==== Sys2Proof/Machine/CodingOps.lean ====
section
/-! DEFINITION. Burin lanes at work (R169, R175 to R178, R193 to R195), segments and tables (R179 to R192, R196), the proof pass
(R183 to R189), staging claims (R32), and their commands and events. -/

namespace Sys2Proof.Machine

/-! ## Lanes -/

/-- Take the job at the head of a lane's queue. -/
def State.popJob (s : State) (lane : Nat) : State := s.modLane lane (fun l => { l with queue := l.queue.tail })

/-- The mask of the lines that decode lanes hold: eight lines a lane (R156, R169). -/
def laneLines (ls : List Nat) : Nat := sumOf (ls.map (fun k => 255 * 2 ^ (8 * k)))

/-- The decode lanes whose lines are out when a lane's own fault fails a check: all at a plate-level check, at a lane-level one those
that passed before it, in the order of R178, none at a check on the header (R169, R194). -/
def faultLanes (coding check passed first : Nat) : List Nat :=
  if check = 10 ∨ (check = 9 ∧ coding ≠ cSpz) then List.range 8
  else if 6 ≤ check ∧ check ≤ 9 then (List.range (passed % 8)).map (fun i => (first + i) % 8)
  else []

/-- The entry 0x0602 that follows an entry of a failed check after lines were released (R169, R485). -/
def State.logReleased (s : State) (slot mask : Nat) : State :=
  if mask = 0 then s else s.logE 0x0602 (some slot) ((s.ras.nextLseq + 2 ^ 32 - 1) % 2 ^ 32) mask

/-- Release lines of a plate as their decode lanes pass: the reads that wait for them are served from the transit region (R169,
R178). -/
def State.releaseLines (s : State) (key mask : Nat) (d : List Byte) : State :=
  if mask = 0 then s
  else
    let s := { s with cod.transit := s.cod.transit.set key (mask, d) }.advance
    { s with cod.transit := s.cod.transit.del key }

/-- A decode has failed a check after it released the lines of a mask, with their data: the stored plate is read again and decoded on
another lane; a second failure damages the plate with the check that failed first (R169, R194). -/
def State.decodeFailed (s : State) (lane : Nat) (j : Job) (e : MapEnt) (check mask : Nat) (d : List Byte) : State :=
  let slot := j.key / 2 ^ 36
  let plate := j.key % 2 ^ 36
  let die := lane / 16
  let released := j.released ||| mask
  let s := s.releaseLines j.key mask d
  match j.failedOn with
  | none =>
    (((s.diverge 1).chargeHome slot e).charge slot 5 die decodeNominal).giveJob die
      { j with failedOn := some lane, check := check, released := released }
  | some _ => ((s.damage slot plate j.check).logReleased slot released).advance

/-- A decode has passed: its escape cycles are charged, a retry's first failure is counted against its lane, and the plate
enters T0 (R176, R194); while no T0 slot is free, the reads that wait for it are served all the same. -/
def State.decodeDone (s : State) (lane : Nat) (j : Job) (d : List Byte) (bad : List Nat) (cycles : Nat) : State :=
  let slot := j.key / 2 ^ 36
  let plate := j.key % 2 ^ 36
  let s := { s with cod.decoded := cntAdd s.cod.decoded 1 }.charge slot 5 (lane / 16) (cycles - decodeNominal)
  let s := match j.failedOn with
    | some n => (s.laneFault n (n != lane) slot plate).logReleased slot j.released
    | none => s
  match s.takeT0 slot (useOf slot false plate) with
  | (s, some t) => (s.fillT0 slot plate t d bad (!bad.isEmpty)).advance
  | (s, none) => s.releaseLines j.key allBe d

/-- The lane is done with a decode whose plate the device has used already, every line of it: a fault of the lane takes it to another
lane, and one there too damages the plate, its copy in T0 with it (R169, R194). -/
def State.decodeChecked (s : State) (lane : Nat) (j : Job) (fault : Option Nat) : State :=
  let slot := j.key / 2 ^ 36
  let plate := j.key % 2 ^ 36
  match s.ent slot plate with
  | none => s
  | some e =>
    match fault, j.failedOn with
    | some c, none =>
      (((s.diverge 1).chargeHome slot e).charge slot 5 (lane / 16) decodeNominal).giveJob (lane / 16)
        { j with failedOn := some lane, check := c, released := allBe }
    | some _, some _ => ((s.damage slot plate j.check).logReleased slot j.released).advance
    | none, some n => ((s.laneFault n (n != lane) slot plate).logReleased slot j.released).charge slot 5 (lane / 16) j.extra
    | none, none => s.charge slot 5 (lane / 16) j.extra

/-- A decode for an access ends (R178, R194): the stored plate passes its checks, or a check fails, of the bytes or by a fault of the
lane. -/
def State.decodeEnds (s : State) (lane : Nat) (j : Job) (fault : Option (Nat × Nat)) : State :=
  let slot := j.key / 2 ^ 36
  let plate := j.key % 2 ^ 36
  match s.ent slot plate with
  | none => s.advance
  | some e =>
    if e.res0 || e.damaged then s.advance
    else match s.readHome slot plate e with
      | (s, .damaged) => ((s.damage slot plate j.check).logReleased slot j.released).advance
      | (s, .bytes b bad) =>
        match s.expand e b j.line with
        | .bad c ls d => s.decodeFailed lane j e c (laneLines ls) d
        | .good d cycles => match fault with
          | some (c, n) => s.decodeFailed lane j e c (laneLines (faultLanes e.coding c n (j.line / 8))) d
          | none => s.decodeDone lane j d bad cycles

/-- DECODE_COMPLETE: the lane finishes the decode, or the histogram, at the head of its queue; `fault` is a check that a fault of the
lane itself fails, and how many decode lanes had passed before it (R194). -/
def State.decodeComplete (s : State) (lane : Nat) (fault : Option (Nat × Nat)) : State :=
  match (s.lane lane).queue with
  | [] => s
  | j :: _ =>
    if j.kind = 1 then (s.popJob lane).decodeEnds lane j fault
    else if j.kind = 3 then (s.popJob lane).decodeChecked lane j (fault.map Prod.fst)
    else if j.kind = 5 then s.popJob lane
    else s

/-- A plate whose encode has failed verify twice is stored RAW (R193): in place of a switch still to come, or by a new one. -/
def State.storeRaw (s : State) (slot plate : Nat) : State :=
  let key := plateKey slot plate
  let old := s.ti.switches.find? (fun (x : Switch) => x.key == key)
  let s := match old with
    | some x => { s with ti.switches := s.ti.switches.filter (fun (x : Switch) => x.key != key) }.freeAt (s.str.count + 1)
        x.tier x.store x.clen
    | none => s
  match s.ent slot plate with
  | none => s
  | some e =>
    let (s, d, bad) := s.plateCopy slot plate
    let s := { s with cod.rawFallback := cntAdd s.cod.rawFallback 1 }
    let (tier, leave, plan) : Nat × Bool × Bool := match old with
      | some x => (x.tier, x.leaveT0, x.plan)
      | none => (e.tier, false, false)
    if tier = 0 then s
    else match s.newHome slot plate tier (rawPlate d) bad leave plan with
      | some s => s
      | none => s.modEnt slot plate (fun e => { e with moving := false })

/-- The lane is done with an encode (R193): it passes its verify, and the plate's entry may switch; a failed verify takes it to another
lane, a second one stores the plate RAW. Cycles above the nominal ones are charged now (R176). -/
def State.encodeChecked (s : State) (lane : Nat) (j : Job) (fault : Bool) : State :=
  let slot := j.key / 2 ^ 36
  let plate := j.key % 2 ^ 36
  let die := lane / 16
  let done := fun (s : State) => { s with cod.encoded := cntAdd s.cod.encoded 1 }.charge slot 5 die j.extra
  match j.failedOn with
  | none =>
    if fault then ((s.diverge 1).charge slot 5 die (encodeNominal + j.extra)).giveJob die { j with failedOn := some lane }
    else done s
  | some n => if fault then s.storeRaw slot plate else (done s).laneFault n (n != lane) slot plate

/-- ENCODE_COMPLETE: the lane finishes the encode at the head of its queue; `fault` says that its verify fails (R193). -/
def State.encodeComplete (s : State) (lane : Nat) (fault : Bool) : State :=
  match (s.lane lane).queue with
  | [] => s
  | j :: _ => if j.kind = 4 then (s.popJob lane).encodeChecked lane j fault else s

/-- DECODE_COMPLETE. -/
def execDecodeComplete (lane : Nat) (fault : Option (Nat × Nat)) (s : State) : Host.Outcome State Fault Refusal :=
  .next (s.decodeComplete lane fault)

/-- ENCODE_COMPLETE. -/
def execEncodeComplete (lane : Nat) (fault : Bool) (s : State) : Host.Outcome State Fault Refusal :=
  .next (s.encodeComplete lane fault)

/-- LANE_JOB_DISPATCH: the die's first waiting job takes the entry that has freed (R177). -/
def execLaneJobDispatch (die : Nat) (s : State) : Host.Outcome State Fault Refusal :=
  .next (if die < 4 then s.dispatchLanes die else s)

/-- At a boundary a lane whose FAULTS reached 4 leaves service, and the die's other lanes take its jobs (R195). -/
def State.lanesBoundary (s : State) : State :=
  s.over (s.cod.lanes.filter (fun p => p.2.pendingOff && !p.2.off)) (fun s p =>
    let s := (s.modLane p.1 (fun l => { l with off := true, pendingOff := false, queue := [] })).logE 0x0604 none p.1 0
    s.over p.2.queue (fun s j => s.giveJob (p.1 / 16) j))

/-! ## Staging claims (R32) -/

/-- The bytes of the staging pool that claims may fill: the pool in force, or a smaller target (R98). -/
def State.poolBytes (s : State) : Nat := mib * min (s.dev fStagingPool) (s.planned 0 fStagingPool 0)

/-- The bytes granted of the staging pool. -/
def State.poolUsed (s : State) : Nat := sumOf ((s.claims.filter Claim.granted).map Claim.bytes)

/-- Claim part of the staging pool: the grant comes at a boundary (R32). -/
def State.claim (s : State) (kind owner bytes : Nat) : State :=
  { s with claims := s.claims ++ [{ kind := kind, owner := owner, bytes := bytes, granted := false }] }

/-- Whether a claim is granted. -/
def State.claimed (s : State) (kind owner : Nat) : Bool :=
  s.claims.any (fun c => c.kind == kind && c.owner == owner && c.granted)

/-- End a claim. -/
def State.unclaim (s : State) (kind owner : Nat) : State :=
  { s with claims := s.claims.filter (fun c => !(c.kind == kind && c.owner == owner)) }

/-- Grant the waiting claims: operator staging, then DMA staging, then histograms; one that does not fit waits and sets
STAGING_WAIT (R32). -/
def State.grantClaims (s : State) : State :=
  let waiting := (List.range 3).flatMap (fun k => s.claims.filter (fun c => c.kind == k && !c.granted))
  s.over waiting (fun s c =>
    if s.poolUsed + c.bytes ≤ s.poolBytes then
      let mark := fun (x : Claim) => if x.kind = c.kind ∧ x.owner = c.owner then { x with granted := true } else x
      { s with claims := s.claims.map mark }
    else { s with str.stagingWait := true })


/-! ## Segments -/

/-- A segment that a command may name: BAD_PARAM where there is none, NOT_PERMITTED where it belongs to another slot (R196). -/
def State.segFor (s : State) (slot id : Nat) : Except Nat Seg :=
  match s.cod.segs.get? id with
  | none => .error stBadParam
  | some g => if g.slot = slot then .ok g else .error stNotPermitted

/-- The proof passes of a segment that are not final: handle and table. -/
def State.proofsOf (s : State) (seg : Nat) : List (Nat × Nat) :=
  s.liveOps.filterMap (fun p => match p.2.body with
    | .proof g t _ _ _ _ _ _ _ => if g = seg then some (p.1, t) else none
    | _ => none)

/-- Whether an element type code is not reserved (R148). -/
def elemKnown (e : Nat) : Bool := decide (e < 12)

/-- SEGMENT_DEFINE (R196): the lowest free segment number. -/
def cSegmentDefine : Cmd := shortCmd 0x0603 true .any (fun s _ p =>
  let a := p.p0.toNat
  let n := p.p1.toNat
  let slot := slotOf p
  let elem := fld p.p2.toNat 0 4
  if n = 0 ∨ 65536 < n ∨ 2 ^ 36 < a + n ∨ ¬elemKnown elem then deny s stBadParam
  else if s.cod.segs.any (fun g => g.2.slot == slot && decide (g.2.first < a + n) && decide (a < g.2.first + g.2.count)) then
    deny s stBadParam
  else match s.cod.segs.firstFree 65536 with
    | none => deny s stNoResource
    | some id =>
      let g : Seg := { slot := slot, first := a, count := n, elem := elem, table := none, escapes := 0, coded := 0,
                       warn := false, dropping := false }
      done { s with cod.segs := s.cod.segs.set id g } stOk id 0)

/-- SEGMENT_DROP (R192): the segment goes at the next boundary. -/
def cSegmentDrop : Cmd := shortCmd 0x0605 true .any (fun s _ p =>
  let id := fld p.p0.toNat 0 16
  match s.segFor (slotOf p) id with
  | .error st => deny s st
  | .ok g =>
    if !(s.proofsOf id).isEmpty then deny s stBusyRetry
    else
      let (s, gen, due) := { s with cod.segs := s.cod.segs.set id { g with dropping := true } }.join []
      (s, .later due stOk 0 gen 0 []))

/-- SEGMENT_QUERY (R196). -/
def cSegmentQuery : Cmd := shortCmd 0x0606 true .any (fun s _ p =>
  match s.segFor (slotOf p) (fld p.p0.toNat 0 16) with
  | .error st => deny s st
  | .ok g =>
    done s stOk (g.first + 2 ^ 36 * g.count + 2 ^ 53 * g.elem + bitAt g.warn 57 + bitAt g.table.isSome 58)
      (g.table.getD noTable + 65536 * (g.escapes % 2 ^ 48)))

/-- TABLE_READ (R196): the record of a live table. -/
def cTableRead : Cmd := shortCmd 0x0607 true .any (fun s o p =>
  let mg := match o with
    | .mgmt _ _ => true
    | .qp _ _ => false
  match s.cod.tables.get? (fld p.p0.toNat 0 16) with
  | none => deny s stBadParam
  | some t =>
    if !t.joined || (!mg && p.p1.toNat % 64 != 0) then deny s stBadParam
    else doneData s o p.p1.toNat t.record stOk 0 0)

/-! ## The proof pass (R183 to R191) -/

/-- The table ID taken next: the first after the one taken last that names no live table (R191). -/
def State.nextTable (s : State) : Option Nat :=
  if 4096 ≤ s.cod.tables.length then none
  else ((rangeFrom (s.cod.lastTable + 1) 4097).map (· % 65535)).find? (fun i => !s.cod.tables.has i)

/-- Take a table ID: it is live from here on (R191). -/
def State.takeTable (s : State) (id : Nat) : State :=
  { s with cod.tables := s.cod.tables.set id { record := [], joined := false }, cod.lastTable := id }

/-- PROOF_PASS (R184, R189, R191, R196). -/
def cProofPass : Cmd := longCmd 0x0604 true .any (fun s _ p =>
  let id := fld p.p0.toNat 0 16
  match s.segFor (slotOf p) id with
  | .error st => deny s st
  | .ok g =>
    if g.elem = 0 ∨ 3 < g.elem ∨ g.dropping then deny s stBadParam
    else if !(s.proofsOf id).isEmpty then deny s stBusyRetry
    else match s.nextTable with
      | none => deny s stNoResource
      | some t =>
        ((s.takeTable t).claim 2 t 2112, .start (.proof id t (p.p1.getLsbD 0) 0 0 [] 0 [] false) g.count t 0 opQueued))

/-- Whether the grants of a domain cover the reading of a plate for a proof pass (R24, R183). -/
def State.readGrant (s : State) (slot plate : Nat) (e : MapEnt) : Bool :=
  if e.damaged then true
  else decide (0 < s.left slot 5 (homeDie e plate)) && (e.res0 || e.remote || e.tier == 0
    || (if e.tier = 1 then decide (granules e.clen ≤ s.left slot 4 (storeStack e.store))
        else decide (0 < s.left slot 7 (faEngine e.store))))

/-- Read one plate into the histogram (R183): whether it must wait, and whether it is damaged. -/
def State.histPlate (s : State) (slot plate : Nat) (sp : Split) (h : FMap Nat) (z : Nat) : State × Bool × Bool × FMap Nat × Nat :=
  match s.ent slot plate with
  | none => (s, false, false, h, z)
  | some e =>
    if !s.readGrant slot plate e then (s, true, false, h, z)
    else if e.damaged then (s, false, true, h, z)
    else match s.needPlates slot [plate] with
      | (s, false) => (s, true, false, h, z)
      | (s, true) =>
        let raw := e.res0 || e.coding == cRaw || e.remote
        -- a plate in T0, or a RAW one, passes through a histogram unit (R175, R183)
        let s := if raw then s.laneWork slot (homeDie e plate) 5 5 histCycles (plateKey slot plate) 0 else s
        let (s, d, _) := s.copyOf slot plate 5
        if (s.ent slot plate).any MapEnt.damaged then (s, false, true, h, z)
        else
          let (h, n) := histogram sp d h
          (s, false, false, h, z + n)

/-- Up to `n` plates of a histogram slice. -/
def State.histSome (s : State) (slot first cursor : Nat) (sp : Split) (h : FMap Nat) (z bad : Nat) :
    Nat → State × Nat × FMap Nat × Nat × Nat
  | 0 => (s, cursor, h, z, bad)
  | n + 1 =>
    match s.histPlate slot (first + cursor) sp h z with
    | (s, true, _, _, _) => (s, cursor, h, z, bad)
    | (s, false, b, h, z) => s.histSome slot first (cursor + 1) sp h z (bad + if b then 1 else 0) n

/-- Re-encode one stored plate under the current table (R188): whether it must wait, and whether it is damaged. One that has come under
it meanwhile is done. -/
def State.recodePlate (s : State) (slot table plate : Nat) : State × Bool × Bool :=
  match s.ent slot plate with
  | none => (s, false, false)
  | some e =>
    if e.dirty || e.remote || e.tier == 0 || (e.table == table && !e.moving) then (s, false, false)
    else if e.damaged then (s, false, true)
    else if e.moving || !s.readGrant slot plate e then (s, true, false)
    else
      let (s, d, bad) := s.plateCopy slot plate 5
      if (s.ent slot plate).any MapEnt.damaged then (s, false, true)
      else
        match s.encodeHome slot plate e.tier (s.encodeOf slot plate d bad) bad false false 5 with
        | some s => (s, false, false)
        | none => (s, true, false)

/-- Up to `n` plates of a recode slice: what is left to do. -/
def State.recodeSome (s : State) (slot table bad : Nat) : Nat → List Nat → State × List Nat × Nat
  | 0, l => (s, l, bad)
  | _, [] => (s, [], bad)
  | n + 1, p :: l =>
    match s.recodePlate slot table p with
    | (s, true, _) => (s, p :: l, bad)
    | (s, false, b) => s.recodeSome slot table (bad + if b then 1 else 0) n l

/-- One slice of a proof pass: histogram, build or recode. -/
def State.proofSlice (s : State) (h seg table : Nat) (recode : Bool) (phase cursor : Nat) (hist : FMap Nat) (z : Nat)
    (todo : List Nat) : State :=
  match s.cod.segs.get? seg with
  | none => s
  | some g =>
    match splitOf g.elem with
    | none => s
    | some sp =>
      let (_, r1) := s.results h
      if phase = 0 then
        if !s.claimed 2 table then s
        else
          let (s, c, hist, z, bad) := s.histSome g.slot g.first cursor sp hist z r1 (min 128 (g.count - cursor))
          ((s.setBody h (.proof seg table recode (if c = g.count then 1 else 0) c hist z [] true)).setResults h table bad).ranTo h c
      else if phase = 1 then
        let (pairs, esc) := buildCodes hist
        let mean := meanBits hist pairs esc sp.e
        let rec0 := tableRecord table g.elem pairs esc
        let s := { s with cod.tables := s.cod.tables.modify table (fun t => { t with record := rec0 }) }.unclaim 2 table
        let s := (s.setBody h (.proof seg table recode 2 cursor [] 0 [] false)).modOp h (fun o => { o with r2 := mean })
        s.ranTo h g.count
      else if phase = 3 then
        let n := todo.length
        let (s, todo, bad) := s.recodeSome g.slot table r1 32 todo
        let c := cursor + (n - todo.length)
        let s := ((s.setBody h (.proof seg table recode 3 c [] 0 todo false)).setResults h table bad).ranTo h c
        if todo.isEmpty then s.endOp h (if bad = 0 then stOk else stDataError) else s
      else s

/-- The boundary after the build: the table joins and becomes current, and the recode phase begins or the pass is done
(R187, R189). -/
def State.proofJoin (s : State) (h seg table : Nat) (recode : Bool) (cursor : Nat) : State :=
  match s.cod.segs.get? seg with
  | none => s
  | some g =>
    let s := { s with
      cod.tables := s.cod.tables.modify table (fun t => { t with joined := true }),
      cod.segs := s.cod.segs.set seg { g with table := some table, escapes := 0, coded := 0, warn := false } }
    let (_, r1) := s.results h
    let todo := if recode then ((s.platesOf g.slot).filter (fun p => decide (g.first ≤ p.1) && decide (p.1 < g.first + g.count)
      && !p.2.remote && ((p.2.tier != 0 && p.2.table != table)
        || s.ti.switches.any (fun x => x.key == plateKey g.slot p.1 && x.table != table)))).map Prod.fst else []
    let s := (s.setBody h (.proof seg table recode 3 cursor [] 0 todo false)).modOp h (fun o =>
      { o with total := o.total + todo.length })
    if todo.isEmpty then s.endOp h (if r1 = 0 then stOk else stDataError) else s

/-- A cancelled proof pass gives back the ID and the staging of a table that has not joined (R189, R191). -/
def State.proofCancelled (s : State) (table : Nat) : State :=
  let s := s.unclaim 2 table
  if (s.cod.tables.get? table).any (fun t => !t.joined) then { s with cod.tables := s.cod.tables.del table } else s

/-- Whether a plate coded under a table is in transit or in flight to an expander (R190): in an encode not yet in force, in a tile not
yet delivered, or on its way to another member. -/
def State.tableFlies (s : State) (i : Nat) : Bool :=
  s.ti.switches.any (fun x => x.table == i)
    || s.streams.any (fun x => x.2.run.any (fun r => r.tiles.any (fun t => !t.delivered && t.tables.contains i)))
    || s.herd.txns.any (fun t => t.2.m.mop == 0x08 && fld t.2.m.arg.toNat 8 16 == i)

/-- The tables' part of a boundary (R190, R192): dropped segments go, then the tables to which nothing refers. -/
def State.tablesBoundary (s : State) : State :=
  let s := { s with cod.segs := s.cod.segs.filter (fun p => !p.2.dropping) }
  let used := fun (i : Nat) => s.cod.segs.any (fun g => g.2.table == some i)
    || s.ti.map.any (fun p => p.2.table == i && p.2.tier != 0 && !p.2.remote)
    || s.tableFlies i
  { s with cod.tables := s.cod.tables.filter (fun p => !p.2.joined || used p.1) }

/-- SEGMENT_DEFINE. -/
def execSegmentDefine (o : Origin) (p : Pkt) (s : State) : Host.Outcome State Fault Refusal :=
  .next (s.packet cSegmentDefine none o p)

/-- PROOF_PASS. -/
def execProofPass (o : Origin) (p : Pkt) (s : State) : Host.Outcome State Fault Refusal :=
  .next (s.packet cProofPass none o p)

/-- SEGMENT_DROP. -/
def execSegmentDrop (o : Origin) (p : Pkt) (s : State) : Host.Outcome State Fault Refusal :=
  .next (s.packet cSegmentDrop none o p)

/-- SEGMENT_QUERY. -/
def execSegmentQuery (o : Origin) (p : Pkt) (s : State) : Host.Outcome State Fault Refusal :=
  .next (s.packet cSegmentQuery none o p)

/-- TABLE_READ. -/
def execTableRead (o : Origin) (p : Pkt) (s : State) : Host.Outcome State Fault Refusal :=
  .next (s.packet cTableRead none o p)

end Sys2Proof.Machine
end

