-- ==== Sys2Proof/Machine/Extents.lean ====
section
/-! DEFINITION. Extents and tethers (R106 to R114, R133 to R135, R241, R297, R320), the window translation table and the
expansion windows (R139 to R141, R240, R498), with their commands and events. -/

namespace Sys2Proof.Machine

/-! ## Granting (R110, R133, R134, R241, R297, R320) -/

/-- What EXTENT_GRANT asks for. -/
structure Grant where
  slot : Nat
  dpa : Nat
  len : Nat
  p2 : Nat
  ld : Nat
  kind : Nat
  ro : Bool
  hdmDb : Bool
  tether : Nat
  tag : List Byte
deriving DecidableEq, Repr

/-- The grant that a packet carries (R142, R143). -/
def grantOf (p : Pkt) : Grant :=
  { slot := slotOf p, dpa := p.p0.toNat, len := p.p1.toNat, p2 := p.p2.toNat, ld := fld p.p3.toNat 0 7,
    kind := fld p.p3.toNat 8 3, ro := p.p3.getLsbD 11, hdmDb := p.p3.getLsbD 12, tether := fld p.p4.toNat 0 32,
    tag := sub p.data 0 16 }

/-- The checks that hold for every kind (R109, R110). -/
def State.grantBad (s : State) (g : Grant) : Bool :=
  g.dpa % blk != 0 || g.len % blk != 0 || g.len == 0 || decide (2 ^ 48 < g.dpa + g.len) || decide (3 < g.kind)
    || decide (g.tether < 2000) || s.domSt g.slot != 1
    || s.ti.extents.any (fun p => p.2.ld == g.ld && decide (p.2.dpa < g.dpa + g.len) && decide (g.dpa < p.2.dpa + p.2.len))

/-- The sharing group of a grant (R297). -/
def State.groupOf (s : State) (slot : Nat) (tag : List Byte) : List Extent :=
  (s.ti.extents.filter (fun p => p.2.slot == slot && p.2.hdmDb && p.2.kind == 0 && p.2.tag == tag)).map Prod.snd

/-- The sharer index that a grant takes: the logical device's own where it has one, else the lowest free one; none where all
sixteen are taken (R297). -/
def State.sharerFor (s : State) (g : Grant) : Option Nat :=
  let grp := s.groupOf g.slot g.tag
  match grp.find? (fun e => e.ld == g.ld) with
  | some e => some e.sharer
  | none =>
    let far := (s.herd.remotes.filter (fun r => r.1 == g.slot)).map (fun r => r.2.2.2)
    (List.range 16).find? (fun i => !grp.any (fun e => e.sharer == i) && !far.contains i)

/-- Whether SIZE without `n` more pinned bytes still covers what a slot's extents map (R131, R239). -/
def State.sizeLeft (s : State) (slot n : Nat) : Bool :=
  decide (s.highestMapped slot ≤ blk * ((s.share slot 1 + s.share slot 2 + s.share slot 3 - s.pinned slot - n) / blk))

/-- What a grant answers: a status with DETAIL, or the extent's domain offset, target, contributor slot and sharer index. A kind-1 grant
that would bring SIZE below what the domain's extents map is refused as R239 refuses a binding (R131; DESIGN CHOICE, assumption
111). -/
def State.grantCheck (s : State) (g : Grant) : Except (Nat × Nat) (Nat × Nat × Nat × Nat) :=
  let copies := fun (off len : Nat) => s.sh.imprs.any (fun (m : Nat × Impr) => m.2.slot == g.slot
    && decide (4096 * m.2.area < off + len) && decide (off < 4096 * (m.2.area + m.2.areaCount)))
  if s.grantBad g then .error (stBadParam, 0)
  else if g.kind = 1 then
    if s.domF g.slot fDomPriv = 0 then .error (stNotPermitted, 0)
    else if s.effectiveShare g.slot 1 < s.tierUse g.slot 1 * 64 + s.pinned g.slot + g.len ∨ s.sizeLeft g.slot g.len = false then
      .error (stBadParam, 1)
    else .ok (0, 0, 0, 0)
  else if g.kind = 2 then
    let id := fld g.p2 0 12
    let j := fld g.p2 16 12
    match s.opr.binds.get? id with
    | none => .error (stBadParam, 0)
    | some b =>
      if b.st ≠ 1 ∨ b.slot ≠ g.slot ∨ b.ncontrib ≤ j ∨ g.len ≠ 4 * b.quarter ∨ g.ro ∨ g.hdmDb
          ∨ s.ti.extents.any (fun p => p.2.kind == 2 && p.2.target == id && p.2.contributor == j)
          ∨ s.size g.slot < b.target + b.tlen then .error (stBadParam, 0)
      else if copies b.target b.tlen then .error (stBadParam, 4)
      else .ok (b.target, id, j, 0)
  else if g.kind = 3 then
    let id := fld g.p2 0 16
    match s.sh.imprs.get? id with
    | none => .error (stBadParam, 0)
    | some m =>
      if m.st ≠ 1 ∨ m.slot ≠ g.slot ∨ ¬g.ro ∨ g.hdmDb ∨ 4096 * m.count < g.len ∨ s.size g.slot < 4096 * m.first + g.len then .error (stBadParam, 0)
      else .ok (4096 * m.first, id, 0, 0)
  else if g.p2 % blk ≠ 0 ∨ s.size g.slot < g.p2 + g.len then .error (stBadParam, 0)
  else if copies g.p2 g.len then .error (stBadParam, 4)
  else if g.hdmDb then
    if s.ti.extents.any (fun p => p.2.slot == g.slot && p.2.hdmDb && p.2.kind == 0 && p.2.tag != g.tag
        && decide (p.2.doff < g.p2 + g.len) && decide (g.p2 < p.2.doff + p.2.len)) then .error (stBadParam, 2)
    else if s.domF g.slot fDirShare = 0 then .error (stBadParam, 3)
    else match s.sharerFor g with
      | none => .error (stNoResource, 0)
      | some i => .ok (g.p2, 0, 0, i)
  else .ok (g.p2, 0, 0, 0)

/-- Give a pinned extent its chunks of T1: chunk i on stack (first + i) mod 12, and on no other (R134). None where one of these stacks
has no free chunk. -/
def State.giveChunks (s : State) (isExtent : Bool) (owner first n : Nat) : Option State :=
  (List.range n).foldl (fun (a : Option State) i => a.bind (fun s =>
    (s.chunkRun ((first + i) % 12)).map (fun g =>
      { s with ti.chunks := s.ti.chunks ++
          [{ stack := (first + i) % 12, granule := g, isExtent := isExtent, owner := owner, index := i, copyTo := none }] }))) (some s)

/-- EXTENT_GRANT (R110, R111, R142). The extent is listed as FREE until its offer is in force. A kind-1 grant whose share suffices, but
for which a stack of R134 has no free chunk, is answered NO_RESOURCE (DESIGN CHOICE, assumption 109). -/
def cExtentGrant : Cmd :=
  { opcode := 0x0100, long := true, dom := true, accept := .owner, entries := 2, run := fun s _ p =>
      let g := grantOf p
      match s.grantCheck g with
      | .error (st, d) => (s, .now st d 0 0 [])
      | .ok (doff, target, j, sharer) =>
        match s.ti.extents.firstFree (2 ^ 20) with
        | none => deny s stNoResource
        | some idx =>
          let e : Extent :=
            { dpa := g.dpa, len := g.len, doff := doff, slot := g.slot, ld := g.ld, kind := g.kind, ro := g.ro,
              hdmDb := g.hdmDb, st := 0, tetherLen := g.tether, expiry := 0, tag := g.tag, target := target,
              contributor := j, sharer := sharer, offered := 0, firstStack := s.ti.nextStack }
          let s' := { s with ti.extents := s.ti.extents.set idx e }
          if g.kind = 1 then
            match s'.giveChunks true idx s.ti.nextStack (g.len / blk) with
            | none => deny s stNoResource
            | some s' =>
              ({ s' with ti.nextStack := (s.ti.nextStack + g.len / blk) % 12 },
                .start (.extentGrant idx 0) (g.len / 64) idx 0 opQueued)
          else ((s'.join [.extentState idx 1]).1, .start (.extentGrant idx 0) 0 idx 0 opQueued) }

/-! ## States (R108, R113) -/

/-- Tell an extent's host of a change (R109): 0 add, 1 release, 2 forced release. -/
def State.dcEvent (s : State) (idx kind : Nat) : State :=
  match s.ti.extents.get? idx with
  | none => s
  | some e =>
    (s.modFunc e.ld (fun f => { f with events := f.events.set 4 (f.events.getD 4 [] ++ [(kind, idx)]) })).emit
      (.dcEvent e.ld kind idx)

/-- Start the recall of what an extent's logical device holds of its lines (R312). -/
def State.recallExtent (s : State) (e : Extent) : State :=
  if e.hdmDb ∧ e.kind = 0 then
    { s with sh.recalls := s.sh.recalls ++
        [{ slot := e.slot, lo := e.doff, hi := e.doff + e.len, sharer := some e.sharer, ld := e.ld, cursor := 0,
           silent := !(s.head (headOf e.ld)).up, handle := none }] }
  else s

/-- An extent takes a state at a boundary (R108, R113): OFFERED, ACTIVE, RELEASING or FREE. -/
def State.setExtentState (s : State) (idx st : Nat) : State :=
  match s.ti.extents.get? idx with
  | none => s
  | some e =>
    let put := fun (e : Extent) => { s with ti.extents := s.ti.extents.set idx e }
    if st = 1 then (put { e with st := 1, offered := s.str.count }).dcEvent idx 0
    else if st = 2 then
      if e.st = 1 then put { e with st := 2, expiry := s.str.count + e.tetherLen } else s
    else if st = 3 then
      if e.st = 2 then (put { e with st := 3 }).dcEvent idx 1 else s
    else
      let s := if e.st = 4 then s else s.recallExtent e
      { s with ti.extents := s.ti.extents.del idx, ti.released := s.ti.released ++ [idx],
               ti.chunks := s.ti.chunks.filter (fun c => !(c.isExtent && c.owner == idx)) }

/-- EXTENT_RELEASE (R108, R115): without FORCED an ACTIVE extent begins to release; with it any extent becomes FREE. An index not in use,
or one that is not ACTIVE without FORCED, is answered BAD_PARAM (DESIGN CHOICE, assumption 109). -/
def cExtentRelease : Cmd := longCmd 0x0101 false .owner (fun s _ p =>
  let idx := fld p.p0.toNat 0 20
  let forced := p.p0.getLsbD 32
  match s.ti.extents.get? idx with
  | none => deny s stBadParam
  | some e =>
    if e.st = 0 then deny s stBadParam
    else if forced then
      (((s.dcEvent idx 2).join [.extentState idx 0]).1, .start (.extentRelease idx true) 1 0 0 opQueued)
    else if e.st = 2 ∧ ¬e.lapsed s.str.count then ((s.join [.extentState idx 3]).1, .start (.extentRelease idx false) 1 0 0 opQueued)
    else deny s stBadParam)

/-- TETHER_RENEW (R114): the new expiry stands from the next boundary. -/
def cTetherRenew : Cmd := shortCmd 0x0102 false .any (fun s o p =>
  let idx := fld p.p0.toNat 0 20
  match s.ti.extents.get? idx with
  | none => deny s stBadParam
  | some e =>
    let holds := match o with
      | .qp f _ => f == e.ld && s.bound o == some e.slot
      | .mgmt _ _ => false
    if !(s.ownerOrigin o || holds) then deny s stNotPermitted
    else if e.st ≠ 2 ∨ e.lapsed s.str.count then deny s stTimeout
    else
      let n := fld p.p1.toNat 0 32
      let x := s.str.count + 1 + (if n = 0 then e.tetherLen else n)
      done { s with ti.renewals := s.ti.renewals ++ [(idx, x)] } stOk x 0)

/-- The record of an extent (R106). -/
def Extent.record (e : Extent) (idx : Nat) : List Byte :=
  le 8 e.dpa ++ le 8 e.len ++ le 8 (if e.kind = 1 then 0 else e.doff)
    ++ le 4 (e.slot + 2 ^ 12 * e.ld + 2 ^ 19 * e.kind + bitAt e.ro 22 + bitAt e.hdmDb 23 + 2 ^ 24 * e.st)
    ++ le 4 idx ++ le 4 e.tetherLen ++ zeros 4 ++ le 8 e.expiry ++ sub e.tag 0 16

/-- EXTENT_LIST (R142): the extents from an index on, those of the bound slot alone on a domain queue. -/
def cExtentList : Cmd := shortCmd 0x0103 true .any (fun s o p =>
  let mg := match o with
    | .mgmt _ _ => true
    | .qp _ _ => false
  if !mg && p.p0.toNat % 64 != 0 then deny s stBadParam
  else
    let l := s.ti.extents.filter (fun x => x.2.st != 0 && decide (fld p.p2.toNat 0 20 ≤ x.1)
      && (match s.bound o with
        | some b => x.2.slot == b
        | none => true))
    let n := min l.length (roomFor o p.p1.toNat / 64)
    let next := match l[n]? with
      | some x => x.1
      | none => 0
    doneData s o p.p0.toNat ((l.take n).flatMap (fun x => x.2.record x.1)) stOk n next)

/-- WINDOW_SET (R139, R141): the entry joins the generation being built. -/
def cWindowSet : Cmd := shortCmd 0x0104 false .any (fun s o p =>
  let w := fld p.p0.toNat 0 6
  let func := fld p.p0.toNat 8 7
  let slot := fld p.p3.toNat 0 12
  let len := fld p.p2.toNat 0 10
  let valid := p.p3.getLsbD 16
  let own := match o with
    | .qp f _ => func == f && s.bound o == some slot
    | .mgmt _ _ => false
  if !(s.ownerOrigin o || own) then deny s stNotPermitted
  else if valid && (p.p1.toNat % blk != 0 || len == 0 || decide (512 < len) || decide (2 ^ 48 ≤ p.p1.toNat)) then deny s stBadParam
  else
    let (s, g, due) := s.join [.window (func * 64 + w) p.p1.toNat len slot valid (p.p3.getLsbD 17)]
    (s, .later due stOk 0 g 0 []))

/-- EXTENT_GRANT. -/
def execExtentGrant (o : Origin) (p : Pkt) (s : State) : Host.Outcome State Fault Refusal :=
  .next (s.packet cExtentGrant none o p)

/-- EXTENT_RELEASE. -/
def execExtentRelease (o : Origin) (p : Pkt) (s : State) : Host.Outcome State Fault Refusal :=
  .next (s.packet cExtentRelease none o p)

/-- TETHER_RENEW. -/
def execTetherRenew (o : Origin) (p : Pkt) (s : State) : Host.Outcome State Fault Refusal :=
  .next (s.packet cTetherRenew none o p)

/-- EXTENT_LIST. -/
def execExtentList (o : Origin) (p : Pkt) (s : State) : Host.Outcome State Fault Refusal :=
  .next (s.packet cExtentList none o p)

/-- WINDOW_SET. -/
def execWindowSet (o : Origin) (p : Pkt) (s : State) : Host.Outcome State Fault Refusal :=
  .next (s.packet cWindowSet none o p)

/-- INITIATE_DC_ADD (R112): an EXTENT_GRANT through a management queue. -/
def execInitiateDcAdd (eid : Nat) (p : Pkt) (s : State) : Host.Outcome State Fault Refusal :=
  .next (s.packet cExtentGrant none (.mgmt eid false) p)

/-- INITIATE_DC_RELEASE (R112): an EXTENT_RELEASE through a management queue. -/
def execInitiateDcRelease (eid : Nat) (p : Pkt) (s : State) : Host.Outcome State Fault Refusal :=
  .next (s.packet cExtentRelease none (.mgmt eid false) p)

/-! ## Events -/

/-- TETHER_EXPIRY (R113): an ACTIVE extent whose expiry has come is EXPIRED. -/
def execTetherExpiry (extent : Nat) (s : State) : Host.Outcome State Fault Refusal :=
  .next (match s.ti.extents.get? extent with
    | some e =>
      if e.st = 2 ∧ e.expiry ≤ s.str.count then
        { s with ti.extents := s.ti.extents.set extent { e with st := 4 } }.recallExtent e
      else s
    | none => s)

/-- Whether a change of an extent to a state has joined a generation not yet in force. -/
def State.coming (s : State) (idx st : Nat) : Bool :=
  s.cfg.deferred.contains (.extentState idx st) || s.cfg.build.any (fun b => b.changes.contains (.extentState idx st))

/-- OFFER_TIMEOUT (R108): an offer unanswered for 2,000,000 strides lapses, as part of a configuration generation. -/
def execOfferTimeout (extent : Nat) (s : State) : Host.Outcome State Fault Refusal :=
  .next (match s.ti.extents.get? extent with
    | some e =>
      if e.st = 1 ∧ e.offered + 2000000 ≤ s.str.count ∧ ¬s.coming extent 0 ∧ ¬s.coming extent 2 then
        (s.join [.extentState extent 0]).1
      else s
    | none => s)

/-- DC_ADD_RESPONSE (R108, R109): the host accepts or rejects an offer; a partial acceptance rejects it. -/
def execDcAddResponse (ld extent : Nat) (accept part : Bool) (s : State) : Host.Outcome State Fault Refusal :=
  .next (match s.ti.extents.get? extent with
    | some e =>
      if e.ld = ld ∧ e.st = 1 ∧ ¬s.coming extent 2 ∧ ¬s.coming extent 0 then
        (s.join [.extentState extent (if accept && !part then 2 else 0)]).1
      else s
    | none => s)

/-- DC_RELEASE_RESPONSE (R108): the host gives a RELEASING extent back. -/
def execDcReleaseResponse (ld extent : Nat) (s : State) : Host.Outcome State Fault Refusal :=
  .next (match s.ti.extents.get? extent with
    | some e => if e.ld = ld ∧ (e.st = 3 ∨ s.coming extent 3) then (s.join [.extentState extent 0]).1 else s
    | none => s)

/-- GET_DC_REGION_CONFIGURATION (R109): one region, from DPA 0 to 2^48 - 1, in blocks of 2 MiB. -/
def execGetDcRegionConfiguration (ld : Nat) (s : State) : Host.Outcome State Fault Refusal :=
  .next (if s.mgmtUp then s.emit (.fmApi ld 0 [1, 0, 2 ^ 48, blk]) else s)

/-- GET_DC_EXTENT_LISTS (R109): the extents of a logical device that its host has accepted. -/
def execGetDcExtentLists (ld : Nat) (s : State) : Host.Outcome State Fault Refusal :=
  .next (if s.mgmtUp then
      s.emit (.fmApi ld 0 ((s.ti.extents.filter (fun p => p.2.ld == ld && p.2.serves)).flatMap
        (fun p => [p.1, p.2.dpa, p.2.len, leNat p.2.tag])))
    else s)

/-! ## Expansion windows (R139, R140, R298) -/

/-- An access of a function through its expansion window to the line of an offset. -/
def windowAccess (func off slot doff : Nat) (kind : AccKind) (data : List Byte) (be : Nat) : Access :=
  { ld := func, func := func, addr := off, sharer := none, tag := 0, slot := slot, line := doff / 64, kind := kind, data := data,
    be := BitVec.ofNat 64 be, poison := false, target := .line, stride := 0, origin := none, credit := none, sent := false }

/-- The lines of an access: for each, the offset of its first byte, and how many bytes. -/
def splitLines (off len : Nat) : List (Nat × Nat) :=
  (List.range ((off + len + 63) / 64 - off / 64)).map (fun i =>
    let a := max off ((off / 64 + i) * 64)
    (a, min (off + len) ((off / 64 + i + 1) * 64) - a))

/-- EXPANSION_WINDOW_READ (R105, R140): each line is read by itself; where it reaches nothing it is poisoned. -/
def execExpansionWindowRead (func off len : Nat) (s : State) : Host.Outcome State Fault Refusal :=
  .next (if !s.isActive || !(s.head (headOf func)).up || decide (2 ^ 36 < off + len) then s
    else s.over (splitLines off len) (fun s x =>
      match s.windowAt func x.1 with
      | some (slot, doff, _) => s.arrive (windowAccess func x.1 slot doff .ioRead [] 0)
      | none => ((s.logUnmapped func x.1).countPoison true).emit (.ioData func (zeros 64) true)))

/-- EXPANSION_WINDOW_WRITE (R105, R140): each line is written by itself; where it reaches nothing, or may not be written,
it is dropped. -/
def execExpansionWindowWrite (func off : Nat) (data : List Byte) (s : State) : Host.Outcome State Fault Refusal :=
  .next (if !s.isActive || !(s.head (headOf func)).up || decide (2 ^ 36 < off + data.length) then s
    else s.over (splitLines off data.length) (fun s x =>
      match s.windowAt func x.1 with
      | some (slot, doff, true) =>
        let at' := x.1 % 64
        s.arrive (windowAccess func x.1 slot doff .ioWrite (zeros at' ++ sub data (x.1 - off) x.2 ++ zeros (64 - at' - x.2))
          ((2 ^ x.2 - 1) * 2 ^ at'))
      | _ => s.logUnmapped func x.1))

/-! ## The operation's part of a boundary -/

/-- Poison the next lines of a pinned extent as far as its domain's grants reach (R135, R24): the next cursor. -/
def State.poisonLinesFrom (s : State) (idx slot cursor : Nat) : Nat → State × Nat
  | 0 => (s, cursor)
  | n + 1 =>
    match s.chunkLine true idx (64 * cursor) with
    | none => (s, cursor)
    | some (k, g) =>
      if s.left slot 4 k = 0 then (s, cursor)
      else ((s.charge slot 4 k 1).writeLine (dramLine k g) (zeros 64) true).poisonLinesFrom idx slot (cursor + 1) n

end Sys2Proof.Machine
end

