-- ==== Sys2Proof/Machine/OperatorOps.lean ====
section
/-! DEFINITION. The commands of the 0x04xx range (R265): bindings (R236 to R240), rounds (R246, R247, R249, R266), layer
digests (R264), and the operators' part of a boundary. -/

namespace Sys2Proof.Machine

/-! ## Bindings -/

/-- The binding that the bytes of a descriptor describe (R236). -/
def bindingOf (b : List Byte) (slot func : Nat) : Binding :=
  let fl := fieldAt b 4 2
  { slot := slot, func := func, st := 0, op := fieldAt b 3 1, ordered := fl.testBit 0, keep := fl.testBit 1,
    nfSkip := fl.testBit 2, shadow := fl.testBit 3, evWrite := fl.testBit 4,
    evPin := if fl.testBit 5 then some (fld fl 6 3) else none, inElem := fieldAt b 6 1, outElem := fieldAt b 7 1,
    ncontrib := fieldAt b 8 2, evIndex := fieldAt b 10 1, pA := BitVec.ofNat 32 (fieldAt b 0x0C 4),
    pB := BitVec.ofNat 32 (fieldAt b 0x10 4), pC := BitVec.ofNat 32 (fieldAt b 0x14 4),
    pD := BitVec.ofNat 32 (fieldAt b 0x18 4), pE := BitVec.ofNat 32 (fieldAt b 0x1C 4), target := fieldAt b 0x20 8,
    tlen := fieldAt b 0x28 8, mBase := fieldAt b 0x30 8, vBase := fieldAt b 0x38 8, shadowBase := fieldAt b 0x40 8,
    evAddr := fieldAt b 0x48 8, round := 0, closing := false, missing := false, poisoned := false, doneUnits := 0,
    pend := [], finishing := [], steps := [], snap := [], shadowCnt := [], shadowDue := [] }

/-- Whether the fixed parts of a descriptor and its reserved fields are valid (R236, R238). -/
def bindFormOk (d : List Byte) : Bool :=
  fieldAt d 0 2 == 0x4F10 && fieldAt d 2 1 == 1 && fieldAt d 0x7C 4 == (crc32c (sub d 0 0x7C)).toNat
    && fld (fieldAt d 4 2) 9 7 == 0 && fieldAt d 11 1 == 0 && zeroAt d 0x50 44

/-- Whether a binding's values are in range and agree (R236, R238). SHADOW belongs to ADAMW (DESIGN CHOICE,
assumption 28). -/
def Binding.valid (b : Binding) : Bool :=
  let types := (lineElems b.inElem).isSome && [1, 2, 3].contains b.outElem
  let adam := [1, 2, 3].contains b.inElem && b.outElem == 3
  let rest := b.pC == 0 && b.pD == 0 && b.pE == 0 && b.mBase == 0 && b.vBase == 0 && !b.shadow
  decide (b.op ≤ 3) && types && (if b.adamw then adam else rest) && (b.shadow || b.shadowBase == 0)
    && decide (1 ≤ b.ncontrib) && decide (b.ncontrib ≤ if b.ordered then 64 else 4096)
    && b.target % blk == 0 && b.tlen % blk == 0 && decide (blk ≤ b.tlen) && decide (b.tlen ≤ 2 ^ 34)
    && b.evAddr % 64 == 0 && b.units % 32768 == 0

/-- Whether two ranges meet. -/
def meets (a b : Nat × Nat) : Bool := decide (a.1 < b.1 + b.2) && decide (b.1 < a.1 + a.2)

/-- Whether no two of a list of ranges meet. -/
def apart : List (Nat × Nat) → Bool
  | [] => true
  | r :: rs => rs.all (fun x => !meets r x) && apart rs

/-- Whether a binding's regions lie in the domain, apart from one another and from those of its other bindings (R238). -/
def State.bindFits (s : State) (b : Binding) : Bool :=
  b.areas.all (fun r => decide (r.1 + r.2 ≤ s.size b.slot)) && apart b.areas
    && s.opr.binds.all (fun p => p.2.slot != b.slot || p.2.areas.all (fun r => b.areas.all (fun x => !meets r x)))

/-- Whether a domain's T1 share holds a work area, and its charge leaves SIZE at what the domain's extents map (R239). -/
def State.workFits (s : State) (b : Binding) : Bool :=
  let n := blk * b.workChunks
  decide (64 * s.tierUse b.slot 1 + s.pinned b.slot + n ≤ s.effectiveShare b.slot 1) && s.sizeLeft b.slot n

/-- The tally lines that OPER_BIND initialises. -/
def Binding.tallyLines (b : Binding) : Nat := b.units * b.recLines

/-- The lines of a binding's work area (R239). -/
def Binding.areaLines (b : Binding) : Nat := 32768 * b.workChunks

/-- OPER_BIND (R236 to R240, R265): the lowest free binding. DONE and TOTAL count the lines of the work area; those that hold no tally
record need no initial value, and are done with the last that does. -/
def cOperBind : Cmd := longCmd 0x0400 true .any (fun s o p =>
  let slot := slotOf p
  let func := match o with
    | .qp f _ => f
    | .mgmt _ _ => s.owner
  let mg := match o with
    | .qp _ _ => false
    | .mgmt _ _ => true
  let b := bindingOf p.data slot func
  if !mg && p.p0.toNat % 64 != 0 then deny s stBadParam
  else if !(bindFormOk p.data && b.valid && s.bindFits b) then deny s stBadParam
  else if s.domF slot fOperLimit ≤ (s.opr.binds.filter (fun (x : Nat × Binding) => x.2.slot == slot)).length then
    deny s stNoResource
  else if !s.workFits b then (s, .now stBadParam 1 0 0 [])
  else match s.opr.binds.firstFree 4096 with
    | none => deny s stNoResource
    | some id =>
      let s' := { s with opr.binds := s.opr.binds.set id b }
      match s'.giveChunks false id s.ti.nextStack b.workChunks with
      | none => deny s stNoResource
      | some s' =>
        ({ s' with ti.nextStack := (s.ti.nextStack + b.workChunks) % 12 }, .start (.operBind id 0) b.areaLines id 0 opQueued))

/-- The 64 bytes of line `l` of a tally record area at OPER_BIND: RND and every stamp 3, COUNT and PENDING 0 (R243). -/
def Binding.freshTally (b : Binding) (l : Nat) : List Byte :=
  sub (tallyAll b.recLines 3 0).enc (64 * (l % b.recLines)) 64

/-- Initialise tally lines as far as the domain's class-4 grants reach: the next cursor. -/
def State.initTally (s : State) (id : Nat) (b : Binding) (cursor : Nat) : Nat → State × Nat
  | 0 => (s, cursor)
  | n + 1 =>
    match s.chunkLine false id (64 * cursor) with
    | none => (s, cursor)
    | some (k, _) =>
      if s.left b.slot 4 k = 0 then (s, cursor)
      else ((s.charge b.slot 4 k 1).writeWork id cursor (b.freshTally cursor) false).initTally id b (cursor + 1) n

/-- One slice of OPER_BIND (R240). -/
def State.bindSlice (s : State) (h id cursor : Nat) : State :=
  match s.binding id with
  | none => s
  | some b =>
    let (s, c) := s.initTally id b cursor (b.tallyLines - cursor)
    let s := if c = cursor then s else (s.setBody h (.operBind id c)).ranTo h (if b.tallyLines ≤ c then b.areaLines else c)
    if b.tallyLines ≤ c then s.endOp h stOk else s

/-- A binding becomes active as its OPER_BIND becomes DONE (R240). -/
def State.bindActive (s : State) (id : Nat) : State := s.modBinding id (fun b => { b with st := 1, round := 0 })

/-- A binding goes: its work area is free from here on (R265). -/
def State.dropBinding (s : State) (id : Nat) : State :=
  { s with opr.binds := s.opr.binds.del id, ti.chunks := s.ti.chunks.filter (fun (c : Chunk) => c.isExtent || c.owner != id) }

/-- The binding that a command may name (R265). -/
def State.bindFor (s : State) (slot id : Nat) : Except Nat Binding :=
  match s.binding id with
  | none => .error stBadParam
  | some b => if b.st = 2 then .error stBadParam else if b.slot = slot then .ok b else .error stNotPermitted

/-- Whether an OPER_ROUND_CLOSE of a binding is not final. -/
def State.closeLive (s : State) (id : Nat) : Bool :=
  s.liveOps.any (fun p => match p.2.body with
    | .roundClose b _ _ => b == id
    | _ => false)

/-- OPER_UNBIND (R265): the work area is freed at the next boundary. -/
def cOperUnbind : Cmd := shortCmd 0x0401 true .any (fun s _ p =>
  let id := fld p.p0.toNat 0 12
  match s.bindFor (slotOf p) id with
  | .error st => deny s st
  | .ok b =>
    if b.st == 0 || s.closeLive id || s.ti.extents.any (fun (x : Nat × Extent) => x.2.kind == 2 && x.2.target == id) then
      deny s stBusyRetry
    else done (s.modBinding id (fun b => { b with st := 2 })) stOk 0 0)

/-- OPER_STEP (R265, R266). -/
def cOperStep : Cmd := shortCmd 0x0402 true .any (fun s _ p =>
  let id := fld p.p0.toNat 0 12
  let r := fld p.p0.toNat 32 32
  match s.bindFor (slotOf p) id with
  | .error st => deny s st
  | .ok b =>
    let now := decide (r = b.round % 2 ^ 32)
    if !b.adamw || b.st != 1 || !(now || r == (b.round + 1) % 2 ^ 32) then deny s stBadParam
    else if now && b.doneUnits != 0 then (s, .now stBadParam 2 0 0 [])
    else
      let w := fun (x : U64) lo => BitVec.ofNat 32 (fld x.toNat lo 32)
      let q : StepParams := { lr := w p.p1 0, wd := w p.p1 32, c1 := w p.p2 0, c2 := w p.p2 32, gscale := w p.p3 0 }
      done (s.modBinding id (fun b => { b with steps := b.steps.set (if now then b.round else b.round + 1) q })) stOk 0 0)

/-- OPER_ROUND_CLOSE (R249, R265). -/
def cOperRoundClose : Cmd := longCmd 0x0403 true .any (fun s _ p =>
  let id := fld p.p0.toNat 0 12
  match s.bindFor (slotOf p) id with
  | .error st => deny s st
  | .ok b =>
    if b.st ≠ 1 then deny s stBadParam
    else if s.closeLive id then deny s stBusyRetry
    else (s, .start (.roundClose id 0 false) b.units 0 0 opQueued))

/-- OPER_QUERY (R265). -/
def cOperQuery : Cmd := shortCmd 0x0404 true .any (fun s _ p =>
  match s.bindFor (slotOf p) (fld p.p0.toNat 0 12) with
  | .error st => deny s st
  | .ok b => done s stOk (b.round % 2 ^ 32 + 2 ^ 32 * b.doneUnits) (b.units + 2 ^ 32 * b.pend.length))

/-- Close units from a cursor on, in ascending order (R249): the next cursor and the results. -/
def State.closeSome (s : State) (id cursor u1 u2 : Nat) : Nat → State × Nat × Nat × Nat
  | 0 => (s, cursor, u1, u2)
  | n + 1 =>
    match s.closeUnit id cursor with
    | (s, none) => (s, cursor, u1, u2)
    | (s, some k) =>
      s.closeSome id (cursor + 1) (if k = 1 then u1 + 1 else u1) (if k = 2 then u2 + 1 else u2) n

/-- OPER_ROUND_CLOSE starts: writes to the binding are dropped at step 2 (R249). -/
def State.closeBegin (s : State) (id : Nat) : State := s.modBinding id (fun b => { b with closing := true })

/-- A close that ends short of DONE: the round goes on (DESIGN CHOICE, assumption 92). -/
def State.closeStopped (s : State) (id : Nat) : State := s.modBinding id (fun b => { b with closing := false })

/-- One slice of OPER_ROUND_CLOSE, up to 4,096 units (R249). -/
def State.closeSlice (s : State) (h id cursor : Nat) : State :=
  match s.binding id with
  | none => s
  | some b =>
    let (r1, r2) := s.results h
    let (s, c, r1, r2) := s.closeSome id cursor r1 r2 (min 4096 (b.units - cursor))
    if c = cursor then s else ((s.setBody h (.roundClose id c true)).setResults h r1 r2).ranTo h c

/-- The open round of a binding completes at this boundary (R246), and with it an OPER_ROUND_CLOSE of it. -/
def State.endRound (s : State) (id : Nat) : State :=
  let s := s.over s.ops.tab (fun s p => match p.2.body with
    | .roundClose b _ true => if b == id && !isFinal p.2.st then s.endOp p.1 stOk else s
    | _ => s)
  s.roundComplete id

/-- PENDING units whose step parameters have come are finished (R245). -/
def State.finishPending (s : State) (id : Nat) : State :=
  match s.binding id with
  | none => s
  | some b =>
    if b.steps.has b.round then
      s.over b.pend (fun s u =>
        (s.modBinding id (fun b => { b with pend := b.pend.del u.1 })).completeUnit id u.1 u.2)
    else s

/-- Begin the operator evictions of the shadow plates that are due (R259); one that a stream holds waits. -/
def State.evictShadows (s : State) (id : Nat) : State :=
  match s.binding id with
  | none => s
  | some b =>
    let s := s.modBinding id (fun b => { b with shadowDue := [] })
    s.over b.shadowDue (fun s plate => match s.ent b.slot plate with
      | none => s
      | some e =>
        if !e.res0 then s
        else match s.ti.t0.get? e.t0Slot with
          | none => s
          | some u =>
            if !u.held.isEmpty then s.modBinding id (fun b => { b with shadowDue := b.shadowDue ++ [plate] })
            else
              -- one that cannot leave yet is tried again
              let s := if s.evictable u then s.evict e.t0Slot else s
              if (s.ent b.slot plate).any (fun e => e.res0 && e.dirty && !e.moving) then
                s.modBinding id (fun b => { b with shadowDue := b.shadowDue ++ [plate] })
              else s)

/-- The operators' part of a boundary: released work areas go, shadow plates begin to leave, the rounds that complete at
this boundary are noted, and digests take the values they show in this stride (R246, R259, R265). -/
def State.operatorsBoundary (s : State) : State :=
  let s := s.over s.opr.binds (fun s p => if p.2.st = 2 then s.dropBinding p.1 else s)
  let s := s.over s.opr.binds (fun s p => s.evictShadows p.1)
  let due := (s.opr.binds.filter (fun (p : Nat × Binding) => p.2.roundOver && !s.herd.txns.any (fun t => t.2.use == .oper p.1))).map (fun (p : Nat × Binding) => (1, p.1, 0))
  { s with opr.digests := s.opr.digests.map (fun (p : Nat × Digest) => (p.1, { p.2 with sum0 := p.2.sum, n0 := p.2.n })),
           opr.half := [], atBoundary := s.atBoundary ++ due }

/-- ROUND_COMPLETE (R246): at a boundary at which every unit of the open round is finished and none is PENDING. -/
def execRoundComplete (binding : Nat) (s : State) : Host.Outcome State Fault Refusal :=
  .next (match s.takeDue 1 binding with
    | some s => s.endRound binding
    | none => s)

/-- ROUND_EVENT_WRITE_FAILURE (R247): the round that completed last stays complete; its event word is not repeated. -/
def execRoundEventWriteFailure (binding : Nat) (s : State) : Host.Outcome State Fault Refusal :=
  .next (match s.binding binding with
    | some b => if b.st == 1 && b.evWrite && decide (0 < b.round) then s.logE 0x0403 (some b.slot) binding (b.round - 1) else s
    | none => s)

/-! ## Digests -/

/-- The digest that a command may name (R265). -/
def State.digestFor (s : State) (slot id : Nat) : Except Nat Digest :=
  match s.opr.digests.get? id with
  | none => .error stBadParam
  | some g => if g.slot = slot then .ok g else .error stNotPermitted

/-- DIGEST_OPEN (R264, R265): the lowest free digest; it folds from the stride in which its generation takes effect. -/
def cDigestOpen : Cmd := shortCmd 0x0410 true .any (fun s _ p =>
  let slot := slotOf p
  let a := p.p1.toNat
  let n := p.p2.toNat
  if n = 0 ∨ 2 ^ 24 < n ∨ 2 ^ 36 < a + n then deny s stBadParam
  else if s.domF slot fDigestLimit ≤ (s.opr.digests.filter (fun (x : Nat × Digest) => x.2.slot == slot)).length then
    deny s stNoResource
  else match s.opr.digests.firstFree 1024 with
    | none => deny s stNoResource
    | some id =>
      let g : Digest := { slot := slot, tag := p.p0.toNat % 65536, first := a, count := n, sum := 0, n := 0, sum0 := 0, n0 := 0, st := 0 }
      let (s, gen, due) := { s with opr.digests := s.opr.digests.set id g }.join [.digestOpen id]
      (s, .later due stOk 0 id gen []))

/-- DIGEST_CLOSE (R264, R265). -/
def cDigestClose : Cmd := shortCmd 0x0411 true .any (fun s _ p =>
  let id := fld p.p0.toNat 0 10
  match s.digestFor (slotOf p) id with
  | .error st => deny s st
  | .ok g =>
    if g.st ≠ 1 then deny s stBadParam
    else
      let (s, gen, due) := { s with opr.digests := s.opr.digests.set id { g with st := 2 } }.join [.digestClose id]
      (s, .later due stOk 0 gen 0 []))

/-- DIGEST_READ (R265): an open digest as it stood at cycle 0 of this stride; RELEASE frees a closed one. -/
def cDigestRead : Cmd := shortCmd 0x0412 true .any (fun s _ p =>
  let id := fld p.p0.toNat 0 10
  let rel := p.p0.getLsbD 16
  match s.digestFor (slotOf p) id with
  | .error st => deny s st
  | .ok g =>
    if rel && g.st != 3 then deny s stBadParam
    else
      let (v, n) := if g.st = 3 then (g.sum, g.n) else (g.sum0, g.n0)
      done (if rel then { s with opr.digests := s.opr.digests.del id } else s) stOk v.toNat (n % 2 ^ 48 + 2 ^ 48 * g.tag))

/-! ## Rows -/

/-- OPER_BIND. -/
def execOperBind (o : Origin) (p : Pkt) (s : State) : Host.Outcome State Fault Refusal := .next (s.packet cOperBind none o p)

/-- OPER_UNBIND. -/
def execOperUnbind (o : Origin) (p : Pkt) (s : State) : Host.Outcome State Fault Refusal :=
  .next (s.packet cOperUnbind none o p)

/-- OPER_STEP. -/
def execOperStep (o : Origin) (p : Pkt) (s : State) : Host.Outcome State Fault Refusal := .next (s.packet cOperStep none o p)

/-- OPER_ROUND_CLOSE. -/
def execOperRoundClose (o : Origin) (p : Pkt) (s : State) : Host.Outcome State Fault Refusal :=
  .next (s.packet cOperRoundClose none o p)

/-- OPER_QUERY. -/
def execOperQuery (o : Origin) (p : Pkt) (s : State) : Host.Outcome State Fault Refusal :=
  .next (s.packet cOperQuery none o p)

/-- DIGEST_OPEN. -/
def execDigestOpen (o : Origin) (p : Pkt) (s : State) : Host.Outcome State Fault Refusal :=
  .next (s.packet cDigestOpen none o p)

/-- DIGEST_CLOSE. -/
def execDigestClose (o : Origin) (p : Pkt) (s : State) : Host.Outcome State Fault Refusal :=
  .next (s.packet cDigestClose none o p)

/-- DIGEST_READ. -/
def execDigestRead (o : Origin) (p : Pkt) (s : State) : Host.Outcome State Fault Refusal :=
  .next (s.packet cDigestRead none o p)

end Sys2Proof.Machine
end

