-- ==== Sys2Proof/Machine/DmaOps.lean ====
section
/-! DEFINITION. The DMA engine (R270 to R293): descriptors and their patterns, the moves, chains and the tail, the channel
status word, and the commands of the 0x05xx range. The bytes of a host source come with DESCRIPTOR_COMPLETE (assumption 29). -/

namespace Sys2Proof.Machine

/-! ## Descriptors (R275 to R278) -/

/-- The descriptor of 64 bytes. -/
def descOf (b : List Byte) : Desc :=
  let c := fieldAt b 12 2
  { dseq := fieldAt b 8 4, evIndex := fieldAt b 14 1, evPin := if c.testBit 13 then some (fld c 10 3) else none,
    evWrite := c.testBit 9, esize := 2 * 2 ^ fld c 7 2, reshape := fld c 4 3, dstDom := fld c 2 2 == 1,
    srcDom := fld c 0 2 == 1, src := fieldAt b 16 8, dst := fieldAt b 24 8, rowBytes := fieldAt b 32 4,
    rows := fieldAt b 36 4, srcPitch := fieldAt b 40 4, dstPitch := fieldAt b 44 4,
    shape := BitVec.ofNat 64 (fieldAt b 48 8), link := BitVec.ofNat 64 (fieldAt b 0 8), staged := false }

/-- PLANE_STRIDE or WAY_STRIDE. -/
def Desc.stride (d : Desc) : Nat := fld d.shape.toNat 0 32

/-- W. -/
def Desc.ways (d : Desc) : Nat := fld d.shape.toNat 32 8

/-- G. -/
def Desc.gran (d : Desc) : Nat := 2 ^ fld d.shape.toNat 40 4

/-- The bytes of one way of a row: ⌈(ROW_BYTES ÷ G) ÷ W⌉ × G. -/
def Desc.wayBytes (d : Desc) : Nat := (d.rowBytes / d.gran + d.ways - 1) / d.ways * d.gran

/-- The row span of the side that is not contiguous (R277). -/
def Desc.otherSpan (d : Desc) : Nat :=
  if d.reshape = 0 then d.rowBytes
  else if d.reshape ≤ 2 then (d.esize - 1) * d.stride + d.rowBytes / d.esize
  else (d.ways - 1) * d.stride + d.wayBytes

/-- The row span of the source. -/
def Desc.srcSpan (d : Desc) : Nat := if d.reshape = 2 ∨ d.reshape = 4 then d.otherSpan else d.rowBytes

/-- The row span of the destination. -/
def Desc.dstSpan (d : Desc) : Nat := if d.reshape = 1 ∨ d.reshape = 3 then d.otherSpan else d.rowBytes

/-- Whether the bytes of a descriptor are in range: CTRL, the counts, SHAPE and R278. -/
def descOk (b : List Byte) : Bool :=
  let c := fieldAt b 12 2
  let d := descOf b
  let shape := d.shape.toNat
  let form :=
    if d.reshape = 0 then shape == 0
    else if d.reshape ≤ 2 then
      fld c 7 2 != 3 && fld shape 32 32 == 0 && d.rowBytes % d.esize == 0 && decide (d.rowBytes / d.esize ≤ d.stride)
    else
      decide (2 ≤ d.ways) && decide (d.ways ≤ 64) && decide (6 ≤ fld shape 40 4) && decide (fld shape 40 4 ≤ 12)
        && fld shape 44 20 == 0 && d.rowBytes % d.gran == 0 && decide (d.wayBytes ≤ d.stride)
  fieldAt b 60 4 == (crc32c (sub b 8 52)).toNat && fld c 14 2 == 0 && decide (d.reshape ≤ 4) && decide (fld c 2 2 ≤ 1)
    && decide (fld c 0 2 ≤ 1) && fieldAt b 15 1 == 0 && fieldAt b 56 4 == 0 && fld (fieldAt b 0 8) 1 5 == 0
    && decide (1 ≤ d.rowBytes) && decide (1 ≤ d.rows) && decide (d.rows ≤ 2 ^ 24) && decide (d.rowBytes * d.rows ≤ 2 ^ 40)
    && form && (d.rows == 1 || decide (d.dstSpan ≤ d.dstPitch))

/-- The hull of a side: its base and its bytes (R279). -/
def Desc.srcHull (d : Desc) : Nat × Nat := (d.src, (d.rows - 1) * d.srcPitch + d.srcSpan)

/-- The hull of the destination. -/
def Desc.dstHull (d : Desc) : Nat × Nat := (d.dst, (d.rows - 1) * d.dstPitch + d.dstSpan)

/-- Whether a descriptor overlaps (R279). -/
def Desc.overlaps (d : Desc) : Bool := d.srcDom == d.dstDom && meets d.srcHull d.dstHull

/-- The bytes that a descriptor moves. -/
def Desc.total (d : Desc) : Nat := d.rowBytes * d.rows

/-- The offset on the other side's row of byte `x` of the contiguous side's row (R277). -/
def Desc.other (d : Desc) (x : Nat) : Nat :=
  if d.reshape = 1 ∨ d.reshape = 2 then x % d.esize * d.stride + x / d.esize
  else if d.reshape = 3 ∨ d.reshape = 4 then
    let g := x / d.gran
    g % d.ways * d.stride + g / d.ways * d.gran + x % d.gran
  else x

/-- Whether the destination is the contiguous side. -/
def Desc.joins (d : Desc) : Bool := d.reshape == 2 || d.reshape == 4

/-- The source and the destination address of byte `x` of row `r` of the contiguous side. -/
def Desc.pair (d : Desc) (r x : Nat) : Nat × Nat :=
  if d.joins then (d.src + r * d.srcPitch + d.other x, d.dst + r * d.dstPitch + x)
  else (d.src + r * d.srcPitch + x, d.dst + r * d.dstPitch + d.other x)

/-- Bytes of a row in rising order of their destination. -/
def Desc.rising (d : Desc) (xs : List Nat) : List Nat :=
  if d.reshape = 1 then (List.range d.esize).flatMap (fun k => xs.filter (fun x => x % d.esize == k))
  else if d.reshape = 3 then (List.range d.ways).flatMap (fun w => xs.filter (fun x => x / d.gran % d.ways == w))
  else xs

/-! ## Bursts (R273, R280) -/

/-- Whether the bursts of a descriptor run in descending order (R280). -/
def Desc.down (d : Desc) : Bool := d.overlaps && d.rows == 1 && d.reshape == 0 && decide (d.src < d.dst)

/-- Where the first burst of a descriptor begins. -/
def Desc.first (d : Desc) : Nat × Nat × Bool := (0, if d.down then d.rowBytes else 0, false)

/-- The burst that begins at a place: within one row and one 256-byte-aligned block of the contiguous side. -/
def Desc.burstAt (d : Desc) (at' : Nat × Nat × Bool) : Burst :=
  let (r, x, back) := at'
  let a := if d.joins then d.dst + r * d.dstPitch else d.src + r * d.srcPitch
  if d.down then
    let lo := (a + x - 1) / 256 * 256 - a
    { row := r, lo := lo, n := x - lo, back := back }
  else { row := r, lo := x, n := min (256 - (a + x) % 256) (d.rowBytes - x), back := back }

/-- Where the burst after one begins, if any is left: a staged descriptor reads its whole source and then writes (R281). -/
def Desc.after (d : Desc) (b : Burst) : Option (Nat × Nat × Bool) :=
  if d.down then (if b.lo = 0 then none else some (0, b.lo, false))
  else if b.lo + b.n < d.rowBytes then some (b.row, b.lo + b.n, b.back)
  else if b.row + 1 < d.rows then some (b.row + 1, 0, b.back)
  else if d.staged && !b.back then some (0, 0, true)
  else none

/-- Whether a burst reads the source. -/
def Desc.reads (d : Desc) (b : Burst) : Bool := !d.staged || !b.back

/-- Whether a burst writes the destination. -/
def Desc.writes (d : Desc) (b : Burst) : Bool := !d.staged || b.back

/-- The source addresses of a burst. -/
def Desc.sources (d : Desc) (b : Burst) : List Nat := (rangeFrom b.lo b.n).map (fun x => (d.pair b.row x).1)

/-- The destination addresses of a burst. -/
def Desc.targets (d : Desc) (b : Burst) : List Nat := (rangeFrom b.lo b.n).map (fun x => (d.pair b.row x).2)

/-! ## The move -/

/-- Each number of a list once, where equal ones follow one another. -/
def runsOf : List Nat → List Nat
  | [] => []
  | [a] => [a]
  | a :: b :: l => if a = b then runsOf (b :: l) else a :: runsOf (b :: l)

/-- The lines of domain addresses, each listed once. -/
def linesOf (l : List Nat) : List Nat :=
  (runsOf (l.map (· / 64))).foldl (fun acc x => if acc.contains x then acc else acc ++ [x]) []

/-- Read one line of the bound domain as device-side work does (R122, R298), where its plate is resident or has come from another
member. -/
def State.devRead (s : State) (slot line : Nat) : State × List Byte × Bool :=
  let plate := line / 64
  -- under Device Fatal reads are poisoned (R322)
  if s.ras.fatal then (s, zeros 64, true)
  else match s.plateHome slot plate with
  | .here =>
    if s.lostHere slot plate then (s, zeros 64, true)
    else match s.ent slot plate with
      | none => (s, zeros 64, false)
      | some e =>
        if e.damaged then (s, zeros 64, true)
        else if e.res0 then s.readT0 slot plate e (line % 64)
        else
          let (s, d, bad) := s.plateCopy slot plate 4
          (s, sub d (64 * (line % 64)) 64, bad.contains (line % 64))
  | .lost => (s, zeros 64, true)
  | .at _ => match s.herd.buf.get? (plateKey slot plate) with
    | some (d, bad) => (s, sub d (64 * (line % 64)) 64, bad.contains (line % 64))
    | none => (s, zeros 64, true)

/-- Read the listed lines: each with its bytes and whether it is poisoned. -/
def State.devReads (s : State) (slot : Nat) (lines : List Nat) : State × FMap (List Byte × Bool) :=
  lines.foldl (fun (a : State × FMap (List Byte × Bool)) l =>
    let (s, d, bad) := a.1.devRead slot l
    (s, a.2.set l (d, bad))) (s, [])

/-- Write enabled bytes of a line of the bound domain as device-side work does (R263, R270, R298, R318, R390). -/
def State.devWrite (s : State) (slot line : Nat) (d : List Byte) (be : Nat) (poison : Bool) (u : TxnUse) : State :=
  (((s.preserve slot (line / 64)).foldPlain slot line d be).targetWrite slot line).ownWrite slot line d be poison u

/-- What each destination line of a descriptor takes: its bytes, which of them, and whether they are poisoned. -/
def lineWrites (moves : List (Nat × Byte × Bool)) : List (Nat × List Byte × Nat × Bool) :=
  (linesOf (moves.map Prod.fst)).map (fun l =>
    let mine := moves.filter (fun m => m.1 / 64 == l)
    let at' := fun (i : Nat) => mine.find? (fun m => m.1 == l * 64 + i)
    (l, (List.range 64).map (fun i => match at' i with
        | some m => m.2.1
        | none => 0),
      bitMask ((List.range 64).filter (fun i => (at' i).isSome)), mine.any (fun m => m.2.2)))

/-- Host writes of moved bytes: each run of consecutive addresses within a 64-byte line is one write. -/
def hostPieces : List (Nat × Byte × Bool) → List (Nat × List Byte × Bool)
  | [] => []
  | (a, b, p) :: l => match hostPieces l with
    | (x, bs, q) :: rest => if x = a + 1 ∧ x % 64 ≠ 0 ∧ p = q then (a, b :: bs, p) :: rest else (a, [b], p) :: (x, bs, q) :: rest
    | [] => [(a, [b], p)]

/-- A channel. -/
def State.chan (s : State) (n : Nat) : Option Chan := s.dma.chans.get? n

/-- Change a channel. -/
def State.modChan (s : State) (n : Nat) (g : Chan → Chan) : State := { s with dma.chans := s.dma.chans.modify n g }

/-! ## Channel states (R271, R283, R288) -/

def chClosed : Nat := 0
def chRunning : Nat := 1
def chStageWait : Nat := 2
def chParked : Nat := 3
def chSleeping : Nat := 4
def chStopped : Nat := 5
def chError : Nat := 6

/-- The state that a channel takes: the one that waits for the boundary, else the one it has. -/
def Chan.coming (c : Chan) : Nat :=
  match c.next with
  | some x => x.1
  | none => c.st

/-- Whether a channel is to fetch the descriptor at its address. -/
def Chan.fetches (c : Chan) : Bool := c.desc.isNone && !c.reread && c.st != chClosed && c.coming == chRunning

/-! ## The mover (R273, R274, R280 to R282, R290) -/

/-- The engine die of a channel (R270). -/
def chanDie (n : Nat) : Nat := n / 16

/-- The plates of domain addresses. -/
def platesOfAddrs (l : List Nat) : List Nat := (runsOf (l.map (· / 4096))).eraseDups

/-- Whether the domain holds what reading or writing a plate for a burst takes (R273): the charge of its tier, or of the fabric where its
home is on another member. -/
def State.plateGrant (s : State) (slot plate lines : Nat) (write : Bool) : Bool :=
  match s.plateHome slot plate with
  | .lost => true
  | .here => match s.ent slot plate with
    | none => true
    | some e => e.res0 || e.damaged || e.remote || s.homeGrant slot plate e
  | .at dev =>
    if write then s.fabricGrant slot dev (2 * lines) 0
    else s.herd.buf.has (plateKey slot plate) || s.fetching (plateKey slot plate) || s.fabricGrant slot dev 1 65

/-- The flits of 256 bytes that host addresses touch (R24). -/
def flitsOf (l : List Nat) : Nat := (runsOf (l.map (· / 256))).eraseDups.length

/-- The flits that a burst reads from the host, and those that it writes there. -/
def Desc.hostFlits (d : Desc) (b : Burst) : Nat × Nat :=
  (if d.reads b && !d.srcDom then flitsOf (d.sources b) else 0, if d.writes b && !d.dstDom then flitsOf (d.targets b) else 0)

/-- Whether a burst holds its grants (R273). -/
def State.burstGrant (s : State) (c : Chan) (d : Desc) (b : Burst) : Bool :=
  let (r, w) := d.hostFlits b
  let side := fun (l : List Nat) (write : Bool) =>
    (platesOfAddrs l).all (fun p => s.plateGrant c.slot p (linesOf (l.filter (fun a => a / 4096 == p))).length write)
  decide (r ≤ s.left c.slot 0 (headOf c.func)) && decide (w ≤ s.left c.slot 1 (headOf c.func))
    && (!(d.reads b && d.srcDom) || side (d.sources b) false) && (!(d.writes b && d.dstDom) || side (d.targets b) true)

/-- Have the lines of a burst at hand: other members' source plates have come, no host holds a line that stands in the way (R298), the
plates of this device are resident, and no destination plate is held by a staged change plan (R94). -/
def State.burstLines (s : State) (slot : Nat) (src dst : List Nat) : State × Bool :=
  let mine := fun (s : State) (l : List Nat) => l.filter (fun x => s.plateHome slot (x / 64) == .here)
  let (s, ok1) := s.needPlates slot (platesOfAddrs (src.map (· * 64)))
  let (s, ok2) := s.clearLines slot (mine s src) false
  let (s, ok3) := s.clearLines slot (mine s dst) true
  if !(ok1 && ok2 && ok3) || dst.any (fun x => s.planHolds slot (x / 64)) then (s, false)
  else (platesOfAddrs ((mine s src ++ mine s dst).map (· * 64))).foldl (fun (a : State × Bool) p =>
    if (a.1.ent slot p).any (fun e => !e.damaged) then
      let (s, ok) := a.1.bringIn slot p
      (s, a.2 && ok)
    else a) (s, true)

/-- Write moved bytes to the destination of a descriptor: to the domain line by line, to the host in its pieces. -/
def State.putBytes (s : State) (n : Nat) (c : Chan) (d : Desc) (moves : List (Nat × Byte × Bool)) : State :=
  let s := { s with dma.bytes := cntAdd s.dma.bytes moves.length }
  if d.dstDom then s.over (lineWrites moves) (fun s w => s.devWrite c.slot w.1 w.2.1 w.2.2.1 w.2.2.2 (.dma n))
  else s.over (hostPieces moves) (fun s w => (s.countPoison w.2.2).emit (.hostWrite c.func w.1 w.2.1 w.2.2))

/-- Finish the oldest burst in flight of a channel, where its lines are at hand: a burst from the domain moves its bytes, into the claim of
a staged descriptor or to the destination; the bytes of a host source come with DESCRIPTOR_COMPLETE (assumption 29). -/
def State.finishBurst (s : State) (n : Nat) : State × Bool :=
  match s.chan n with
  | none => (s, false)
  | some c => match c.desc, c.flight with
    | some d, b :: rest =>
      let reads := d.reads b && d.srcDom
      let writes := d.writes b && d.dstDom
      match s.burstLines c.slot (if reads then linesOf (d.sources b) else []) (if writes then linesOf (d.targets b) else []) with
      | (s, false) => (s, false)
      | (s, true) =>
        let xs := rangeFrom b.lo b.n
        let (s, got) := if reads then s.devReads c.slot (linesOf (d.sources b)) else (s, [])
        let byte := fun (x : Nat) =>
          if d.staged && b.back then c.stage.getD (b.row * d.rowBytes + x) (0, true)
          else match got.get? ((d.pair b.row x).1 / 64) with
            | some (l, bad) => (l.getD ((d.pair b.row x).1 % 64) 0, bad)
            | none => (0, true)
        let moves := if d.srcDom && d.writes b then (d.rising xs).map (fun x => ((d.pair b.row x).2, byte x)) else []
        let s := if moves.isEmpty then s else s.putBytes n c d moves
        let poison := moves.any (fun m => m.2.2)
        (s.modChan n (fun c => { c with
          flight := rest, moved := c.moved + if d.writes b then b.n else 0, bad := c.bad || poison,
          stage := if reads && d.staged then c.stage ++ xs.map byte else c.stage }), true)
    | _, _ => (s, false)

/-- Finish the bursts in flight of a channel, the oldest first, as far as their lines are at hand. -/
def State.finishBursts (s : State) (n : Nat) : Nat → State
  | 0 => s
  | k + 1 => match s.finishBurst n with
    | (s, true) => s.finishBursts n k
    | (s, false) => s

/-- The owner number of a descriptor's claim of the staging pool (R281). -/
def claimOf (n : Nat) (d : Desc) : Nat := n + 64 * d.dseq

/-- Whether a channel's claim of the staging pool waits. -/
def State.stageWaits (s : State) (n : Nat) (c : Chan) : Bool := c.desc.any (fun d => d.staged && !s.claimed 1 (claimOf n d))

/-- Whether the next burst of a channel is ready (R274): the channel runs, it has an entry of the tracker and fewer than 64 bursts in flight
(R273), and the burst holds its grants. -/
def State.chanReady (s : State) (n : Nat) : Bool :=
  match s.chan n with
  | none => false
  | some c => match c.desc, c.cur with
    | some d, some x =>
      c.st != chClosed && c.coming == chRunning && decide (c.flight.length < 64) && !s.stageWaits n c && s.trackerRoom 9
        && s.burstGrant c d (d.burstAt x)
    | _, _ => false

/-- Start the next burst of a channel (R273): its host side is charged, and it is done as soon as its lines are at hand. -/
def State.startBurst (s : State) (n : Nat) : State :=
  match s.chan n with
  | none => s
  | some c => match c.desc, c.cur with
    | some d, some x =>
      let b := d.burstAt x
      let (r, w) := d.hostFlits b
      let s := (s.charge c.slot 0 (headOf c.func) r).charge c.slot 1 (headOf c.func) w
      let s := { s with dma.started := s.dma.started.set (chanDie n) (s.dma.started.getD (chanDie n) 0 + 1) }
      (s.modChan n (fun c => { c with cur := d.after b, flight := c.flight ++ [b] })).finishBursts n (c.flight.length + 1)
    | _, _ => s

/-- The ready channels of a priority on an engine die, by their index within the die. -/
def State.readyOf (s : State) (die prio : Nat) : List Nat :=
  (List.range 16).filter (fun i => (s.chan (16 * die + i)).any (fun c => c.prio == prio) && s.chanReady (16 * die + i))

/-- The channel that a die's mover serves next (R274): its priority, its index, and the bursts left of its turn after this one. -/
def State.nextTurn (s : State) (die : Nat) : Option (Nat × Nat × Nat) :=
  [3, 2, 1, 0].findSome? (fun p =>
    let ready := s.readyOf die p
    let from' := fun (q : Nat) => match ready.find? (fun i => decide (q ≤ i)) with
      | some i => some i
      | none => ready.head?
    let fresh := fun (q : Nat) => (from' q).map (fun i => (p, i, s.dma.turnLen.getD (4 * die + p) 8 - 1))
    match s.dma.turns.get? (4 * die + p) with
    | some (i, l) => if l ≠ 0 ∧ ready.contains i then some (p, i, l - 1) else fresh (i + 1)
    | none => fresh (s.str.count % 16))

/-- Start bursts on an engine die, at most so many. -/
def State.mover (s : State) (die : Nat) : Nat → State
  | 0 => s
  | k + 1 => match s.nextTurn die with
    | none => s
    | some (p, i, l) => ({ s with dma.turns := s.dma.turns.set (4 * die + p) (i, l) }.startBurst (16 * die + i)).mover die k

/-- The mover of an engine die in what is left of the stride: 512 bursts a stride (R274). -/
def State.moveDie (s : State) (die : Nat) : State := s.mover die (512 - s.dma.started.getD die 0)

/-- The movers at a boundary (R274): the bursts in flight go on, the length of each priority's turns follows from the channels that are
ready, and bursts start. -/
def State.moversBoundary (s : State) : State :=
  let s := { s with dma.started := [], dma.turns := [], dma.turnLen := [] }
  let s := s.over s.dma.chans (fun s x => s.finishBursts x.1 x.2.flight.length)
  let len := fun (die p : Nat) =>
    if s.tst.inForce ≠ 0 then 1 else max 1 (8 / max 1 (s.readyOf die p).length)
  let keys := (List.range 4).flatMap (fun die => (List.range 4).map (fun p => (die, p)))
  let s := { s with dma.turnLen := keys.foldl (fun (m : FMap Nat) (k : Nat × Nat) => m.set (4 * k.1 + k.2) (len k.1 k.2)) [] }
  s.over (List.range 4) State.moveDie

/-- The channel's next status word (R288). -/
def Chan.mkWord (c : Chan) (update : Nat) : U64 :=
  BitVec.ofNat 64 (2 ^ 32 * (c.lastDseq % 2 ^ 32) + 2 ^ 24 * c.status + bitAt c.poison 23 + update % 2 ^ 15 * 256 + c.st)

/-- Whether destination writes of a channel on other members are still on their way. -/
def State.dmaFar (s : State) (n : Nat) : Bool := s.herd.txns.any (fun t => t.2.use == .dma n)

/-- Write a channel's status word, then the event words and pulses of the descriptors it reports, where it has something to
report and every write of them is done (R288, R289). -/
def State.chanReport (s : State) (n : Nat) : State :=
  match s.chan n with
  | none => s
  | some c =>
    if (!c.touch && c.ended.isEmpty) || s.dmaFar n then s
    else
      let u := (c.update + 1) % 2 ^ 15
      let w := c.mkWord u
      let s := s.modChan n (fun c => { c with touch := false, update := u, word := w, ended := [] })
      let s := (s.charge c.slot 1 (headOf c.func) 1).emit (.hostWrite c.func c.stAddr (le 8 w.toNat) false)
      if c.evArea = 0 then s
      else s.over c.ended (fun s e =>
        let (dseq, idx, poison, pin, write) := e
        let s := if write then
            (s.charge c.slot 1 (headOf c.func) 1).emit
              (.hostWrite c.func (c.evArea + 8 * idx) (le 8 (dseq + 2 ^ 62 + bitAt poison 63)) false)
          else s
        s.pulse pin)

/-- Release the claims of a channel but that of the descriptor that it has (R281). -/
def State.unclaimOthers (s : State) (n : Nat) (keep : Option Desc) : State :=
  { s with claims := s.claims.filter (fun c => !(c.kind == 1 && c.owner % 64 == n && !keep.any (fun d => claimOf n d == c.owner))) }

/-- A channel's part of a boundary: its pending state takes effect; a PARKED channel, or one that a DMA_KICK woke, rereads its
tail's LINK (R272, R283). A channel that rereads and gets no word sees END. -/
def State.chanStep (s : State) (links : List (Nat × U64)) (n : Nat) : State :=
  match s.chan n with
  | none => s
  | some c =>
    let link := match links.find? (fun x => x.1 == n) with
      | some x => x.2
      | none => 1#64
    let onward := { c with reread := false, addr := link.toNat / 64 * 64 }
    let woken := c.st == chSleeping && c.next.any (fun x => x.1 == chParked)
    let c1 : Chan :=
      if woken then
        if link.getLsbD 0 then { c with st := chParked, parkLeft := c.parkLimit, next := none }
        else { onward with st := chRunning, next := none }
      else
        let c2 := match c.next with
          | some (st, status) => { c with st := st, status := status, next := none }
          | none => c
        if c2.st = chParked ∧ 0 < c2.parkLeft then
          if link.getLsbD 0 then { c2 with parkLeft := c2.parkLeft - 1 }
          else { c2 with reread := false, addr := link.toNat / 64 * 64, next := some (chRunning, stOk) }
        else c2
    let c1 := { c1 with touch := c.touch || c1.st != c.st || c1.status != c.status }
    let s := s.modChan n (fun _ => c1)
    let keep := if c1.st == chError || c1.st == chStopped || c1.st == chClosed then none else c1.desc
    let s := s.unclaimOthers n keep
    if s.stageWaits n c1 then s
    else
      let s := s.chanReport n
      if c1.st = chClosed then { s with dma.chans := s.dma.chans.del n } else s

/-- The DMA engine's part of a boundary; the waiting claims of the staging pool come up for their grant (R32). -/
def State.dmaBoundary (s : State) (links : List (Nat × U64)) : State :=
  let s := s.over (s.dma.chans.map Prod.fst) (fun s n => s.chanStep links n)
  { s with atBoundary := s.atBoundary ++ [(3, 0, 0)] }

/-- STAGING_CLAIM_GRANT (R32, R281): at a boundary the waiting claims are granted in order; a channel whose claim still waits
is STAGE_WAIT. -/
def execStagingClaimGrant (s : State) : Host.Outcome State Fault Refusal :=
  .next (match s.takeDue 3 0 with
    | none => s
    | some s =>
      let s := s.grantClaims
      s.over s.dma.chans (fun s x =>
        if x.2.desc.any Desc.staged && (x.2.st == chRunning || x.2.st == chStageWait) then
          let st := if s.stageWaits x.1 x.2 then chStageWait else chRunning
          ((s.modChan x.1 (fun c => { c with st := st, touch := c.touch || c.st != st })).chanReport x.1).moveDie (chanDie x.1)
        else s))

/-! ## Events -/

/-- End a channel in ERROR at the next boundary (R291). -/
def State.chanError (s : State) (n status : Nat) : State := s.modChan n (fun c => { c with next := some (chError, status) })

/-- A channel takes a descriptor that it has fetched, and its bursts begin. -/
def State.takeDesc (s : State) (n : Nat) (d : Desc) : State :=
  (s.modChan n (fun c => { c with desc := some d, cur := some d.first, flight := [], moved := 0, stage := [], bad := false })).moveDie
    (chanDie n)

/-- DESCRIPTOR_FETCH (R278, R281, R284, R291): the channel takes the descriptor at its address, or ends in ERROR. -/
def execDescriptorFetch (ch : Nat) (bytes : List Byte) (s : State) : Host.Outcome State Fault Refusal :=
  .next (match s.chan ch with
    | none => s
    | some c =>
      if !c.fetches then s
      else
        let s := s.charge c.slot 0 (headOf c.func) 1
        let d := descOf bytes
        let beyond := fun (h : Nat × Nat) => decide (s.size c.slot < h.1 + h.2)
        if !descOk bytes || d.dseq != (c.lastDseq + 1) % 2 ^ 32 || (d.srcDom && beyond d.srcHull) || (d.dstDom && beyond d.dstHull)
        then s.chanError ch stBadParam
        else if d.overlaps && !(d.rows == 1 && d.reshape == 0) then
          if 16 * mib < d.total then s.chanError ch stOverlap
          else
            let s := { s with dma.staged := cntAdd s.dma.staged 1 }
            (s.claim 1 (claimOf ch d) ((d.total + 63) / 64 * 64)).takeDesc ch { d with staged := true }
        else s.takeDesc ch d)

/-- The bytes of a descriptor in the order of the contiguous side, row by row: row and offset. -/
def Desc.places (d : Desc) : List (Nat × Nat) :=
  (List.range d.rows).flatMap (fun r => (d.rising (List.range d.rowBytes)).map (fun x => (r, x)))

/-- Write the bytes of a host source once all its bursts are done: `src` holds them in the order of the contiguous side. Domain lines that
a host has taken meanwhile must be cleared first. -/
def State.putHost (s : State) (n : Nat) (c : Chan) (d : Desc) (src : List Byte) : State × Bool :=
  if d.srcDom then (s, true)
  else
    let moves := d.places.map (fun p => ((d.pair p.1 p.2).2, src.getD (p.1 * d.rowBytes + p.2) 0, false))
    match s.burstLines c.slot [] (if d.dstDom then linesOf (moves.map Prod.fst) else []) with
    | (s, false) => (s, false)
    | (s, true) => (s.putBytes n c d moves, true)

/-- A descriptor is complete: the channel goes on along LINK, read afresh where the fetched one held END, or parks (R283). -/
def State.descDone (s : State) (n : Nat) (d : Desc) (link : U64) : State :=
  let l := if d.link.getLsbD 0 then link else d.link
  s.modChan n (fun c => { c with
    desc := none, cur := none, stage := [], lastDseq := d.dseq, poison := c.poison || c.bad,
    ended := c.ended ++ [(d.dseq, d.evIndex, c.bad, d.evPin, d.evWrite)], reread := l.getLsbD 0,
    addr := if l.getLsbD 0 then c.addr else l.toNat / 64 * 64,
    parkLeft := if l.getLsbD 0 then c.parkLimit else c.parkLeft,
    next := if l.getLsbD 0 then some (chParked, stOk) else c.next })

/-- The plates of other members that a descriptor's source has brought are kept no longer. -/
def State.dropFar (s : State) (c : Chan) (d : Desc) : State :=
  if !d.srcDom || s.hdom c.slot == none then s
  else
    let (a, n) := d.srcHull
    { s with herd.buf := s.herd.buf.filter (fun x =>
        !(x.1 / 2 ^ 36 == c.slot && decide (a / 4096 ≤ x.1 % 2 ^ 36) && decide (x.1 % 2 ^ 36 ≤ (a + n) / 4096)
          && s.plateHome c.slot (x.1 % 2 ^ 36) != .here)) }

/-- DESCRIPTOR_COMPLETE (R283, R289, R290): every burst of the descriptor is done. -/
def execDescriptorComplete (ch : Nat) (src : List Byte) (link : U64) (s : State) : Host.Outcome State Fault Refusal :=
  let s := s.moveDie (chanDie ch)
  let s := s.finishBursts ch (((s.chan ch).map (fun c => c.flight.length)).getD 0)
  .next (match s.chan ch with
    | none => s
    | some c => match c.desc with
      | none => s
      | some d =>
        if c.cur.isSome || !c.flight.isEmpty || c.coming == chError || c.coming == chStopped || s.stageWaits ch c then s
        else match s.putHost ch c d src with
          | (s, false) => s
          | (s, true) => (s.descDone ch d link).dropFar c d)

/-- PARK_LIMIT_EXPIRY (R283): a channel whose rereads all showed END sleeps from the next boundary. -/
def execParkLimitExpiry (ch : Nat) (s : State) : Host.Outcome State Fault Refusal :=
  .next (match s.chan ch with
    | some c => if c.st = chParked ∧ c.parkLeft = 0 ∧ c.next = none then s.modChan ch (fun c => { c with next := some (chSleeping, c.status) })
      else s
    | none => s)

/-- Bytes of a domain destination that the manual leaves undefined: those lines of them that no host holds take free values. -/
def State.putOpen (s : State) (n : Nat) (c : Chan) (d : Desc) (ps : List (Nat × Nat)) : State :=
  let (s, b) := s.freeBytes ps.length
  let moves := (ps.zip b).map (fun m => ((d.pair m.1.1 m.1.2).2, m.2, false))
  s.over (lineWrites moves) (fun s w => match s.clearLine c.slot w.1 true with
    | (s, true) => s.devWrite c.slot w.1 w.2.1 w.2.2.1 false (.dma n)
    | (s, false) => s)

/-- A bus-master access of a channel fails (R291); what the failed descriptor leaves in its destination is
open. -/
def State.dmaFailure (s : State) (ch : Nat) : State :=
  match s.chan ch with
  | none => s
  | some c =>
    if c.st == chClosed || 4 ≤ c.st || c.coming == chError then s
    else match c.desc with
      | none => s.chanError ch stDataError
      | some d =>
        let s := if d.dstDom then s.putOpen ch c d d.places else s
        (s.modChan ch (fun c => { c with cur := none, flight := [] })).chanError ch stDataError

/-- DMA_ACCESS_FAILURE. -/
def execDmaAccessFailure (ch : Nat) (s : State) : Host.Outcome State Fault Refusal := .next (s.dmaFailure ch)

/-! ## Commands (R293) -/

/-- DMA_CHAN_OPEN (R272, R293). -/
def cDmaChanOpen : Cmd := shortCmd 0x0500 true .any (fun s o p =>
  let slot := slotOf p
  let want := fld p.p0.toNat 0 7
  let prio := fld p.p0.toNat 8 2
  let func := match o with
    | .qp f _ => if s.isOwner f then fld p.p0.toNat 16 7 else f
    | .mgmt _ _ => fld p.p0.toNat 16 7
  let limit := fld p.p3.toNat 32 13
  if (64 ≤ want ∧ want ≠ 0x7F) ∨ p.p1.toNat % 64 ≠ 0 ∨ p.p2.toNat % 8 ≠ 0 ∨ p.p4.toNat % 64 ≠ 0 ∨ limit = 0 ∨ 4096 < limit
      ∨ s.domF slot fDmaPrioMax < prio then deny s stBadParam
  else if want ≠ 0x7F ∧ s.dma.chans.has want then deny s stBusyRetry
  else if s.domF slot fDmaLimit ≤ (s.dma.chans.filter (fun (x : Nat × Chan) => x.2.slot == slot)).length then deny s stNoResource
  else match (if want = 0x7F then s.dma.chans.firstFree 64 else some want) with
    | none => deny s stNoResource
    | some n =>
      let c : Chan :=
        { slot := slot, func := func, prio := prio, parkLimit := limit, stAddr := p.p2.toNat, evArea := p.p4.toNat,
          st := chClosed, next := some (chRunning, stOk), lastDseq := (fld p.p3.toNat 0 32 + 2 ^ 32 - 1) % 2 ^ 32, status := stOk,
          poison := false, update := 0, word := 0, addr := p.p1.toNat, desc := none, cur := none, flight := [], moved := 0,
          stage := [], bad := false, parkLeft := limit, reread := false,
          ended := [], touch := false }
      done { s with dma.chans := s.dma.chans.set n c } stOk n 0)

/-- The channel that a command names: none where it is CLOSED. -/
def State.chanFor (s : State) (slot n : Nat) : Except Nat (Option Chan) :=
  match s.chan n with
  | none => .ok none
  | some c => if c.slot = slot then .ok (some c) else .error stNotPermitted

/-- A channel stops after its current burst (R293): the bursts in flight are finished as far as their lines are at hand, the others are
dropped. Bytes of a host source that have been moved to the domain are not known to the model: they take free values. Second, whether the
descriptor was partly moved. -/
def State.stopBursts (s : State) (n : Nat) (c : Chan) : State × Bool :=
  let s := s.finishBursts n c.flight.length
  match s.chan n with
  | none => (s, false)
  | some c => match c.desc with
    | none => (s, false)
    | some d =>
      let s := if !d.srcDom && d.dstDom then
          s.putOpen n c d ((List.range c.moved).map (fun i => (i / d.rowBytes, i % d.rowBytes))) else s
      ((s.modChan n (fun c => { c with desc := none, cur := none, flight := [], stage := [] })).dropFar c d, decide (0 < c.moved))

/-- DMA_CHAN_STOP (R293). -/
def cDmaChanStop : Cmd := shortCmd 0x0501 true .any (fun s _ p =>
  let n := fld p.p0.toNat 0 6
  match s.chanFor (slotOf p) n with
  | .error st => deny s st
  | .ok none => done s stOk 0 0
  | .ok (some c) =>
    if c.st = chStopped ∨ c.coming = chError ∨ c.coming = chClosed then done s stOk 0 0
    else
      let (s, partly) := s.stopBursts n c
      done ((s.modChan n (fun c => { c with next := some (chStopped, if partly then stAborted else stOk) })).unclaimOthers n none)
        stOk 0 0)

/-- DMA_CHAN_CLOSE (R293). -/
def cDmaChanClose : Cmd := shortCmd 0x0502 true .any (fun s _ p =>
  let n := fld p.p0.toNat 0 6
  match s.chanFor (slotOf p) n with
  | .error st => deny s st
  | .ok none => done s stOk 0 0
  | .ok (some c) =>
    if c.st = chRunning ∨ c.st = chStageWait ∨ c.st = chClosed ∨ c.coming = chRunning then deny s stBusyRetry
    else done (s.modChan n (fun c => { c with next := some (chClosed, c.status) })) stOk 0 0)

/-- DMA_KICK (R283). -/
def cDmaKick : Cmd := shortCmd 0x0503 true .any (fun s _ p =>
  let n := fld p.p0.toNat 0 6
  match s.chanFor (slotOf p) n with
  | .error st => deny s st
  | .ok none => done s stOk 0 0
  | .ok (some c) =>
    done (s.modChan n (fun x =>
      if c.st = chSleeping ∧ c.next = none then { x with next := some (chParked, x.status) }
      else if c.coming = chParked ∨ (c.st = chParked ∧ c.coming = chSleeping) then
        { x with parkLeft := x.parkLimit, next := if c.coming = chSleeping then none else x.next }
      else x)) stOk 0 0)

/-- DMA_CHAN_QUERY (R293). -/
def cDmaChanQuery : Cmd := shortCmd 0x0504 true .any (fun s _ p =>
  match s.chanFor (slotOf p) (fld p.p0.toNat 0 6) with
  | .error st => deny s st
  | .ok none => done s stOk 0 0
  | .ok (some c) => done s stOk c.word.toNat c.addr)

/-- DMA_CHAN_OPEN. -/
def execDmaChanOpen (o : Origin) (p : Pkt) (s : State) : Host.Outcome State Fault Refusal :=
  .next (s.packet cDmaChanOpen none o p)

/-- DMA_CHAN_STOP. -/
def execDmaChanStop (o : Origin) (p : Pkt) (s : State) : Host.Outcome State Fault Refusal :=
  .next (s.packet cDmaChanStop none o p)

/-- DMA_CHAN_CLOSE. -/
def execDmaChanClose (o : Origin) (p : Pkt) (s : State) : Host.Outcome State Fault Refusal :=
  .next (s.packet cDmaChanClose none o p)

/-- DMA_KICK. -/
def execDmaKick (o : Origin) (p : Pkt) (s : State) : Host.Outcome State Fault Refusal := .next (s.packet cDmaKick none o p)

/-- DMA_CHAN_QUERY. -/
def execDmaChanQuery (o : Origin) (p : Pkt) (s : State) : Host.Outcome State Fault Refusal :=
  .next (s.packet cDmaChanQuery none o p)

/-- The channels of a function close at once, writing nothing further (R292); bursts in flight within the domain complete. -/
def State.closeChans (s : State) (func : Nat) : State :=
  s.over (s.dma.chans.filter (fun (x : Nat × Chan) => x.2.func == func)) (fun s x =>
    let inside := x.2.desc.any (fun d => d.srcDom && d.dstDom)
    let s := if inside then s.finishBursts x.1 x.2.flight.length else s
    { s.unclaimOthers x.1 none with dma.chans := s.dma.chans.del x.1 })

end Sys2Proof.Machine
end

