-- ==== Sys2Proof/Machine/Streams.lean ====
section
/-! DEFINITION. Layer streaming (R200 to R235): schedules and their checks, the control line and the window, expert masks,
deadlines, pull and push delivery, events, and the commands of the 0x03xx range. -/

namespace Sys2Proof.Machine

/-! ## Schedules (R201 to R205) -/

/-- The layer entry at an index of a schedule's bytes. -/
def layerAt (b : List Byte) (i : Nat) : Layer :=
  let o := 64 + 16 * i
  let fl := fieldAt b (o + 6) 2
  { first := fieldAt b o 4, ntile := fieldAt b (o + 4) 2, conditional := fl.testBit 0, evWrite := fl.testBit 1,
    evPin := if fl.testBit 2 then some (fld fl 3 3) else none, deadline := fieldAt b (o + 8) 4, evIndex := fieldAt b (o + 12) 1 }

/-- The tile descriptor at an index of a schedule of `nl` layers. -/
def tileAt (b : List Byte) (nl i : Nat) : Tile :=
  let o := 64 + 16 * nl + 32 * i
  let fl := fieldAt b (o + 20) 2
  { first := fieldAt b o 8, nplate := fieldAt b (o + 8) 2, expert := fieldAt b (o + 10) 2, step := fieldAt b (o + 12) 4,
    deadline := fieldAt b (o + 16) 4, evWrite := fl.testBit 0, evPin := if fl.testBit 1 then some (fld fl 2 3) else none,
    evIndex := fieldAt b (o + 22) 1 }

/-- The schedule that bytes hold. -/
def schedOf (b : List Byte) : Sched :=
  let nl := fieldAt b 6 2
  { push := (fieldAt b 3 1).testBit 0, compressed := (fieldAt b 3 1).testBit 1, accept := fieldAt b 4 1,
    window := fieldAt b 5 1, ctrlLine := fieldAt b 16 8, maskLine := fieldAt b 24 8, maskLines := fieldAt b 32 1,
    nslot := fieldAt b 34 2, slotBytes := fieldAt b 36 4, ring := fieldAt b 40 8, evAddr := fieldAt b 48 8,
    layers := (List.range nl).map (layerAt b), tiles := (List.range (fieldAt b 8 4)).map (tileAt b nl) }

/-- The bytes of the plate index of a tile of `n` plates (R219). -/
def indexBytes (n : Nat) : Nat := 64 * ((n + 7) / 8)

/-- The data offset of a tile of `n` plates (R219). -/
def dataOffset (compressed : Bool) (n : Nat) : Nat := 64 + indexBytes n + (if compressed then 64 * n else 0)

/-- Whether the header is valid for a length and a domain's SIZE (R202, R205). -/
def headerOk (b : List Byte) (len size : Nat) : Bool :=
  let mode := fieldAt b 3 1
  let nl := fieldAt b 6 2
  let nt := fieldAt b 8 4
  let push := mode.testBit 0
  let m := fieldAt b 32 1
  let nslot := fieldAt b 34 2
  let sb := fieldAt b 36 4
  let ring := fieldAt b 40 8
  decide (64 ≤ len) && fieldAt b 0 2 == 0x5D10 && fieldAt b 2 1 == 1 && decide (mode < 4) && decide (fieldAt b 4 1 < 16)
    && decide (1 ≤ fieldAt b 5 1) && decide (fieldAt b 5 1 ≤ 64) && decide (1 ≤ nl) && decide (nl ≤ 4096)
    && decide (1 ≤ nt) && decide (nt ≤ 65536) && len == 64 + 16 * nl + 32 * nt
    && fieldAt b 12 4 == (crc32c (splice (sub b 0 len) 12 (zeros 4))).toNat
    && fieldAt b 16 8 % 64 == 0 && decide (fieldAt b 16 8 < size)
    && fieldAt b 24 8 % 64 == 0 && decide (m ≤ 16) && decide (m ≤ fieldAt b 5 1)
    && (if m = 0 then fieldAt b 24 8 == 0 else decide (fieldAt b 24 8 + 64 * m ≤ size))
    && zeroAt b 33 1 && zeroAt b 56 8 && fieldAt b 48 8 % 64 == 0
    && (if push then decide (2 ≤ nslot) && decide (nslot ≤ 4096) && sb % 4096 == 0 && decide (4096 ≤ sb)
          && decide (sb ≤ 4 * mib) && ring % 4096 == 0
          && (List.range nt).all (fun i =>
            let n := (tileAt b nl i).nplate
            decide (dataOffset (mode.testBit 1) n + 4096 * n ≤ sb))
        else !mode.testBit 1 && nslot == 0 && sb == 0 && ring == 0)

/-- The first layer entry that is invalid (R203, R205). -/
def badLayer (b : List Byte) : Option Nat :=
  let nl := fieldAt b 6 2
  let nt := fieldAt b 8 4
  (List.range nl).find? (fun i =>
    let l := layerAt b i
    let o := 64 + 16 * i
    let start := if i = 0 then 0 else (layerAt b (i - 1)).first + (layerAt b (i - 1)).ntile
    decide (l.ntile = 0) || decide (4096 < l.ntile) || decide (l.deadline = 0) || decide (65535 < l.deadline)
      || decide (64 ≤ fieldAt b (o + 6) 2) || !zeroAt b (o + 13) 3 || l.first != start
      || (i + 1 == nl && l.first + l.ntile != nt) || (l.conditional && fieldAt b 32 1 == 0))

/-- The first tile descriptor that is invalid (R204, R205). -/
def badTile (b : List Byte) (size : Nat) : Option Nat :=
  let nl := fieldAt b 6 2
  (List.range (fieldAt b 8 4)).find? (fun i =>
    let t := tileAt b nl i
    let o := 64 + 16 * nl + 32 * i
    decide (2 ^ 36 ≤ t.first) || decide (t.nplate = 0) || decide (256 < t.nplate) || decide (t.step = 0)
      || decide (2 ^ 24 < t.step) || decide (65535 < t.deadline) || decide (32 ≤ fieldAt b (o + 20) 2) || !zeroAt b (o + 23) 9
      || (decide (512 ≤ t.expert) && t.expert != 0xFFFF)
      || decide (size < 4096 * (t.first + (t.nplate - 1) * t.step + 1)))

/-- STREAM_LOAD (R200, R205): the lowest free stream. -/
def cStreamLoad : Cmd := longCmd 0x0300 true .any (fun s _ p =>
  let b := p.data
  let slot := slotOf p
  let size := s.size slot
  if p.p0.toNat % 64 ≠ 0 ∨ headerOk b p.p1.toNat size = false then (s, .now stBadParam 0xFFFF 0 0 [])
  else match badLayer b with
    | some i => (s, .now stBadParam i 0 0 [])
    | none => match badTile b size with
      | some i => (s, .now stBadParam 0x8000 0 i [])
      | none =>
        let sc := schedOf b
        let held := sumOf (s.streams.map (fun x => x.2.sched.tiles.length))
        let mine := (s.streams.filter (fun x => x.2.slot == slot)).length
        match s.streams.firstFree 256 with
        | none => deny s stNoResource
        | some n =>
          if 131072 < held + sc.tiles.length ∨ s.domF slot fStreamLimit ≤ mine then deny s stNoResource
          else
            let st : Stream := { slot := slot, ready := false, sched := sc, sent := [], slotSeq := 0, released := 0, run := none }
            ({ s with streams := s.streams.set n st }, .start (.streamLoad n 0) sc.tiles.length n 0 opQueued))

/-! ## Holds (R207, R216)

A T0 slot's holds are numbers: layer sequence × 512 + stream of a pull delivery, or 256 + stream for the control and mask
lines of a loaded stream. -/

/-- Hold a resident plate. -/
def State.hold (s : State) (slot plate x : Nat) : State :=
  match s.ent slot plate with
  | some e =>
    if e.res0 then { s with ti.t0 := s.ti.t0.modify e.t0Slot (fun u =>
      if u.held.contains x then u else { u with held := u.held ++ [x] }) } else s
  | none => s

/-- Release the holds that a test names. -/
def State.unhold (s : State) (f : Nat → Bool) : State :=
  { s with ti.t0 := s.ti.t0.map (fun (p : Nat × T0Use) => (p.1, { p.2 with held := p.2.held.filter (fun x => !f x) })) }

/-- The plates that hold a stream's control line and mask lines. -/
def Sched.ctrlPlates (sc : Sched) : List Nat :=
  ((sc.ctrlLine / 4096) :: ((List.range sc.maskLines).map (fun i => (sc.maskLine + 64 * i) / 4096))).eraseDups

/-- Whether a plate is resident and held under a number. -/
def State.holds (s : State) (slot plate x : Nat) : Bool :=
  (s.ent slot plate).any (fun e => e.res0 && (s.ti.t0.get? e.t0Slot).any (fun u => u.held.contains x))

/-- Hold the control and mask lines of a loaded stream in T0 (R207): again at each boundary for a plate that found no T0 slot. -/
def State.holdCtrl (s : State) (n : Nat) (st : Stream) : State :=
  s.over st.sched.ctrlPlates (fun s p =>
    if s.holds st.slot p (256 + n) then s else ((s.bringIn st.slot p 2).1).hold st.slot p (256 + n))

/-- The slice of STREAM_LOAD: the schedule is copied (R205). -/
def State.streamLoadSlice (s : State) (h n : Nat) : State :=
  match s.streams.get? n with
  | none => s.failOp h stAborted
  | some st =>
    let s := { s with streams := s.streams.set n { st with ready := true } }.holdCtrl n st
    ((s.setBody h (.streamLoad n st.sched.tiles.length)).ranTo h st.sched.tiles.length).endOp h stOk

/-- Change a stream's run. -/
def State.modRun (s : State) (n : Nat) (f : Run → Run) : State :=
  { s with streams := s.streams.modify n (fun st => { st with run := st.run.map f }) }

/-! ## Commands -/

/-- The stream that a command may name (R200). -/
def State.streamFor (s : State) (slot n : Nat) : Except Nat Stream :=
  match s.streams.get? n with
  | none => .error stBadParam
  | some st => if st.slot = slot then .ok st else .error stNotPermitted

/-- A run that has just been issued. -/
def Run.fresh (start passes func : Nat) : Run :=
  { handle := 4096, start := start, passes := passes, func := func, released := start, masked := start, entered := [], masks := [],
    tiles := [], next := start, ringUse := [], complete := 0, finished := 0, lateLayers := [], doneLayers := [], cut := [], fail := none }

/-- STREAM_RUN (R209, R217, R226, R232, R233). -/
def cStreamRun : Cmd := longCmd 0x0301 true .any (fun s o p =>
  let n := fld p.p0.toNat 0 8
  match s.streamFor (slotOf p) n with
  | .error st => deny s st
  | .ok st =>
    if !st.ready then deny s stBadParam
    else if st.run.isSome then deny s stBusyRetry
    else if !st.sched.push && st.sched.tiles.any (fun t => decide (s.partition st.slot < 2 * t.nplate)) then deny s stBadParam
    else
      let func := match o with
        | .qp f _ => if s.isOwner f then fld p.p3.toNat 0 7 else f
        | .mgmt _ _ => 0
      let passes := fld p.p2.toNat 0 32
      ({ s with streams := s.streams.set n { st with run := some (Run.fresh p.p1.toNat passes func), sent := [] } },
        .start (.streamRun n) (st.sched.layers.length * passes) 0 0 opQueued))

/-- STREAM_UNLOAD (R232). -/
def cStreamUnload : Cmd := shortCmd 0x0302 true .any (fun s _ p =>
  let n := fld p.p0.toNat 0 8
  match s.streamFor (slotOf p) n with
  | .error st => deny s st
  | .ok st =>
    if st.run.isSome || !st.ready then deny s stBusyRetry
    else done ({ s with streams := s.streams.del n }.unhold (fun x => x % 256 == n)) stOk 0 0)

/-- STREAM_QUERY (R232). -/
def cStreamQuery : Cmd := shortCmd 0x0303 true .any (fun s _ p =>
  let n := fld p.p0.toNat 0 8
  match s.streamFor (slotOf p) n with
  | .error st => deny s st
  | .ok st =>
    let busy := match st.run with
      | some r => (r.tiles.filter (fun (t : TileRun) => t.started && !t.delivered)).length
      | none => 0
    let held := (s.ti.t0.filter (fun (u : Nat × T0Use) => u.2.held.any (fun x => x % 512 == n))).length
    done s stOk st.released (busy + 2 ^ 32 * held))

/-! ## The snapshot (R207 to R210) -/

/-- The layer of a layer sequence. -/
def Sched.layerOf (sc : Sched) (q : Nat) : Option Layer := sc.layers[q % sc.layers.length]?

/-- Whether a layer sequence lies within a run. -/
def Run.within (r : Run) (sc : Sched) (q : Nat) : Bool :=
  decide (r.start ≤ q) && (r.passes == 0 || decide (q < r.start + r.passes * sc.layers.length))

/-- Read a line of the domain in T0 with its correction (R207, R463): none where the plate has not been brought into T0, or the line is
poisoned or beyond correction (the manual does not say what the planner makes of such a line; DESIGN CHOICE, assumption 112). -/
def State.readCtrl (s : State) (slot off : Nat) : State × Option (List Byte) :=
  match s.ent slot (off / 4096) with
  | some e =>
    if e.res0 then match s.readLine (t0Line e.t0Slot (off % 4096 / 64)) with
      | (s, .good d) => (s, some d)
      | (s, _) => (s, none)
    else (s, none)
  | none => (s, none)

/-- A tile of a layer sequence that delivery has not begun. -/
def TileRun.fresh (q tile anchor : Nat) : TileRun :=
  { q := q, tile := tile, anchor := anchor, slotIdx := 0, slotSeq := 0, started := false, doneP := 0, index := [], nrec := 0,
    ptr := 0, rest := [], tables := [], poison := false, dataDone := none, delivered := false, late := false }

/-- The tiles of a layer with their indices. -/
def Sched.tilesOf (sc : Sched) (l : Layer) : List (Nat × Tile) :=
  (rangeFrom l.first l.ntile).filterMap (fun i => (sc.tiles[i]?).map (fun t => (i, t)))

/-- Whether a tile of a layer waits for the mask of its layer sequence (R210). -/
def needsMask (l : Layer) (t : Tile) : Bool := l.conditional && t.expert != 0xFFFF

/-- A layer sequence enters the window at a snapshot (R209, R212). -/
def Run.enter (r : Run) (sc : Sched) (n q : Nat) : Run :=
  if q < r.next || !r.within sc q then r
  else match sc.layerOf q with
    | none => r
    | some l =>
      { r with entered := r.entered.set q (n + 1),
               tiles := r.tiles ++ ((sc.tilesOf l).filter (fun t => !needsMask l t.2)).map (fun t => TileRun.fresh q t.1 (n + 1)) }

/-- The mask of a layer sequence is latched at a snapshot (R210, R212). -/
def Run.latch (r : Run) (sc : Sched) (n q : Nat) (mask : BitVec 512) : Run :=
  if r.masks.has q || !r.entered.has q || r.masked ≤ q then r
  else match sc.layerOf q with
    | none => r
    | some l =>
      if !l.conditional then r
      else { r with masks := r.masks.set q (mask, n + 1),
                    tiles := r.tiles ++ ((sc.tilesOf l).filter (fun t => needsMask l t.2 && mask.getLsbD t.2.expert)).map
                      (fun t => TileRun.fresh q t.1 (n + 1)) }

/-- The tiles of an entered layer that wait for a mask which was never latched. -/
def Run.unmasked (r : Run) (sc : Sched) (q : Nat) : Nat :=
  if r.masks.has q || r.doneLayers.contains q then 0
  else match sc.layerOf q with
    | some l => if l.conditional then ((sc.tilesOf l).filter (fun t => needsMask l t.2)).length else 0
    | none => 0

/-- The tiles of all layer sequences below `q`. -/
def Sched.tilesBelow (sc : Sched) (q : Nat) : Nat :=
  q / sc.layers.length * sc.tiles.length + ((sc.layerOf q).map Layer.first).getD 0

/-- The layer sequences of a run below RELEASED that RELEASED has passed before they entered the window are finished with: how many, and
their tiles (R209). -/
def Run.jumped (r : Run) (sc : Sched) : Nat × Nat :=
  let last := if r.passes = 0 then r.released else min r.released (r.start + r.passes * sc.layers.length)
  (last - r.next, sc.tilesBelow last - sc.tilesBelow (min r.next last))

/-- Released layer sequences are finished with: their tiles not yet begun are left out and counted (R209). The second is the count. -/
def Run.release (r : Run) (sc : Sched) : Run × Nat :=
  let gone := r.tiles.filter (fun t => decide (t.q < r.released) && !t.started)
  let past := (r.entered.map Prod.fst).filter (fun q => decide (q < r.released))
  let cut := past.filter (fun q => r.unmasked sc q != 0 || gone.any (fun t => t.q == q))
  let (layers, tiles) := r.jumped sc
  ({ r with tiles := r.tiles.filter (fun t => decide (r.released ≤ t.q) || t.started),
            cut := (r.cut ++ cut).eraseDups,
            finished := r.finished + layers,
            next := max r.next r.released,
            masks := (past.filter (fun q => !r.masks.has q)).foldl (fun m q => m.set q (0, 0)) r.masks },
    gone.length + sumOf (past.map (r.unmasked sc)) + tiles)

/-- RELEASED and MASKED as the snapshot reads them: a value lower than the one last read is ignored and logged (R207). -/
def State.ctrlValues (s : State) (n : Nat) (st : Stream) (r : Run) : State × Run :=
  match s.readCtrl st.slot st.sched.ctrlLine with
  | (s, none) => (s, r)
  | (s, some d) =>
    let rel := fieldAt d 0 8
    let msk := fieldAt d 8 8
    let s := if rel < r.released then s.logE 0x0301 (some st.slot) n rel else s
    let s := if msk < r.masked then s.logE 0x0301 (some st.slot) n msk else s
    (s, { r with released := max r.released rel, masked := max r.masked msk })

/-- The snapshot of one running stream: its control line, the layers that enter the window, and the masks (R207, R209, R210). -/
def State.streamSnap (s : State) (n : Nat) (st : Stream) (r : Run) : State :=
  let sc := st.sched
  let (s, r) := s.ctrlValues n st r
  let (r, skipped) := r.release sc
  let qs := rangeFrom r.released sc.window
  let r := qs.foldl (fun (r : Run) q => r.enter sc s.str.count q) r
  let r := { r with next := max r.next (r.released + sc.window) }
  let (s, r) := if sc.maskLines = 0 then (s, r) else qs.foldl (fun (a : State × Run) q =>
    match a.1.readCtrl st.slot (sc.maskLine + 64 * (q % sc.maskLines)) with
    | (s, some d) => (s, a.2.latch sc s.str.count q (BitVec.ofNat 512 (leNat d)))
    | (s, none) => (s, a.2)) (s, r)
  let s := s.modOp r.handle (fun o => { o with r2 := o.r2 + skipped, ran := o.ran || skipped != 0 })
  { s with streams := s.streams.modify n (fun x => { x with run := some r, released := r.released }) }

/-- The snapshot of every running stream. -/
def State.streamsSnapshot (s : State) : State :=
  s.over s.streams (fun s x => match x.2.run with
    | some r => if r.handle < 4096 ∧ r.fail.isNone then s.streamSnap x.1 x.2 r else s
    | none => s)

/-! ## Slices (R213 to R217, R225, R226) -/

/-- The deadline stride of a tile (R212). -/
def Sched.deadline (sc : Sched) (t : TileRun) : Nat :=
  let own := ((sc.tiles[t.tile]?).map Tile.deadline).getD 0
  t.anchor + (if own ≠ 0 then own else ((sc.layerOf t.q).map Layer.deadline).getD 0)

/-- Whether stream work may use `n` more units of a grant: no more than STREAM_SHARE 256ths (R213). -/
def State.streamGrant (s : State) (slot cls idx n : Nat) : Bool :=
  let k := bridleKey slot cls idx
  decide ((s.str.used.getD k 0 + n) * 256 ≤ s.str.grant.getD k 0 * s.domF slot fStreamShare)

/-- Whether the grants cover the reading of a plate for a stream, `lane` saying whether a lane expands it. -/
def State.streamReadGrant (s : State) (slot plate : Nat) (e : MapEnt) (lane : Bool) : Bool :=
  if e.remote || e.damaged || e.tier == 0 then true
  else (if e.tier = 1 then s.streamGrant slot 4 (storeStack e.store) (granules e.clen) else s.streamGrant slot 7 (faEngine e.store) 72)
    && (!lane || e.coding == cRaw || s.streamGrant slot 5 (homeDie e plate) decodeNominal)

/-- Whether the share of a stream covers the fetch of a plate from another member: its request on the link that it leaves on, and the reply's
head and 64 lines (R213, R401). -/
def State.streamFetchGrant (s : State) (slot plate dev : Nat) : Bool :=
  let key := plateKey slot plate
  if s.herd.buf.has key || s.fetching key then true
  else match (s.route dev).bind s.outLink with
    | some l => s.streamGrant slot 3 (l / 8) 1 && s.streamGrant slot 2 (l / 8) 65
    | none => true

/-- What a push slice sends of a plate (R221, R222, R225): its index entry without the offset, its bytes in 64-byte pieces, and
the table they need. -/
structure Sending where
  entry : Nat
  pieces : List (List Byte × Bool)
  table : Option Nat
  poison : Bool
deriving DecidableEq, Repr

/-- Cut bytes into 64-byte pieces, the listed lines poisoned. -/
def pieces (d : List Byte) (bad : List Nat) : List (List Byte × Bool) :=
  (List.range ((d.length + 63) / 64)).map (fun i => (sub d (64 * i) 64, bad.contains i))

/-- Whether a plate may be sent in its stored coding (R225). -/
def Sched.sendsStored (sc : Sched) (e : MapEnt) : Bool :=
  sc.compressed && !e.remote && e.tier != 0 && !e.dirty && !e.damaged
    && (e.coding == cRaw || sc.accept.testBit (if e.coding = cXe16 then 0 else if e.coding = cXe32 then 1
      else if e.table = noTable then 3 else 2))

/-- Read a plate for a push delivery; none where its grants, or its bytes on another member, must be waited for. -/
def State.sendPlate (s : State) (sc : Sched) (slot plate : Nat) : State × Option Sending :=
  let elem := (s.coder slot plate).1 * 16
  let raw := noTable * 65536
  let poisoned : Sending :=
    { entry := elem + raw + 2 ^ 9 + (if sc.compressed then 0 else 4096 * 2 ^ 32),
      pieces := if sc.compressed then [] else pieces (zeros 4096) (List.range 64), table := none, poison := true }
  match s.plateHome slot plate, s.ent slot plate with
  | .lost, _ => (s, some poisoned)
  | .here, none =>
    (s, some { entry := elem + raw + 2 ^ 8 + (if sc.compressed then 0 else 4096 * 2 ^ 32),
               pieces := if sc.compressed then [] else pieces (zeros 4096) [], table := none, poison := false })
  | .at dev, _ =>
    if !s.streamFetchGrant slot plate dev then (s, none)
    else match s.needPlates slot [plate] with
      | (s, false) => (s, none)
      | (s, true) =>
        let (s, d, bad) := s.copyOf slot plate 2
        if bad.length = 64 then (s, some poisoned)
        else (s, some { entry := elem + raw + bitAt (!bad.isEmpty) 9 + 4096 * 2 ^ 32, pieces := pieces d bad, table := none,
                        poison := !bad.isEmpty })
  | .here, some e =>
    let stored := sc.sendsStored e
    if (stored || !e.res0) && !s.streamReadGrant slot plate e !stored then (s, none)
    else match s.bringPage slot plate with
      | (s, false) => (s, none)
      | (s, true) =>
        if e.damaged then (s, some poisoned)
        else if stored then
          match (s.chargeHome slot e).readHome slot plate e with
          | (s, .damaged) => (s.damage slot plate 0, some poisoned)
          | (s, .bytes b bad) =>
            (s, some { entry := elem + e.coding + 65536 * e.table + 2 ^ 32 * e.clen, pieces := pieces b bad,
                       table := if e.table = noTable then none else some e.table, poison := false })
        else
          let (s, d, bad) := s.plateCopy slot plate 2
          if (s.ent slot plate).any MapEnt.damaged then (s, some poisoned)
          else (s, some { entry := elem + raw + 4096 * 2 ^ 32, pieces := pieces d bad, table := none, poison := false })

/-- Whether push writes of `n` more bytes fit the head's share; bytes count up to whole 256-byte flits (R24, R213). `acc` holds
the bytes of this stride by slot × 8 + head. -/
def State.pushRoom (s : State) (acc : FMap Nat) (slot head n : Nat) : Bool :=
  let a := acc.getD (slot * 8 + head) 0
  s.streamGrant slot 1 head ((a + n + 255) / 256 - (a + 255) / 256)

/-- Write bytes of a slot to the accelerator, charged to the head (R213). -/
def State.pushWrite (s : State) (acc : FMap Nat) (slot func addr : Nat) (d : List Byte) (poison : Bool) : State × FMap Nat :=
  let k := slot * 8 + headOf func
  let a := acc.getD k 0
  ((s.charge slot 1 (headOf func) ((a + d.length + 255) / 256 - (a + 255) / 256)).emit (.hostWrite func addr d poison),
    acc.set k (a + d.length))

/-- The address of a byte of a delivery slot (R218). -/
def Sched.slotAddr (sc : Sched) (t : TileRun) (off : Nat) : Nat := sc.ring + t.slotIdx * sc.slotBytes + off

/-- Write the pieces of the current plate as far as the head's share reaches. -/
def State.pushPieces (s : State) (acc : FMap Nat) (sc : Sched) (slot func : Nat) (t : TileRun) :
    List (List Byte × Bool) → State × FMap Nat × TileRun
  | [] => (s, acc, { t with rest := [] })
  | (d, p) :: l =>
    if s.pushRoom acc slot (headOf func) 64 then
      let (s, acc) := s.pushWrite acc slot func (sc.slotAddr t t.ptr) d p
      s.pushPieces acc sc slot func { t with ptr := t.ptr + 64 } l
    else (s, acc, { t with rest := (d, p) :: l })

/-- The table record that a plate's stored coding needs before it, where the stream has not sent it (R226). -/
def State.recordFor (s : State) (n : Nat) (st : Stream) (plate : Nat) : Option Nat :=
  match s.plateHome st.slot plate, s.ent st.slot plate with
  | .here, some e =>
    if st.sched.sendsStored e && e.table != noTable && !((s.streams.get? n).map Stream.sent).any (fun l => l.contains e.table) then
      some e.table
    else none
  | _, _ => none

/-- Begin the next plate of a push tile: its table's record first, where the stream has not sent it (R225, R226). None where it must
wait for grants or for its bytes. -/
def State.pushPlate (s : State) (acc : FMap Nat) (n : Nat) (st : Stream) (r : Run) (t : TileRun) (plate : Nat) :
    State × FMap Nat × Option TileRun :=
  if (s.recordFor n st plate).isSome && !s.pushRoom acc st.slot (headOf r.func) 64 then (s, acc, none)
  else match s.sendPlate st.sched st.slot plate with
  | (s, none) => (s, acc, none)
  | (s, some x) =>
    let sent := ((s.streams.get? n).map Stream.sent).getD []
    let np := ((st.sched.tiles[t.tile]?).map Tile.nplate).getD 0
    let (s, acc, t) := match x.table with
      | none => (s, acc, t)
      | some id =>
        if sent.contains id then (s, acc, t)
        else
          let recd := ((s.cod.tables.get? id).map Table.record).getD (zeros 64)
          let (s, acc) := s.pushWrite acc st.slot r.func
            (st.sched.slotAddr t (64 + indexBytes np + 64 * t.nrec)) recd false
          ({ s with streams := s.streams.modify n (fun y => { y with sent := y.sent ++ [id] }) }, acc, { t with nrec := t.nrec + 1 })
    let off := if x.pieces.isEmpty then 0 else t.ptr / 64
    let t := { t with index := t.index ++ [BitVec.ofNat 64 (x.entry + 2 ^ 48 * off)], poison := t.poison || x.poison,
                      tables := t.tables ++ x.table.toList.filter (fun i => !t.tables.contains i), rest := x.pieces, doneP := t.doneP + 1 }
    let s := s.modOp r.handle (fun o => { o with r1 := o.r1 + if x.poison then 1 else 0 })
    (s, acc, some t)

/-- Push plates of a tile while the slice and the head's share last: the slice may still cover `left` plates, the one that an earlier slice
left unfinished among them (R213, R214). -/
def State.pushTile (s : State) (acc : FMap Nat) (n : Nat) (st : Stream) (r : Run) (t : TileRun) (d : Tile) :
    Nat → State × FMap Nat × TileRun × Nat
  | 0 => (s, acc, t, 0)
  | left + 1 =>
    let begun : State × FMap Nat × Option TileRun :=
      if t.rest.isEmpty then s.pushPlate acc n st r t (d.first + t.doneP * d.step) else (s, acc, some t)
    match begun with
    | (s, acc, none) => (s, acc, t, 0)
    | (s, acc, some t) =>
      let (s, acc, t) := s.pushPieces acc st.sched st.slot r.func t t.rest
      if !t.rest.isEmpty then (s, acc, t, 0)
      else if t.doneP = d.nplate then (s, acc, { t with dataDone := some s.str.count }, left)
      else s.pushTile acc n st r t d left

/-- Whether the next slot in ring order is free (R218). -/
def Run.slotFree (r : Run) (i : Nat) : Bool :=
  match r.ringUse.get? i with
  | some q => decide (q < r.released)
  | none => true

/-- The plates that streams of a domain hold (R217). -/
def State.heldPlates (s : State) (slot : Nat) : Nat :=
  (s.ti.t0.filter (fun u => u.2.slot == slot && u.2.held.any (fun x => decide (x % 512 < 256)))).length

/-- The plates that started tiles of the pull streams of a domain have still to bring in (R217). -/
def State.comingPlates (s : State) (slot : Nat) : Nat :=
  sumOf (s.streams.map (fun x =>
    if x.2.slot = slot ∧ ¬x.2.sched.push then match x.2.run with
      | some r => sumOf ((r.tiles.filter (fun t => t.started && t.dataDone.isNone)).map (fun t =>
          ((x.2.sched.tiles[t.tile]?).map Tile.nplate).getD 0 - t.doneP))
      | none => 0
    else 0))

/-- Bring a plate of another member into T0 and hold it there (R216; DESIGN CHOICE, assumption 112): whether it came poisoned; none where it
must be waited for. -/
def State.pullRemote (s : State) (slot plate dev x : Nat) : State × Option Bool :=
  if s.heldHere slot plate then (s.hold slot plate x, some false)
  else if !s.streamFetchGrant slot plate dev then (s, none)
  else match s.needPlates slot [plate] with
    | (s, false) => (s, none)
    | (s, true) => match s.bringPage slot plate with
      | (s, false) => (s, none)
      | (s, true) => match s.takeT0 slot (useOf slot false plate) with
        | (s, none) => (s, none)
        | (s, some t) =>
          let (s, d, bad) := s.copyOf slot plate 2
          (((s.setEnt slot plate { MapEnt.remoteAt dev with res0 := true, t0Slot := t }).writeT0 t d bad).hold slot plate x,
            some (!bad.isEmpty))

/-- Bring one plate of a pull tile into T0 and hold it (R216): whether it is found damaged (R231); none where it must be waited for. -/
def State.pullPlate (s : State) (slot plate x : Nat) : State × Option Bool :=
  match s.plateHome slot plate, s.ent slot plate with
  | .lost, _ => (s, some true)
  | .at dev, _ => s.pullRemote slot plate dev x
  | .here, none => (s, some false)
  | .here, some e =>
    if e.res0 then (s.hold slot plate x, some e.damaged)
    else if e.damaged then ((s.bringPage slot plate).1, some true)
    else if !s.streamReadGrant slot plate e true then (s, none)
    else match s.bringIn slot plate 2 with
      | (s, true) => (s.hold slot plate x, some ((s.ent slot plate).any MapEnt.damaged))
      | (s, false) => (s, none)

/-- Bring the plates of a pull tile into T0 and hold them while the slice lasts (R216). -/
def State.pullTile (s : State) (n : Nat) (st : Stream) (r : Run) (t : TileRun) (d : Tile) : Nat → State × TileRun × Nat
  | 0 => (s, t, 0)
  | left + 1 =>
    match s.pullPlate st.slot (d.first + t.doneP * d.step) (t.q * 512 + n) with
    | (s, none) => (s, t, 0)
    | (s, some bad) =>
      let s := s.modOp r.handle (fun o => { o with r1 := o.r1 + if bad then 1 else 0 })
      let t := { t with doneP := t.doneP + 1, poison := t.poison || bad }
      if t.doneP = d.nplate then (s, { t with dataDone := some s.str.count }, left) else s.pullTile n st r t d left

/-- Replace a tile of a run. -/
def Run.putTile (r : Run) (t : TileRun) : Run :=
  { r with tiles := r.tiles.map (fun x => if x.q = t.q ∧ x.tile = t.tile then t else x) }

/-- Give one tile its part of its stream's slice. `left` holds the plates each stream's slice has left, by stream. -/
def State.tileSlice (s : State) (acc left : FMap Nat) (n : Nat) (q tile : Nat) : State × FMap Nat × FMap Nat :=
  match s.streams.get? n with
  | none => (s, acc, left)
  | some st =>
    match st.run with
    | none => (s, acc, left)
    | some r =>
      match r.tiles.find? (fun t => t.q == q && t.tile == tile), st.sched.tiles[tile]? with
      | some t, some d =>
        let room := left.getD n 64
        if room = 0 then (s, acc, left)
        else if st.sched.push then
          let seq := st.slotSeq + (r.tiles.filter (fun x => x.started && !x.delivered)).length
          let i := seq % st.sched.nslot
          -- no further tile of the stream starts; those that have started go on (R218)
          if !t.started && !r.slotFree i then (s, acc, left)
          else
            let t := if t.started then t else
              { t with started := true, slotIdx := i, slotSeq := seq, ptr := dataOffset st.sched.compressed d.nplate }
            let s := s.modRun n (fun r => { r with ringUse := r.ringUse.set t.slotIdx q })
            let (s, acc, t, l) := s.pushTile acc n st r t d room
            ((s.modRun n (fun r => r.putTile t)).modOp r.handle (fun o => { o with ran := true }), acc, left.set n l)
        else if !t.started && decide (s.partition st.slot < 2 * (s.heldPlates st.slot + s.comingPlates st.slot + d.nplate)) then
          (s, acc, left)
        else
          let (s, t, l) := s.pullTile n st r { t with started := true } d room
          ((s.modRun n (fun r => r.putTile t)).modOp r.handle (fun o => { o with ran := true }), acc, left.set n l)
      | _, _ => (s, acc, left)

/-- The order of stream work (R214): deadline stride, layer sequence, stream, tile. -/
def tileBefore (a b : Nat × Nat × Nat × Nat) : Bool :=
  decide (a.1 < b.1) || (a.1 == b.1 && (decide (a.2.1 < b.2.1) || (a.2.1 == b.2.1 && (decide (a.2.2.1 < b.2.2.1)
    || (a.2.2.1 == b.2.2.1 && decide (a.2.2.2 < b.2.2.2))))))

/-- Put a tile into a list in the order of stream work. -/
def insertTile (x : Nat × Nat × Nat × Nat) : List (Nat × Nat × Nat × Nat) → List (Nat × Nat × Nat × Nat)
  | [] => [x]
  | y :: l => if tileBefore x y then x :: y :: l else y :: insertTile x l

/-- The tiles that are to be worked on, in order: of every running stream whose slot's slices run in this stride, in the window,
selected, not yet done (R209, R521). -/
def State.tileOrder (s : State) (runs : Option Nat → Bool) : List (Nat × Nat × Nat × Nat) :=
  (s.streams.flatMap (fun x => match x.2.run with
    | some r => if runs (some x.2.slot) ∧ r.handle < 4096 ∧ r.fail.isNone ∧ (s.ops.tab.get? r.handle).any (fun o => o.st == opRunning && !o.dead) then
        (r.tiles.filter (fun t => t.dataDone.isNone)).map (fun t => (x.2.sched.deadline t, t.q, x.1, t.tile))
      else []
    | none => [])).foldl (fun l t => insertTile t l) []

/-- STREAM_SLICE (R213): compose the slices of the stride. -/
def State.streamSlices (s : State) (runs : Option Nat → Bool) (acc : FMap Nat) : State :=
  ((s.tileOrder runs).foldl (fun (a : State × FMap Nat × FMap Nat) x => a.1.tileSlice a.2.1 a.2.2 x.2.2.1 x.2.1 x.2.2.2) (s, acc, [])).1

/-! ## Delivery (R212, R215, R220 to R223, R227, R228) -/

/-- The delivery header of a tile (R220). -/
def State.deliveryHeader (s : State) (n : Nat) (st : Stream) (t : TileRun) (d : Tile) (late : Bool) : List Byte :=
  let data := t.ptr - dataOffset st.sched.compressed d.nplate
  let h := le 8 t.slotSeq ++ le 8 t.q ++ le 4 t.tile ++ le 2 d.nplate ++ le 2 t.nrec ++ le 2 s.herd.device ++ le 1 n
    ++ le 1 (bitAt (t.slotSeq / st.sched.nslot % 2 == 0) 0 + bitAt st.sched.compressed 1 + bitAt late 2 + bitAt t.poison 3)
    ++ le 4 (64 + indexBytes d.nplate + 64 * t.nrec + data) ++ le 8 (t.dataDone.getD 0) ++ le 8 (st.sched.deadline t) ++ zeros 12
  h ++ le 4 (crc32c h).toNat

/-- Write an event word of a stream (R227). -/
def State.streamEvent (s : State) (acc : FMap Nat) (st : Stream) (r : Run) (idx v : Nat) : State × FMap Nat :=
  if st.sched.evAddr = 0 then (s, acc)
  else s.pushWrite acc st.slot r.func (st.sched.evAddr + 8 * idx) (le 8 v) false

/-- Deliver a tile whose data is done: its index and header on a push, its events, its lateness (R212, R215, R223, R227). The log entry of a
late tile has the strides by which it is late, at most 255, in the bits of ARG_A that R485 leaves unnamed (DESIGN CHOICE, assumption
112). -/
def State.deliverTile (s : State) (acc : FMap Nat) (n : Nat) (st : Stream) (r : Run) (t : TileRun) (d : Tile) : State × FMap Nat :=
  let late := decide (st.sched.deadline t < s.str.count)
  let (s, acc) := if st.sched.push then
      let idx := t.index.flatMap (fun w => le 8 w.toNat)
      let (s, acc) := s.pushWrite acc st.slot r.func (st.sched.slotAddr t 64) (sub idx 0 (indexBytes d.nplate)) false
      s.pushWrite acc st.slot r.func (st.sched.slotAddr t 0) (s.deliveryHeader n st t d late) false
    else (s, acc)
  let (s, acc) := if d.evWrite then s.streamEvent acc st r d.evIndex (t.q + 1) else (s, acc)
  let s := s.pulse d.evPin
  let s := if late then
      (s.modOp r.handle (fun o => { o with r0 := o.r0 + 1 })).logRated (3000000 + n) 0x0302 (some st.slot)
        (t.tile + 65536 * n + 2 ^ 24 * min 255 (s.str.count - st.sched.deadline t)) t.q
    else s
  let s := { s with streams := s.streams.modify n (fun x => { x with slotSeq := x.slotSeq + if st.sched.push then 1 else 0 }) }
  (s.modRun n (fun r => { r.putTile { t with delivered := true, late := late } with
    lateLayers := if late && !r.lateLayers.contains t.q then r.lateLayers ++ [t.q] else r.lateLayers }), acc)

/-- The tile of a stream that is delivered next: on a push the lowest slot not yet delivered, once its data is done (R223). -/
def Run.nextDelivery (r : Run) (push : Bool) (n : Nat) : Option TileRun :=
  let ready := fun (t : TileRun) => !t.delivered && (t.dataDone.any (fun x => decide (x < n)))
  if push then
    match minOf? ((r.tiles.filter (fun t => t.started && !t.delivered)).map TileRun.slotSeq) with
    | none => none
    | some q => (r.tiles.find? (fun t => t.started && !t.delivered && t.slotSeq == q)).filter ready
  else r.tiles.find? ready

/-- Whether every tile of an entered layer sequence is delivered or left out by its mask (R227). -/
def Run.layerDone (r : Run) (sc : Sched) (q : Nat) : Bool :=
  match sc.layerOf q with
  | none => false
  | some l => (!(l.conditional && (sc.tilesOf l).any (fun t => needsMask l t.2)) || r.masks.has q)
      && (r.tiles.filter (fun t => t.q == q)).all TileRun.delivered

/-- A layer sequence is over: it is complete, and its event follows; or a tile of it was skipped, and it is finished with (R209, R227). -/
def State.completeLayer (s : State) (acc : FMap Nat) (n q : Nat) : State × FMap Nat :=
  match s.streams.get? n with
  | none => (s, acc)
  | some st =>
    match st.run, st.sched.layerOf q with
    | some r, some l =>
      let whole := !r.cut.contains q
      let (s, acc) := if l.evWrite && whole then
          s.streamEvent acc st r l.evIndex (q + 1 + bitAt (r.lateLayers.contains q) 63)
        else (s, acc)
      let s := if whole then s.pulse l.evPin else s
      let complete := r.complete + if whole then 1 else 0
      let s := s.modRun n (fun r => { r with
        complete := complete, finished := r.finished + 1, doneLayers := r.doneLayers ++ [q], tiles := r.tiles.filter (fun t => t.q != q) })
      (s.modOp r.handle (fun o => { o with done := complete, ran := true }), acc)
    | _, _ => (s, acc)

/-- Deliver what one stream has ready, at most as many tiles as it has. -/
def State.deliverAll (s : State) (acc : FMap Nat) (n : Nat) : Nat → State × FMap Nat
  | 0 => (s, acc)
  | k + 1 =>
    match s.streams.get? n with
    | none => (s, acc)
    | some st =>
      match st.run with
      | none => (s, acc)
      | some r =>
        match r.nextDelivery st.sched.push s.str.count with
        | none => (s, acc)
        | some t => match st.sched.tiles[t.tile]? with
          | none => (s, acc)
          | some d =>
            let (s, acc) := s.deliverTile acc n st r t d
            s.deliverAll acc n k

/-- DELIVERY_HEADER_WRITE and the layers' part of a boundary, for one running stream. -/
def State.streamDeliver (s : State) (acc : FMap Nat) (n : Nat) : State × FMap Nat :=
  match (s.streams.get? n).bind Stream.run with
  | none => (s, acc)
  | some r =>
    if 4096 ≤ r.handle ∨ r.fail.isSome ∨ (s.ops.tab.get? r.handle).any (fun o => o.dead || o.st != opRunning) then (s, acc)
    else
      let (s, acc) := s.deliverAll acc n r.tiles.length
      match s.streams.get? n with
      | none => (s, acc)
      | some st => match st.run with
        | none => (s, acc)
        | some r =>
          let qs := (r.entered.map Prod.fst).filter (fun q => !r.doneLayers.contains q && r.layerDone st.sched q)
          let (s, acc) := qs.foldl (fun (a : State × FMap Nat) q => a.1.completeLayer a.2 n q) (s, acc)
          let total := r.passes * st.sched.layers.length
          let fin := ((s.streams.get? n).bind Stream.run).any (fun r => r.passes != 0 && decide (total ≤ r.finished))
          let s := s.unhold (fun x => x % 512 == n && decide (x / 512 < r.released))
          (if fin then s.endOp r.handle stOk else s, acc)

/-- The streams' part of a boundary: the lines that loaded streams hold, headers and events of what is done, then the slices of the new
stride. -/
def State.streamsBoundary (s : State) (runs : Option Nat → Bool) : State :=
  let s := s.over (s.streams.filter (fun x => x.2.ready)) (fun s x => s.holdCtrl x.1 x.2)
  let (s, acc) := (s.streams.map Prod.fst).foldl (fun (a : State × FMap Nat) n => a.1.streamDeliver a.2 n) (s, [])
  s.streamSlices runs acc

/-- A run begins with its operation: it knows its handle. -/
def State.streamBegin (s : State) (h n : Nat) : State :=
  s.modRun n (fun r => if r.handle = 4096 then { r with handle := h } else r)

/-- A run ends: its holds go back to the clock (R233, R234). -/
def State.streamEnd (s : State) (n : Nat) : State :=
  { s with streams := s.streams.modify n (fun st => { st with run := none, sent := [] }) }.unhold (fun x => x % 512 == n)

/-- STREAM_WRITE_FAILURE (R234): a bus-master write of a layer sequence of a run fails; the run ends FAILED at the next boundary. -/
def execStreamWriteFailure (stream q : Nat) (s : State) : Host.Outcome State Fault Refusal :=
  .next (match s.streams.get? stream with
    | none => s
    | some st => match st.run with
      | none => s
      | some r =>
        if 4096 ≤ r.handle ∨ r.fail.isSome ∨ r.within st.sched q = false then s
        else
          ((s.modRun stream (fun r => { r with fail := some q })).failOp r.handle stDataError).logE 0x0303 (some st.slot) stream q)

/-- STREAM_LOAD. -/
def execStreamLoad (o : Origin) (p : Pkt) (s : State) : Host.Outcome State Fault Refusal :=
  .next (s.packet cStreamLoad none o p)

/-- STREAM_RUN. -/
def execStreamRun (o : Origin) (p : Pkt) (s : State) : Host.Outcome State Fault Refusal :=
  .next (s.packet cStreamRun none o p)

/-- STREAM_UNLOAD. -/
def execStreamUnload (o : Origin) (p : Pkt) (s : State) : Host.Outcome State Fault Refusal :=
  .next (s.packet cStreamUnload none o p)

/-- STREAM_QUERY. -/
def execStreamQuery (o : Origin) (p : Pkt) (s : State) : Host.Outcome State Fault Refusal :=
  .next (s.packet cStreamQuery none o p)

end Sys2Proof.Machine
end

