-- ==== Sys2Proof/Machine/Bridles.lean ====
section
/-! DEFINITION. The capacity of each bridled resource now (R24, R195, R352, R353, R385, R397, R492, R564), the demand snapshot, the
bridles (R25 to R28), dressage grants (R521), and the rows DEMAND_SNAPSHOT, PLANNER_LATE and SLICE_OVERRUN. -/

namespace Sys2Proof.Machine

/-! ## Capacity -/

/-- The number of a throttle governor (R563): the hub, the store dies, the engine dies, the link dies, the stacks and the power
cap. -/
inductive Gov where
  | hub
  | store (n : Nat)
  | engine (n : Nat)
  | linkDie (n : Nat)
  | stack (n : Nat)
  | power

/-- The key of a governor. -/
def Gov.key : Gov → Nat
  | .hub => 0
  | .store n => 1 + n
  | .engine n => 5 + n
  | .linkDie n => 9 + n
  | .stack n => 13 + n
  | .power => 25

/-- The throttle level of a governor in force (R563). -/
def State.level (s : State) (g : Gov) : Nat := s.pmu.levels.getD g.key 0

/-- The store dies as governors. -/
def storeGovs : List Gov := (List.range 4).map Gov.store

/-- The governors of a class and index (R564). -/
def governors (cls idx : Nat) : List Gov :=
  if cls < 2 then [.hub] ++ storeGovs ++ [.linkDie (idx / 2), .power]
  else if cls < 4 then [.hub] ++ storeGovs ++ [.linkDie idx, .power]
  else if cls = 4 then [.hub] ++ storeGovs ++ [.engine (idx / 3), .stack idx, .power]
  else if cls = 5 then [.hub, .engine idx, .power] ++ storeGovs
  else [.hub, .engine idx, .power]

/-- The 64-byte slots of a link per stride at its lane mask (R385). -/
def linkSlots (lanes : Nat) : Nat :=
  match (bitsSet lanes 4).length with
  | 1 => 176
  | 2 => 360
  | _ => 736

/-- The capacity of a class and index before throttling; a lane under test leaves its die's, an operator unit under test gives 768
cycles and one out of service none (R528, R529). -/
def State.rawCap (s : State) (cls idx : Nat) : Nat :=
  if cls < 2 then
    let h := s.head idx
    if h.up then min 250 (250 * h.rate * h.width / 1024) else 250
  else if cls < 4 then
    sumOf ((rangeFrom (8 * idx) 8).map (fun l => if (s.link l).st = 5 then linkSlots (s.link l).lanes else 736))
  else if cls = 4 then 163 * s.pcsOn idx
  else if cls = 5 then
    1024 * ((rangeFrom (16 * idx) 16).filter (fun n => !(s.lane n).off && !s.tst.laneTests.contains n)).length
  else if cls = 6 then
    if s.tst.laneTests.contains (128 + idx) then 0 else if s.tst.laneTests.contains (64 + idx) then 768 else 1024
  else capacity cls

/-- The highest throttle level over the governors of a class and index. -/
def State.throttle (s : State) (cls idx : Nat) : Nat := (governors cls idx).foldl (fun m g => max m (s.level g)) 0

/-- The grantable capacity of a class and index now (R564). -/
def State.capNow (s : State) (cls idx : Nat) : Nat := s.rawCap cls idx * (8 - s.throttle cls idx) / 8

/-- Every class and index of R24. -/
def allIndices : List (Nat × Nat) :=
  (List.range 8).flatMap (fun c => (List.range (indexCount c)).map (fun i => (c, i)))

/-- The reservations of the domains in use on a class and index. -/
def State.reserved (s : State) (cls idx : Nat) : Nat :=
  sumOf (s.activeSlots.map (fun x => s.field x fBridleReserve (cls * 256 + idx)))

/-- A capacity that falls is a divergence (R524). -/
def State.capFalls (s old : State) : State :=
  s.over allIndices (fun s x => if s.capNow x.1 x.2 < old.capNow x.1 x.2 then s.diverge 6 else s)

/-- Where the reservations exceed the capacity from this boundary on, or a smaller one, their scaling is logged (R195, R352, R397, R492,
R564). -/
def State.logScaled (s old : State) : State :=
  s.over allIndices (fun s x =>
    let c := s.capNow x.1 x.2
    if c < s.reserved x.1 x.2 ∧ (c < old.capNow x.1 x.2 ∨ old.reserved x.1 x.2 ≤ old.capNow x.1 x.2) then
      s.logE 0x0606 none (x.1 * 256 + x.2) c
    else s)

/-! ## Bridles (R25 to R28) -/

/-- A domain's part in the computation for one class and index. -/
structure Share where
  slot : Nat
  r : Nat
  w : Nat
  c : Nat
  d : Nat
  grant : Nat

/-- Give one unit to eligible domains in order while units last (R27). -/
def handOut (elig : List Nat) : Nat → List Nat → List Share → List Share × Nat
  | _, [], xs => (xs, 0)
  | 0, _, xs => (xs, 0)
  | lost + 1, y :: ys, xs =>
    if elig.contains y ∧ xs.any (fun x => x.slot == y && decide (x.grant < min x.c x.d)) then
      let (xs, n) := handOut elig lost ys (xs.map (fun x => if x.slot = y then { x with grant := x.grant + 1 } else x))
      (xs, n + 1)
    else handOut elig (lost + 1) ys xs

/-- One pass of R26: the new grants and the spare left. -/
def bridlePass (rot : Nat) (xs : List Share) (spare : Nat) : List Share × Nat :=
  let elig := fun (x : Share) => decide (x.grant < min x.c (max x.d x.r))
  let es := xs.filter elig
  if spare = 0 ∨ es.isEmpty then (xs, spare)
  else
    let wsum := sumOf (es.map Share.w)
    let ideal := fun (x : Share) => spare * x.w / wsum
    let floorSum := sumOf (es.map ideal)
    let share := fun (x : Share) => min (ideal x) (min x.c x.d - x.grant)
    let given := sumOf (es.map share)
    let names := es.map Share.slot
    let order := names.filter (fun y => decide (rot ≤ y)) ++ names.filter (fun y => decide (y < rot))
    let xs := xs.map (fun x => if elig x then { x with grant := x.grant + share x } else x)
    let (xs, n) := handOut names (spare - floorSum) order xs
    (xs, spare - (given + n))

/-- The bridles of one class and index (R26): reservations first, then four passes over the spare. -/
def bridles (rot cap : Nat) (xs : List Share) : List Share :=
  let xs := xs.map (fun x => { x with grant := x.r })
  let spare := cap - sumOf (xs.map Share.r)
  let step := fun (a : List Share × Nat) => bridlePass rot a.1 a.2
  (iter step 4 (xs, spare)).1

/-- The changes of the generation that takes the next boundary, if one does (R15, R87). -/
def State.comingChanges (s : State) : List Change :=
  match s.cfg.build with
  | some b => if b.due ≤ s.str.count + 1 then b.changes else []
  | none => []

/-- The state that a slot will have in the next stride. -/
def State.comingSt (s : State) (slot : Nat) : Nat :=
  s.comingChanges.foldl (fun st c => match c with
    | .slotState x st' => if x = slot then st' else st
    | _ => st) (s.domSt slot)

/-- The domains that will be active in the next stride (R15, R431). -/
def State.comingSlots (s : State) : List Nat := (s.doms.map Prod.fst).filter (fun x => activeSt (s.comingSt x))

/-- A parameter of a domain: `next` says in the generation that will be in force in the next stride (R15), else in that in force
now. -/
def State.bridleField (s : State) (next : Bool) (slot id elem : Nat) : Nat :=
  if next && s.cfg.build.any (fun b => decide (b.due ≤ s.str.count + 1)) then s.newest slot id elem else s.field slot id elem

/-- A domain's part for a class and index, with the reduced capacity applied to reservations and ceilings (R25, R195). -/
def State.shareOf (s : State) (next : Bool) (demand : FMap Nat) (cap sum cls idx slot : Nat) : Share :=
  let r := s.bridleField next slot fBridleReserve (cls * 256 + idx)
  { slot := slot, r := if sum ≤ cap then r else r * cap / sum, w := s.bridleField next slot fBridleWeight (cls * 256 + idx),
    c := min (s.bridleField next slot fBridleCeiling (cls * 256 + idx)) cap, d := demand.getD (bridleKey slot cls idx) 0,
    grant := 0 }

/-- The bridles of a stride for the listed domains, with each class at the capacity now (R26, R27, R564): of the next stride, or of the
one that begins. -/
def State.computeBridles (s : State) (next : Bool) (slots : List Nat) (demand : FMap Nat) : FMap Nat :=
  allIndices.foldl (fun (m : FMap Nat) x =>
    let cap := s.capNow x.1 x.2
    let sum := sumOf (slots.map (fun y => s.bridleField next y fBridleReserve (x.1 * 256 + x.2)))
    (bridles ((s.str.count + if next then 1 else 0) % 4096) cap (slots.map (s.shareOf next demand cap sum x.1 x.2))).foldl
      (fun (m : FMap Nat) y => if y.grant = 0 then m else m.set (bridleKey y.slot x.1 x.2) y.grant) m) []

/-- What a domain newly active receives for its first stride (R28): its reservations. -/
def State.firstGrants (s : State) (slot : Nat) : FMap Nat :=
  s.computeBridles false s.activeSlots [] |>.filter (fun p => p.1 / 2048 == slot)

/-! ## Dressage (R520, R521) -/

/-- The dressage table in force. -/
def State.table? (s : State) : Option DTable := if s.tst.inForce = 0 then none else s.tst.tables.get? s.tst.inForce

/-- The sum of a dressage table's grants of a class and index in a phase. -/
def DTable.sum (t : DTable) (phase cls idx : Nat) : Nat :=
  sumOf (t.entries.map (fun e => if e.2.1 = cls ∧ e.2.2.1 = idx ∧ e.2.2.2.1 = phase then e.2.2.2.2.1 else 0))

/-- The grants of a dressage table in the phase of a stride, scaled to a capacity that has fallen and by the throttle level of each
class (R521, R523, R564). -/
def State.dressageGrants (s : State) (t : DTable) (stride : Nat) : FMap Nat :=
  let now := stride % t.period
  t.entries.foldl (fun (m : FMap Nat) e =>
    let (slot, cls, idx, phase, grant, _) := e
    let sum := t.sum now cls idx
    let raw := s.rawCap cls idx
    let g := (if sum ≤ raw then grant else grant * raw / sum) * (8 - s.throttle cls idx) / 8
    if phase = now ∧ g ≠ 0 ∧ activeSt (s.domSt slot) then m.set (bridleKey slot cls idx) g else m) []

/-- Whether slices of a slot run in this stride (R521). -/
def State.slicesRun (s : State) (slot : Option Nat) : Bool :=
  match s.table?, slot with
  | some t, some x => t.entries.any (fun e =>
      e.1 == x && e.2.2.2.1 == s.str.count % t.period && e.2.2.2.2.2)
  | _, _ => true

/-! ## The demand snapshot (R15) -/

/-- Whether a domain has work of the device's own pending: a live operation, a running stream, a channel that is open, a unit
to finish, a plate on a lane, a read of flash, or a recall. -/
def State.hasWork (s : State) (slot : Nat) : Bool :=
  s.liveOps.any (fun p => p.2.slot == some slot)
    || s.streams.any (fun p => p.2.slot == slot && p.2.run.isSome)
    || s.dma.chans.any (fun p => p.2.slot == slot)
    || s.opr.binds.any (fun p => p.2.slot == slot)
    || s.cod.lanes.any (fun p => p.2.queue.any (fun j => j.key / 2 ^ 36 == slot))
    || s.cod.waiting.any (fun p => p.2.any (fun j => j.key / 2 ^ 36 == slot))
    || s.fl.reads.any (fun p => p.2.key / 2 ^ 36 == slot)
    || s.sh.recalls.any (fun r => r.slot == slot)

/-- A domain's demand for a class and index: one unit for each request held or waiting at a head, the lines of their homes on
a stack, and the whole capacity where the domain has work of the device's own (R15 leaves the measure open: DESIGN CHOICE,
assumption 30). -/
def State.demandOf (s : State) (slot cls idx : Nat) : Nat :=
  if s.hasWork slot then capacity cls
  else
    let mine := (s.sh.held ++ s.sh.waiting).filter (fun p => p.2.slot == slot)
    if cls < 2 then (mine.filter (fun p => p.2.origin.isNone && headOf p.2.func == idx)).length
    else if cls < 4 then sumOf (mine.map (fun p => if p.2.origin.isSome || p.2.sent then 2 else 0))
    else sumOf (mine.map (fun p => match s.ent slot (p.2.line / 64) with
      | some e =>
        if cls = 4 then (if e.tier = 1 ∧ storeStack e.store = idx then granules e.clen else 0)
        else if cls = 5 then (if homeDie e (p.2.line / 64) = idx then 1024 else 0)
        else if cls = 7 then (if 2 ≤ e.tier ∧ faEngine e.store = idx then 504 else 0)
        else capacity cls
      | none => if cls = 4 then 64 else 0))

/-- The snapshot of every domain's demand. A slot that is PARKING or ERASING uses its reservations alone (R430), and one that becomes
ACTIVE with the next stride has no demand yet (R28). -/
def State.takeDemand (s : State) : FMap Nat :=
  (s.activeSlots.filter (fun x => s.domSt x == 1 && s.comingSt x == 1)).foldl (fun (m : FMap Nat) x => allIndices.foldl (fun (m : FMap Nat) i =>
    let d := s.demandOf x i.1 i.2
    if d = 0 then m else m.set (bridleKey x i.1 i.2) d) m) []

/-- DEMAND_SNAPSHOT (R15, R16, R26, R207, R210): once in a stride, at cycle 768. Before MEMORY_ACTIVE no domain has demand, and the
generations' windows close all the same. -/
def execDemandSnapshot (s : State) : Host.Outcome State Fault Refusal :=
  .next (if s.str.snap || s.pmu.inReset || s.pmu.stage == 7 then s
  else if !s.isActive then { s with str.snap := true }
  else
    let d := s.takeDemand
    let slots := s.comingSlots
    let s := { s with str.demand := d, str.active := slots, str.next := some (s.computeBridles true slots d), str.snap := true }
    s.streamsSnapshot)

/-- PLANNER_LATE (R17): the bridles in force are used again in the next stride. -/
def execPlannerLate (s : State) : Host.Outcome State Fault Refusal :=
  .next { s.logE 0x0001 none 0 0 with str.late := true, str.next := none }

/-- SLICE_OVERRUN (R23): the remainder of a slice is charged in the next stride. -/
def execSliceOverrun (handle cls idx units : Nat) (s : State) : Host.Outcome State Fault Refusal :=
  .next (match s.ops.tab.get? handle with
    | none => s
    | some op =>
      let s := { (s.diverge 0).logE 0x0002 op.slot handle s.str.count with
        str.overrun := true
        str.overrunCnt := cntAdd s.str.overrunCnt 1 }
      match op.slot with
      | some x =>
        let k := bridleKey x cls idx
        let s := { s with str.overran := s.str.overran ++ [(x, s.str.count)] }
        if cls < 8 ∧ idx < indexCount cls then { s with str.carry := s.str.carry.set k (s.str.carry.getD k 0 + units) } else s
      | none => s)

end Sys2Proof.Machine
end

