-- ==== Sys2Proof/Machine/HerdState.lean ====
section
/-! DEFINITION. The herd's records (R406, R407, R413), its lead voter and quorum (R406, R411), and the layouts before and after a
change of them (R420, R425). -/

namespace Sys2Proof.Machine

/-! ## Records -/

/-- The 32 bytes of a roster record with a STATE (R406). -/
def rosterBytes (r : RosterRec) (st : Nat) : List Byte :=
  le 2 r.device ++ le 1 st ++ le 1 (bitAt r.voter 0) ++ le 4 r.epochAdded ++ zeros 8 ++ sub r.identity 0 16

/-- The 160 bytes of a herd domain record (R413). -/
def hdomBytes (r : HdomRec) : List Byte :=
  le 4 (r.hdom % 2 ^ 24 + 2 ^ 24 * (r.kind % 16)) ++ le 1 r.w ++ le 1 r.k ++ le 1 r.m ++ le 1 r.u ++ le 2 r.spare
    ++ le 2 (bitAt r.spareValid 0) ++ zeros 4 ++ le 8 r.vacant ++ zeros 8 ++ sub (r.members.flatMap (le 2)) 0 128

/-- The herd domain record that 160 bytes hold (R413). -/
def hdomRecOf (b : List Byte) : HdomRec :=
  let w := fieldAt b 4 1
  { hdom := fieldAt b 0 4 % 2 ^ 24, kind := fld (fieldAt b 0 4) 24 4, w := w, k := fieldAt b 5 1, m := fieldAt b 6 1,
    u := fieldAt b 7 1, spare := fieldAt b 8 2, spareValid := (fieldAt b 10 2).testBit 0, vacant := fieldAt b 0x10 8,
    members := (List.range (min w 64)).map (fun x => fieldAt b (0x20 + 2 * x) 2) }

/-- Put a roster record in its place by device ID. -/
def insertRoster (r : RosterRec) : List RosterRec → List RosterRec
  | [] => [r]
  | x :: l => if r.device < x.device then r :: x :: l else if r.device = x.device then r :: l else x :: insertRoster r l

/-- Put a herd domain record in its place by herd domain ID. -/
def insertHdom (r : HdomRec) : List HdomRec → List HdomRec
  | [] => [r]
  | x :: l => if r.hdom < x.hdom then r :: x :: l else if r.hdom = x.hdom then r :: l else x :: insertHdom r l

/-- The domain records with the new record of a running plan after its old one (R407, R425). -/
def domainRecords (domains shadows : List HdomRec) : List HdomRec :=
  domains.flatMap (fun d => d :: shadows.filter (fun x => x.hdom == d.hdom))
    ++ shadows.filter (fun x => !domains.any (fun d => d.hdom == x.hdom))

/-- The herd configuration digest (R407). -/
def herdDigest (herdId : U64) (r : HerdRecords) : U64 :=
  crc64 (le 8 herdId.toNat ++ r.roster.flatMap (fun x => rosterBytes x 0) ++ (domainRecords r.domains r.shadows).flatMap hdomBytes)

/-- The records in force. -/
def Herd.records (h : Herd) : HerdRecords :=
  { epoch := h.epoch, roster := h.roster, domains := h.domains, shadows := h.shadows }

/-- The digest in force; 0 outside a herd. -/
def State.herdDigest (s : State) : U64 := if s.herd.st = 0 then 0 else Machine.herdDigest s.herd.herdId s.herd.records

/-! ## Changes (R406, R409, R420) -/

/-- A domain record without a lost member (R420): the spare takes its position where one is valid, else the position is
VACANT. A YOKE partner becomes the primary (R421). -/
def hdomWithout (r : HdomRec) (dev : Nat) : HdomRec :=
  let spareGone := r.spareValid && r.spare == dev
  let r := if spareGone then { r with spare := 0, spareValid := false } else r
  match r.members.findIdx? (· == dev) with
  | none => r
  | some x =>
    if r.vacant.testBit x then r
    else
      let r := if r.spareValid then
          { r with members := r.members.set x r.spare, spare := 0, spareValid := false }
        else { r with vacant := r.vacant ||| 2 ^ x }
      if r.kind = 3 ∧ x = 0 then
        { r with members := r.members.reverse, vacant := fld r.vacant 1 1 + 2 * fld r.vacant 0 1 }
      else r

/-- The records after a change (R406, R409, R424, R425). -/
def applyChange (c : HerdChange) (epoch : Nat) (r : HerdRecords) : HerdRecords :=
  let r := { r with epoch := epoch }
  match c with
  | .enrol x => { r with roster := insertRoster x r.roster }
  | .normal d => { r with roster := r.roster.map (fun x => if x.device = d then { x with st := 2 } else x) }
  | .remove d => { r with roster := r.roster.filter (fun x => x.device != d), domains := r.domains.map (fun x => hdomWithout x d),
                          shadows := r.shadows.map (fun x => hdomWithout x d) }
  | .voters ds => { r with roster := r.roster.map (fun x => { x with voter := ds.contains x.device }) }
  | .shadow x => { r with shadows := insertHdom x r.shadows }
  | .domain x => { r with domains := insertHdom x r.domains, shadows := r.shadows.filter (fun y => y.hdom != x.hdom) }
  | .unshadow h => { r with shadows := r.shadows.filter (fun y => y.hdom != h) }

/-- Whether a change is of the roster or the voters, which raises the epoch (R406). -/
def changesRoster : HerdChange → Bool
  | .enrol _ => true
  | .normal _ => true
  | .remove _ => true
  | .voters _ => true
  | .shadow _ => false
  | .domain _ => false
  | .unshadow _ => false

/-- The key under which an agreement stands: its epoch, or for a change of domain records its digest (R409). -/
def State.agreeKey (s : State) (a : Agreement) : Nat :=
  if changesRoster a.change then a.epoch
  else 2 ^ 32 + (Machine.herdDigest s.herd.herdId (applyChange a.change a.epoch s.herd.records)).toNat

/-! ## Members, lead and quorum -/

/-- The image that runs (R453). -/
def State.image (s : State) : Option Image := if s.tr.activeB then s.tr.imgB else s.tr.imgA

/-- Fields of an image's header (R453). -/
def imageFwver (i : Image) : U64 := BitVec.ofNat 64 (fieldAt i.header 8 8)
def imageProto (i : Image) : Nat := fieldAt i.header 0x10 4
def imageSvn (i : Image) : Nat := fieldAt i.header 0x14 4

/-- The herd protocol version and the firmware version of the running image. -/
def State.proto (s : State) : Nat := (s.image.map imageProto).getD 0
def State.fwver (s : State) : U64 := (s.image.map imageFwver).getD 0

/-- The identity serial: bytes 0 to 7 of the identity digest (R449). -/
def State.serial (s : State) : U64 := BitVec.ofNat 64 (fieldAt s.tr.identity 0 8)

/-- Whether a device is in the roster. -/
def State.member (s : State) (d : Nat) : Bool := s.herd.roster.any (fun r => r.device == d)

/-- Whether a member is in probation, as far as this device knows (R412). -/
def State.inProbation (s : State) (d : Nat) : Bool :=
  if d = s.herd.device then s.herd.cause != 0 else s.herd.probation.has d

/-- Whether a roster record's member is NORMAL. -/
def State.isNormal (s : State) (r : RosterRec) : Bool := r.st == 2 && !s.inProbation r.device

/-- The voters (R406). -/
def State.voters (s : State) : List RosterRec := s.herd.roster.filter RosterRec.voter

/-- The lead voter: the voter with the lowest device ID in state NORMAL (R406). -/
def State.lead (s : State) : Option Nat := (s.voters.find? s.isNormal).map RosterRec.device

/-- Whether this device is the lead voter. -/
def State.isLead (s : State) : Bool := s.inHerd && s.lead == some s.herd.device

/-- Whether this device is a voter; a member in probation is none (R412). -/
def State.isVoter (s : State) : Bool :=
  s.inHerd && s.herd.cause == 0 && s.voters.any (fun r => r.device == s.herd.device)

/-- Whether a member is reached: an ACTIVE link leads to it by the route table. -/
def State.reaches (s : State) (d : Nat) : Bool :=
  d == s.herd.device || ((s.route d).bind s.outLink).isSome

/-- Whether a majority of voters is reachable and NORMAL (R411). -/
def State.quorum (s : State) : Bool :=
  decide (s.voters.length < 2 * (s.voters.filter (fun r => s.isNormal r && s.reaches r.device)).length)

/-- Send a control message to another member (R390); its argument, its data slots and what they carry. -/
def State.control (s : State) (mop dst arg slots : Nat) (p : Pay) : State :=
  let m := s.mkMsg mop dst (s.dev fHerdSlot) 0
  s.sendMsg { m with arg := BitVec.ofNat 128 arg, data := zeros (64 * slots), pay := p } false

/-- The neighbours: the peers of ACTIVE links, each once. -/
def State.neighbours (s : State) : List Nat :=
  ((s.herd.links.filter (fun p => p.2.st == 5)).map (fun p => p.2.peer)).eraseDups

/-- Ask the lead voter for the herd records (R410), with what a joining member or one in probation tells it in ARG (DESIGN CHOICE,
assumption 35). -/
def State.askRecords (s : State) (notice : Nat) : State :=
  match s.lead with
  | some d => if d = s.herd.device then s else s.control 0x29 d notice 0 .none
  | none => match s.neighbours with
    | d :: _ => s.control 0x29 d notice 0 .none
    | [] => s

/-- Set or clear probation causes: 0 digest, 1 PROTO, 2 time; a NORMAL member with a cause is in PROBATION (R412, R428). -/
def State.setCause (s : State) (bit : Nat) (on : Bool) : State :=
  let c := if on then s.herd.cause ||| 2 ^ bit else s.herd.cause - (if s.herd.cause.testBit bit then 2 ^ bit else 0)
  if c = s.herd.cause then s
  else
    let st := if s.herd.st = 2 ∨ s.herd.st = 3 then (if c = 0 then 2 else 3) else s.herd.st
    let told := s.herd.st != st
    let s := { s with herd.cause := c, herd.st := st }
    if told then s.askRecords (if c = 0 then 4 else 6) else s

end Sys2Proof.Machine
end

