-- ==== Sys2Proof/Machine/HerdLinks.lean ====
section
/-! DEFINITION. The ends of Apyan links (R384 to R397): their states, flits and replay, sync blocks and time (R402 to R405), and
LINK_CTRL (R395, R426). -/

namespace Sys2Proof.Machine

/-! ## States (R394, R395) -/

/-- The most strides that a link spends in a state (R394). -/
def linkMax : Nat → Option Nat
  | 1 => some 2000
  | 2 => some 1000000
  | 3 => some 2000
  | 4 => some 200
  | 6 => some 400
  | _ => none

/-- Whether a lane mask is x4, x2 or x1 (R385). -/
def laneMaskOk (m : Nat) : Bool := [0xF, 0x3, 0xC, 1, 2, 4, 8].contains m

/-- What an ACK leaves in a replay buffer (R391). -/
def ackThrough (ack : Nat) (l : List (Nat × List Msg)) : List (Nat × List Msg) :=
  match l.findIdx? (fun f => f.1 == ack) with
  | some i => l.drop (i + 1)
  | none => l

/-- The buffered flits from an FSEQ on (R391). -/
def flitsFrom (seq : Nat) (l : List (Nat × List Msg)) : List (Nat × List Msg) :=
  match l.findIdx? (fun f => f.1 == seq) with
  | some i => l.drop i
  | none => []

/-- A link end goes DOWN (R393): where flits flowed, be it before a retrain, each end tells the other over another route what it accepted last. -/
def State.linkDown (s : State) (n : Nat) : State :=
  let k := s.link n
  let s' := s.modLink n (fun k => { k with st := 0, entered := s.str.count, req := 0, reqMine := false, reqAt := 0 })
  let s' := if (k.st = 5 ∨ k.st = 6 ∨ (k.st = 4 ∧ (!k.replay.isEmpty ∨ k.rxSeq ≠ 0))) ∧ s.inHerd then s'.control 0x2B k.peer (prevSeq k.rxSeq + 2 ^ 16 * n) 0 .none else s'
  s'.logScaled s

/-- Resend the buffered flits of a link from an FSEQ on (R391). -/
def State.resendFrom (s : State) (n seq : Nat) : State :=
  let fs := flitsFrom seq (s.link n).replay
  if fs.isEmpty then s
  else ({ s with herd.replayCnt := cntAdd s.herd.replayCnt fs.length }.modLink n (fun k => { k with out := k.out + fs.length })).emit
    (.resend n seq)

/-- What an end learns of its peer in EXCHANGE takes effect (R391, R394, R396): the peer, the lanes, the credits announced, and the
flits that the peer has accepted. -/
def State.linkActive (s : State) (n : Nat) (x : Exchange) : State :=
  let lead := if s.inHerd && x.idValid then decide (s.herd.device < x.deviceId) else decide (s.serial.toNat < x.serial.toNat)
  let s := s.modLink n (fun k => { k with
    st := 5, entered := s.str.count, peer := x.deviceId, lanes := x.lanes, leads := lead, credits := x.credits,
    seen := [0, 0, 0, 0], freed := [0, 0, 0, 0], replay := ackThrough x.lastFseq k.replay, req := 0, reqMine := false, reqAt := 0,
    lastSync := s.str.count })
  match (s.link n).replay with
  | f :: _ => (s.resendFrom n f.1).flushOut
  | [] => s.flushOut

/-- What this end announces in EXCHANGE (R388, R392, R394): its receive buffers as credits and the last FSEQ that it accepted. -/
def State.announce (s : State) (n : Nat) : Exchange :=
  let k := s.link n
  { herdId := s.herd.herdId, deviceId := s.herd.device, idValid := s.inHerd, serial := s.serial, proto := s.proto,
    lanes := if k.lanes = 0 then 0xF else k.lanes, credits := [256, 512, 64, 128], lastFseq := prevSeq k.rxSeq }

/-- Whether a peer's serial differs from the roster's identity for its device ID (R451). -/
def State.wrongSerial (s : State) (x : Exchange) : Bool :=
  x.idValid && s.inHerd && s.herd.roster.any (fun r => r.device == x.deviceId && fieldAt r.identity 0 8 != x.serial.toNat)

/-- A link finishes the work of its state (R394): it announces itself on entering EXCHANGE, which ends in ACTIVE, or
in DOWN on a herd ID, protocol version or identity mismatch. -/
def State.trainStep (s : State) (n : Nat) (x : Exchange) : State :=
  let k := s.link n
  let next := fun (st : Nat) => s.modLink n (fun k => { k with st := st, entered := s.str.count })
  if k.st = 1 ∨ k.st = 2 then next (k.st + 1)
  else if k.st = 3 ∨ k.st = 6 then (next 4).emit (.apyanExchange n (s.announce n))
  else if k.st = 4 then
    if x.herdId ≠ s.herd.herdId then s.linkDown n
    else if x.proto ≠ s.proto then
      (if s.inHerd && s.lead == some x.deviceId then s.setCause 1 true else s).linkDown n
    else if s.wrongSerial x then (s.logE 0x0A02 none n x.serial.toNat).linkDown n
    else (s.linkActive n x).logScaled s
  else s

/-- Raise a retrain or width request (R395): it goes out in the next sync block. A pending request of a peer that leads stands
(R396). -/
def State.raiseReq (s : State) (n req lanes : Nat) : State :=
  s.modLink n (fun k => if k.req != 0 && !k.reqMine && !k.leads then k
    else { k with req := req, reqLanes := lanes, reqMine := true, reqAt := 0 })

/-- A peer's request arrives in its sync block (R395, R396): both ends enter RECOVER at the second boundary after that block. -/
def State.peerReq (s : State) (n : Nat) (b : SyncBlock) : State :=
  s.modLink n (fun k =>
    if b.req = 0 ∨ k.st ≠ 5 ∨ (k.reqMine ∧ k.leads) ∨ (k.req ≠ 0 ∧ ¬k.reqMine) then k
    else { k with req := b.req, reqLanes := b.lanes, reqMine := false, reqAt := b.stride + 2 })

/-- The links' part of a boundary (R385, R394, R395): the flits of a new stride, requests that are due take their link into RECOVER, and an enabled link that is
DOWN begins to detect. -/
def State.linksBoundary (s : State) : State :=
  let n := s.str.count
  let step := fun (k : Link) =>
    if k.st = 5 ∧ k.reqAt ≠ 0 ∧ k.reqAt ≤ n then
      { k with st := 6, entered := n, lanes := if k.req = 2 then k.reqLanes else k.lanes, req := 0, reqMine := false, reqAt := 0 }
    else if k.st = 0 ∧ k.enabled ∧ ¬k.badStride ∧ 2 ≤ s.pmu.stage ∧ s.pmu.stage ≤ 5 then { k with st := 1, entered := n }
    else k
  let s := { s with herd.links := s.herd.links.map (fun (l : Nat × Link) => (l.1, { l.2 with out := 0 })) }
  s.over (List.range 32) (fun s l => if (s.link l) = step (s.link l) then s else s.modLink l step)

/-! ## Flits (R386 to R391) -/

/-- A CREDIT of a flit raises the credits of its channel by the slots freed since the last (R386, R388). -/
def Link.credit (k : Link) (c : List Nat) : Link :=
  { k with
    credits := (List.range 4).map (fun v => k.credits.getD v 0 + (c.getD v 0 + 65536 - k.seen.getD v 0 % 65536) % 65536)
    seen := c }

/-- Ask for the replay of the expected flit, once for it in a stride (R391). -/
def State.askReplay (s : State) (n : Nat) : State :=
  let k := s.link n
  let again := match k.retrySent with
    | some (q, t) => q != k.rxSeq || decide (t + 1 ≤ s.str.count)
    | none => true
  if again then (s.modLink n (fun k => { k with retrySent := some (k.rxSeq, s.str.count) })).emit
      (.apyanFlit n (flitBytes 2 k.rxSeq (prevSeq k.rxSeq) k.freed s.herd.device 0 [])) else s

/-- A flit arrives (R387, R391): ACK and CREDIT of every flit whose FCRC matches, and a PAYLOAD flit in order or not at all. A flit that
cannot be read counts as a discarded PAYLOAD flit. -/
def State.flit (s : State) (n : Nat) (f : Flit) : State :=
  let s := { s with herd.fecUncorr := cntAdd s.herd.fecUncorr f.uncorr }
  if (s.link n).st ≠ 5 then s
  else
    let s := if flitGood f then s.modLink n (fun k => ({ k with replay := ackThrough (flitAck f) k.replay }).credit (flitCredit f)) else s
    let s := if f.uncorr = 0 ∧ flitGood f ∧ flitType f ≠ 1 then s
      else if f.uncorr = 0 ∧ flitGood f ∧ flitSeq f = (s.link n).rxSeq then
        s.modLink n (fun k => { k with rxSeq := (k.rxSeq + 1) % 4096, retrySent := none })
      else s.askReplay n
    s.flushOut

/-! ## Sync blocks and time (R402 to R405, R410, R412) -/

/-- What a receiver measures of a sync block, in 1/16 hub cycle (R403). -/
def syncMeasure (b : SyncBlock) : Int := b.arrival - (b.stride : Int) * 16384

/-- A peer whose stride differs by a whole stride or more (R412): its link goes DOWN and stays so, and the lead voter is told. -/
def State.strideLost (s : State) (n dev : Nat) : State :=
  let s := (s.linkDown n).modLink n (fun k => { k with badStride := true })
  match s.lead with
  | some d => s.control 0x23 d (dev + 2 ^ 16) 0 .none
  | none => s

/-- A neighbour of another firmware version and the same protocol is logged, once until they agree again (R412). -/
def State.syncFwver (s : State) (n : Nat) (b : SyncBlock) : State :=
  let d := b.fwver != s.fwver
  let s' := s.modLink n (fun k => { k with fwDiffers := d })
  if d && !(s.link n).fwDiffers && b.proto == s.proto then s'.logOpen else s'

/-- What a member of the herd takes from a neighbour's sync block (R410, R412). -/
def State.syncCompare (s : State) (n : Nat) (b : SyncBlock) : State :=
  if (syncMeasure b).natAbs ≥ 16384 then s.strideLost n b.deviceId
  else
    let s := if (s.link n).st = 5 ∧ n = s.herd.parent ∧ ¬s.isLead then { s with herd.offset := (syncMeasure b - b.echo) / 2 } else s
    let s := { s with herd.probation :=
      if b.state = 3 then (if s.herd.probation.has b.deviceId then s.herd.probation else s.herd.probation.set b.deviceId s.str.count)
      else s.herd.probation.del b.deviceId }
    let s := s.syncFwver n b
    let s := if (s.lead == some b.deviceId || b.state == 2) && !s.isLead then s.setCause 1 (b.proto != s.proto) else s
    if s.herd.epoch < b.epoch then
      if s.herd.asked then s else { s with herd.asked := true }.askRecords 0
    else if b.epoch = s.herd.epoch ∧ s.herd.st ≠ 1 ∧ ¬s.isLead then
      if b.digest ≠ s.herdDigest then
        if s.herd.asked then s.setCause 0 true else ({ s with herd.asked := true }.setCause 0 true).askRecords 0
      else if s.lead == some b.deviceId then s.setCause 0 false else s
    else s

/-- A sync block arrives (R403): measured, and the first one of its herd that a joining device hears gives it the herd's stride
count, once and before MEMORY_ACTIVE (R18, R424). -/
def State.syncReceive (s : State) (n : Nat) (b : SyncBlock) : State :=
  let k := s.link n
  if k.st ≠ 4 ∧ k.st ≠ 5 then s
  else
    let s := s.modLink n (fun k => { k with
      lastSync := s.str.count, echo := syncMeasure b, peerStride := b.stride, peerDepth := b.depth,
      peer := if b.idValid then b.deviceId else k.peer })
    let s := if b.idValid then { s with herd.lastSeen := s.herd.lastSeen.set b.deviceId s.str.count } else s
    let s := s.peerReq n b
    if !s.inHerd || b.herdId != s.herd.herdId || !b.idValid then s
    else if s.herd.st = 1 ∧ ¬s.herd.strideAdopted ∧ s.pmu.stage < 5 then
      let s := { s with str.count := b.stride, herd.strideAdopted := true }
      let s := { s with herd.links := s.herd.links.map (fun (l : Nat × Link) =>
        (l.1, { l.2 with entered := b.stride, lastSync := b.stride, echo := 0 })) }
      let s := { s with ops.tab := s.ops.tab.map (fun (x : Nat × Op) => match x.2.body with
        | .herdJoin _ _ => (x.1, { x.2 with r0 := b.stride })
        | _ => x) }
      { s with herd.asked := true }.askRecords 0
    else if k.st = 5 then s.syncCompare n b
    else s

/-- Whether an offset in 1/16 hub cycle lies within a number of nanoseconds: a stride is 16,384 sixteenths and 500 ns. -/
def offsetWithin (o : Int) (ns : Nat) : Bool := decide (o.natAbs * 500 ≤ ns * 16384)

/-- The time part of a boundary (R404, R412): the parent, the depth, the trim (its value within ±50 ppm is open) and the probation of
a member whose offset is too large. -/
def State.timeBoundary (s : State) : State :=
  if !s.inHerd then s
  else if s.isLead then { s with herd.depth := 0, herd.offset := 0, herd.trim := 0, herd.parent := 0 }
  else
    let cands : List (Nat × Link) := s.herd.links.filter (fun p => p.2.st == 5 && decide (p.2.peerDepth < 7))
    let best := cands.foldl (fun (a : Option (Nat × Link)) p => match a with
      | none => some p
      | some q => if p.2.peerDepth < q.2.peerDepth ∨ (p.2.peerDepth = q.2.peerDepth ∧ p.2.peer < q.2.peer) then some p else some q)
      none
    match best with
    | none => { s with herd.depth := 7, herd.trim := 0, herd.aligned := 0 }
    | some (n, k) =>
      let (s, w) := s.freeWord
      let trim : Int := (w.toNat % 201 : Nat) - 100
      let near := offsetWithin s.herd.offset 4
      let s := { s with herd.parent := n, herd.depth := if k.peerDepth < 4 then k.peerDepth + 1 else 7,
                        herd.trim := if s.herd.offset = 0 then 0 else trim, herd.aligned := if near then s.herd.aligned + 1 else 0 }
      if s.herd.st = 1 then s
      else if !offsetWithin s.herd.offset (s.dev fAlignLimit) then s.setCause 2 true
      else if 64 ≤ s.herd.aligned then s.setCause 2 false
      else s

/-- The sync block that a link sends at a boundary (R385, R402). -/
def State.syncBlock (s : State) (k : Link) : SyncBlock :=
  { stride := s.str.count, herdId := s.herd.herdId, epoch := s.herd.epoch, proto := s.proto, digest := s.herdDigest,
    deviceId := s.herd.device, state := s.herd.st, idValid := s.inHerd, voter := s.isVoter, depth := s.herd.depth,
    req := if k.reqMine then k.req else 0, lanes := if k.reqMine then k.reqLanes else 0, echo := k.echo, fwver := s.fwver,
    serial := s.serial, echoStride := k.peerStride % 65536, arrival := 0 }

/-- The links send their sync blocks, and a NULL flit with ACK and CREDIT (R385, R386). -/
def State.sendSyncs (s : State) : State :=
  s.over (s.herd.links.filter (fun p => p.2.st == 4 || p.2.st == 5)) (fun s p =>
    let s := s.emit (.apyanSync p.1 (syncBytes (s.syncBlock p.2)))
    let s := if p.2.reqMine ∧ p.2.reqAt = 0 then s.modLink p.1 (fun k => { k with reqAt := s.str.count + 2 }) else s
    if p.2.st = 5 then s.emit (.apyanFlit p.1 (flitBytes 0 p.2.txSeq (prevSeq p.2.rxSeq) p.2.freed s.herd.device 0 [])) else s)

/-! ## LINK_LAST (R393) -/

/-- What the other end of a downed link accepted last: the messages of later flits go over another route, with RESENT set, before any
new one to their destinations. -/
def State.linkLastMsg (s : State) (m : Msg) : State :=
  match s.herd.links.find? (fun p => decide (p.2.st < 5) && p.2.peer == m.src && !p.2.replay.isEmpty) with
  | none => s
  | some (n, k) =>
    let later := (ackThrough (fld m.arg.toNat 0 12) k.replay).flatMap Prod.snd
    let s := s.modLink n (fun k => { k with replay := [] })
    let first := later.map (fun (x : Msg) => { x with resent := true })
    { s with herd.outWait := first ++ s.herd.outWait }.flushOut

/-! ## Steps -/

/-- SYNC_BLOCK_RECEIVE: a block whose SYNC or SCRC does not match is none (R402). -/
def execSyncBlockReceive (link : Nat) (bytes : List Byte) (arrival : Int) (s : State) : Host.Outcome State Fault Refusal :=
  .next (match syncOf bytes arrival with
    | some b => s.syncReceive link b
    | none => s)

/-- FLIT_RECEIVE. -/
def execFlitReceive (link : Nat) (f : Flit) (s : State) : Host.Outcome State Fault Refusal := .next (s.flit link f)

/-- RETRY_REQ_RECEIVE (R391). -/
def execRetryReqReceive (link fseq : Nat) (s : State) : Host.Outcome State Fault Refusal :=
  .next (if (s.link link).st = 5 then s.resendFrom link fseq else s)

/-- LINK_STATE_TIMEOUT (R394). -/
def execLinkStateTimeout (link : Nat) (s : State) : Host.Outcome State Fault Refusal :=
  .next (match linkMax (s.link link).st with
    | some n => if (s.link link).entered + n ≤ s.str.count then s.linkDown link else s
    | none => s)

/-- LINK_TRAIN_STEP_COMPLETE (R394). -/
def execLinkTrainStepComplete (link : Nat) (x : Exchange) (s : State) : Host.Outcome State Fault Refusal :=
  .next (if link < 32 then s.trainStep link x else s)

/-- LINK_RECOVER_ENTRY (R395): a lost lock asks for a retrain, a failing lane for the lanes that are left. -/
def execLinkRecoverEntry (link : Nat) (width : Bool) (lanes : Nat) (s : State) : Host.Outcome State Fault Refusal :=
  .next (if (s.link link).st ≠ 5 then s
    else if !width then s.raiseReq link 1 (s.link link).lanes
    else if laneMaskOk lanes && decide (lanes &&& (s.link link).lanes = lanes) && lanes != (s.link link).lanes then
      s.raiseReq link 2 lanes
    else s)

/-- LINK_DOWN (R393). -/
def execLinkDown (link : Nat) (s : State) : Host.Outcome State Fault Refusal :=
  .next (if (s.link link).st = 0 then s else s.linkDown link)

/-- LINK_CTRL (R395, R426). -/
def cLinkCtrl : Cmd := shortCmd 0x0A08 false .owner (fun s _ p =>
  let n := fld p.p0.toNat 0 5
  let lanes := fld p.p0.toNat 12 4
  let k := s.link n
  let act := fld p.p0.toNat 8 2
  if act = 2 then
    let s' := s.modLink n (fun k => { k with enabled := false })
    done (if k.st = 0 then s' else s'.linkDown n) stOk 0 0
  else if act = 3 then done (s.modLink n (fun k => { k with enabled := true, badStride := false })) stOk 0 0
  else if act = 1 ∧ ¬laneMaskOk lanes then deny s stBadParam
  else if k.st ≠ 5 ∨ (k.req ≠ 0 ∧ ¬k.reqMine ∧ ¬k.leads) then deny s stBusyRetry
  else done (s.raiseReq n (act + 1) (if act = 1 then lanes else k.lanes)) stOk 0 0)

/-- LINK_CTRL. -/
def execLinkCtrl (o : Origin) (p : Pkt) (s : State) : Host.Outcome State Fault Refusal := .next (s.packet cLinkCtrl none o p)

end Sys2Proof.Machine
end

