-- ==== Sys2Proof/Machine/HostMem.lean ====
section
/-! DEFINITION. The M2S messages of CXL.mem (R301 to R307, R501): requests, evictions and snoop answers; snoop timeouts
(R304) and the admission of held accesses (R21). -/

namespace Sys2Proof.Machine

/-! ## Where a request goes -/

/-- What a CXL.mem request reaches (R103 to R107, R430): an unmapped address with its DPA, or an access. -/
inductive Reach where
  | unmapped (dpa : Nat)
  | access (a : Access)
deriving DecidableEq, Repr

/-- The access of a request to a place. -/
def reqAccess (r : MemReq) (p : Place) (kind : AccKind) : Access :=
  { ld := r.ld, func := r.ld, addr := r.hpa, sharer := p.sharer, tag := r.tag, slot := p.slot, line := p.line, kind := kind,
    data := sub r.data 0 64, be := r.be, poison := r.poison, target := p.target, stride := 0, origin := none, credit := none,
    sent := false }

/-- Translate a request. -/
def State.reach (s : State) (r : MemReq) (kind : AccKind) : Reach :=
  let writes := match kind with
    | .write _ _ => true
    | _ => false
  match s.placeOf r.ld r.hpa writes with
  | .error dpa => .unmapped dpa
  | .ok p => .access (reqAccess r p kind)

/-- Whether a head takes a request of a logical device now. -/
def State.takesMem (s : State) (ld : Nat) : Bool := s.isActive && (s.head (headOf ld)).up

/-- Answer a request as unmapped (R105). -/
def State.unmappedMem (s : State) (r : MemReq) (kind : AccKind) (dpa : Nat) : State :=
  (s.logUnmapped r.ld dpa).answerUnmapped
    { ld := r.ld, func := r.ld, addr := r.hpa, sharer := none, tag := r.tag, slot := 0, line := 0, kind := kind, data := [], be := 0,
      poison := false, target := .line, stride := 0, origin := none, credit := none, sent := false }

/-- Whether a write-back crosses a snoop of its line to its own host (R306): the host holds the line in A. -/
def State.crosses (s : State) (a : Access) : Bool :=
  a.target == .line && s.plateHome a.slot (a.line / 64) == .here && s.snooping a.slot a.line
    && (match s.dirEnt a.slot a.line, a.sharer with
      | some e, some x => e.isA && e.sharers == [x]
      | _, _ => false)

/-- Take a write-back that crosses a snoop at once (R306): its data is stored, its Cmp sent, and the snoop stays outstanding. -/
def State.takeCrossing (s : State) (a : Access) : State × Bool :=
  match s.writePlateLine a.slot a.line a.data a.be.toNat a.poison with
  | (s, true) =>
    let s := s.foldPlain a.slot a.line a.data a.be.toNat
    let s := s.setDir a.slot a.line (dirAfter (s.dirEnt a.slot a.line) a.sharer a.kind)
    let s := (s.charge a.slot 0 (headOf a.func) 1).charge a.slot 1 (headOf a.func) 1
    (s.complete a [] false, true)
  | (s, false) => (s, false)

/-- A request that reads, writes or takes ownership of a line (R301). -/
def State.memRequest (s : State) (r : MemReq) (kind : Bool → AccKind) : State :=
  if !s.takesMem r.ld then s
  else match s.reach r (kind false) with
    | .unmapped dpa => s.unmappedMem r (kind false) dpa
    | .access a =>
      let a := { a with kind := kind a.sharer.isSome }
      if a.writes && s.crosses a then
        match s.takeCrossing a with
        | (s, true) => s.advance
        | (_, false) => s.arrive a
      else s.arrive a

/-- MEM_RD (R301). -/
def execMemRd (r : MemReq) (s : State) : Host.Outcome State Fault Refusal := .next (s.memRequest r (fun _ => .read r.mv))

/-- MEM_RD_DATA (R501): as MemRd with MetaValue S on an HDM_DB extent, with MetaValue I otherwise. -/
def execMemRdData (r : MemReq) (s : State) : Host.Outcome State Fault Refusal :=
  .next (s.memRequest r (fun db => .read (if db then .S else .I)))

/-- MEM_INV (R301). -/
def execMemInv (r : MemReq) (s : State) : Host.Outcome State Fault Refusal := .next (s.memRequest r (fun _ => .inv))

/-- MEM_INV_NT (R501): as MemInv. -/
def execMemInvNt (r : MemReq) (s : State) : Host.Outcome State Fault Refusal := .next (s.memRequest r (fun _ => .inv))

/-- MEM_WR (R301): every byte of the line is written. -/
def execMemWr (r : MemReq) (s : State) : Host.Outcome State Fault Refusal :=
  .next (s.memRequest { r with be := BitVec.ofNat 64 allBe } (fun _ => .write r.mv true))

/-- MEM_WR_PTL (R301): the bytes that the byte enables name are written. -/
def execMemWrPtl (r : MemReq) (s : State) : Host.Outcome State Fault Refusal :=
  .next (s.memRequest r (fun _ => .write r.mv false))

/-- Take an evicting sharer out of a line's entry (R301, R306). -/
def State.cleanEvict (s : State) (a : Access) : State :=
  match s.dirEnt a.slot a.line, a.sharer with
  | some e, some x =>
    if e.sharers.contains x then s.setDir a.slot a.line (some { e with sharers := e.sharers.filter (· != x) }) else s
  | _, _ => s

/-- MEM_CLN_EVCT (R301, R306): the requester gives the line up; it is taken at once, a snoop outstanding or not. -/
def execMemClnEvct (r : MemReq) (s : State) : Host.Outcome State Fault Refusal :=
  .next (if !s.takesMem r.ld then s
    else match s.reach r .inv with
      | .unmapped dpa => s.unmappedMem r (.write .I true) dpa
      | .access a =>
        let s := (s.charge a.slot 0 (headOf a.func) 1).charge a.slot 1 (headOf a.func) 1
        let s := if a.target == .line then s.cleanEvict a else s
        let s := match s.plateHome a.slot (a.line / 64), a.sharer with
          | .at dev, some _ => s.request { s.mkMsg 0x01 dev a.slot 0 with
              plate := a.line / 64, line := a.line % 64, arg := BitVec.ofNat 128 (7 + a.ld * 8 + 2 ^ 10) } .quiet
          | _, _ => s
        (s.complete { a with kind := .write .I true } [] false).advance)

/-- MEM_SPEC_RD (R501): begin to bring the plate into T0 where the domain's grants allow it; no response. -/
def execMemSpecRd (r : MemReq) (s : State) : Host.Outcome State Fault Refusal :=
  .next (if !s.takesMem r.ld then s
    else match s.reach r (.read .I) with
      | .unmapped _ => s
      | .access a => match s.resolve a with
        | .at p i =>
          if (match a.target with
              | .line => false
              | .impr _ _ => false
              | _ => true) || s.plateHome a.slot p != .here then s
          else match s.ent a.slot p with
            | some e =>
              if e.res0 || e.remote || e.damaged || s.filling a.slot p || !s.homeGrant a.slot p e
                  || !s.hasT0 a.slot (s.t0Need a.slot p false) then s
              else s.startFill a.slot p i e
            | none => s
        | _ => s)

/-- MEM_FWD_DROP (R501): forwarded, TEE and extended-metadata forms are dropped and logged. -/
def execMemFwdDrop (r : MemReq) (s : State) : Host.Outcome State Fault Refusal :=
  .next (if !s.takesMem r.ld then s
    else s.logRated (2000 + r.ld) 0x0101 none r.ld ((s.dpaOf r.ld r.hpa).getD r.hpa))

/-! ## Snoop answers (R304 to R307) -/

/-- Take a snoop away. -/
def State.dropSnoop (s : State) (id : Nat) : State := { s with sh.snoops := s.sh.snoops.del id }

/-- The entry after a holder answers a snoop (R301, R306): BIRspI removes it, BIRspS leaves it sharing. A holder that the entry
no longer lists changes nothing. -/
def State.answerSnoop (s : State) (sn : Snoop) (shared : Bool) : State :=
  match s.dirEnt sn.slot sn.line with
  | none => s
  | some e =>
    if !e.sharers.contains sn.sharer then s
    else if shared then s.setDir sn.slot sn.line (some { e with isA := false })
    else s.setDir sn.slot sn.line (some { isA := false, sharers := e.sharers.filter (· != sn.sharer) })

/-- A host's answer to a snoop (R304, R306): it completes the snoop, goes on to the home that sent it (R390), or is discarded
and logged where the snoop has timed out. -/
def State.birsp (s : State) (ld id : Nat) (shared : Bool) : State :=
  match s.sh.snoops.get? id with
  | none => s
  | some sn =>
    if sn.ld ≠ ld ∨ ¬(s.head (headOf ld)).up then s
    else if sn.late then (s.dropSnoop id).logE 0x0201 (some sn.slot) sn.sharer (sn.line * 64)
    else
      let s := (s.dropSnoop id).charge sn.slot 0 (headOf ld) 1
      match sn.home with
      | some (dev, tag) =>
        s.sendMsg { s.mkMsg 0x12 dev sn.slot tag with
          plate := sn.line / 64, line := sn.line % 64, arg := BitVec.ofNat 128 (bitAt shared 0) } false
      | none => (s.answerSnoop sn shared).advance

/-- BI_RSP: BIRspI or BIRspS. -/
def execBiRsp (ld : Nat) (snoop : Nat) (shared : Bool) (s : State) : Host.Outcome State Fault Refusal :=
  .next (s.birsp ld snoop shared)

/-- BI_RSP_E: BIRspE and the block forms are taken as BIRspI and logged (R501). -/
def execBiRspE (ld : Nat) (snoop : Nat) (s : State) : Host.Outcome State Fault Refusal :=
  .next (match s.sh.snoops.get? snoop with
    | some sn =>
      if sn.ld = ld ∧ (s.head (headOf ld)).up ∧ ¬sn.late then
        (s.birsp ld snoop false).logE 0x0201 (some sn.slot) sn.sharer (sn.line * 64)
      else s.birsp ld snoop false
    | none => s)

/-- BI_CONFLICT (R307): answered with BIConflictAck, after every completion of the host's request where the directory ordered
that request before it sent the snoop: where it has acted and its completion is still to be sent. -/
def execBiConflict (ld : Nat) (snoop : Nat) (s : State) : Host.Outcome State Fault Refusal :=
  .next (match s.sh.snoops.get? snoop with
    | some sn =>
      if sn.ld ≠ ld ∨ ¬(s.head (headOf ld)).up then s
      else
        let s := { s with sh.conflict := cntAdd s.sh.conflict 1 }
        match s.sh.waiting.find? (fun p => p.2.ld == ld && p.2.slot == sn.slot && p.2.line == sn.line && p.2.target == .line && p.2.sent) with
        | some p => { s with sh.acks := s.sh.acks ++ [(ld, snoop, p.1)] }
        | none => s.emit (.biConflictAck ld snoop)
    | none => s)

/-- Send the BIConflictAcks whose requests have completed (R307). -/
def State.sendAcks (s : State) : State :=
  let due : List (Nat × Nat × Nat) := s.sh.acks.filter (fun x => !s.sh.waiting.has x.2.2)
  { s with sh.acks := s.sh.acks.filter (fun x => s.sh.waiting.has x.2.2) }.over due (fun s x =>
    if (s.head (headOf x.1)).up then s.emit (.biConflictAck x.1 x.2.1) else s)

/-! ## Timeouts and admission -/

/-- The holder of a snoop is removed without an answer (R304, R312): a line it held in A is lost. -/
def State.unanswered (s : State) (id : Nat) (sn : Snoop) (late : Bool) : State :=
  let (s, lost) := s.dropHolder sn.slot sn.line sn.sharer sn.ld
  let s := match sn.owner with
    | some h => if lost then s.modOp h (fun o => { o with r1 := o.r1 + 1 }) else s
    | none => s
  if late then { s with sh.snoops := s.sh.snoops.modify id (fun x => { x with late := true }) } else s.dropSnoop id

/-- SNOOP_TIMEOUT (R304): a snoop unanswered for SNOOP_LIMIT strides. -/
def execSnoopTimeout (snoop : Nat) (s : State) : Host.Outcome State Fault Refusal :=
  .next (match s.sh.snoops.get? snoop with
    | some sn =>
      if !sn.late && sn.home.isNone && decide (sn.sent + s.dev fSnoopLimit ≤ s.str.count) then
        let s := { s with sh.timeouts := cntAdd s.sh.timeouts 1 }
        (s.unanswered snoop sn true).advance
      else s
    | none => s)

/-- ACCESS_ADMISSION (R20, R21): a held access is admitted once its domain holds what it needs. -/
def execAccessAdmission (id : Nat) (s : State) : Host.Outcome State Fault Refusal := .next (if s.isActive then s.admitAccess id else s)

end Sys2Proof.Machine
end

