-- ==== Sys2Proof/Machine/HerdMsgs.lean ====
section
/-! DEFINITION. What the messages of the data plane do at their destination (R390, R415 to R419, R421, R423): reads, writes,
contributions, yoke records, parity, moved plates, replies, forwarded snoops and stripe locks. -/

namespace Sys2Proof.Machine

/-! ## Requests at a home (R390, R401) -/

/-- The logical device of another member, as accesses and sharers name it. -/
def farLd (dev ld : Nat) : Nat := 128 * (1 + dev) + ld

/-- A message that cannot be served yet waits, in order. -/
def State.later (s : State) (m : Msg) : State := { s with herd.waitMsgs := s.herd.waitMsgs ++ [m] }

/-- The access of a message to a line, with its requester's sharer index where it takes part in sharing (R390). -/
def State.farAccess (s : State) (m : Msg) (slot line : Nat) (kind : AccKind) (t : Target) : State :=
  let a := m.arg.toNat
  let (s, x) := if a.testBit 10 then s.remoteSharer slot m.src (fld a 3 7) else (s, none)
  s.arrive { ld := farLd m.src (fld a 3 7), func := farLd m.src (fld a 3 7), addr := 64 * line, sharer := x, tag := m.tag, slot := slot, line := line,
             kind := kind, data := sub m.data 0 64, be := m.be, poison := m.poison, target := t, stride := 0,
             origin := some m.src, credit := none, sent := false }

/-- RD_LINE at the home. -/
def State.takeRdLine (s : State) (slot : Nat) (m : Msg) : State :=
  let line := m.plate * 64 + m.line
  match fld m.arg.toNat 0 3 with
  | 0 => s.farAccess m slot line (.read .I) .line
  | 1 => s.farAccess m slot line (.read .S) .line
  | 2 => s.farAccess m slot line (.read .A) .line
  | 6 => s.farAccess m slot line .inv .line
  | _ =>
    let (s, x) := s.remoteSharer slot m.src (fld m.arg.toNat 3 7)
    let s := match s.dirEnt slot line, x with
      | some e, some i => s.setDir slot line (some { e with sharers := e.sharers.filter (· != i) })
      | _, _ => s
    (s.sendCmp m 0 false).advance

/-- The content of a plate's home copy, as its row's parity holds it: zeros for a plate that has none (R415, R416). -/
def State.homeCopy (s : State) (slot plate : Nat) : State × List Byte × List Nat :=
  if s.lostHere slot plate then (s, zeros 4096, List.range 64)
  else match s.ent slot plate with
    | none => (s, zeros 4096, [])
    | some e =>
      if e.tier = 0 then (s, zeros 4096, [])
      else if e.damaged then (s, zeros 4096, List.range 64)
      else match s.expandHome slot plate e 1 with
        | (s, some (d, bad)) => (s, d, bad)
        | (s, none) => (s, zeros 4096, List.range 64)

/-- RD_PLATE at the home: the plate expanded, after the snoops that a device-side read needs (R298, R390); for a rebuild, the home
copy of a data plate (DESIGN CHOICE, assumption 35). -/
def State.takeRdPlate (s : State) (slot : Nat) (m : Msg) : State :=
  if m.arg.getLsbD 0 ∧ m.plate < 2 ^ 35 then
    let (s, d, bad) := s.homeCopy slot m.plate
    s.sendData m d bad 0
  else match s.clearLines slot (rangeFrom (m.plate * 64) 64) false with
    | (s, true) =>
      let (s, d, bad) := s.copyOf slot m.plate
      s.sendData m d bad 0
    | (s, false) => s.later m

/-- WR_LINE at the home. -/
def State.takeWrLine (s : State) (slot : Nat) (m : Msg) : State :=
  let mv := match fld m.arg.toNat 0 3 with
    | 1 => Meta.S
    | 2 => Meta.A
    | _ => Meta.I
  s.farAccess m slot (m.plate * 64 + m.line) (.write mv (m.be == BitVec.ofNat 64 allBe)) .line

/-- CONTRIB at the home of its unit (R242, R243). -/
def State.takeContrib (s : State) (slot : Nat) (m : Msg) : State :=
  let id := fld m.arg.toNat 0 12
  match s.binding id with
  | some b =>
    if b.slot ≠ slot then s.sendCmp m stNotPermitted false
    else
      let off := fld m.arg.toNat 32 2 * b.quarter + 4096 * m.plate + m.line * 64
      s.arrive { ld := farLd m.src 0, func := farLd m.src 0, addr := off, sharer := none, tag := m.tag, slot := slot, line := off / 64,
                 kind := .write .I (m.be == BitVec.ofNat 64 allBe), data := sub m.data 0 64, be := m.be, poison := m.poison,
                 target := .oper id (fld m.arg.toNat 16 12) off, stride := 0, origin := some m.src, credit := none, sent := false }
  | none => s.sendCmp m stNotPermitted false

/-- MIRROR at the partner (R417): a write reaches its own T0 copy; the record stays until a DONE_NOTE names it. -/
def State.takeMirror (s : State) (slot : Nat) (m : Msg) : State :=
  let a := m.arg.toNat
  let line := m.plate * 64 + m.line
  let keep := fun (s : State) =>
    let r : MirrorRec := { src := m.src, ld := fld a 0 7, hostTag := fld a 7 16,
                           standby := if a.testBit 31 then some (fld a 24 7) else none, write := a.testBit 23, slot := slot,
                           line := line }
    { s with herd.mirrors := if a.testBit 32 then s.herd.mirrors else s.herd.mirrors ++ [r] }.sendCmp m 0 false
  if a.testBit 23 then
    match s.writePlateLine slot line (sub m.data 0 64) m.be.toNat m.poison with
    | (s, true) => keep s
    | (s, false) => s.later m
  else keep s

/-- DONE_NOTE (R417): the records of the tags it lists are kept no longer. -/
def State.takeDoneNote (s : State) (slot : Nat) (m : Msg) : State :=
  let tags := (List.range (fld m.arg.toNat 0 5)).map (fun i => fieldAt m.data (4 * i) 4)
  { s with herd.mirrors := s.herd.mirrors.filter (fun r => !(r.src == m.src && r.slot == slot && tags.contains r.hostTag)) }

/-! ## Erasure parity (R415, R416) -/

/-- DIRTY_MARK at the lock keeper. -/
def State.takeDirtyMark (s : State) (slot : Nat) (m : Msg) : State :=
  let k := plateKey slot m.plate
  { s with herd.dirtyMarks := if s.herd.dirtyMarks.contains k then s.herd.dirtyMarks else s.herd.dirtyMarks ++ [k] }.sendCmp m 0
    false

/-- Add g × delta into a parity plate, in T0. False where no T0 slot can be had. -/
def State.addParity (s : State) (slot pplate j i : Nat) (delta : List Byte) : State × Bool :=
  match s.bringIn slot pplate with
  | (s, false) => (s, false)
  | (s, true) => match s.ent slot pplate with
    | none => (s, false)
    | some e =>
      let (s, d, bad) := s.readT0Plate slot pplate e
      ((s.writeT0 e.t0Slot (xorBytes d (gfScale (gCoef j i) delta)) bad).noteWrite slot pplate, true)

/-- PARITY_DELTA at a parity member (R416); the keeper clears the plate's mark with its own delta. -/
def State.takeParityDelta (s : State) (slot : Nat) (m : Msg) : State :=
  match s.hdom slot with
  | none => s.sendCmp m stNotPermitted false
  | some r =>
    let row := hRow r m.plate
    let js := (List.range r.m).filter (fun j => hAt r (hParPos r row j) == some s.herd.device)
    let go := js.foldl (fun (a : State × Bool) j =>
      if a.2 then a.1.addParity slot (hParPlate r m.plate j) j (fld m.arg.toNat 0 4) m.data else a) (s, true)
    match go with
    | (s, false) => s.later m
    | (s, true) =>
      let s := if hKeeper r row = some s.herd.device then
          { s with herd.dirtyMarks := s.herd.dirtyMarks.filter (· != plateKey slot m.plate) }
        else s
      s.sendCmp m 0 false

/-! ## Plates moved between members (R419) -/

/-- A table record under another ID, with its check. -/
def renameTable (rec : List Byte) (id : Nat) : List Byte :=
  let r := splice rec 0 (le 2 id)
  sub r 0 60 ++ le 4 (crc32c (sub r 0 60)).toNat

/-- TABLE_REC: the record stands ready for the plates that follow. -/
def State.takeTableRec (s : State) (m : Msg) : State :=
  let rec' := sub m.data 0 64
  let key := 65536 * m.src + fieldAt rec' 0 2
  { s with herd.newTables := s.herd.newTables.filter (fun (x : Nat × List Byte) => x.1 != key) ++ [(key, rec')] }.sendCmp m 0 false

/-- The local table of another member's table: one registered before, or its record registered now (R419). -/
def State.localTable (s : State) (key : Nat) : State × Option Nat :=
  match s.herd.tableIds.get? key with
  | some t => if s.cod.tables.has t then (s, some t) else ({ s with herd.tableIds := s.herd.tableIds.del key }, none)
  | none => (s, none)

/-- Register a record as one of the device's own tables, where an ID is free (R191, R419). -/
def State.registerTable (s : State) (key : Nat) (rec' : List Byte) : State × Option Nat :=
  match s.nextTable with
  | none => (s, none)
  | some t =>
    let s := s.takeTable t
    ({ s with cod.tables := s.cod.tables.set t { record := renameTable rec' t, joined := true },
              herd.tableIds := s.herd.tableIds.set key t }, some t)

/-- What a moved plate is stored as here (R419): under the local table, or decoded and encoded under this device's own rules where no
table ID is free. -/
def State.adoptPlate (s : State) (slot : Nat) (m : Msg) : State × Encoded × List Nat :=
  let a := m.arg.toNat
  let coding := fld a 0 4
  let tid := fld a 8 16
  let clen := fld a 24 13
  let b := sub m.data 0 clen
  let key := 65536 * m.src + tid
  let bad := if m.poison then bitsSet m.be.toNat 64 else []
  if coding = cRaw ∨ tid = noTable then
    (s, { coding := coding, table := noTable, clen := clen, bytes := b, escapes := 0, exponents := 0, laneUsed := false }, bad)
  else
    let (s, t) := s.localTable key
    let rec' := (s.herd.newTables.find? (fun (x : Nat × List Byte) => x.1 == key)).map Prod.snd
    let (s, t) := match t, rec' with
      | some t, _ => (s, some t)
      | none, some r => s.registerTable key r
      | none, none => (s, none)
    match t with
    | some t =>
      (s, { coding := coding, table := t, clen := clen, bytes := splice b 2 (le 2 t), escapes := 0, exponents := 0, laneUsed := false }, bad)
    | none =>
      match decodePlate b coding tid clen (rec'.bind parseTable) 0 with
      | .good d _ => (s, s.encodeOf slot m.plate d [], [])
      | .bad _ _ _ => (s, rawPlate (zeros 4096), List.range 64)

/-- A PLATE_MOVE that asks the holder of a plate to move it to another tier (R128; DESIGN CHOICE, assumption 27): the answer tells whether
it was left in place or is damaged. -/
def State.takePlaceMove (s : State) (slot : Nat) (m : Msg) : State :=
  match s.placeOne slot m.plate (fld m.arg.toNat 37 2) with
  | (s, .wait) => s.later m
  | (s, .nothing) => s.sendCmp m stOk false
  | (s, .remote _) => s.sendCmp m stOk false
  | (s, .left) => s.sendCmp m stNoResource false
  | (s, .moved b) => s.sendCmp m (if b then stDataError else stOk) false

/-- PLATE_MOVE at the plate's new member: stored with its own entry (R419). BE marks the poisoned lines of a plate that has some (DESIGN
CHOICE, assumption 26). -/
def State.storeMoved (s : State) (slot : Nat) (m : Msg) : State :=
  let s := match s.ent slot m.plate with
    | some e => if e.remote then s.dropCopy slot m.plate else s.forget slot m.plate
    | none => s
  let (s, enc, bad) := s.adoptPlate slot m
  let lo := s.domF slot fPlaceHighest
  let hi := s.domF slot fPlaceLowest
  match ((rangeFrom 1 3).filter (fun t => decide (lo ≤ t) && decide (t ≤ hi) && s.room slot t enc.clen)).findSome?
      (fun t => (s.storeTo slot m.plate t enc bad 1).map (fun r => (t, r))) with
  | none => s.sendCmp m stNoResource false
  | some (t, s, a) =>
    (s.setEnt slot m.plate
      { t0Slot := 0, store := a, version := 1, clen := enc.clen, table := enc.table, coding := enc.coding, remote := false,
        moving := false, damaged := decide (2 ≤ t) && !bad.isEmpty, dirty := false, res0 := false, tier := t, reads := 0 }).sendCmp
      m 0 false

/-- PLATE_MOVE. -/
def State.takePlateMove (s : State) (slot : Nat) (m : Msg) : State :=
  if m.arg.getLsbD 39 then s.takePlaceMove slot m else s.storeMoved slot m

/-- Send a plate to another member in its stored coding, after the record of its table where that member has not had it (R419). -/
def State.movePlate (s : State) (slot plate dev : Nat) (had : List (Nat × Nat)) : State × Option (Nat × Nat) :=
  match s.ent slot plate with
  | none => (s, none)
  | some e =>
    let (s, enc, bad) : State × Encoded × List Nat :=
      if e.damaged then (s, rawPlate (zeros 4096), List.range 64)
      else if e.tier = 0 ∨ e.dirty then
        let (s, d, bad) := s.plateCopy slot plate
        let enc := s.encodeOf slot plate d bad
        (s.countEncode slot plate (homeDie e plate) enc 4, enc, bad)
      else match (s.chargeHome slot e).readHome slot plate e with
        | (s, .damaged) => (s.damage slot plate 0, rawPlate (zeros 4096), List.range 64)
        | (s, .bytes b bad) =>
          (s, { coding := e.coding, table := e.table, clen := e.clen, bytes := b, escapes := 0, exponents := 0, laneUsed := false }, bad)
    let new := enc.table != noTable && !had.contains (dev, enc.table)
    let s := if new then
        s.request { s.mkMsg 0x09 dev slot 0 with data := ((s.cod.tables.get? enc.table).map Table.record).getD (zeros 64) } .quiet
      else s
    let elem := (s.coder slot plate).1
    (s.request { s.mkMsg 0x08 dev slot 0 with
        plate := plate, poison := !bad.isEmpty, be := BitVec.ofNat 64 (bitMask bad), data := enc.bytes ++ zeros ((64 - enc.bytes.length % 64) % 64),
        arg := BitVec.ofNat 128 (enc.coding + elem * 16 + enc.table * 256 + 2 ^ 24 * enc.clen) } (.move 0 (plateKey slot plate)),
     if new then some (dev, enc.table) else none)

/-! ## Stripe locks and rebuilding (R418, R421) -/

/-- Tell the data members of a row that its lock is held, or released (DESIGN CHOICE, assumption 35). -/
def State.tellRow (s : State) (slot : Nat) (r : HdomRec) (plate mop : Nat) : State :=
  s.over (List.range r.k) (fun s i =>
    match hAt r (hPos r (hPlate r plate i)) with
    | some d => s.sendMsg { s.mkMsg mop d slot 0 with plate := plate, arg := 2 } false
    | none => s)

/-- Grant a stripe lock to the first that waits; ARG says whether its plate is marked dirty (R418, R421; DESIGN CHOICE, assumption
35). -/
def State.grantLock (s : State) (l : StripeLock) : State :=
  match s.hdom l.slot, l.queue with
  | some r, (dev, tag, plate) :: _ =>
    let marked := s.herd.dirtyMarks.contains (plateKey l.slot plate)
    (s.tellRow l.slot r plate 0x21).sendMsg
      { s.mkMsg 0x21 dev l.slot tag with plate := plate, arg := BitVec.ofNat 128 (bitAt marked 0) } false
  | _, _ => s

/-- Keep a lock, or forget one that nobody holds. -/
def State.putLock (s : State) (l : StripeLock) : State :=
  let rest := s.herd.locks.filter (fun x => !(x.slot == l.slot && x.row == l.row))
  { s with herd.locks := if l.queue.isEmpty then rest else rest ++ [l] }

/-- LOCK_REQ at the keeper (R418): locks on a row are granted in order of request. -/
def State.takeLockReq (s : State) (slot : Nat) (m : Msg) : State :=
  let row := fld m.arg.toNat 0 64
  match s.herd.locks.find? (fun x => x.slot == slot && x.row == row) with
  | some l => s.putLock { l with queue := l.queue ++ [(m.src, m.tag, m.plate)] }
  | none =>
    let l : StripeLock := { slot := slot, row := row, queue := [(m.src, m.tag, m.plate)] }
    (s.putLock l).grantLock l

/-- A holder gives a lock up at its keeper: the next in order holds it, or the row's members write again (R418). -/
def State.dropLock (s : State) (l : StripeLock) : State :=
  let l' := { l with queue := l.queue.drop 1 }
  let s := s.putLock l'
  match l'.queue, l.queue, s.hdom l.slot with
  | _ :: _, _, _ => s.grantLock l'
  | [], (_, _, plate) :: _, some r => s.tellRow l.slot r plate 0x22
  | _, _, _ => s

/-- LOCK_REL: at a data member the row is free again, at the keeper its holder has read it (R418). -/
def State.takeLockRel (s : State) (slot : Nat) (m : Msg) : State :=
  match s.hdom slot with
  | none => s
  | some r =>
    let row := hRow r m.plate
    if m.arg.getLsbD 1 then { s with herd.rowLocks := s.herd.rowLocks.filter (· != (slot, row)) }
    else match s.herd.locks.find? (fun x => x.slot == slot && x.row == row) with
      | some l => match l.queue with
        | (dev, _, _) :: _ => if dev = m.src then s.dropLock l else s
        | [] => s
      | none => s

/-- Release the lock of a rebuild: the row has been read (R418). -/
def State.sendRel (s : State) (slot plate keeper : Nat) : State :=
  s.sendMsg { s.mkMsg 0x22 keeper slot 0 with plate := plate } false

/-- A rebuild with all its parts: the plate is stored here where this device stands at the lost position, else kept for the access
that asked for it (R415, R421). Nothing happens while no tier has room. -/
def State.finishRebuild (s : State) (key : Nat) (rb : Rebuild) : State :=
  let slot := key / 2 ^ 36
  let plate := key % 2 ^ 36
  match s.hdom slot with
  | none => { s with herd.rebuilds := s.herd.rebuilds.del key }
  | some r =>
    let d := (rebuildPlate r (hIndex r plate) (rb.parts.map (fun (p : Nat × (List Byte × List Nat)) => (p.1, p.2.1)))).getD (zeros 4096)
    let bad := (rb.parts.flatMap (fun (p : Nat × (List Byte × List Nat)) => p.2.2)).eraseDups
    let out := fun (s : State) => { s with herd.rebuilds := s.herd.rebuilds.del key }.advance
    if s.lostHere slot plate then
      match ((rangeFrom 1 3).filter (fun t => s.room slot t 4096)).findSome?
          (fun t => (s.storeTo slot plate t (rawPlate d) bad 1).map (fun r => (t, r))) with
      | some (t, s, a) =>
        out (s.setEnt slot plate
          { t0Slot := 0, store := a, version := 1, clen := 4096, table := noTable, coding := cRaw, remote := false, moving := false,
            damaged := decide (2 ≤ t) && !bad.isEmpty, dirty := false, res0 := false, tier := t, reads := 0 })
      | none => s
    else out { s with herd.buf := s.herd.buf.set key (d, bad) }

/-- A part of a rebuild is at hand: with the last one the row has been read. -/
def State.addPart (s : State) (key x : Nat) (d : List Byte) (bad : List Nat) : State :=
  match s.herd.rebuilds.get? key with
  | none => s
  | some rb =>
    let rb := { rb with parts := rb.parts.set x (d, bad) }
    let s := { s with herd.rebuilds := s.herd.rebuilds.set key rb }
    if rb.wanted.all (fun y => rb.parts.has y) then
      (s.sendRel (key / 2 ^ 36) (key % 2 ^ 36) rb.keeper).finishRebuild key rb
    else s

/-- Read the row of a rebuild once its lock is held (R418, R421): K of its units other than the lost one, data first; a plate marked
dirty has no good copy and stands as damaged. -/
def State.readRow (s : State) (key : Nat) (rb : Rebuild) (marked : Bool) : State :=
  let slot := key / 2 ^ 36
  let plate := key % 2 ^ 36
  match s.hdom slot with
  | none => s
  | some r =>
    let units : List (Nat × Nat × Nat) :=
      ((List.range r.k).filterMap (fun i => if i = hIndex r plate then none
        else (hAt r (hPos r (hPlate r plate i))).map (fun d => (i, hPlate r plate i, d))))
      ++ ((List.range r.m).filterMap (fun j =>
        (hAt r (hParPos r (hRow r plate) j)).map (fun d => (r.k + j, hParPlate r plate j, d))))
    let pick := units.take r.k
    if marked || decide (pick.length < r.k) then
      let s := s.sendRel slot plate rb.keeper
      let s := { s with herd.rebuilds := s.herd.rebuilds.del key }
      (if s.lostHere slot plate then s.setEnt slot plate MapEnt.lostEnt
       else { s with herd.buf := s.herd.buf.set key (zeros 4096, List.range 64) }).advance
    else
      let s := { s with herd.rebuilds := s.herd.rebuilds.set key { rb with locked := true, parts := [], wanted := pick.map Prod.fst } }
      s.over pick (fun s u =>
        if u.2.2 = s.herd.device then
          let (s, d, bad) := if u.1 < r.k then s.homeCopy slot u.2.1 else s.plateCopy slot u.2.1
          s.addPart key u.1 d bad
        else s.request { s.mkMsg 0x02 u.2.2 slot 0 with plate := u.2.1, arg := 1 } (.part key u.1))

/-- LOCK_GRANT: at a data member its home-copy writes of the row are held, at the requester the rebuild goes on (R418). -/
def State.takeLockGrant (s : State) (slot : Nat) (m : Msg) : State :=
  if m.arg.getLsbD 1 then
    match s.hdom slot with
    | some r =>
      let x := (slot, hRow r m.plate)
      if s.herd.rowLocks.contains x then s else { s with herd.rowLocks := s.herd.rowLocks ++ [x] }
    | none => s
  else match s.herd.txns.get? m.tag with
    | some t => match t.use with
      | .lock key =>
        let s := { s with herd.txns := s.herd.txns.del m.tag }
        match s.herd.rebuilds.get? key with
        | some rb => s.readRow key rb (m.arg.getLsbD 0)
        | none => s
      | _ => s
    | none => s

/-! ## Replies (R390, R408, R420) -/

/-- Let a waiting access be sent or served again under a new layout (R420). -/
def State.reissue (s : State) (id : Nat) : State :=
  { s with sh.waiting := s.sh.waiting.modify id (fun a => { a with sent := false }) }.tryAccess id

/-- Complete a waiting access that another member served. -/
def State.farDone (s : State) (id : Nat) (d : List Byte) (poison : Bool) : State :=
  match s.sh.waiting.get? id with
  | some a => ({ s with sh.waiting := s.sh.waiting.del id }.complete a d poison).sendAcks.advance
  | none => s

/-- An acknowledged mirror completes its write (R417). -/
def State.mirrored (s : State) (id : Nat) : State :=
  match s.sh.waiting.get? id with
  | some a => (({ s with sh.waiting := s.sh.waiting.del id }.complete a [] false).doneNote a).sendAcks.advance
  | none => s

/-- A pairing's answers (R423): refused, or held in full once every decoder is. -/
def State.standbyStep (s : State) (h status : Nat) : State :=
  match s.ops.tab.get? h with
  | none => s
  | some op => match op.body with
    | .herdStandby hd f pf clear _ =>
      if isFinal op.st ∨ op.ending.isSome then s
      else if status ≠ 0 then s.modOp h (fun o => { o with ending := some (opFailed, if status = stAborted then stAborted else stNotPermitted) })
      else if s.herd.txns.any (fun t => t.2.use == .standby h) then s
      else
        let rest := s.herd.standbys.filter (fun x => x != (hd, f, pf))
        let s := { s with herd.standbys := if clear then rest else rest ++ [(hd, f, pf)] }
        s.modOp h (fun o => { o with done := 1, ending := some (opDone, stOk) })
    | _ => s

/-- A moved plate that was not taken is due again (R425). -/
def State.moveFailed (s : State) (key dev : Nat) : State :=
  let plate := key % 2 ^ 36
  let h := s.domF (key / 2 ^ 36) fDomHdom
  { s with herd.moves := s.herd.moves.map (fun (v : HMove) =>
      if v.hdom = h ∧ v.sent.contains (plate, dev) then
        { v with sent := v.sent.filter (· != (plate, dev)), todo := v.todo ++ [(plate, dev)] }
      else v) }

/-- A line write of the device's own whose home was lost is made again under the new layout (R420). -/
def State.againOwn (s : State) (t : Txn) : State :=
  match (if t.m.mop = 0x03 then s.slotOfHdom t.m.hdom else none) with
  | none => s
  | some slot => (s.preserve slot t.m.plate).ownWrite slot (t.m.plate * 64 + t.m.line) t.m.data t.m.be.toNat t.m.poison t.use

/-- What the end of a request means for what it was for (R390, R420): its status, with ABORTED where the member was lost. -/
def State.endTxn (s : State) (t : Txn) (status : Nat) : State :=
  match t.use with
  | .access id => if status = stAborted then s.reissue id else s.farDone id (zeros 64) (status != 0)
  | .plate key => if status = 0 ∨ status = stAborted then s
    else { s with herd.buf := s.herd.buf.set key (zeros 4096, List.range 64) }
  | .dma _ => if status = stAborted then s.againOwn t else s
  | .oper _ => if status = stAborted then s.againOwn t else s
  | .mark key =>
    (if status = 0 then
      { s with herd.marked := if s.herd.marked.contains key then s.herd.marked else s.herd.marked ++ [key] }
     else s).advance
  | .mirror id => s.mirrored id
  | .part key _ =>
    match s.herd.rebuilds.get? key with
    | some rb =>
      (({ s with herd.rebuilds := s.herd.rebuilds.del key }).sendRel (key / 2 ^ 36) (key % 2 ^ 36) rb.keeper).advance
    | none => s
  | .lock key => { s with herd.rebuilds := s.herd.rebuilds.del key }.advance
  | .move _ key => if status = 0 ∨ status = stAborted then s else s.moveFailed key t.m.dst
  | .standby h => s.standbyStep h status
  | .place h =>
    let (r0, r1) := s.results h
    s.setResults h (r0 + if status = stNoResource then 1 else 0) (r1 + if status = stDataError then 1 else 0)
  | .commit f i => s.modFunc f (fun x => { x with decoders := x.decoders.modify i (fun d => { d with committed := true }) })
  | .quiet => s

/-- CMP at the source: it ends its transaction; a NAK of HERD_DISAGREE makes the source adopt the newer records first (R408, R410). -/
def State.takeCmp (s : State) (m : Msg) : State :=
  match s.herd.txns.get? m.tag with
  | none => s
  | some t =>
    if t.m.dst ≠ m.src then s
    else
      let st := fld m.arg.toNat 0 8
      if m.nak ∧ st = stHerdDisagree then
        let s := { s with herd.nakd := s.herd.nakd ++ [m.tag] }
        if s.herd.asked ∨ m.epoch ≤ s.herd.epoch then s else { s with herd.asked := true }.askRecords 0
      else { s with herd.txns := s.herd.txns.del m.tag }.endTxn t st

/-- DATA at the source. -/
def State.takeData (s : State) (m : Msg) : State :=
  match s.herd.txns.get? m.tag with
  | none => s
  | some t =>
    if t.m.dst ≠ m.src then s
    else
      let s := { s with herd.txns := s.herd.txns.del m.tag }
      let bad := bitsSet (m.arg.toNat % 2 ^ 64) 64
      match t.use with
      | .access id => s.farDone id (sub m.data 0 64) m.poison
      | .plate key => { s with herd.buf := s.herd.buf.set key (sub m.data 0 4096, if m.poison then bad else []) }
      | .part key x => s.addPart key x (sub m.data 0 4096) (if m.poison then bad else [])
      | _ => s

/-! ## Forwarded snoops (R390) -/

/-- BISNP: a home's snoop goes to the requester's own host. A host without a link has given its lines up. -/
def State.takeBisnp (s : State) (slot : Nat) (m : Msg) : State :=
  let a := m.arg.toNat
  let ld := fld a 1 7
  if !(s.head (headOf ld)).up then
    s.sendMsg { s.mkMsg 0x12 m.src slot m.tag with plate := m.plate, line := m.line } false
  else
    let id := s.snoopId
    let line := m.plate * 64 + m.line
    let sn : Snoop := { slot := slot, line := line, sharer := 0, ld := ld, inv := a.testBit 0, sent := s.str.count, late := false,
                        owner := none, sealing := none, home := some (m.src, m.tag) }
    let s := (s.charge slot 1 (headOf ld) 1)
    { s with sh.snoops := s.sh.snoops.set id sn, sh.bisnp := cntAdd s.sh.bisnp 1 }.emit (.biSnp ld id line (a.testBit 0))

/-- BIRSP at the home: the forwarded answer completes the snoop (R304, R306). -/
def State.takeBirsp (s : State) (m : Msg) : State :=
  match s.sh.snoops.get? m.tag with
  | none => s
  | some sn =>
    if sn.ld / 128 ≠ 1 + m.src ∨ sn.home.isSome then s
    else if sn.late then (s.dropSnoop m.tag).logE 0x0201 (some sn.slot) sn.sharer (sn.line * 64)
    else ((s.dropSnoop m.tag).answerSnoop sn (m.arg.getLsbD 0)).advance

/-! ## Standby logical devices (R423) -/

/-- STANDBY_SYNC at the partner: a decoder of the standby logical device takes the primary's values, or the pairing ends. -/
def State.takeStandby (s : State) (slot : Nat) (m : Msg) : State :=
  let a := m.arg.toNat
  let f := fld a 0 7
  let key := (m.src, m.hdom, f)
  if a.testBit 16 then { s with herd.standbyOf := s.herd.standbyOf.filter (· != key) }.sendCmp m 0 false
  else
    let holds := s.ti.extents.any (fun p => p.2.ld == f && p.2.slot == slot && p.2.st != 0)
    let partner := (s.hdom slot).any (fun r => r.kind == 3 && hAt r 1 == some s.herd.device)
    match m.pay with
    | .decoder d =>
      if !holds || !partner then s.sendCmp m stNotPermitted false
      else
        let s := s.modFunc f (fun x => { x with decoders := x.decoders.set (fld a 8 2) d })
        let s := if s.herd.standbyOf.contains key then s else { s with herd.standbyOf := s.herd.standbyOf ++ [key] }
        s.sendCmp m 0 false
    | _ => s.sendCmp m stBadParam false

end Sys2Proof.Machine
end

