-- ==== Sys2Proof/Machine/HerdAgree.lean ====
section
/-! DEFINITION. Agreement (R409 to R412): proposals, acceptances, commits and records; suspicion and the loss of a member (R420 to
R423); and what a change of the herd's records does at its commit stride or when records are adopted. -/

namespace Sys2Proof.Machine

/-! ## Proposing and committing (R409) -/

/-- Whether a committed change or one being proposed is the removal of a device. -/
def State.removing (s : State) (d : Nat) : Bool :=
  s.herd.proposing.any (fun a => a.change == .remove d) || s.herd.pendingAdopt.any (fun a => a.change == .remove d)

/-- Record a committed change, and pass its COMMIT once to each neighbour but the one it came from. -/
def State.recordCommit (s : State) (a : Agreement) (key : Nat) (source : Option Nat) : State :=
  let s := { s with herd.pendingAdopt := s.herd.pendingAdopt ++ [a], herd.forwarded := s.herd.forwarded ++ [key] }
  s.over (s.neighbours.filter (fun d => some d != source)) (fun s d => s.control 0x28 d key 1 (.agreement a))

/-- The lead commits its proposal once a majority of the voters, itself among them, has accepted it: the commit stride is 64 strides
ahead. -/
def State.tryCommit (s : State) : State :=
  match s.herd.proposing with
  | none => s
  | some a =>
    let yes := s.voters.filter (fun r => s.herd.votes.contains r.device)
    if s.voters.length < 2 * yes.length then
      let key := s.agreeKey a
      { s with herd.proposing := none, herd.votes := [] }.recordCommit { a with commitStride := s.str.count + 64 } key none
    else s

/-- Propose a change to every voter. -/
def State.propose (s : State) (c : HerdChange) : State :=
  let a : Agreement := { epoch := if changesRoster c then s.herd.epoch + 1 else s.herd.epoch, change := c, proposer := s.herd.device,
                         commitStride := 0 }
  let key := s.agreeKey a
  let s := { s with herd.proposing := some a, herd.votes := [s.herd.device],
                    herd.accepted := s.herd.accepted ++ [(key, s.herd.device, s.str.count)] }
  (s.over (s.voters.filter (fun r => r.device != s.herd.device)) (fun s r => s.control 0x26 r.device key 1 (.agreement a))).tryCommit

/-- Whether the lead may propose now: it leads, a quorum stands (R411), and no change of its own is under way. -/
def State.mayPropose (s : State) : Bool := s.isLead && s.quorum && s.herd.proposing.isNone && s.herd.pendingAdopt.isEmpty

/-- Propose the removal of a member, where that may be done now (R412, R420). -/
def State.tryRemove (s : State) (d : Nat) : State :=
  if s.mayPropose && s.member d && !s.removing d then s.propose (.remove d) else s

/-- Accept a proposal. -/
def State.acceptProposal (s : State) (a : Agreement) (key : Nat) : State :=
  { s with herd.accepted := s.herd.accepted.filter (fun (x : Nat × Nat × Nat) => x.1 != key) ++ [(key, a.proposer, s.str.count)] }.control 0x27 a.proposer
    key 0 .none

/-- PROPOSE at a voter: the first proposal of an epoch or digest is accepted, another kept until the lockout ends. -/
def State.takePropose (s : State) (m : Msg) : State :=
  match m.pay with
  | .agreement a =>
    let key := s.agreeKey a
    if !s.isVoter || s.herd.forwarded.contains key then s
    else match s.herd.accepted.find? (fun x => x.1 == key) with
      | none => s.acceptProposal a key
      | some (_, p, _) => if p = a.proposer then s.acceptProposal a key
        else { s with herd.offers := s.herd.offers ++ [(a, m)] }
  | _ => s

/-- After 200 strides without COMMIT, the proposal of the lowest device ID is accepted. -/
def State.lockoutEnds (s : State) : State :=
  s.over (s.herd.accepted.filter (fun x => decide (x.2.2 + 200 ≤ s.str.count) && !s.herd.forwarded.contains x.1)) (fun s x =>
    let mine : List Agreement := (s.herd.offers.map Prod.fst).filter (fun a => s.agreeKey a == x.1)
    match minOf? (mine.map Agreement.proposer) with
    | none => s
    | some p =>
      let s := { s with herd.offers := s.herd.offers.filter (fun o => s.agreeKey o.1 != x.1) }
      if p < x.2.1 then match mine.find? (fun a => a.proposer == p) with
        | some a => s.acceptProposal a x.1
        | none => s
      else s)

/-- ACCEPT at the lead. -/
def State.takeAccept (s : State) (m : Msg) : State :=
  match s.herd.proposing with
  | none => s
  | some a =>
    if m.arg.toNat ≠ s.agreeKey a ∨ s.herd.votes.contains m.src then s
    else { s with herd.votes := s.herd.votes ++ [m.src] }.tryCommit

/-- COMMIT at a member. -/
def State.takeCommit (s : State) (m : Msg) : State :=
  match m.pay with
  | .agreement a =>
    let key := s.agreeKey a
    if s.herd.forwarded.contains key || (changesRoster a.change && decide (a.epoch ≤ s.herd.epoch)) then s
    else s.recordCommit a key (some m.src)
  | _ => s

/-! ## Records (R410, R424) -/

/-- The data slots of RECORDS. -/
def recordSlots (r : HerdRecords) : Nat :=
  max 1 (min 64 ((32 * r.roster.length + 160 * (r.domains.length + r.shadows.length) + 63) / 64))

/-- RECORDS_REQ (R410): the lead answers; another member passes it on. What a joining member or one in probation tells the lead lies
in ARG (DESIGN CHOICE, assumption 35). -/
def State.takeRecordsReq (s : State) (m : Msg) : State :=
  let a := m.arg.toNat
  if !s.isLead then
    match s.lead with
    | some d => if d = m.src then s
      else s.sendMsg { m with dst := d, hops := ((s.route d).map (fun r => r.2.2)).getD 0 } true
    | none => s
  else
    let s := if a.testBit 1 then
        (if s.herd.probation.has m.src then s
         else { s with herd.probation := s.herd.probation.set m.src s.str.count })
      else { s with herd.probation := s.herd.probation.del m.src }
    let ready := a.testBit 0 && s.herd.roster.any (fun r => r.device == m.src && r.st == 1 && fieldAt r.identity 0 8 == a / 2 ^ 64)
    let s := if ready && s.mayPropose then s.propose (.normal m.src) else s
    if a.testBit 2 then s else s.control 0x2A m.src 0 (recordSlots s.herd.records) (.records s.herd.records)

/-- RECORDS: adopted at the next boundary. -/
def State.takeRecords (s : State) (m : Msg) : State :=
  match m.pay with
  | .records r => if s.inHerd ∧ s.herd.epoch ≤ r.epoch then { s with herd.adopt := some r } else s
  | _ => s

/-! ## Suspicion (R412, R420) -/

/-- Send PROBE over both routes to a member. -/
def State.probe (s : State) (d : Nat) : State :=
  match s.route d with
  | none => s
  | some (p, alt, hops) =>
    let m := { s.mkMsg 0x24 d (s.dev fHerdSlot) 0 with hops := hops }
    s.over ((p :: alt.toList).filter (fun l => (s.link l).st == 5)) (fun s l => s.putLink l m false)

/-- SUSPECT at the lead: it probes the member, or removes at once one whose stride count is wrong. -/
def State.suspect (s : State) (d : Nat) (badStride : Bool) : State :=
  if !s.isLead || !s.member d then s
  else if badStride then { s with herd.suspects := s.herd.suspects.set d (s.str.count - 200) }.tryRemove d
  else if s.herd.suspects.has d then s
  else { s with herd.suspects := s.herd.suspects.set d s.str.count }.probe d

/-! ## A member is gone (R420 to R423) -/

/-- The messages that waited for a lost member: those of this device are dropped, the others answered ABORTED. -/
def State.abortWaiting (s : State) (d : Nat) : State :=
  let gone := s.herd.outWait.filter (fun m => m.dst == d && m.src != s.herd.device && mopVc m.mop == 0)
  let s := { s with herd.outWait := s.herd.outWait.filter (fun m => m.dst != d) }
  s.over gone (fun s m => s.sendCmp m stAborted false)

/-- The requests that a lost member will not answer end as ABORTED, and are issued again under the new layout. -/
def State.abortTxns (s : State) (d : Nat) : State :=
  let gone : List (Nat × Txn) := s.herd.txns.filter (fun t => t.2.m.dst == d)
  let s := { s with herd.txns := s.herd.txns.filter (fun t => t.2.m.dst != d),
                    herd.nakd := s.herd.nakd.filter (fun t => !gone.any (fun g => g.1 == t)) }
  s.over gone (fun s t => s.endTxn t.2 stAborted)

/-- The locks of a lost member: its holds and requests are released, and locks that it kept are asked for again. -/
def State.dropLocksOf (s : State) (d : Nat) (old : List HdomRec) : State :=
  let s := s.over s.herd.locks (fun s l =>
    let q := l.queue.filter (fun x => x.1 != d)
    if q.length = l.queue.length then s
    else match l.queue with
      | (h, t, p) :: _ =>
        if h = d then ({ s with herd.locks := s.herd.locks }).dropLock { l with queue := (h, t, p) :: q }
        else s.putLock { l with queue := q }
      | [] => s)
  let mine := s.herd.rebuilds.filter (fun r => r.2.keeper == d)
  let s := { s with herd.rebuilds := s.herd.rebuilds.filter (fun r => r.2.keeper != d),
                    herd.txns := s.herd.txns.filter (fun t => match t.2.use with
                      | .lock k => !mine.any (fun r => r.1 == k)
                      | .part k _ => !mine.any (fun r => r.1 == k)
                      | _ => true) }
  { s with herd.rowLocks := s.herd.rowLocks.filter (fun x =>
      match old.find? (fun r => r.hdom == s.domF x.1 fDomHdom) with
      | some r => hKeeper r x.2 != some d
      | none => true) }

/-- The holders on a lost member are removed from every entry without an answer (R304, R312). -/
def State.dropFarHolders (s : State) (d : Nat) : State :=
  let s := s.over (s.sh.snoops.filter (fun p => p.2.ld / 128 == 1 + d && !p.2.late)) (fun s p => s.unanswered p.1 p.2 false)
  let s := { s with sh.snoops := s.sh.snoops.filter (fun p => match p.2.home with
    | some (h, _) => h != d
    | none => true) }
  let s := s.over (s.herd.remotes.filter (fun r => r.2.1 == d)) (fun s r =>
    s.over ((s.dirOf r.1).filter (fun e => e.2.sharers.contains r.2.2.2)) (fun s e =>
      (s.dropHolder r.1 e.1 r.2.2.2 (farLd d r.2.2.1)).1))
  { s with herd.remotes := s.herd.remotes.filter (fun r => r.2.1 != d) }

/-- A partner answers every yoke record of the lost primary that no DONE_NOTE has named, through the standby logical devices (R422). -/
def State.answerMirrors (s : State) (d : Nat) : State :=
  let s' := s.over (s.herd.mirrors.filter (fun r => r.src == d)) (fun s r =>
    match r.standby with
    | none => s
    | some f =>
      if !(s.head (headOf f)).up then s
      else
        let ql := s.devLoad (headOf f) r.slot
        if r.write then s.emit (.memCmp f r.hostTag .I false ql)
        else
          let (s, b, bad) := s.copyOf r.slot (r.line / 64)
          let p := bad.contains (r.line % 64)
          (s.countPoison p).emit (.memData f r.hostTag .I (sub b (64 * (r.line % 64)) 64) p ql))
  { s' with herd.mirrors := s'.herd.mirrors.filter (fun r => r.src != d),
            herd.standbyOf := s'.herd.standbyOf.filter (fun x => x.1 != d) }

/-- What the loss of a member does at this device at the commit stride of the epoch that removes it (R393, R420 to R423); `old` are
the domain records before. -/
def State.memberGone (s : State) (d : Nat) (old : List HdomRec) : State :=
  let s := { s with herd.suspects := s.herd.suspects.del d, herd.probation := s.herd.probation.del d,
                    herd.lastSeen := s.herd.lastSeen.del d,
                    herd.links := s.herd.links.map (fun (l : Nat × Link) =>
                      if l.2.st < 5 ∧ l.2.peer = d then (l.1, { l.2 with replay := [] }) else l),
                    herd.held := s.herd.held.filter (fun h => h.2.src != d),
                    herd.ingress := s.herd.ingress.filter (fun h => h.2.src != d),
                    herd.waitMsgs := s.herd.waitMsgs.filter (fun m => m.src != d),
                    sh.held := s.sh.held.filter (fun a => a.2.origin != some d),
                    herd.standbys := s.herd.standbys.filter (fun x =>
                      !old.any (fun r => r.hdom == x.1 && r.kind == 3 && hAt r 1 == some d)) }
  ((((s.dropLocksOf d old).dropFarHolders d).abortWaiting d).abortTxns d).answerMirrors d

/-! ## Moves under a new record (R425) -/

/-- Whether two records of a domain have the same shape: kind, counts and unit. -/
def sameShape (a b : HdomRec) : Bool := a.kind == b.kind && a.k == b.k && a.m == b.m && a.u == b.u

/-- The member that takes a plate of this device under a new record, where one does. -/
def moveDest (self : Nat) (old : Option HdomRec) (r : HdomRec) (p : Nat) : Option Nat :=
  let other := fun (d : Option Nat) => match d with
    | some d => if d = self then none else some d
    | none => none
  if 2 ^ 35 ≤ p then
    if old.any (fun o => sameShape o r) ∧ 0 < r.m then
      let n := (p - 2 ^ 35) / 2 ^ r.u
      other (hAt r (hParPos r (n / r.m) (n % r.m)))
    else none
  else if r.kind = 3 then
    if old.any (fun o => o.kind == 3 && hAt o 1 == some self && (hAt o 0).isSome) then none
    else match other (hAt r 0) with
      | some d => some d
      | none => if old.any (fun o => hAt o 1 == hAt r 1) then none else other (hAt r 1)
  else other (hAt r (hPos r p))

/-- At the commit of a plan's SHADOW record, each member lists the plates that it has to send. -/
def State.beginMoves (s : State) (r : HdomRec) : State :=
  match s.slotOfHdom r.hdom with
  | none => s
  | some slot =>
    let old := s.herd.domains.find? (fun x => x.hdom == r.hdom)
    let todo : List (Nat × Nat) := ((s.platesOf slot).filter (fun (p : Nat × MapEnt) => !p.2.remote)).filterMap (fun (p : Nat × MapEnt) =>
      (moveDest s.herd.device old r p.1).map (fun d => (p.1, d)))
    { s with herd.moves := s.herd.moves.filter (fun (v : HMove) => v.hdom != r.hdom)
        ++ [{ hdom := r.hdom, todo := todo, sent := [], tables := [] }] }

/-- One slice of a domain's moves: up to 64 plates into each new member (R425). -/
def State.moveSlice (s : State) (h : Nat) : State :=
  match s.herd.moves.find? (fun (v : HMove) => v.hdom == h), s.slotOfHdom h with
  | some v, some slot =>
    let dests := (v.todo.map Prod.snd).eraseDups
    let now : List (Nat × Nat) := dests.flatMap (fun d => (v.todo.filter (fun x => x.2 == d)).take 64)
    let (s, had) := now.foldl (fun (a : State × List (Nat × Nat)) x =>
      match a.1.movePlate slot x.1 x.2 a.2 with
      | (s, some t) => (s, a.2 ++ [t])
      | (s, none) => (s, a.2)) (s, v.tables)
    { s with herd.moves := s.herd.moves.map (fun (w : HMove) =>
        if w.hdom = h then { w with todo := w.todo.filter (fun x => !now.contains x), sent := w.sent ++ now, tables := had } else w) }
  | _, _ => s

/-- Whether this device has nothing left to send of a domain, and every plate sent has been taken. -/
def State.movesDone (s : State) (h : Nat) : Bool :=
  !s.herd.moves.any (fun (v : HMove) => v.hdom == h && !v.todo.isEmpty)
    && !s.herd.txns.any (fun t => t.2.m.hdom == h && (match t.2.use with
      | .move _ _ => true
      | _ => false))

/-- A new record is in force: plates sent leave this device, and where the shape changed its parity is built anew from every home
copy (R415, R416, R425; DESIGN CHOICE, assumption 36). -/
def State.endMoves (s : State) (r : HdomRec) (old : Option HdomRec) : State :=
  match s.slotOfHdom r.hdom with
  | none => s
  | some slot =>
    let yoke := r.kind == 3 && hAt r 0 == some s.herd.device
    let s := if yoke then s
      else s.over (((s.herd.moves.filter (fun (v : HMove) => v.hdom == r.hdom)).flatMap HMove.sent).map Prod.fst) (fun s p => s.forget slot p)
    let s := { s with herd.moves := s.herd.moves.filter (fun (v : HMove) => v.hdom != r.hdom) }
    if r.kind ≠ 2 ∨ old.any (fun o => sameShape o r) then s
    else
      let s := s.over ((s.platesOf slot).filter (fun p => decide (2 ^ 35 ≤ p.1))) (fun s p => s.forget slot p.1)
      s.over ((s.platesOf slot).filter (fun p => !p.2.remote && decide (p.1 < 2 ^ 35))) (fun s p =>
        let (s, d, _) := s.homeCopy slot p.1
        s.sendDelta slot p.1 (zeros 4096) d)

/-! ## Records come into force (R409, R410, R420) -/

/-- The herd domain IDs in which this device newly stands at a position whose member is gone or was vacant (R421). -/
def State.takeovers (s : State) (old new : List HdomRec) (gone : List Nat) : List Nat :=
  (new.filter (fun r => r.kind != 3 && (List.range r.w).any (fun x =>
    hAt r x == some s.herd.device && (match old.find? (fun o => o.hdom == r.hdom) with
      | some o => hAt o x != some s.herd.device && (match hAt o x with
        | some d => gone.contains d
        | none => true)
      | none => false)))).map HdomRec.hdom

/-- MEMORY_ACTIVE is reached (R559). -/
def State.enterActive (s : State) (ms : Nat) : State := { s with pmu.stage := 5, pmu.toActive := ms % 65536 }

/-- End the long operations that a test picks (R426). -/
def State.endOps (s : State) (f : OpBody → Bool) (st status r0 : Nat) : State :=
  s.over (s.liveOps.filter (fun x => f x.2.body && x.2.ending.isNone)) (fun s x =>
    s.modOp x.1 (fun o => { o with ending := some (st, status), r0 := if r0 = 0 then o.r0 else r0 }))

/-- HERD_FORM or HERD_JOIN is done: a device that waits for its herd becomes MEMORY_ACTIVE (R424, R559). -/
def State.herdDone (s : State) : State := if s.pmu.stage = 4 then s.enterActive (s.pmu.strides / 2000) else s

/-- Records come into force, with everything that follows from the members they no longer list, the epoch they open, and the
messages that waited for it (R32, R408 to R412, R420). -/
def State.install (s : State) (r : HerdRecords) : State :=
  let old := s.herd
  let gone := (old.roster.map RosterRec.device).filter (fun d => !r.roster.any (fun x => x.device == d))
  let took := s.takeovers old.domains r.domains gone
  let self := r.roster.find? (fun x => x.device == s.herd.device)
  let st : Nat := match self with
    | none => if old.st = 1 then 1 else 4
    | some x => if old.st = 1 ∨ old.st = 4 then (if x.st = 1 then 1 else if old.cause = 0 then 2 else 3) else old.st
  let s := { s with herd.epoch := r.epoch, herd.roster := r.roster, herd.domains := r.domains, herd.shadows := r.shadows, herd.st := st,
                    herd.tookOver := old.tookOver ++ took.filter (fun h => !old.tookOver.contains h) }
  let s := if old.epoch = r.epoch then s else s.breakDressage
  let s := s.over (gone.filter (· != s.herd.device)) (fun s d => s.memberGone d old.domains)
  let s := s.endOps (fun b => match b with
    | .herdAdmit d _ _ _ => gone.contains d
    | _ => false) opFailed stAborted 0
  -- requests that were turned away go out again under the new epoch
  let again := s.herd.nakd
  let s := { s with herd.nakd := [] }
  let s := s.over again (fun s t => match s.herd.txns.get? t with
    | some x =>
      let m := { x.m with epoch := s.herd.epoch }
      { s with herd.txns := s.herd.txns.set t { x with m := m } }.sendMsg m false
    | none => s)
  let s := if old.st = 1 ∧ (st = 2 ∨ st = 3) then
      (s.endOps (fun b => match b with
        | .herdJoin _ _ => true
        | _ => false) opDone stOk 0)
    else s
  s.advance

/-- Adopt the records received (R410): the digest is then the lead's, and a member that finds itself absent is EXPELLED (R412). -/
def State.adoptRecords (s : State) : State :=
  match s.herd.adopt with
  | none => s
  | some r =>
    let s := { s with herd.adopt := none, herd.asked := false,
                      herd.pendingAdopt := s.herd.pendingAdopt.filter (fun a => changesRoster a.change && decide (r.epoch < a.epoch)) }
    (s.install r).setCause 0 false

/-- What a change does beside the records (R424 to R426). -/
def State.afterChange (s : State) (a : Agreement) (old : List HdomRec) : State :=
  let e := s.herd.epoch
  match a.change with
  | .enrol _ => s
  | .normal d =>
    s.endOps (fun b => match b with
      | .herdAdmit x _ _ _ => x == d
      | _ => false) opDone stOk e
  | .remove d =>
    s.endOps (fun b => match b with
      | .herdRemove x _ => x == d
      | _ => false) opDone stOk e
  | .voters ds =>
    s.endOps (fun b => match b with
      | .herdVoters x _ _ => x == ds
      | _ => false) opDone stOk e
  | .shadow r =>
    let s := s.beginMoves r
    s.over (s.liveOps.filter (fun x => match x.2.body with
      | .herdDomainSet y 1 => y == r
      | _ => false)) (fun s x =>
        let n := sumOf ((s.herd.moves.filter (fun (v : HMove) => v.hdom == r.hdom)).map (fun (v : HMove) => v.todo.length))
        s.modOp x.1 (fun o => { o with st := opShadow, ran := true, total := n, body := .herdDomainSet r 2 }))
  | .domain r =>
    let s := s.endMoves r (old.find? (fun x => x.hdom == r.hdom))
    s.over (s.liveOps.filter (fun x => match x.2.body with
      | .herdDomainSet y _ => y == r
      | _ => false)) (fun s x =>
        s.modOp x.1 (fun o => { o with st := opCommitted, status := stOk, done := o.total, ran := true }))
  | .unshadow h =>
    let s := { s with herd.moves := s.herd.moves.filter (fun (v : HMove) => v.hdom != h) }
    s.over (s.liveOps.filter (fun x => match x.2.body with
      | .herdDomainSet y 4 => y.hdom == h
      | _ => false)) (fun s x =>
        s.modOp x.1 (fun o => { o with st := opAbandoned, status := stAborted, ran := true }))

/-- At the commit stride every member applies the change (R409); one that missed an epoch asks for the records (R410). -/
def State.applyCommit (s : State) (a : Agreement) : State :=
  let old := s.herd.domains
  let key := s.agreeKey a
  let s := { s with herd.pendingAdopt := s.herd.pendingAdopt.filter (· != a),
                    herd.accepted := s.herd.accepted.filter (fun (x : Nat × Nat × Nat) => x.1 != key),
                    herd.offers := s.herd.offers.filter (fun x => s.agreeKey x.1 != key) }
  if changesRoster a.change ∧ a.epoch ≠ s.herd.epoch + 1 then { s with herd.asked := true }.askRecords 0
  else (s.install (applyChange a.change a.epoch s.herd.records)).afterChange a old

end Sys2Proof.Machine
end

