-- ==== Sys2Proof/Machine/LineFaults.lean ====
section
/-! DEFINITION. What an uncorrectable line does, by what it holds (R466), and patrol scrub of DRAM and of the central store
(R465, R473, R474). -/

namespace Sys2Proof.Machine

/-! ## An uncorrectable line of T1 (R466) -/

/-- The unit of a binding whose work area an index of lines falls in, and whether the line is of its tally record. -/
def Binding.unitOfLine (b : Binding) (l : Nat) : Option (Nat × Bool) :=
  let t := b.units * b.recLines
  if l < t then some (l / b.recLines, true)
  else if l < b.workLines then some ((l - t) / (if b.ordered then b.ncontrib else b.accLines), false)
  else none

/-- An uncorrectable line of a work area: the unit is finished poisoned and its tally record made whole (R250, R466). A line of an
accumulator or a hold is used only while its unit has contributions in the open round (DEDUCED, assumption 32). -/
def State.workFault (s : State) (id l : Nat) : State :=
  match s.binding id with
  | none => s
  | some b =>
    match b.unitOfLine l with
    | none => s
    | some (u, tally) =>
      if b.st ≠ 1 ∨ b.pend.has u ∨ b.finishing.has u then s
      else
        let whole := fun (s : State) =>
          (s.writeWorkN id (b.tallyLine u) (tallyAll b.recLines (b.round % 4) b.ncontrib).enc false).completeUnit id u true
        if tally then whole s
        else
          let (s, raw, tp) := s.readWorkN id (b.tallyLine u) b.recLines
          let t := tallyOf raw
          if tp ∨ (t.rnd = b.round % 4 ∧ 0 < t.count ∧ t.count < b.ncontrib) then whole s else s

/-- An uncorrectable line of a RAW plate (R466): the line is poisoned in the plate's T0 copy and the plate becomes dirty. A plate
that is dirty already has its newest content in T0, and its home no longer counts. -/
def State.rawFault (s : State) (slot plate i l : Nat) : State :=
  match s.ent slot plate with
  | none => s
  | some e =>
    if e.res0 then
      if e.dirty then s
      else
        let d := s.rawLine (t0Line e.t0Slot i)
        (s.writeLine (t0Line e.t0Slot i) d true).modEnt slot plate (fun e => { e with dirty := true })
    else
      let x := s.synOf l
      ((s.setSyn l zSyn).bringIn slot plate).1.setSyn l x

/-- Handle an uncorrectable line of T1 by what holds it; the second is the number of plates it damages (R344, R466, R468). -/
def State.dramFault (s : State) (k g : Nat) : State × Nat :=
  match s.holder k g with
  | .plate slot plate =>
    match s.ent slot plate with
    | none => (s, 0)
    | some e =>
      let mirrored := s.yoked slot && s.inYoke g && !s.pcOff (partner k) (granPc g)
      let other := if mirrored then some (s.readLine (dramLine (partner k) g)) else none
      match other with
      | some (s, .good d) =>
        let s := s.mirrorRead slot k plate
        ((s.writeLine (dramLine k g) d false).readBack slot plate k g, 0)
      | _ =>
        if e.coding = cRaw then (s.rawFault slot plate (g - storeGran e.store) (dramLine k g), 0)
        else (s.damage slot plate 0, if e.damaged then 0 else 1)
  | .page pk =>
    let i := match s.ti.pages.get? pk with
      | some p => g - storeGran p.store
      | none => 0
    let n := (rangeFrom (pk % 2 ^ 28 * 256 + 4 * i) 4).filter (fun p => (s.ent (pk / 2 ^ 28) p).any (fun e => !e.damaged))
    (s.damagePageLine pk i, n.length)
  | .chunk c => (if c.isExtent then s else s.workFault c.owner (32768 * c.index + (g - c.granule)), 0)
  | .nothing => (s, 0)

/-! ## The central store (R466) -/

/-- Read a line of the central store for scrub, with what its content's row asks for: a plate's line as any reader of it, a map
page's line again from its home, and a line of no plate as it is. -/
def State.storeFault (s : State) (i : Nat) : State :=
  match s.ti.t0.get? (i / 64) with
  | none => s
  | some u =>
    if u.isPage then
      s.writeLine (csLine i) (sub (s.pageBytes (pageKey u.slot u.num)) (64 * (i % 64)) 64) false
    else match s.ent u.slot u.num with
      | none => s
      | some e =>
        if e.dirty then s.writeLine (csLine i) (s.rawLine (csLine i)) true
        else match s.expandHome u.slot u.num e with
          | (s, some (p, bad)) => s.writeT0 e.t0Slot p bad
          | (s, none) => s.writeLine (csLine i) (s.rawLine (csLine i)) true

/-! ## Scrubbing one line (R474) -/

/-- The outcome of a scrub of one line: good, corrected and rewritten, poisoned, or uncorrectable with the syndrome and the plates
damaged. -/
inductive Scrubbed where
  | good
  | fixed
  | poison
  | uncorr (x : U32) (damaged : Nat)

/-- Write a corrected line back, which a DRAM line's maintenance slot pays for (R474). -/
def State.rewriteLine (s : State) (l : Nat) (d : List Byte) : State :=
  let s := s.writeLine l d false
  if isDram l then s.useSlot (lineStack l) (granPc (lineGran l)) 1 else s

/-- Read a line for scrub, which no admission counts (R332, R337). -/
def State.readFor (s : State) (l : Nat) : State × LineRead :=
  let r := s.readLine l
  (if isDram l then r.1.modPc (lineStack l) (granPc (lineGran l)) (fun c => { c with took := c.took - 1 }) else r.1, r.2)

/-- Scrub one line: a corrected line is rewritten corrected at a cost of one line-time more, an uncorrectable one handled by what holds it
(R474). A rewrite is dropped where a write to the granule is still buffered. -/
def State.scrubLine (s : State) (l : Nat) : State × Scrubbed :=
  let buffered := isDram l && (s.pc (lineStack l) (granPc (lineGran l))).wbuf.any (fun e => e.1 == lineGran l)
  let before := s.ras.ce
  match s.readFor l with
  | (s, .good d) => if s.ras.ce = before then (s, .good) else (if buffered then s else s.rewriteLine l d, .fixed)
  | (s, .poison _) => (s, .poison)
  | (s, .uncorr _ x) =>
    if isDram l then
      let (s, n) := s.dramFault (lineStack l) (lineGran l)
      (s, .uncorr x n)
    else (s.storeFault (lineIndex l), .uncorr x 0)

/-- Track a location that patrol scrub corrected in a pass: the tracker holds 4,096 locations, the one corrected least recently
leaves; in its CE_REPEAT-th pass a location is logged (R465). -/
def State.track (s : State) (l pass : Nat) : State :=
  let loc := lineLoc l
  let passes : List Nat := match s.ras.tracker.find? (fun x => x.1 == loc) with
    | some x => if x.2.contains pass then x.2 else x.2 ++ [pass]
    | none => [pass]
  let old : Nat := (s.ras.tracker.find? (fun x => x.1 == loc)).elim 0 (fun x => x.2.length)
  let rest := s.ras.tracker.filter (fun x => x.1 != loc)
  let rest := if rest.length < 4096 then rest else rest.drop 1
  let s := { s with ras.tracker := rest ++ [(loc, passes)] }
  if passes.length = s.dev fCeRepeat ∧ old < passes.length then s.logE 0x0703 none passes.length loc else s

/-- Patrol one line. -/
def State.patrolLine (s : State) (l pass : Nat) : State :=
  match s.scrubLine l with
  | (s, .fixed) => s.track l pass
  | (s, _) => s

/-! ## Patrol (R473) -/

/-- The lines of one retention segment of a pseudo-channel (R328). -/
def segLines : Nat := 2211840

/-- The place of a granule among its pseudo-channel's retained lines in ascending order (R329, R473). -/
def patrolIndex (mask g : Nat) : Nat :=
  let j := g / 512 * 16 + g % 16
  (bitsSet mask (granSeg g)).length * segLines + j % segLines

/-- Whether patrol scrub of a pseudo-channel reaches a granule when it takes lines `a` to `a + n`, counted without end; and in
which pass. -/
def patrolHit (mask g a n : Nat) : Option Nat :=
  let m := (bitsSet mask 8).length * segLines
  let i := patrolIndex mask g
  if m = 0 ∨ ¬mask.testBit (granSeg g) then none
  else ((rangeFrom a n).find? (fun x => x % m == i)).map (fun x => x / m)

/-- The lines at which patrol scrub can change something: those whose stored bits are not good, and those on which a READ
injection is armed. Every other line it takes reads good. -/
def State.scrubTargets (s : State) : List Nat :=
  let fl := ((s.ras.flips.filter (fun p => p.2.read)).map (fun p => p.2.lineNo)).filter (fun l => !s.syn.has l)
  s.syn.map Prod.fst ++ fl

/-- What patrol scrub takes of a pseudo-channel's slot: its lines, or as many as the slot has line-times left, the others put off
(R32, R337, R473). -/
def Pc.patrolled (rate : Nat) (c : Pc) : Pc :=
  let n := if c.st = 1 ∨ c.st = 3 then 0 else min rate c.room
  { c with missed := c.missed + (rate - n), room := c.room - n }

/-- Patrol scrub of one stride: SCRUB_RATE lines of every pseudo-channel in service, where its slot has the line-times, and every 64th
stride one line of every bank of the central store (R473). -/
def State.patrol (s : State) : State :=
  let rate := s.dev fScrubRate
  let at0 := s.dram.patrol
  let hits := s.scrubTargets.filterMap (fun l =>
    if isDram l then
      let k := lineStack l
      let g := lineGran l
      let p := s.pc k (granPc g)
      (patrolHit (s.field 0 fRetainMask (32 * k + granPc g)) g (at0 - p.missed) (min rate (s.slotRoom k (granPc g)))).map
        (fun n => (l, n))
    else
      let n := s.str.count / 64
      if s.str.count % 64 = 0 ∧ csRow (lineIndex l) = n % 65536 then some (l, n / 65536) else none)
  let short := if s.dram.step then (bitsSet s.dram.hot 12).flatMap (fun k => (List.range 32).filterMap (fun p =>
    if s.slotRoom k p < rate then some (k, p) else none)) else []
  let s := s.over short (fun s x => s.modPc x.1 x.2 id)
  let s := { s with dram.patrol := at0 + rate, dram.pcs := s.dram.pcs.map (fun (x : Nat × Pc) => (x.1, x.2.patrolled rate)) }
  s.over hits (fun s x => s.patrolLine x.1 x.2)

end Sys2Proof.Machine
end

