-- ==== Sys2Proof/Machine/Plans.lean ====
section
/-! DEFINITION. Staged change plans (R92 to R98): their units and slices as the owning chapters give them (R98, R145, R325,
R350, R356, R381, R437), their states, and the commands and events CONFIG_PLAN, PLAN_COMMIT and PLAN_ABANDON. -/

namespace Sys2Proof.Machine

/-! ## Units -/

/-- The unit key of a plate that leaves or relocates; the tier that it leaves stands above it. -/
def plateUnit (tier key : Nat) : Nat := 2 ^ 50 * tier + key

/-- The unit key of a 2 MiB chunk (R350). -/
def chunkUnit (k g : Nat) : Nat := 2 ^ 60 + 2 ^ 30 * k + g

/-- The unit key of a chunk that has moved, by its new place, with the place from which it came. -/
def movedChunk (k g k0 g0 : Nat) : Nat := chunkUnit k g + 2 ^ 40 * (1 + k0 + 16 * (g0 / 32768))

/-- Whether a unit key names a chunk. -/
def isChunk (u : Nat) : Bool := decide (2 ^ 60 ≤ u) && decide (u < 2 ^ 61)

/-- The place of the chunk that a unit key names. -/
def chunkAt (u : Nat) : Nat × Nat := ((u - 2 ^ 60) % 2 ^ 40 / 2 ^ 30, (u - 2 ^ 60) % 2 ^ 30)

/-- The place to which a chunk that has moved goes back. -/
def chunkBack (u : Nat) : Option (Nat × Nat) :=
  let x := (u - 2 ^ 60) / 2 ^ 40
  if x = 0 then none else some ((x - 1) % 16, (x - 1) / 16 * 32768)

/-- The unit key of a map page. -/
def pageUnit (key : Nat) : Nat := 2 ^ 61 + key

/-- The unit key of a piece that is only counted: a directory entry, a staging claim, a T0 slot the clock will choose. -/
def countUnit : Nat := 2 ^ 62

/-- The plates with home in a tier, over all slots or one, with their entries. -/
def State.tierPlates (s : State) (slot : Option Nat) (tier : Nat) : List (Nat × MapEnt) :=
  s.ti.map.filter (fun p => p.2.tier == tier && !p.2.remote && (match slot with
    | some x => p.1 / 2 ^ 36 == x
    | none => true))

/-- The lowest plates of a tier whose leaving brings a domain's charge to a new share (R145). -/
def excess (surplus : Nat) : List (Nat × Nat) → List Nat
  | [] => []
  | (k, w) :: l => if surplus = 0 then [] else k :: excess (surplus - w) l

/-- Whether a run of granules of a stack has one that satisfies a test: it is enough to look every 16 granules and at the
end. -/
def runHas (g n : Nat) (f : Nat → Bool) : Bool := (List.range ((n + 15) / 16 + 1)).any (fun i => f (min (g + 16 * i) (g + n - 1)))

/-- The units of T1 storage of which a granule satisfies a test on stack and granule: plates, map pages and chunks (R350,
R356). -/
def State.storageUnits (s : State) (f : Nat → Nat → Bool) : List Nat :=
  (((s.tierPlates none 1).filter (fun p => runHas (storeGran p.2.store) (granules p.2.clen) (f (storeStack p.2.store)))).map
      (fun p => plateUnit 1 p.1))
    ++ ((s.ti.pages.filter (fun p => p.2.tier == 1 && runHas (storeGran p.2.store) 64 (f (storeStack p.2.store)))).map
      (fun p => pageUnit p.1))
    ++ ((s.ti.chunks.filter (fun c => runHas c.granule 32768 (f c.stack))).map (fun c => chunkUnit c.stack c.granule))

/-- The units of one field's change from its value in force to a new one, as the owning chapter gives them. -/
def State.planUnits (s : State) (key val : Nat) : List (Nat × Nat) :=
  let slot := keySlot key
  let f := keyField key
  let e := keyElem key
  let cur := s.field slot f e
  let us : List Nat :=
    if f = fDirShare then List.replicate ((s.dirOf slot).length - 65536 * val) countUnit
    else if f = fT0Part then List.replicate (s.occupied slot - 256 * val) countUnit
    else if f = fTierShare then
      let w := fun (x : MapEnt) => if e = 0 then granules x.clen * 64 else 4096
      let l := (s.tierPlates (some slot) (e + 1)).map (fun p => (plateUnit (e + 1) p.1, w p.2))
      excess (sumOf (l.map Prod.snd) + (if e = 0 then s.pinned slot else 0) - mib * val) l
    else if f = fStagingPool then
      if cur < val then
        (s.ti.t0.filter (fun p => decide (40960 + 256 * cur ≤ p.1) && decide (p.1 < 40960 + 256 * val) && !p.2.isPage)).map
          (fun p => plateUnit 0 (plateKey p.2.slot p.2.num))
      else
        let granted := (s.claims.filter Claim.granted).map Claim.bytes
        List.replicate (excess (sumOf granted - mib * val) (granted.reverse.map (fun b => (0, b)))).length countUnit
    else if f = fRetainMask then
      s.storageUnits (fun k g => 32 * k + granPc g == e && cur.testBit (granSeg g) && !val.testBit (granSeg g))
    else if f = fYokeMib then
      s.storageUnits (fun _ g => decide (stackGranules ≤ g + 16384 * max cur val) && decide (g + 16384 * min cur val < stackGranules))
    else if f = fYokeT1 then
      if cur = val then [] else (s.tierPlates (some slot) 1).map (fun p => plateUnit 1 p.1)
    else if f = fT2Permil then
      match s.pop with
      | none => []
      | some p =>
        let moves := fun (b : Nat) => decide (min (p.bT2 cur) (p.bT2 val) < b) && decide (b ≤ max (p.bT2 cur) (p.bT2 val))
        ((s.ti.map.filter (fun x => decide (2 ≤ x.2.tier) && !x.2.remote && moves (faBlock x.2.store))).map
          (fun x => plateUnit x.2.tier x.1))
          ++ ((s.ti.pages.filter (fun x => x.2.tier == 2 && moves (faBlock x.2.store))).map (fun x => pageUnit x.1))
    else []
  us.map (fun u => (f, u))

/-- Whether a field's units leave T0 (R98, R437). -/
def evicts (f : Nat) : Bool := f == fT0Part || f == fStagingPool

/-- Whether the units of a plan are only counted as they go (R98, R325). -/
def counts (u : Nat × Nat) : Bool := u.1 == fDirShare || (u.1 == fStagingPool && u.2 == countUnit)

/-- The most units of a field in one slice (R98, R145, R325, R350, R356, R437). -/
def sliceSize (f : Nat) : Nat :=
  if f = fDirShare then 4096 else if evicts f then 64 else if f = fYokeT1 then 256 else 16

/-! ## Moving one unit -/

/-- Begin to evict a resident plate for a plan: it leaves at the boundary, a dirty one to the destination of R125 (R98,
R437). -/
def State.planEvict (s : State) (slot plate : Nat) : State :=
  match s.ent slot plate with
  | none => s
  | some e =>
    if !e.res0 || e.moving then s
    else if s.leavesClean (useOf slot false plate) then s.setEnt slot plate { e with moving := true }
    else (s.writeOut slot plate e true 4).getD s

/-- The damaged plates of a map page. -/
def State.pageDamaged (s : State) (key : Nat) : Nat :=
  (s.ti.map.filter (fun p => pageKey (p.1 / 2 ^ 36) (p.1 % 2 ^ 36 / 256) == key && p.2.damaged)).length

/-- Begin to move a map page's home to another run of T1, or from T2 to another slot of T2: its copy is written, and its home switches
at the boundary that ends the slice (R93, R127). A page that is not in T0 is read first (R466). False where it has no room. -/
def State.movePage (s : State) (key : Nat) : State × Bool :=
  match s.ti.pages.get? key with
  | none => (s, true)
  | some pg =>
    let slot := key / 2 ^ 28
    if s.ti.pageMoves.has key then (s, true)
    else
      let read := fun (s : State) =>
        if pg.t0Slot.isSome then (s, false)
        else
          let n := s.pageDamaged key
          let s := (if pg.tier = 1 then s.charge slot 4 (storeStack pg.store) 64
            else s.charge slot 7 (faEngine pg.store) 72).readPage key pg
          (s, decide (n < s.pageDamaged key))
      if pg.tier = 1 then
        match s.pageRun (storeStack pg.store) with
        | none => (s, false)
        | some a =>
          let (s, bad) := read s
          let s := (s.charge slot 4 (storeStack a) 64).writeRun (storeStack a) (storeGran a) (s.pageBytes key) []
          ({ s with ti.pageMoves := s.ti.pageMoves.set key (1, a, bad) }, true)
      else
        let (t, bad) := read s
        let cw := fun (_ w : Nat) =>
          ({ payload := t.pageBytes key, ident := key % 2 ^ 28, hdom := t.domF slot fDomHdom, kind := 2, version := 0,
             coding := cRaw, elem := 0, table := noTable, clen := 4096,
             encrypted := (t.doms.get? slot).any (fun d => d.key.isSome), wseq := w, bad := false } : FSlot)
        match t.flashPut 0 cw with
        | none => (s, false)
        | some (s, a) => ({ s.charge slot 7 (faEngine a) 83 with ti.pageMoves := s.ti.pageMoves.set key (2, a, bad) }, true)

/-- The homes of map pages switch at the boundary that ends their slice; the old storage is free at the boundary after (R127). A page
that has gone or moved otherwise keeps what it has. -/
def State.switchPages (s : State) : State :=
  { s with ti.pageMoves := [] }.over s.ti.pageMoves (fun s m =>
    match s.ti.pages.get? m.1 with
    | some pg =>
      if pg.tier = m.2.1 then
        { s.freeAt (s.str.count + 1) pg.tier pg.store 4096 with
          ti.pages := s.ti.pages.set m.1 { pg with store := m.2.2.1 } }.touchMap m.1
      else s.freeAt (s.str.count + 1) m.2.1 m.2.2.1 4096
    | none => s.freeAt (s.str.count + 1) m.2.1 m.2.2.1 4096)

/-- Copy the next 64 lines of a chunk to its new place, found at its first slice (R350): where it goes back, the place from which it
came, if that is free. The lines on a retired pseudo-channel are written with the poisoned pattern (R352). -/
def State.copyChunk (s : State) (k g : Nat) (back : Option (Nat × Nat)) : State :=
  match s.ti.chunks.find? (fun c => c.stack == k && c.granule == g) with
  | none => s
  | some c =>
    let free := fun (x : Nat × Nat) => (s.runs x.1).all (fun u => decide (x.2 + 32768 ≤ u.1) || decide (u.1 + u.2 ≤ x.2))
    let place := match c.copyTo with
      | some x => some x
      | none => match back.filter free with
        | some x => some (x.1, x.2, 0)
        | none => (s.allocChunk k).map (fun (x : Nat × Nat) => (x.1, x.2, 0))
    match place with
    | none => s
    | some (k', g', n) =>
      let slot := (if c.isExtent then (s.ti.extents.get? c.owner).map Extent.slot
        else (s.opr.binds.get? c.owner).map Binding.slot).getD 0
      let s := (s.charge slot 4 k 64).charge slot 4 k' 64
      let s := s.over (rangeFrom n 64) (fun s i =>
        if s.pcOff k (granPc (g + i)) then s.writeLine (dramLine k' (g' + i)) (zeros 64) true
        else match s.readLine (dramLine k (g + i)) with
        | (s, .good d) => s.writeLine (dramLine k' (g' + i)) d false
        | (s, .poison d) => s.writeLine (dramLine k' (g' + i)) d true
        | (s, .uncorr d _) => s.writeLine (dramLine k' (g' + i)) d true)
      let step := fun (x : Chunk) =>
        if x.stack = k ∧ x.granule = g then { x with copyTo := some (k', g', n + 64) } else x
      { s with ti.chunks := s.ti.chunks.map step }

/-- The destination of a plate that a shrinking share sends out of its tier (R125, R126, R145). -/
def State.shareDest (s : State) (slot tier clen : Nat) : Option Nat :=
  let hi := s.domF slot fPlaceHighest
  let lo := s.domF slot fPlaceLowest
  ((rangeFrom 1 3).filter (fun t => decide (hi ≤ t) && decide (t ≤ lo) && t != tier)).find? (fun t => s.room slot t clen)

/-- Start the move of one unit of a plan's slice, or its move back; one whose move has not ended goes on. -/
def State.startUnit (s : State) (u : Nat × Nat) (back : Bool) : State :=
  let (f, k) := u
  let key := k % 2 ^ 50
  let slot := key / 2 ^ 36
  let plate := key % 2 ^ 36
  if 2 ^ 61 ≤ k then (if k < 2 ^ 62 then (s.movePage (k - 2 ^ 61)).1 else s)
  else if isChunk k then s.copyChunk (chunkAt k).1 (chunkAt k).2 (chunkBack k)
  else if evicts f then (if back then s else s.planEvict slot plate)
  else match s.ent slot plate with
    | none => s
    | some e =>
      if e.moving ∨ (f = fYokeT1 ∧ s.planned slot fYokeT1 0 = 0 ∧ ¬back) then s
      else
        let tier := if f = fTierShare then
            (if back then k / 2 ^ 50 else (s.shareDest slot (k / 2 ^ 50) (s.movedLen slot plate e)).getD e.tier)
          else k / 2 ^ 50
        if tier = e.tier ∧ f = fTierShare then s else (s.moveHome slot plate tier true).getD s

/-- What became of a unit of the slice at the boundary that ends it: it switched (with its key for the way back), a write has it moved
again (R94), or more slices are due. -/
inductive UnitEnd where
  | moved (damaged : Bool) (unit : Nat × Nat)
  | again
  | more
deriving DecidableEq, Repr

/-- Whether the unit of a plate has nothing left to move: its home has left the tier, or the field moves nothing. -/
def State.unitGone (s : State) (f k slot : Nat) (e : MapEnt) : Bool :=
  e.tier != k / 2 ^ 50 || e.remote || (f == fYokeT1 && s.planned slot fYokeT1 0 == 0)

/-- End the slice of one unit. -/
def State.endUnit (s : State) (u : Nat × Nat) (back : Bool) : State × UnitEnd :=
  let (f, k) := u
  let key := k % 2 ^ 50
  let slot := key / 2 ^ 36
  let plate := key % 2 ^ 36
  if 2 ^ 61 ≤ k then match s.ti.pageMoves.get? (k - 2 ^ 61) with
    | some m => (s, .moved m.2.2 u)
    | none => (s, if s.ti.pages.has (k - 2 ^ 61) then .more else .moved false u)
  else if isChunk k then
    match s.ti.chunks.find? (fun c => (c.stack, c.granule) == chunkAt k) with
    | none => (s, .moved false u)
    | some c => match c.copyTo with
      | some (k', g', n) =>
        if n < 32768 then (s, .more)
        else
          let bad := (List.range 32768).any (fun i => s.synOf (dramLine k' (g' + i)) == zSyn)
          ({ s with ti.chunks := s.ti.chunks.map (fun x => if x.stack = c.stack ∧ x.granule = c.granule then
                { x with stack := k', granule := g', copyTo := none } else x) },
            .moved bad (f, movedChunk k' g' c.stack c.granule))
      | none => (s, .more)
  else if back && evicts f then (s, .moved false u)
  else match s.ti.switches.find? (fun x => x.key == key) with
    | some x =>
      -- a lane may still have to pass its encode (R193); another's move comes first
      if !x.plan || s.verifying key then (s, .more)
      else (s, if x.clean then .moved (x.damaged || !(s.ent slot plate).any (fun e => !e.damaged)) u else .again)
    | none => match s.ent slot plate with
      | none => (s, .moved false u)
      | some e =>
        if evicts f then
          if !e.res0 then (s, .moved e.damaged u)
          else
            let s := s.setEnt slot plate { e with moving := false }
            if e.moving && s.leavesClean (useOf slot false plate) then
              (s.leaveT0 e.t0Slot (useOf slot false plate), .moved e.damaged u)
            else (s, if e.moving then .again else .more)
        else (s, if !back && s.unitGone f k slot e || (back && f == fTierShare && e.tier == k / 2 ^ 50)
          || (back && f != fTierShare && e.tier != k / 2 ^ 50) then .moved e.damaged u else .more)

/-! ## Slices -/

/-- The victims that the clock gives up to a T0_PART_MIB slice (R124, R437), each marked as moving so that the clock goes
on. -/
def State.partVictims (s : State) (slot : Nat) : Nat → State × List (Nat × Nat)
  | 0 => (s, [])
  | n + 1 =>
    let (s, us) := s.partVictims slot n
    match s.victim slot with
    | (s, none) => (s, us)
    | (s, some t) => match s.ti.t0.get? t with
      | none => (s, us)
      | some u =>
        if u.isPage then (s.leaveT0 t u, us ++ [(fT0Part, countUnit)])
        else (s.planEvict slot u.num, us ++ [(fT0Part, plateUnit 0 (plateKey slot u.num))])

/-- Recall directory entries chosen by the clock (R299, R325). -/
def State.recallSome (s : State) (slot h : Nat) : Nat → State
  | 0 => s
  | n + 1 => match s.dirVictim slot with
    | some (l, v) =>
      ({ s with sh.dirHand := s.sh.dirHand.set slot (l + 1) }.recallEntry slot l v (some h)).recallSome slot h n
    | none => s

/-- The units of a plan's next slice: of the field of its first unit, up to its slice size; for T2_PERMIL up to 16 on each
engine die (R381); a chunk alone (R350). -/
def State.nextSlice (s : State) (todo : List (Nat × Nat)) : List (Nat × Nat) :=
  match todo with
  | [] => []
  | u :: _ =>
    if isChunk u.2 then [u]
    else
      let l := todo.filter (fun x => x.1 == u.1 && !isChunk x.2)
      if u.1 = fT2Permil then
        let die := fun (x : Nat × Nat) => match s.ti.map.get? (x.2 % 2 ^ 50) with
          | some e => faEngine e.store
          | none => 0
        (List.range 4).flatMap (fun e => (l.filter (fun x => die x == e)).take 16)
      else l.take (sliceSize u.1)

/-- Take units out of a list, each once. -/
def takeOut (l : List (Nat × Nat)) (us : List (Nat × Nat)) : List (Nat × Nat) := us.foldl (fun l u => l.erase u) l

/-- Run one slice of a plan (R93). -/
def State.planSlice (s : State) (h : Nat) (p : Plan) (back : Bool) : State × Plan :=
  let us := s.nextSlice p.todo
  match us.head? with
  | none => (s, p)
  | some u =>
    if counts u then (if u.1 = fDirShare ∧ ¬back then s.recallSome p.slot h us.length else s, { p with slice := us })
    else if u.1 = fT0Part ∧ ¬back then
      let (s, vs) := s.partVictims p.slot us.length
      (s, { p with todo := takeOut p.todo (us.take vs.length), slice := vs })
    else
      let s := s.over us (fun s u => s.startUnit u back)
      (s, { p with todo := takeOut p.todo us, slice := us })

/-- The counted units of a plan that are still to go: entries beyond the new share, claims that do not fit the new pool. -/
def State.countLeft (s : State) (p : Plan) (u : Nat × Nat) : Nat :=
  match p.sets.find? (fun c => keyField c.1 == u.1) with
  | none => 0
  | some (_, v) =>
    if u.1 = fDirShare then (s.dirOf p.slot).length - 65536 * v
    else
      let granted := (s.claims.filter Claim.granted).map Claim.bytes
      (excess (sumOf granted - mib * v) (granted.reverse.map (fun b => (0, b)))).length

/-- End a plan's slice at the boundary (R93, R94, R97). -/
def State.endSlice (s : State) (p : Plan) (back : Bool) : State × Plan :=
  match p.slice.head? with
  | none => (s, p)
  | some u =>
    if counts u then
      let left := if back then 0 else s.countLeft p u
      let mine := p.todo.filter (fun x => x == u)
      let gone := if back then p.slice.length else mine.length - left
      (s, { p with todo := takeOut p.todo (List.replicate gone u), slice := [], moved := p.moved ++ List.replicate gone u })
    else
      p.slice.foldl (fun (a : State × Plan) u =>
        let (s, p) := a
        match s.endUnit u back with
        | (s, .moved d u) =>
          let p := { p with moved := p.moved ++ [u], damaged := p.damaged + (if d && !back then 1 else 0) }
          (s, p)
        | (s, .more) => (s, { p with todo := u :: p.todo })
        | (s, .again) =>
          let k := u.2 % 2 ^ 50
          let p := { p with again := p.again.set k (p.again.getD k 0 + 1) }
          (s, { p with todo := p.todo ++ [if u.1 = fT0Part then (fT0Part, countUnit) else u] }))
        (s, { p with slice := [] })

/-! ## States (R93, R96) -/

/-- The plan of an operation. -/
def Op.plan (op : Op) : Option Plan :=
  match op.body with
  | .plan p => some p
  | _ => none

/-- The boundary's step of a plan: its slice ends, then at most one transition (R93, R96). -/
def State.planStep (s : State) (h : Nat) : State :=
  match s.ops.tab.get? h with
  | none => s
  | some op =>
    match op.plan with
    | none => s
    | some p =>
      let back := op.st == opReverting
      let ran := !p.slice.isEmpty
      let (s, p) := s.endSlice p back
      let done := if op.st = opMigrating ∨ op.st = opReverting then op.total - p.todo.length else op.done
      let put := fun (s : State) (st : Nat) (p : Plan) (done total : Nat) (status : Nat) (changed : Bool) =>
        s.modOp h (fun o => { o with st := st, done := done, total := total, status := status, body := .plan p,
                                     r1 := if st = opPlanned then o.r1 else p.damaged, ran := changed || ran })
      if op.st = opPlanned ∨ op.st = opShadow then
        if op.cancel then put s opAbandoned p op.done op.total stAborted true
        else if op.st = opPlanned then put s opShadow p op.done op.total stOk true
        else if p.todo.isEmpty then put s opFenced { p with fenced := s.str.count } op.done op.total stOk true
        else put s opMigrating p op.done op.total stOk true
      else if op.st = opMigrating then
        -- a slice has finished once its last encode has passed
        if op.cancel ∧ ¬p.todo.any (fun u => s.ti.switches.any (fun x => x.plan && x.key == u.2 % 2 ^ 50 && decide (u.2 < 2 ^ 60))) then
          put s opReverting { p with todo := p.moved.reverse, moved := [], fenced := s.str.count, again := [] } 0
            p.moved.length stOk true
        else if p.todo.isEmpty then put s opFenced { p with fenced := s.str.count } op.total op.total stOk true
        else put s op.st p done op.total stOk false
      else if op.st = opReverting then
        put s op.st { p with fenced := if ran then s.str.count else p.fenced } done op.total stOk false
      else s

/-- Run the plans' slices of the new stride; `runs` says of which slots slices run in it (R521). -/
def State.planSlices (s : State) (runs : Option Nat → Bool) : State :=
  s.over s.plans (fun s x =>
    if (x.2.1.st = opMigrating ∨ x.2.1.st = opReverting) ∧ ¬x.2.2.todo.isEmpty
        ∧ runs (if x.2.2.scope = 1 then some x.2.2.slot else none) then
      let (s, p) := s.planSlice x.1 x.2.2 (x.2.1.st == opReverting)
      s.modOp x.1 (fun o => { o with body := .plan p })
    else s)

/-! ## Commands and events -/

/-- Take a CONFIG_PLAN block from the port (R84, R92, R95): reject it, report it, or start its plan. BUSY_RETRY for a plan that runs already
comes before EXPECT_GEN, STRICT and DRY_RUN are looked at (DESIGN CHOICE, assumption 109). -/
def State.takePlan (s : State) (o : Origin) (p : Pkt) : State :=
  let c : Cmd := longCmd 0x0811 false .any (fun s _ _ => (s, .held))
  let answer := fun (s : State) (st d r0 r1 : Nat) (rep : Bool) (inl : List Byte) =>
    s.reply o { mkReply s o 0x0811 p st d r0 r1 with report := rep } inl
  match s.checkBlock o true p with
  | .bad st d => answer s st d 0 0 false []
  | .ok dom slot es =>
    if s.plans.any (fun x => x.2.2.scope == (if dom then 1 else 0) && x.2.2.slot == slot) then answer s stBusyRetry 0 0 0 false []
    else
      let mg := match o with
        | .mgmt _ _ => true
        | .qp _ _ => false
      let (_, sets, cs) := s.clampBlock mg slot es
      match s.heldBack p cs with
      | some (st, d, r0) =>
        if st = stBusyRetry then answer s st d r0 0 false []
        else
          let (s, rep, inl) := s.report o p (reportBytes cs p.p3.toNat 0 st)
          answer s st d r0 cs.length rep inl
      | none =>
        if s.opLimit (s.opSlot c o p) then answer s stBusyRetry 0 0 0 false []
        else
          let todo := (sets.flatMap (fun x => s.planUnits x.1 x.2)).foldl (fun (l : List (Nat × Nat)) u =>
            if l.contains u && u.2 != countUnit then l else l ++ [u]) []
          let plan : Plan := { scope := if dom then 1 else 0, slot := slot, sets := sets, todo := todo, slice := [],
                               moved := [], again := [], damaged := 0, fenced := 0, cancelling := false }
          let (s, rep, inl) := s.report o p (reportBytes cs p.p3.toNat 0 stInProgress)
          (s.logLocked dom slot cs).acceptOp c o p (.plan plan) todo.length 0 cs.length opPlanned rep inl

/-- CONFIG_PLAN: held as a CONFIG_WRITE is (R86, R87). -/
def cConfigPlan : Cmd := longCmd 0x0811 false .any (fun s o p =>
  if s.portClosed || !s.cfg.heldBlocks.isEmpty then
    ({ s with cfg.heldBlocks := s.cfg.heldBlocks ++ [{ o := o, plan := true, p := p, head := s.q.headAfter }] }, .held)
  else (s.takePlan o p, .held))

/-- Whether an access that a stride before the given one admitted is still outstanding. -/
def State.oldAccess (s : State) (n : Nat) : Bool := s.sh.waiting.any (fun x => decide (x.2.stride < n))

/-- What a T0 slot that a growing staging pool takes still holds at its commit is held elsewhere in the resident region, a plate that
came after the plan was accepted with its lines (R98; DESIGN CHOICE, assumption 54). -/
def State.clearPool (s : State) (old new : Nat) : State :=
  s.over (s.ti.t0.filter (fun x => decide (40960 + 256 * old ≤ x.1) && decide (x.1 < 40960 + 256 * new))) (fun s x =>
    match s.freeT0 with
    | none => s
    | some t =>
      let s := s.over (List.range 64) (fun s i => match s.readLine (t0Line x.1 i) with
        | (s, .good d) => s.writeLine (t0Line t i) d false
        | (s, .poison d) => s.writeLine (t0Line t i) d true
        | (s, .uncorr d _) => s.writeLine (t0Line t i) d true)
      let s := { s.dropT0 x.1 with ti.t0 := (s.dropT0 x.1).ti.t0.set t x.2 }
      if x.2.isPage then
        { s with ti.pages := s.ti.pages.modify (pageKey x.2.slot x.2.num) (fun p => { p with t0Slot := some t }) }
      else s.modEnt x.2.slot x.2.num (fun e => { e with t0Slot := t }))

/-- Whether this boundary takes a FENCED plan to COMMITTED, or a REVERTING one whose units are all back to ABANDONED (R93): it comes
after the one at which the last unit switched, and no access of the layout that is left is outstanding. -/
def State.planEnds (s : State) (op : Op) (p : Plan) : Bool :=
  decide (p.fenced < s.str.count) && !s.oldAccess p.fenced
    && (op.st == opFenced || (op.st == opReverting && p.todo.isEmpty && p.slice.isEmpty))

/-- The plans that end at this boundary: their fields take effect by the rows PLAN_COMMIT and PLAN_ABANDON of this stride (assumption
54). -/
def State.plansDue (s : State) : State :=
  { s with atBoundary := s.atBoundary ++ ((s.plans.filter (fun x => s.planEnds x.2.1 x.2.2)).map (fun x =>
      (if x.2.1.st = opFenced then 11 else 12, x.1, 0))) }

/-- A FENCED plan becomes COMMITTED: its fields take their values (R93, R97). -/
def State.commitPlan (s : State) (h : Nat) : State :=
  match s.takeDue 11 h with
  | none => s
  | some s =>
  match s.ops.tab.get? h with
  | none => s
  | some op =>
    match op.plan with
    | none => s
    | some p =>
      if op.st ≠ opFenced then s
      else
        let pool := s.dev fStagingPool
        let s := { s with cfg.fields := p.sets.foldl (fun (m : FMap Nat) (c : Nat × Nat) => m.set c.1 c.2) s.cfg.fields }
        let s := s.clearPool pool (s.dev fStagingPool)
        let s := s.modOp h (fun o => { o with st := opCommitted, status := if p.damaged = 0 then stOk else stDataError })
        s.setCaps.writeRecord h

/-- A REVERTING plan becomes ABANDONED (R93). -/
def State.abandonPlan (s : State) (h : Nat) : State :=
  match s.takeDue 12 h with
  | none => s
  | some s =>
  match s.ops.tab.get? h with
  | none => s
  | some op =>
    match op.plan with
    | none => s
    | some _ =>
      if op.st ≠ opReverting then s
      else (s.modOp h (fun o => { o with st := opAbandoned, status := stAborted })).writeRecord h

/-- CONFIG_PLAN. -/
def execConfigPlan (o : Origin) (p : Pkt) (s : State) : Host.Outcome State Fault Refusal :=
  .next (s.packet cConfigPlan none o p)

/-- CLAMP_REPORT_WRITE_FAILURE: a block whose clamp report cannot be written is taken as it would have been, with REPORT clear
(R84): as one that asks for no report. -/
def execClampReportWriteFailure (o : Origin) (plan : Bool) (p : Pkt) (s : State) : Host.Outcome State Fault Refusal :=
  .next (s.packet (if plan then cConfigPlan else cConfigWrite) none o
    (if p.p2.toNat % 64 = 0 then { p with p2 := 0 } else p))

/-- HELD_CONFIG_BLOCK_TAKE. -/
def execHeldConfigBlockTake (s : State) : Host.Outcome State Fault Refusal :=
  .next (s.takeHeld State.takePlan)

/-- PLAN_COMMIT. -/
def execPlanCommit (handle : Nat) (s : State) : Host.Outcome State Fault Refusal := .next (s.commitPlan handle)

/-- PLAN_ABANDON. -/
def execPlanAbandon (handle : Nat) (s : State) : Host.Outcome State Fault Refusal := .next (s.abandonPlan handle)

end Sys2Proof.Machine
end

