-- ==== Sys2Proof/Machine/DramRows.lean ====
section
/-! DEFINITION. The rows of the DRAM stacks (R328 to R353): line reads, command-address parity, retraining, self-refresh, the copy of
a spare bank, and what a retirement does at the boundary. -/

namespace Sys2Proof.Machine

/-! ## The controller (R332 to R336) -/

/-- The command opportunities of a stride: four in a line-time (DESIGN CHOICE, assumption 113). -/
def opportunities : Nat := 800

/-- The hub cycles that a request has waited at opportunity `t` after the boundary that ends stride `n` (assumption 113). -/
def DramReq.waited (r : DramReq) (n t : Nat) : Nat := (n - r.since) * 1024 + t * 1024 / opportunities

/-- Whether a request is a row hit. -/
def Pc.hit (c : Pc) (r : DramReq) : Bool :=
  match c.rows.get? (granBank r.gran) with
  | some x => x.1 == granRow r.gran
  | none => false

/-- Whether a bank takes no further row hit: 16 column commands in a row, and a request for another row that has waited 256 hub cycles
(R334). -/
def Pc.capped (c : Pc) (n t b : Nat) : Bool :=
  decide (16 ≤ (c.rows.getD b (0, 0)).2)
    && c.queue.any (fun r => granBank r.gran == b && !c.hit r && decide (256 ≤ r.waited n t))

/-- The first of some banks in rotating order, from the bank after the one last served (R333). -/
def firstBank (last : Nat) (bs : List Nat) : Option Nat :=
  bs.foldl (fun (m : Option Nat) b => match m with
    | none => some b
    | some x => if (b + 47 - last) % 48 < (x + 47 - last) % 48 then some b else some x) none

/-- The oldest of some requests in the first of their banks. -/
def firstOf (last : Nat) (rs : List DramReq) : Option DramReq :=
  match firstBank last (rs.map (fun r => granBank r.gran)) with
  | some b => rs.find? (fun r => granBank r.gran == b)
  | none => none

/-- A command that a controller issues: a column command of class 2 or 3, a precharge of a bank or an activate (R333). -/
inductive DramCmd where
  | column (cls : Nat) (r : DramReq)
  | precharge (bank : Nat)
  | activate (r : DramReq)
deriving DecidableEq, Repr

/-- The banks that class 4 of R333 precharges: open rows that no request waits for, or whose bank's oldest request waits for another,
and those that take no further row hit. -/
def Pc.closable (c : Pc) (n t : Nat) : List Nat :=
  (c.rows.map Prod.fst).filter (fun b =>
    let rs := c.queue.filter (fun r => granBank r.gran == b)
    !rs.any c.hit || !(rs.head?.any c.hit) || c.capped n t b)

/-- The command picked at an opportunity (R333). -/
def Pc.pick (c : Pc) (n t : Nat) : Option DramCmd :=
  let last := fun (i : Nat) => c.served.getD i 47
  let hits := c.queue.filter (fun r => c.hit r && !c.capped n t (granBank r.gran))
  match firstOf (last 0) (hits.filter (fun r => decide (512 ≤ r.waited n t))) with
  | some r => some (.column 2 r)
  | none =>
    let best := hits.foldl (fun (m : Nat) r => min m r.rank) 2
    match firstOf (last 1) (hits.filter (fun r => r.rank == best)) with
    | some r => some (.column 3 r)
    | none => match firstBank (last 2) (c.closable n t) with
      | some b => some (.precharge b)
      | none => (firstOf (last 3) (c.queue.filter (fun r => !c.rows.has (granBank r.gran)))).map .activate

/-- An activate: it is counted for its bank, and the LFSR advances and may mark the bank for refresh management, as the count that
reaches the stack's declared threshold does (R339). -/
def Pc.open (c : Pc) (b row raa log2 : Nat) : Pc :=
  let x := Config.lfsrNext c.lfsr
  let n := c.acts.getD b 0 + 1
  { c with
    rows := c.rows.set b (row, 0)
    lfsr := x
    acts := c.acts.set b n
    marks := if !c.marks.contains b && (Config.rfmDraw x log2 || (raa != 0 && decide (raa ≤ n))) then c.marks ++ [b] else c.marks }

/-- Issue a command. -/
def Pc.issue (c : Pc) (raa log2 : Nat) : DramCmd → Pc
  | .column cls r =>
    let b := granBank r.gran
    { c with
      queue := c.queue.erase r
      rows := c.rows.modify b (fun x => (x.1, x.2 + 1))
      served := c.served.set (cls - 2) b }
  | .precharge b => { c with rows := c.rows.del b, served := c.served.set 2 b }
  | .activate r => { c.open (granBank r.gran) (granRow r.gran) raa log2 with served := c.served.set 3 (granBank r.gran) }

/-- Issue commands from opportunity `t` on, while there is one to issue; the second counts the activates. -/
def Pc.play (raa log2 n t : Nat) : Nat → Pc → Pc × Nat
  | 0, c => (c, 0)
  | fuel + 1, c => match c.pick n t with
    | none => (c, 0)
    | some x =>
      let (c, k) := (c.issue raa log2 x).play raa log2 n (t + 1) fuel
      (c, match x with
        | .activate _ => k + 1
        | _ => k)

/-- The writes buffered for more than a stride drain at its last opportunities (R335). -/
def Pc.drain (c : Pc) (n : Nat) : Pc :=
  { c with
    wbuf := c.wbuf.filter (fun e => decide (n ≤ e.2))
    queue := c.queue ++ (c.wbuf.filter (fun e => decide (e.2 < n))).map (fun e => ⟨e.1, n, 2⟩) }

/-! ## Maintenance (R337 to R340) -/

/-- Plan the maintenance slot of a stride: refreshes at their postponement limit, refresh management, other refreshes due and a training
step, in this order, each where the slot has its line-times (R32, R337); the second counts the refresh management commands. In
self-refresh the stack refreshes itself (R348), and a retired pseudo-channel needs nothing. A refresh that is due is put off only where
the slot has no room (DESIGN CHOICE, assumption 113). -/
def Pc.maintain (rate raa : Nat) (pass : Bool) (c : Pc) : Pc × Nat :=
  if c.st = 3 then (c, 0)
  else if c.st = 1 then ({ c with steps := c.steps + (if pass then 1 else 0) }, 0)
  else
    let owed := c.owed + rate
    let behind := owed / 125 - c.issued
    let late := min (behind - 191) 18
    let rfm := min c.marks.length (18 - late)
    let due := min (behind - late) (18 - late - rfm)
    let left := 37 - 2 * (late + rfm + due)
    let wants := pass || decide (0 < c.steps) || decide (0 < c.training)
    let step := wants && decide (8 ≤ left)
    let closed := c.marks.take rfm ++ (rangeFrom c.issued (late + due)).map (· % 48)
    let acts := (c.marks.take rfm).foldl (fun (m : FMap Nat) b => m.set b (m.getD b 0 - (if raa = 0 then m.getD b 0 else raa))) c.acts
    ({ c with
       owed := owed
       issued := c.issued + late + due
       marks := c.marks.drop rfm
       acts := acts
       rows := c.rows.filter (fun x => !closed.contains x.1)
       training := if step then c.training - 1 else c.training
       steps := if !step then c.steps + (if pass then 1 else 0)
         else if 0 < c.training then c.steps + (if pass then 1 else 0) else c.steps - (if pass then 0 else 1)
       room := if step then left - 8 else left }, rfm)

/-- A controller's part of a boundary that ends stride `n`: it issues what has reached it, then plans the slot of the new stride. An
access that waits in self-refresh has ended it, and the first slot after it trains (R349). -/
def Pc.boundary (rate raa log2 n : Nat) (pass : Bool) (c : Pc) : Pc × Nat × Nat :=
  if c.st = 3 then ({ c with queue := [], rows := [], took := 0, lost := 0 }, 0, 0)
  else
    let c := if c.st = 1 ∧ ¬c.queue.isEmpty then { c with st := 0, steps := c.steps + 1 } else c
    let c := c.drain n
    let (c, acts) := c.play raa log2 n 0 (opportunities - c.lost)
    let (c, rfm) := { c with took := 0, lost := 0 }.maintain rate raa pass
    (c, acts, rfm)

/-- The stacks whose temperature readout reports above 85 °C (R338, R563). -/
def State.hotStacks (s : State) : Nat :=
  bitMask ((List.range 12).filter (fun k => decide (1360 < (s.pmu.temps.getD (36 + k) (0, 0)).1.toInt)))

/-- Whether no domain holds a grant of a stack in this stride. -/
def State.noGrant (s : State) (k : Nat) : Bool :=
  s.str.grant.all (fun p => !(p.1 % 2048 == 4 * 256 + k && p.2 != 0))

/-- The pseudo-channels that retain part of their segments and have only refreshed and trained so far. -/
def State.partMasks (s : State) : List Nat :=
  (s.cfg.fields.map Prod.fst).filterMap (fun x =>
    let e := x % 2048
    if x == fkey 0 fRetainMask e ∧ s.field 0 fRetainMask e ≠ 0xFF ∧ ¬s.dram.pcs.has e then some e else none)

/-- The DRAM controllers' strides (R332 to R340): the temperature readouts are sampled, and every controller runs. A controller with
whole retention, no waiting access and no mark only refreshes and trains, which `State.freshPc` says. -/
def State.controllers (s : State) : State :=
  let n := s.str.count - 1
  let pass := decide (0 < s.dram.pass)
  let hot := s.hotStacks
  let s := s.over s.partMasks (fun s e => s.modPc (e / 32) (e % 32) id)
  let log2 := s.dev fRfmSample
  let s := { s with
    dram.hot := hot
    dram.strides := s.dram.strides + 1
    dram.hotStrides := (bitsSet hot 12).foldl (fun (m : FMap Nat) k => m.set k (m.getD k 0 + 1)) s.dram.hotStrides
    dram.granted := ((List.range 12).filter (fun k => !s.noGrant k)).foldl (fun (m : FMap Nat) k => m.set k s.str.count) s.dram.granted
    dram.step := pass
    dram.pass := s.dram.pass - 1 }
  let ran : List (Nat × Pc × Nat × Nat) := s.dram.pcs.map (fun (x : Nat × Pc) =>
    (x.1, x.2.boundary (refreshRate (hot.testBit (x.1 / 32)) (bitsSet (s.field 0 fRetainMask x.1) 8).length)
      (Config.raaThreshold (x.1 / 32)) log2 n pass))
  let s := { s with
    dram.pcs := ran.map (fun (x : Nat × Pc × Nat × Nat) => (x.1, x.2.1))
    dram.act := ran.foldl (fun (a : U64) (x : Nat × Pc × Nat × Nat) => cntAdd a x.2.2.1) s.dram.act
    dram.rfm := ran.foldl (fun (a : U64) (x : Nat × Pc × Nat × Nat) => cntAdd a x.2.2.2) s.dram.rfm }
  -- a delay that carries an access past its bound is an overrun (R23, R336)
  let late := ran.filter (fun x => x.2.1.queue.any (fun r => decide (r.since < n)))
  s.over late (fun s _ => { s.logE 0x0002 none 0 n with str.overrun := true, str.overrunCnt := cntAdd s.str.overrunCnt 1 })

/-! ## The rows -/

/-- Whether a pseudo-channel exists. -/
def pcExists (k p : Nat) : Bool := decide (k < 12) && decide (p < 32)

/-- Whether a granule's segment is refreshed: retained by the mask in force (R346, R351). -/
def State.refreshed (s : State) (k g : Nat) : Bool := (s.field 0 fRetainMask (32 * k + granPc g)).testBit (granSeg g)

/-- A read of a DRAM line reaches its controller, and the cells have inverted some stored bits since they were written: the check
word is applied, and an uncorrectable line is handled by what holds it (R351, R464, R466). -/
def State.dramRead (s : State) (k g : Nat) (flips : List Nat) : State :=
  let l := dramLine k g
  if k ≥ 12 ∨ stackGranules ≤ g ∨ s.pcOff k (granPc g) then s
  else if !s.refreshed k g then { s with dram.unmapped := cntAdd s.dram.unmapped 1 }
  else
    let fs := (flips.filter (fun f => decide (f < 544))).eraseDups
    let s := if fs.isEmpty then s
      else { s with mem := Memory.putN s.mem (l * 64) (flipBits (s.rawLine l) fs) }.setSyn l (s.synOf l ^^^ flipSyn fs)
    match s.readLine l with
    | (s, .uncorr _ _) => (s.dramFault k g).1
    | (s, _) => s

/-- DRAM_READ_COMPLETE. -/
def execDramReadComplete (stack granule : Nat) (flips : List Nat) (s : State) : Host.Outcome State Fault Refusal :=
  .next (s.dramRead stack granule flips)

/-- What an alert does to a controller (R341): every bank is precharged, and the commands of the last 64 hub cycles are issued again, each
column command after an activate of its row. How many of them are column commands is free, and each takes two opportunities. -/
def Pc.replay (replayed : Nat) (c : Pc) : Pc := { c with rows := [], lost := min opportunities (c.lost + 2 * replayed) }

/-- CA_PARITY_ALERT (R341, R342): the replay is counted and logged; the fourth alert in 64 strides starts a retraining, and one
during a retraining retires the pseudo-channel. -/
def execCaParityAlert (stack pc replayed : Nat) (s : State) : Host.Outcome State Fault Refusal :=
  .next (
    let c := s.pc stack pc
    if !pcExists stack pc || c.st == 1 || c.st == 3 then s
    else
      let (s, w) := s.freeWord
      let s := s.modPc stack pc (Pc.replay replayed)
      let s := ({ s with
        dram.caReplay := cntAdd s.dram.caReplay 1
        dram.act := cntAdd s.dram.act (w.toNat % (replayed + 1)) }.logE 0x0607 none (stack * 256 + pc) replayed).diverge 2
      let recent : List Nat := c.alerts.filter (fun n => decide (s.str.count < n + 64)) ++ [s.str.count]
      if c.st = 2 then s.modPc stack pc (fun c => { c with alerts := recent, retiring := true })
      else if 4 ≤ recent.length then s.modPc stack pc (fun c => { c with alerts := recent, st := 2, training := 256 })
      else s.modPc stack pc (fun c => { c with alerts := recent }))

/-- RETRAINING_COMPLETE (R340, R342): 256 steps, at most one in a stride; without the pattern check the pseudo-channel is
retired. -/
def execRetrainingComplete (stack pc : Nat) (pass : Bool) (s : State) : Host.Outcome State Fault Refusal :=
  .next (
    let c := s.pc stack pc
    if !pcExists stack pc || c.st != 2 || c.training != 0 then s
    else s.modPc stack pc (fun c => if pass then { c with st := 0 } else { c with retiring := true }))

/-- TRAIN_PERIOD_EXPIRY (R340): TRAIN_PERIOD strides after the last pass began, every controller begins a pass of 16 steps. -/
def execTrainPeriodExpiry (s : State) : Host.Outcome State Fault Refusal :=
  .next (if s.dram.lastPass + s.dev fTrainPeriod ≤ s.str.count then { s with dram.pass := 16, dram.lastPass := s.str.count } else s)

/-- SELF_REFRESH_ENTRY (R348): after SR_IDLE strides with no access and a zero grant; with SR_IDLE 0 none enters. -/
def execSelfRefreshEntry (stack pc : Nat) (s : State) : Host.Outcome State Fault Refusal :=
  .next (
    let c := s.pc stack pc
    let idle := s.dev fSrIdle
    if pcExists stack pc && c.st == 0 && idle != 0 && s.noGrant stack && c.queue.isEmpty && c.wbuf.isEmpty
      && decide (c.last + idle ≤ s.str.count) && decide (s.dram.granted.getD stack 0 + idle ≤ s.str.count) then
      s.modPc stack pc (fun c => { c with st := 1, rows := [] })
    else s)

/-- Whether a domain has demand for a stack in the snapshot of this stride (R15, R349). -/
def State.stackDemand (s : State) (k : Nat) : Bool :=
  s.str.snap && s.str.demand.any (fun p => p.1 % 2048 == 4 * 256 + k && p.2 != 0)

/-- SELF_REFRESH_EXIT (R349): where the demand snapshot holds demand for the pseudo-channel's stack, or an access has reached it; the
first maintenance slot after it runs a training step. -/
def execSelfRefreshExit (stack pc : Nat) (s : State) : Host.Outcome State Fault Refusal :=
  .next (
    let c := s.pc stack pc
    if pcExists stack pc && c.st == 1 && (s.stackDemand stack || !c.queue.isEmpty || !c.wbuf.isEmpty) then
      s.modPc stack pc (fun c => { c with st := 0, steps := c.steps + 1 })
    else s)

/-- One line of a bank copied into its spare (R478): a corrected line is stored good, an uncorrectable one handled by what it
holds. -/
def State.copySpare (s : State) (l : Nat) : State :=
  match s.readLine l with
  | (s, .good d) => s.writeLine l d false
  | (s, .poison _) => s
  | (s, .uncorr _ _) => s.storeFault (lineIndex l)

/-- BANK_SPARE_COPY_DONE (R478): the spare serves every line of the bank, and a RETIRE of the bank is complete (R482). -/
def execBankSpareCopyDone (bank : Nat) (s : State) : Host.Outcome State Fault Refusal :=
  .next (match s.ras.sparing.find? (fun x => x.1 == bank) with
    | none => s
    | some (_, n) =>
      let bad := (s.syn.map Prod.fst).filter (fun l => !isDram l && csBank (lineIndex l) == bank)
      let s := s.over bad State.copySpare
      let s := { s.logE 0x0706 none bank n with
        ras.sparing := s.ras.sparing.filter (fun x => x.1 != bank)
        ras.spares := s.ras.spares.set bank n }
      s.over s.liveOps (fun s x => match x.2.body with
        | .retire 4 part _ _ _ => if part % 256 = bank then (s.logE 0x0709 none 4 part).endOp x.1 stOk else s
        | _ => s))

/-! ## Retirement at the boundary (R345, R352, R353) -/

/-- Report plates of a domain lost with a part of DRAM or flash: one event record on each logical device that maps the domain
(R322). -/
def State.reportLoss (s : State) (slot addr : Nat) : State :=
  let lds := ((s.ti.extents.filter (fun p => p.2.slot == slot && p.2.st != 0 && p.2.kind == 0)).map (fun p => p.2.ld)).eraseDups
  s.over lds (fun s ld => s.addEvent ld 3 addr)

/-- Plates with a granule on a pseudo-channel that retires at once: yoked ones are read from their mirrors, the others are set
DAMAGED and reported (R352). -/
def State.losePc (s : State) (k p : Nat) : State :=
  let hit := (s.tierPlates none 1).filter (fun x => storeStack x.2.store == k && !x.2.damaged
    && runHas (storeGran x.2.store) (granules x.2.clen) (fun g => granPc g == p)
    && !(s.yoked (x.1 / 2 ^ 36) && s.inYoke (storeGran x.2.store) && !s.pcOff (partner k) p))
  let s := s.over hit (fun s x => s.damage (x.1 / 2 ^ 36) (x.1 % 2 ^ 36) 0)
  let s := s.over ((hit.map (fun x => x.1 / 2 ^ 36)).eraseDups) (fun s slot => s.reportLoss slot (32 * k + p))
  -- a map page with a line there loses the four plates of that line
  s.over (s.ti.pages.filter (fun x => x.2.tier == 1 && storeStack x.2.store == k)) (fun s x =>
    s.over (List.range 64) (fun s i => if granPc (storeGran x.2.store + i) = p then s.damagePageLine x.1 i else s))

/-- The plates yoked with their home copy on a stack: T1 homes in the yoke region of it. -/
def State.yokedOn (s : State) (k : Nat) : List (Nat × MapEnt) :=
  (s.tierPlates none 1).filter (fun x => storeStack x.2.store == k && s.inYoke (storeGran x.2.store)
    && s.yoked (x.1 / 2 ^ 36) && !x.2.damaged)

/-- Switch up to 256 map entries of yoked primaries on a retired stack to the partner stack (R353). -/
def State.switchStack (s : State) (k : Nat) : State :=
  if !s.stackOff k || s.stackOff (partner k) then s
  else
    let s := s.over ((s.yokedOn k).take 256) (fun s x => s.modEnt (x.1 / 2 ^ 36) (x.1 % 2 ^ 36) (fun e =>
      { e with store := t1Addr (partner k) (storeGran e.store) }))
    { s with dram.degraded := s.dram.degraded ||| 2 ^ (k % 6) }

/-- Move a yoked plate to another run, where one is free (R345, R468). -/
def State.moveYoked (s : State) (key : Nat) : State :=
  let slot := key / 2 ^ 36
  let plate := key % 2 ^ 36
  match s.ent slot plate with
  | some e => if e.tier = 1 ∧ ¬e.moving ∧ ¬e.remote then (s.moveHome slot plate 1 false).getD s else s
  | none => s

/-- The yoke's slices of a stride: plates whose rewritten primary failed move at once, and up to 16 unmirrored plates move to other
pairs; a pair is DEGRADED until the last is moved (R345, R353, R468). -/
def State.yokeSlices (s : State) : State :=
  let due := s.dram.yokeMoves
  let s := { s with dram.yokeMoves := [] }.over due State.moveYoked
  let s := s.over (List.range 12) State.switchStack
  s.over (bitsSet s.dram.degraded 6) (fun s i =>
    let left := (s.yokedOn i ++ s.yokedOn (i + 6)).filter (fun x => !s.ti.switches.any (fun w => w.key == x.1))
    if left.isEmpty then { s with dram.degraded := s.dram.degraded ^^^ 2 ^ i }
    else s.over (left.take 16) (fun s x => s.moveYoked x.1))

/-- One slice of a chunk's copy, which switches when its last line is copied (R350). -/
def State.rescueOne (s : State) (c : Chunk) : State :=
  let s := s.copyChunk c.stack c.granule none
  (s.endUnit (fRetainMask, chunkUnit c.stack c.granule) false).1

/-- Chunks with lines on a retired pseudo-channel move to another place, 64 lines of one chunk a stride (R350, R352). -/
def State.rescueChunks (s : State) : State :=
  let bad := fun (c : Chunk) => (List.range 32).any (fun p => s.pcOff c.stack p)
  match s.ti.chunks.find? (fun c => bad c && c.copyTo.isSome) with
  | some c => s.rescueOne c
  | none => match s.ti.chunks.find? bad with
    | some c => s.rescueOne c
    | none => s

/-- The DRAM controllers' part of a boundary: retirements take effect, and every controller runs its stride. -/
def State.dramBoundary (s : State) : State :=
  let going := (s.dram.pcs.filter (fun x => x.2.retiring)).map Prod.fst
  let s := s.over going (fun s key => s.modPc (key / 32) (key % 32) (fun c =>
    { c with st := 3, retiring := false, training := 0, wbuf := [], queue := [], rows := [] }))
  let s := s.over going (fun s key => s.losePc (key / 32) (key % 32))
  s.controllers

end Sys2Proof.Machine
end

