-- ==== Sys2Proof/Machine/FlashRows.lean ====
section
/-! DEFINITION. The rows of the flash tiers (R365 to R378): reads with their reconstruct reads and soft retries, programs, erases,
padding, reclaim, wear, die failures and patrol. -/

namespace Sys2Proof.Machine

/-! ## Relocation (R370) -/

/-- What a flash slot holds: a plate or a map page, by key. -/
def State.slotOwner (s : State) (a : Nat) : Option (Bool × Nat) :=
  match s.ti.map.find? (fun x => decide (2 ≤ x.2.tier) && !x.2.remote && !x.2.damaged && x.2.store == a) with
  | some (key, _) => some (false, key)
  | none => (s.ti.pages.find? (fun x => x.2.tier == 2 && x.2.store == a)).map (fun x => (true, x.1))

/-- Relocate a live slot as a tier move within its own tier (R127, R370): whether it found room. -/
def State.relocate (s : State) (a : Nat) : State × Bool :=
  match s.slotOwner a with
  | none => (s, false)
  | some (true, pk) =>
    let (s, ok) := if s.ti.pageMoves.has pk then (s, false) else s.movePage pk
    (if ok then { s with fl.reloc := cntAdd s.fl.reloc 1 } else s, ok)
  | some (false, key) =>
    match s.ti.map.get? key with
    | none => (s, false)
    | some e =>
      if e.moving then (s, false)
      else match s.moveHome (key / 2 ^ 36) (key % 2 ^ 36) e.tier false with
        | some s => ({ s with fl.reloc := cntAdd s.fl.reloc 1 }, true)
        | none => (s, false)

/-! ## Failing dies (R378) -/

/-- Pad the open unit of an engine die and mode and let it program (R368). -/
def State.padUnit (s : State) (die mode : Nat) : State :=
  match s.pop, s.openUnit die mode with
  | some p, some u =>
    let k := 2 * die + mode
    let n := 28 * p.unitPages mode - u.slots.length
    let us := s.fl.units.getD k []
    { s with fl.units := s.fl.units.set k (us.dropLast ++ [{ u with programming := true }]), fl.pad := cntAdd s.fl.pad n }
  | _, _ => s

/-- Mark whether a slot's codeword can be read directly. -/
def State.setBad (s : State) (a : Nat) (b : Bool) : State :=
  { s with fl.slots := s.fl.slots.modify a (fun f => { f with bad := b }) }

/-- A die fails (R378): its stripe group is DEGRADED. A second failed die of a group leaves no way to rebuild the slots of both
(R322, R477). -/
def State.failDie (s : State) (ch die : Nat) : State :=
  let g := 16 * (ch / 8) + die
  let st := s.groupSt g
  if st = 2 ∨ st = 3 then s
  else
    let s := s.logE 0x0609 none (ch * 256 + die) 1
    let s := (List.range 2).foldl (fun s m => match s.openUnit (g / 16) m with
      | some u => if u.group = g then s.padUnit (g / 16) m else s
      | none => s) s
    if st = 0 then { s with fl.groups := s.fl.groups.set g (1, ch % 8) }
    else if s.failedCh g = some (ch % 8) then s
    else
      let mine := (s.fl.slots.filter (fun x => faGroup x.1 == g && faCh x.1 == ch)).map Prod.fst
      let slots := (mine.filterMap (fun a => match s.slotOwner a with
        | some (false, k) => some (k / 2 ^ 36)
        | _ => none)).eraseDups
      (s.over mine (fun s a => s.setBad a true)).over slots (fun s x => s.reportLoss x (2 * 2 ^ 60 + ch * 16 + die))

/-- The strides in which a die's failed operations count: 1 s (R378). -/
def failWindow : Nat := 2000000

/-- An operation of a die has failed; the fourth within 2,000,000 strides fails the die (R378). -/
def State.dieOpFailed (s : State) (ch die : Nat) : State :=
  let k := 16 * ch + die
  let recent := (s.fl.fails.getD k []).filter (fun (n : Nat) => decide (s.str.count < n + failWindow)) ++ [s.str.count]
  let s := { s with fl.fails := s.fl.fails.set k recent }
  if 4 ≤ recent.length then s.failDie ch die else s

/-! ## Reads (R366, R373, R376, R377) -/

/-- Whether the codeword of a slot is what the reader expects (R366), by the map entry of the plate read. -/
def State.identOk (s : State) (a : Nat) (key : Nat) : Bool :=
  match s.fl.slots.get? a, s.ti.map.get? key with
  | some f, some e => f.matches 1 (key % 2 ^ 36) (s.domF (key / 2 ^ 36) fDomHdom) e.version e.coding e.table e.clen
      && s.opens (key / 2 ^ 36) f
  | _, _ => false

/-- A read is over. -/
def State.endRead (s : State) (a : Nat) : State := { s with fl.reads := s.fl.reads.del a }

/-- The line that a fill brings first: that of the first access waiting for the plate. -/
def State.firstLine (s : State) (key : Nat) : Nat :=
  match s.sh.waiting.find? (fun p => plateKey p.2.slot (p.2.line / 64) == key) with
  | some (_, a) => a.line % 64
  | none => 0

/-- A codeword has passed: its plate goes on to a burin lane, or into T0 where it is RAW (R178, R373). -/
def State.deliver (s : State) (a key : Nat) : State :=
  let slot := key / 2 ^ 36
  let plate := key % 2 ^ 36
  match s.ent slot plate with
  | none => s.advance
  | some e =>
    if e.res0 || e.damaged || e.store != a || e.tier < 2 then s.advance
    else if e.coding = cRaw then
      match s.takeT0 slot (useOf slot false plate) with
      | (s, some t) =>
        let d := match s.fl.slots.get? a with
          | some f => f.payload
          | none => zeros 4096
        (s.fillT0 slot plate t (sub d 0 plateBytes) [] false).advance
      | (s, none) => s.advance
    else
      s.newJob (homeDie e plate) 1 1 decodeNominal key (s.firstLine key) 0

/-- Note the end of one codeword of a SCRUB in its operation (R475). -/
def State.scrubNote (s : State) (h : Nat) (a corrected : Nat) (rewritten failed damaged : Bool) : State :=
  match s.ops.tab.get? h with
  | none => s
  | some op => match op.body with
    | .scrub t st f n cur co re un po ue sy da sum =>
      let co := co + if corrected = 0 then 0 else 1
      let un := un + if failed then 1 else 0
      let s := s.setBody h (.scrub t st f n cur co (re + if rewritten then 1 else 0) un po
        (if failed ∧ ue = 0 then 2 * 2 ^ 60 + a else ue) sy (da + if damaged then 1 else 0) sum)
      (s.setResults h un co).ranTo h (op.done + 1)
    | _ => s

/-- Every path to a codeword has failed: its plate gets DAMAGED and is reported, a map page loses its plates (R377). -/
def State.loseSlot (s : State) (a : Nat) : State :=
  match s.slotOwner a with
  | some (false, key) => s.damage (key / 2 ^ 36) (key % 2 ^ 36) 0
  | some (true, pk) => s.over (List.range 64) (fun s i => s.damagePageLine pk i)
  | none => s

/-- A read has passed: a host's fill goes on; a slot that had to be rebuilt or retried after a failure is relocated (R377). -/
def State.readPassed (s : State) (a : Nat) (r : FRead) (failed : Bool) (corrected : Nat) : State :=
  let s := s.endRead a
  let many := r.patrol && decide (s.dev fFlRelocBits < corrected)
  let s := if r.patrol then s else s.deliver a r.key
  let s := if failed then s.setBad a false else s
  let (s, moved) := if failed || many then s.relocate a else (s, false)
  let s := if failed && !moved then s.setBad a true else s
  match r.scrub with
  | some h => s.scrubNote h a (if failed then 1 else corrected) moved false false
  | none => s

/-- A read has failed on every path. -/
def State.readLost (s : State) (a : Nat) (r : FRead) : State :=
  let s := (s.endRead a).loseSlot a
  let s := match r.scrub with
    | some h => s.scrubNote h a 0 false true true
    | none => s
  s.advance

/-- The rebuild has failed too and the read waits for the soft retries: a late read, logged as an overrun (R23, R377). -/
def State.lateRead (s : State) (a key : Nat) : State :=
  { s.logE 0x060A (some (key / 2 ^ 36)) (faCh a * 256 + faDie a) (key % 2 ^ 36) with
    fl.lateRead := true
    str.overrun := true
    str.overrunCnt := cntAdd s.str.overrunCnt 1 }

/-- A codeword read returns (R366, R376, R377). A direct read that fails starts the reconstruct read and the soft retries; a rebuild
that fails waits for the retries, or ends the read where they have failed or the die is gone. -/
def State.flashRead (s : State) (a : Nat) (ok : Bool) (corrected : Nat) : State :=
  match s.fl.reads.get? a with
  | none => s
  | some r =>
    if r.reconFailed then s
    else
      let sane := r.patrol || s.identOk a r.key
      if !r.recon then
        if ok && sane then s.readPassed a r false corrected
        else
          let s := ((s.setBad a true).diverge 3).over (peerChannels a) State.takeIssue
          let s := (s.charge (r.key / 2 ^ 36) 7 (faEngine a) (if r.patrol then 0 else 504)).suspends a 7
          { s with
            fl.recon := cntAdd s.fl.recon 1
            fl.reads := s.fl.reads.set a { r with recon := true, soft := true } }.dieOpFailed (faCh a) (faDie a)
      else if ok && sane && !s.reconFails a then
        let failed := r.soft || r.softFailed
        s.readPassed a r failed corrected
      else if r.softFailed || s.onFailedDie a then s.readLost a r
      else (s.diverge 3).lateRead a r.key |> fun s =>
        { s with fl.reads := s.fl.reads.set a { r with soft := true, reconFailed := true } }

/-- FLASH_READ_COMPLETE. -/
def execFlashReadComplete (addr : Nat) (ok : Bool) (corrected : Nat) (s : State) : Host.Outcome State Fault Refusal :=
  .next (s.flashRead addr ok corrected)

/-- SOFT_RETRY_COMPLETE (R377): the retries serve the read, or end it where the rebuild has failed. -/
def execSoftRetryComplete (addr : Nat) (ok : Bool) (s : State) : Host.Outcome State Fault Refusal :=
  .next (match s.fl.reads.get? addr with
    | none => s
    | some r =>
      if !r.soft then s
      else if ok && (r.patrol || s.identOk addr r.key) then s.readPassed addr r true 1
      else if r.reconFailed then s.readLost addr r
      else { s with fl.reads := s.fl.reads.set addr { r with soft := false, softFailed := true } })

/-- FLASH_PATROL_READ (R473, R474): patrol reads a written codeword; with FL_SCRUB_H 0 it is off. -/
def execFlashPatrolRead (addr : Nat) (ok : Bool) (corrected : Nat) (s : State) : Host.Outcome State Fault Refusal :=
  .next (
    if s.dev fFlScrubH = 0 ∨ ¬s.fl.slots.has addr ∨ s.inWriteBuffer addr ∨ s.fl.reads.has addr ∨ (s.slotOwner addr).isNone then s
    else
      let key := match s.slotOwner addr with
        | some (false, k) => k
        | _ => 0
      (s.beginRead addr key (s.onFailedDie addr) true none).flashRead addr ok corrected)

/-! ## Programs and erases (R368 to R371) -/

/-- Take the oldest programming unit of an engine die and mode out of its write buffer. -/
def State.takeUnit (s : State) (die mode : Nat) : Option (State × FUnit) :=
  let k := 2 * die + mode
  let us := s.fl.units.getD k []
  match us.find? (fun u => u.programming) with
  | none => none
  | some u => some ({ s with fl.units := s.fl.units.set k (us.erase u) }, u)

/-- FLASH_PROGRAM_COMPLETE (R368): the unit's slots are served from flash from here on. -/
def execFlashProgramComplete (die mode : Nat) (s : State) : Host.Outcome State Fault Refusal :=
  .next (match s.takeUnit die mode with
    | some (s, _) => s
    | none => s)

/-- Write a codeword of a failed unit again, into the next unit (R369), with its VERSION unchanged (R123): a switch still to come takes
the new place, a map entry switches at the next boundary. -/
def State.rewriteSlot (s : State) (mode a : Nat) : State :=
  match s.fl.slots.get? a with
  | none => s
  | some f =>
    match s.ti.switches.find? (fun x => decide (2 ≤ x.tier) && x.store == a) with
    | some x =>
      match s.flashPut mode (fun _ w => { f with wseq := w }) with
      | none => s
      | some (s, b) =>
        { s with ti.switches := s.ti.switches.map (fun y => if y == x then { y with store := b } else y),
                 fl.slots := s.fl.slots.del a }
    | none =>
      match s.slotOwner a with
      | some (false, key) =>
        match s.ti.map.get? key with
        | none => s
        | some e =>
          match s.flashPut mode (fun _ w => { f with wseq := w }) with
          | none => s
          | some (s, b) =>
            { s with ti.switches := s.ti.switches ++
                [{ key := key, tier := e.tier, store := b, clen := e.clen, table := e.table, coding := e.coding,
                   damaged := false, leaveT0 := false, clean := !e.dirty, plan := false, again := true }] }
      | some (true, pk) =>
        match s.flashPut mode (fun _ w => { f with wseq := w }) with
        | none => s
        | some (s, b) => { s with ti.pageMoves := s.ti.pageMoves.set pk (2, b, false) }
      | none =>
        match s.ti.pageMoves.find? (fun m => m.2.1 == 2 && m.2.2.1 == a) with
        | some m => match s.flashPut mode (fun _ w => { f with wseq := w }) with
          | none => s
          | some (s, b) =>
            { s with ti.pageMoves := s.ti.pageMoves.set m.1 (2, b, m.2.2.2), fl.slots := s.fl.slots.del a }
        | none => s

/-- FLASH_PROGRAM_FAILURE (R369): the unit's codewords go to the next unit, and the stripe block is retired; the die of channel `ch` has
failed an operation (R378). -/
def execFlashProgramFailure (die mode ch : Nat) (s : State) : Host.Outcome State Fault Refusal :=
  .next (match s.takeUnit die mode with
    | none => s
    | some (s, u) =>
      let s := s.modBlock u.group u.block (fun b => { b with st := 5 })
      (s.over u.slots (fun s a => s.rewriteSlot mode a)).dieOpFailed (8 * die + ch) (u.group % 16))

/-- FLASH_ERASE_COMPLETE (R370, R371): the block is free again, or joins the bad-block list where the erase failed on a channel's die
(R378). -/
def execFlashEraseComplete (group block : Nat) (failed : Option Nat) (s : State) : Host.Outcome State Fault Refusal :=
  .next (
    if (s.block group block).st ≠ 3 then s
    else match failed with
      | none => s.modBlock group block (fun b => { b with st := 0, pages := 0, erases := b.erases + 1 })
      | some ch => { s.modBlock group block (fun b => { b with st := 4, erases := b.erases + 1 }) with
          fl.badBlock := cntAdd s.fl.badBlock 1 }.dieOpFailed (8 * (group / 16) + ch) (group % 16))

/-- PAD_TIMEOUT (R368): PAD_STRIDES after the first slot filled. -/
def execPadTimeout (die mode : Nat) (s : State) : Host.Outcome State Fault Refusal :=
  .next (match s.openUnit die mode with
    | some u => if ¬u.slots.isEmpty ∧ u.opened + s.dev fPadStrides ≤ s.str.count then s.padUnit die mode else s
    | none => s)

/-! ## Reclaim, wear and failed dies (R370, R371, R378) -/

/-- The written stripe blocks of an engine die and mode: (live slots, erase count, group, block). -/
def State.written (s : State) (p : FlashPop) (die mode : Nat) : List (Nat × Nat × Nat × Nat) :=
  (s.fl.blocks.filter (fun x => x.1 / 65536 / 16 == die && x.2.st == 2 && s.blockMode p (x.1 % 65536) == mode
    && s.groupSt (x.1 / 65536) == 0)).map (fun x =>
      ((s.liveSlotsOf (x.1 / 65536) (x.1 % 65536)).length, x.2.erases, x.1 / 65536, x.1 % 65536))

/-- The first of a list by two numbers. -/
def leastBy (f : Nat × Nat × Nat × Nat → Nat × Nat) : List (Nat × Nat × Nat × Nat) → Option (Nat × Nat × Nat × Nat)
  | [] => none
  | x :: xs => match leastBy f xs with
    | none => some x
    | some y => if (f y).1 < (f x).1 ∨ ((f y).1 = (f x).1 ∧ (f y).2 < (f x).2) then some y else some x

/-- RECLAIM_START (R370): where the free stripe blocks of a mode fall below 2 per stripe group, the written block with the fewest
live slots, on a tie the one with the lowest erase count, is emptied. -/
def execReclaimStart (die mode : Nat) (s : State) : Host.Outcome State Fault Refusal :=
  .next (match s.pop with
    | none => s
    | some p =>
      let gs := s.groupsOf die
      let free := sumOf (gs.map (s.freeCount p mode))
      if 2 * gs.length ≤ free ∨ 4 ≤ die ∨ 2 ≤ mode then s
      else match leastBy (fun x => (x.1, x.2.1)) (s.written p die mode) with
        | some (_, _, g, b) => s.modBlock g b (fun x => { x with st := 6 })
        | none => s)

/-- WEAR_LEVEL (R371): where erase counts of a mode differ by more than WEAR_SPREAD_PERMIL thousandths of the rated cycles, the
written block with the lowest count is emptied. -/
def execWearLevel (die mode : Nat) (s : State) : Host.Outcome State Fault Refusal :=
  .next (match s.pop with
    | none => s
    | some p =>
      if 4 ≤ die ∨ 2 ≤ mode then s
      else
        let mine := s.fl.blocks.filter (fun x => x.1 / 65536 / 16 == die && s.blockMode p (x.1 % 65536) == mode && x.2.st != 4)
        let hi := mine.foldl (fun m x => max m x.2.erases) 0
        let rated := if mode = 0 then p.ratedPslc else p.ratedNative
        match leastBy (fun x => (x.2.1, x.1)) (s.written p die mode) with
        | some (_, e, g, b) =>
          if s.dev fWearSpread * rated < 1000 * (hi - e) then s.modBlock g b (fun x => { x with st := 6 }) else s
        | none => s)

/-- FLASH_DIE_FAILURE: a die has timed out a status poll; the fourth failed operation fails it where that operation ends (R378). -/
def execFlashDieFailure (channel die : Nat) (s : State) : Host.Outcome State Fault Refusal :=
  .next (if 32 ≤ channel ∨ 16 ≤ die then s else s.failDie channel die)

/-- The slots to be relocated in this stride: of blocks that are emptied, up to 16 on each engine die (R370), and of each degraded
group, up to 16 (R378). -/
def State.relocations (s : State) : List Nat :=
  let emptying := fun (a : Nat) =>
    let st := (s.block (faGroup a) (faBlock a)).st
    st == 5 || st == 6
  let free := fun (a : Nat) => !s.ti.freeing.any (fun f => f.2.1 ≥ 2 && f.2.2.1 == a) && (s.slotOwner a).isSome
  let live := (s.fl.slots.map Prod.fst).filter (fun a => (emptying a || s.groupSt (faGroup a) == 1) && free a)
  (List.range 4).flatMap (fun e => (live.filter (fun a => faEngine a == e && emptying a)).take 16)
    ++ (List.range 64).flatMap (fun g =>
      (live.filter (fun a => faGroup a == g && s.groupSt g == 1 && !emptying a)).take 16)

/-- Whether the charge of a relocation is admitted (R370, R375): while its domain has class-7 grant left on the engine die, or below two
free stripe blocks of the mode. -/
def State.relocates (s : State) (a : Nat) : Bool :=
  let e := faEngine a
  let slot := match s.slotOwner a with
    | some (true, pk) => pk / 2 ^ 28
    | some (false, key) => key / 2 ^ 36
    | none => 0
  let floor := match s.pop with
    | some p => decide (sumOf ((s.groupsOf e).map (s.freeCount p (s.blockMode p (faBlock a)))) < 2)
    | none => false
  floor || decide (0 < s.left slot 7 e)

/-- The flash tiers' part of a boundary: emptied blocks are erased or become bad, emptied degraded groups are RETIRED, and the
relocations of the stride run (R370, R378). -/
def State.flashBoundary (s : State) : State :=
  if s.fl.blocks.isEmpty && s.fl.groups.isEmpty then s
  else
    let done := fun (s : State) (g b : Nat) => (s.liveSlotsOf g b).isEmpty
      && !s.fl.reads.any (fun r => faGroup r.1 == g && faBlock r.1 == b)
    let s := s.over (s.fl.blocks.filter (fun x => x.2.st == 5 || x.2.st == 6)) (fun s x =>
      let g := x.1 / 65536
      let b := x.1 % 65536
      if !done s g b then s
      else if x.2.st = 6 then s.modBlock g b (fun y => { y with st := 3 })
      else { s.modBlock g b (fun y => { y with st := 4 }) with fl.badBlock := cntAdd s.fl.badBlock 1 })
    let s := s.over (s.fl.groups.filter (fun x => x.2.1 == 1)) (fun s x =>
      if s.fl.slots.any (fun y => faGroup y.1 == x.1) then s
      else { s with fl.groups := s.fl.groups.set x.1 (2, x.2.2) })
    s.over s.relocations (fun s a => if s.relocates a then (s.relocate a).1 else s)

end Sys2Proof.Machine
end

