-- ==== Sys2Proof/Machine/Integrity.lean ====
section
/-! DEFINITION. Integrity and repair by command: SCRUB (R475), RETIRE (R482), the flip-mask (R476), the log (R483, R484, R487), and the
watchdogs (R480, R481). -/

namespace Sys2Proof.Machine

/-! ## The log -/

/-- The 32 bytes of a log entry (R484). -/
def LogEnt.bytes (e : LogEnt) : List Byte :=
  le 4 e.lseq ++ le 2 e.code ++ le 1 e.sev ++ [0] ++ le 8 e.stride ++ le 2 (e.slot.getD 0x8000) ++ le 2 e.count ++ le 4 e.argA
    ++ le 8 e.argB

/-- Whether an LSEQ lies at or after another, modulo 2^32 (R483). -/
def lseqFrom (first l : Nat) : Bool := decide ((l + 2 ^ 32 - first) % 2 ^ 32 < 2 ^ 31)

/-- LOG_READ (R487): a domain queue reads the entries of its bound slot. -/
def cLogRead : Cmd := shortCmd 0x0730 false .any (fun s o p =>
  let first := fld p.p2.toNat 0 32
  let n := roomFor o p.p1.toNat / 32
  let mine := fun (e : LogEnt) => s.ownerOrigin o || (match e.slot, s.bound o with
    | some x, some y => x == y
    | _, _ => false)
  if p.p0.toNat % 32 ≠ 0 then deny s stBadParam
  else
    let es := s.ras.log.filter (fun e => mine e && lseqFrom first e.lseq)
    let next := match (es.drop n).head? with
      | some e => e.lseq
      | none => s.ras.nextLseq
    let got := es.take n
    doneData s o p.p0.toNat (got.flatMap LogEnt.bytes) stOk got.length next)

/-- LOG_RELEASE (R483, R487): the entries before an LSEQ are held no more. -/
def cLogRelease : Cmd := shortCmd 0x0731 false .owner (fun s _ p =>
  let q := fld p.p0.toNat 0 32
  let gone := s.ras.log.filter (fun e => !lseqFrom q e.lseq)
  let kept := s.ras.log.filter (fun e => lseqFrom q e.lseq)
  let s := { s with ras.log := kept, ras.lost := s.ras.lost ++ gone.map (fun e => (e.lseq, e.slot)) }
  done s stOk kept.length 0)

/-! ## The flip-mask (R476) -/

/-- The injection that FLIP_ARM names, where its parameters are valid (R487). -/
def flipOf (p : Pkt) : Option Flip :=
  let dram := p.p0.toNat.testBit 0
  let stack := fld p.p0.toNat 4 4
  let line := p.p1.toNat
  let pos := (List.range 4).map (fun i => fld p.p2.toNat (16 * i) 16)
  let bits := pos.filter (fun x => x != 0xFFFF)
  let okLine := if dram then decide (stack < 12) && decide (line < stackGranules) else decide (line < 2 ^ 24)
  if okLine && bits.all (fun x => decide (x ≤ 543)) then
    some { dram := dram, read := p.p0.toNat.testBit 1, stack := if dram then stack else 0, line := line, bits := bits,
           addrXor := fld p.p3.toNat 0 30, shalf := p.p3.toNat.testBit 30 }
  else none

/-- FLIP_ARM: at most 16 injections are armed. -/
def cFlipArm : Cmd := shortCmd 0x0720 false .owner (fun s _ p =>
  match flipOf p with
  | none => deny s stBadParam
  | some f => match s.ras.flips.firstFree 16 with
    | none => deny s stNoResource
    | some i => done { s with ras.flips := s.ras.flips.set i f } stOk i 0)

/-- FLIP_DISARM. -/
def cFlipDisarm : Cmd := shortCmd 0x0721 false .owner (fun s _ p =>
  done { s with ras.flips := s.ras.flips.del (fld p.p0.toNat 0 4) } stOk 0 0)

/-! ## SCRUB (R475) -/

/-- The written codewords of a range of stripe blocks of a group, in ascending address. -/
def State.codewords (s : State) (first n : Nat) : List Nat :=
  (s.fl.slots.filter (fun x => faGroup x.1 == fld first 16 6 && decide (first % 65536 ≤ faBlock x.1)
    && decide (faBlock x.1 < first % 65536 + n) && (s.slotOwner x.1).isSome)).map Prod.fst

/-- SCRUB: a range of granules, of central-store lines, or of stripe blocks. -/
def cScrub : Cmd := longCmd 0x0700 false .owner (fun s _ p =>
  let t := fld p.p0.toNat 0 2
  let k := fld p.p0.toNat 4 4
  let first := p.p1.toNat
  let n := p.p2.toNat
  let ok := decide (1 ≤ n) && decide (n ≤ 2 ^ 32) && p.p3.toNat % 64 == 0 && (match t with
    | 0 => decide (k < 12) && decide (first + n ≤ stackGranules)
    | 1 => decide (first + n ≤ 2 ^ 24)
    | 2 => decide (first < 2 ^ 22) && decide (first % 65536 + n ≤ 65536) && s.groupSt (fld first 16 6) != 3
    | _ => false)
  if !ok then deny s stBadParam
  else
    let total := if t = 2 then (s.codewords first n).length else n
    (s, .start (.scrub t k first n 0 0 0 0 0 0 0 0 p.p3.toNat) total 0 0 opQueued))

/-- The counts of a SCRUB so far. -/
structure ScrubSum where
  corrected : Nat
  rewritten : Nat
  uncorr : Nat
  poisoned : Nat
  firstUe : Nat
  firstSyn : Nat
  damaged : Nat

/-- Count one scrubbed line. -/
def ScrubSum.add (c : ScrubSum) (l : Nat) : Scrubbed → ScrubSum
  | .good => c
  | .fixed => { c with corrected := c.corrected + 1, rewritten := c.rewritten + 1 }
  | .poison => { c with poisoned := c.poisoned + 1 }
  | .uncorr x n =>
    { c with uncorr := c.uncorr + 1, damaged := c.damaged + n,
             firstUe := if c.uncorr = 0 then lineLoc l else c.firstUe,
             firstSyn := if c.uncorr = 0 then x.toNat else c.firstSyn }

/-- Scrub the line of a range, where the maintenance slot of its pseudo-channel has a line-time left after patrol scrub (R475): none
otherwise. One on a retired pseudo-channel or in a released segment is not read. -/
def State.scrubAt (s : State) (l : Nat) (c : ScrubSum) : Option (State × ScrubSum) :=
  let k := lineStack l
  let p := granPc (lineGran l)
  if isDram l ∧ (s.pcOff k p ∨ ¬s.refreshed k (lineGran l)) then some (s, c)
  else if isDram l ∧ s.slotRoom k p = 0 then none
  else
    let (s, r) := (if isDram l then s.modPc k p (fun c => { c with room := c.room - 1 }) else s).scrubLine l
    some (s, c.add l r)

/-- The most lines of the central store in a SCRUB slice (DESIGN CHOICE, assumption 33). -/
def scrubLines : Nat := 64

/-- The most lines of DRAM in a SCRUB slice: every line-time of the maintenance slots of a stack (R337). -/
def scrubGranules : Nat := 1184

/-- Scrub lines in ascending order from `i` until one finds no line-time; the last is the next line to scrub. -/
def State.scrubFrom (s : State) (line : Nat → Nat) (i : Nat) (c : ScrubSum) : Nat → State × ScrubSum × Nat
  | 0 => (s, c, i)
  | fuel + 1 => match s.scrubAt (line i) c with
    | none => (s, c, i)
    | some (s, c) => s.scrubFrom line (i + 1) c fuel

/-- One slice of SCRUB: the lines that find a line-time of their pseudo-channel's slot, up to 64 lines of the central store, or the
start of a read of a codeword whose die and channel are free (R373, R475). -/
def State.scrubSlice (s : State) (h : Nat) (op : Op) : State :=
  match op.body with
  | .scrub t k first n cur co re un po ue sy da sum =>
    if t = 2 then
      let todo := ((s.codewords first n).filter (fun a => decide (cur ≤ a) && !s.inWriteBuffer a && !s.fl.reads.has a
        && s.dieFree a && s.issueFree (faCh a))).take 1
      match todo with
      | a :: _ =>
        let key := match s.slotOwner a with
          | some (false, x) => x
          | _ => 0
        (s.beginRead a key (s.onFailedDie a) true (some h)).setBody h (.scrub t k first n (a + 1) co re un po ue sy da sum)
      | [] =>
        let rest := (s.codewords first n).filter (fun a => decide (cur ≤ a))
        if rest.isEmpty && !s.fl.reads.any (fun r => r.2.scrub == some h) then s.endOp h stOk
        else if rest.all (fun a => s.inWriteBuffer a) && !s.fl.reads.any (fun r => r.2.scrub == some h) then s.endOp h stOk
        else s
    else
      let m := min (if t = 0 then scrubGranules else scrubLines) (n - cur)
      let line := fun (i : Nat) => if t = 0 then dramLine k (first + i) else csLine (first + i)
      let c0 : ScrubSum := { corrected := co, rewritten := re, uncorr := un, poisoned := po, firstUe := ue, firstSyn := sy,
                             damaged := da }
      let (s, c, next) := s.scrubFrom line cur c0 m
      let s := s.setBody h (.scrub t k first n next c.corrected c.rewritten c.uncorr c.poisoned c.firstUe c.firstSyn c.damaged sum)
      let s := (s.setResults h c.uncorr c.corrected).ranTo h next
      if n ≤ next then s.endOp h stOk else s
  | _ => s

/-- The summary of a SCRUB, written when it reaches its final state (R475). -/
def State.scrubFinal (s : State) (op : Op) : State :=
  match op.body, op.o with
  | .scrub _ _ _ _ _ co re un po ue sy da sum, .qp f _ =>
    if sum = 0 ∨ (s.recordTo op).isNone then s
    else s.emit (.hostWrite f sum (le 8 op.done ++ le 8 co ++ le 8 re ++ le 8 un ++ le 8 po ++ le 8 ue ++ le 4 sy ++ le 4 da
      ++ le 8 s.str.count) false)
  | _, _ => s

/-! ## RETIRE (R482) -/

/-- Whether the part that a RETIRE names exists. -/
def State.partOk (s : State) (kind part : Nat) : Bool :=
  let dram := decide (part % 16 < 12)
  match kind with
  | 0 => dram && decide (fld part 9 6 < 48) && decide (fld part 15 15 < 23040)
  | 1 => dram
  | 2 => dram
  | 3 => s.groupSt (16 * (part % 32 / 8) + fld part 8 4) != 3
  | 4 => true
  | _ => false

/-- The row that a RETIRE of kind 0 names. -/
def rowOf (part : Nat) : Nat × Nat × Nat × Nat := (part % 16, fld part 4 5, fld part 9 6, fld part 15 15)

/-- The units of a planned retirement: the plates, map pages and chunks with a granule on the part, by their primary or their mirror
(R350, R352). -/
def State.retireUnits (s : State) (kind part : Nat) : List (Nat × Nat) :=
  (s.storageUnits (fun k g => retireHits kind part k g || (s.inYoke g && retireHits kind part (partner k) g))).map
    (fun u => (fRetainMask, u))

/-- RETIRE: at most 65,536 rows are retired. -/
def cRetire : Cmd := longCmd 0x0710 false .owner (fun s _ p =>
  let kind := fld p.p0.toNat 0 3
  let imm := p.p0.toNat.testBit 8
  let part := p.p1.toNat
  let rows := s.dram.rows.length + (s.retirements.filter (fun r => r.1 == 0)).length
  if !s.partOk kind part || (kind == 0 && imm) then deny s stBadParam
  else if kind = 0 ∧ 65536 ≤ rows ∧ ¬s.dram.rows.contains (rowOf part) then deny s stNoResource
  else
    let todo := if imm ∨ 2 < kind then [] else s.retireUnits kind part
    let total := if kind = 3 ∧ ¬imm then
        (s.fl.slots.filter (fun x => faGroup x.1 == 16 * (part % 32 / 8) + fld part 8 4)).length
      else todo.length
    (s, .start (.retire kind part imm todo false) total 0 0 opQueued))

/-- Put a part out of service (R352, R353, R378, R482). -/
def State.retirePart (s : State) (kind part : Nat) : State :=
  let s := s.logE 0x0709 none kind part
  let off := fun (s : State) (p : Nat) => s.modPc (part % 16) p (fun c =>
    { c with st := 3, retiring := false, training := 0, wbuf := [], queue := [], rows := [] })
  match kind with
  | 0 => if s.dram.rows.contains (rowOf part) then s else { s with dram.rows := s.dram.rows ++ [rowOf part] }
  | 1 => off s (fld part 4 5)
  | 2 => s.over (List.range 32) off
  | 3 => { s with fl.groups := s.fl.groups.set (16 * (part % 32 / 8) + fld part 8 4) (2, part % 8) }
  | _ => s

/-- One slice of RETIRE. -/
def State.retireSlice (s : State) (h kind part : Nat) (imm : Bool) (todo : List (Nat × Nat)) (started : Bool) : State :=
  let g := 16 * (part % 32 / 8) + fld part 8 4
  if kind = 4 then
    if started then s
    else
      let s := s.setBody h (.retire kind part imm todo true)
      if s.ras.spares.has (part % 256) then (s.logE 0x0709 none kind part).endOp h stOk
      else
        let s := s.startSpare (part % 256)
        if s.ras.sparing.any (fun x => x.1 == part % 256) then s else s.failOp h stNoResource
  else if imm then
    let mark := fun (s : State) (p : Nat) => if s.pcOff (part % 16) p then s
      else s.modPc (part % 16) p (fun c => { c with retiring := true })
    let s := match kind with
      | 1 => mark s (fld part 4 5)
      | 2 => s.over (List.range 32) mark
      | _ => s.failDie (part % 32) (fld part 8 4)
    (s.logE 0x0709 none kind part).endOp h stOk
  else if kind = 3 then
    let live := (s.fl.slots.map Prod.fst).filter (fun a => faGroup a == g && (s.slotOwner a).isSome
      && !s.ti.switches.any (fun x => some (false, x.key) == s.slotOwner a))
    let (s, n) := (live.take 16).foldl (fun (a : State × Nat) x =>
      let (s, ok) := a.1.relocate x
      (s, a.2 + if ok then 1 else 0)) (s, 0)
    s.modOp h (fun o => { o with done := min o.total (o.done + n), ran := true, body := .retire kind part imm todo true })
  else
    let us := s.nextSlice todo
    (s.over us (fun s u => s.startUnit u false)).setBody h (.retire kind part imm todo true)

/-- End a RETIRE's slice at the boundary; with every unit moved, the part is retired and the command is DONE. -/
def State.retireEnd (s : State) (h : Nat) (op : Op) : State :=
  match op.body with
  | .retire kind part imm todo started =>
    if imm ∨ kind = 4 ∨ ¬started ∨ op.ending.isSome then s
    else if kind = 3 then
      let g := 16 * (part % 32 / 8) + fld part 8 4
      if s.fl.slots.any (fun x => faGroup x.1 == g) then s else (s.retirePart kind part).endOp h stOk
    else
      let us := s.nextSlice todo
      let (s, rest, n) := us.foldl (fun (a : State × List (Nat × Nat) × Nat) u =>
        match a.1.endUnit u false with
        | (s, .moved _ _) => (s, a.2.1.erase u, a.2.2 + 1)
        | (s, .more) => (s, a.2.1, a.2.2)
        | (s, .again) => (s, a.2.1.erase u ++ [u], a.2.2)) (s, todo, 0)
      let s := (s.setBody h (.retire kind part imm rest false)).ranTo h (op.done + n)
      if rest.isEmpty then (s.retirePart kind part).endOp h stOk else s
  | _ => s

/-! ## Watchdogs (R480) -/

/-- A control core. -/
def State.core (s : State) (n : Nat) : Core := s.ras.cores.getD n { out := false, halted := false, released := false, expiries := [] }

/-- Release the semaphores that a core holds: each is PREEMPTED (R480). -/
def State.preempt (s : State) (core : Nat) : State × Nat :=
  let mine := s.ras.sems.filter (fun x => x.2.holder == core && x.2.st != 3)
  ({ s with ras.sems := s.ras.sems.map (fun (x : Nat × Sem) =>
      if x.2.holder = core ∧ x.2.st ≠ 3 then (x.1, { x.2 with st := 3 }) else x) }, mine.length)

/-- Whether every core of the active set is out of service (R479). -/
def State.coresGone (s : State) : Bool :=
  (List.range 8).all (fun i => (s.core ((if s.tr.activeB then 8 else 0) + i)).out)

/-- The command that a core which is reset was executing is answered ABORTED (R480): of the commands between their fetch and their
end, the held configuration block of that number; every other command is whole (assumption 34). -/
def State.abortHeld (s : State) (cmd : Option Nat) : State :=
  match cmd.bind (fun i => (s.cfg.heldBlocks[i]?).map (fun b => (i, b))) with
  | none => s
  | some (i, b) =>
    let s := { s with cfg.heldBlocks := s.cfg.heldBlocks.eraseIdx i, q.headAfter := b.head }
    s.reply b.o (mkReply s b.o (if b.plan then 0x0811 else 0x0810) b.p stAborted 0 0 0) []

/-- WATCHDOG_EXPIRY: the core is reset, its semaphores are PREEMPTED, the command it was executing is answered ABORTED, and its third
expiry in 2,000,000 strides takes it out of service. -/
def execWatchdogExpiry (core : Nat) (cmd : Option Nat) (s : State) : Host.Outcome State Fault Refusal :=
  .next (
    let c := s.core core
    if 16 ≤ core ∨ c.out ∨ c.halted then s
    else
      let (s, n) := s.preempt core
      let s := (s.logE 0x0704 none core n).diverge 5
      let xs : List Nat := c.expiries.filter (fun x => decide (s.str.count < x + 2000000)) ++ [s.str.count]
      let c' : Core := { c with expiries := xs, out := decide (3 ≤ xs.length) }
      let s := { s with ras.cores := s.ras.cores.set core c' }.abortHeld cmd
      if s.coresGone then s.deviceFatal 2 else s)

/-- The management core restarts: MCTP requests go unanswered meanwhile and every SPDM session ends (R457, R480). -/
def State.restartMgmt (s : State) : State :=
  { s with ras.mgmtDown := true, tr.spdm := [] }

/-- MGMT_WATCHDOG_EXPIRY. -/
def execMgmtWatchdogExpiry (s : State) : Host.Outcome State Fault Refusal :=
  .next ((s.logE 0x0704 none 16 0).diverge 5).restartMgmt

/-- MANAGEMENT_CORE_RESTART_DONE (R457). -/
def execManagementCoreRestartDone (s : State) : Host.Outcome State Fault Refusal :=
  .next { s with ras.mgmtDown := false }

/-- SCRUB. -/
def execScrub (o : Origin) (p : Pkt) (s : State) : Host.Outcome State Fault Refusal := .next (s.packet cScrub none o p)

/-- RETIRE. -/
def execRetire (o : Origin) (p : Pkt) (s : State) : Host.Outcome State Fault Refusal := .next (s.packet cRetire none o p)

/-- FLIP_ARM. -/
def execFlipArm (o : Origin) (p : Pkt) (s : State) : Host.Outcome State Fault Refusal := .next (s.packet cFlipArm none o p)

/-- FLIP_DISARM. -/
def execFlipDisarm (o : Origin) (p : Pkt) (s : State) : Host.Outcome State Fault Refusal :=
  .next (s.packet cFlipDisarm none o p)

/-- LOG_READ. -/
def execLogRead (o : Origin) (p : Pkt) (s : State) : Host.Outcome State Fault Refusal := .next (s.packet cLogRead none o p)

/-- LOG_RELEASE. -/
def execLogRelease (o : Origin) (p : Pkt) (s : State) : Host.Outcome State Fault Refusal :=
  .next (s.packet cLogRelease none o p)

end Sys2Proof.Machine
end

