-- ==== Sys2Proof/Machine/Firmware.lean ====
section
/-! DEFINITION. Firmware images and live update (R453 to R457), SPDM (R448 to R450) and host-link encryption (R446, R447). -/

namespace Sys2Proof.Machine

/-! ## Images (R453, R454) -/

/-- Check 1 of a header: MAGIC and HDR_VER match, reserved bytes are zero, BODY_LEN and SVN are in range. -/
def imageHeaderOk (h : List Byte) : Bool :=
  h.length == 512 && fieldAt h 0 4 == 0x4E465731 && fieldAt h 4 2 == 1
    && fieldAt h 6 2 == 0 && fieldAt h 0x1C 4 == 0 && fieldAt h 0x50 48 == 0 && fieldAt h 0x140 192 == 0
    && decide (1 ≤ fieldAt h 0x18 4) && decide (fieldAt h 0x18 4 ≤ 16776704) && decide (fieldAt h 0x14 4 ≤ 255)

/-- The number of the first check of R454 that an image fails now, 0 where it passes all. The verdicts of the cryptography stand in
the operand: `keyHash`, the fused key hash that SHA-384 of PUBKEY equals (4: none of the four), `sigOk` and `bodyOk` (assumption 44);
the header's bytes, the revocation mask and FUSE_SVN decide the rest. -/
def State.imageCheck (s : State) (i : Image) : Nat :=
  if !imageHeaderOk i.header then 1
  else if s.tr.revoked.getLsbD i.keyHash || decide (4 ≤ i.keyHash) then 2
  else if !i.sigOk then 3
  else if !i.bodyOk then 4
  else if imageSvn i < s.tr.fuseSvn then 5
  else 0

/-- Whether a slot holds a valid image. -/
def State.validImage (s : State) (i : Option Image) : Bool := i.any (fun x => s.imageCheck x == 0)

/-- FWVER of an image slot: 0 for one without a valid image (R458, R460). -/
def State.slotVer (s : State) (i : Option Image) : Nat := if s.validImage i then (i.map (fun x => (imageFwver x).toNat)).getD 0 else 0

/-- The standby slot's image. -/
def State.standbyImage (s : State) : Option Image := if s.tr.activeB then s.tr.imgA else s.tr.imgB

/-- Set the standby slot's image and the standby state (R456). -/
def State.setStandby (s : State) (i : Option Image) (st : Nat) : State :=
  if s.tr.activeB then { s with tr.imgA := i, tr.standby := st } else { s with tr.imgB := i, tr.standby := st }

/-- Whether a live operation's body satisfies a test. -/
def State.liveBody (s : State) (f : OpBody → Bool) : Bool := s.liveOps.any (fun p => f p.2.body)

/-- Whether an FW_STAGE is under way. -/
def State.staging (s : State) : Bool := s.liveBody (fun b => match b with
  | .fwStage _ _ _ => true
  | _ => false)

/-- Whether the standby set boots or is about to take over. -/
def State.standbyBusy (s : State) : Bool := s.tr.standby == 2 || s.tr.standby == 4 || s.staging

/-- FW_STAGE (R456, R458): the image's checks are made as the command is accepted, so that DETAIL can name the one that fails. -/
def cFwStage (i : Image) : Cmd := longCmd 0x0B20 false .owner (fun s o p =>
  let mg := match o with
    | .mgmt _ _ => true
    | .qp _ _ => false
  if !mg && p.p0.toNat % 64 != 0 then deny s stBadParam
  else if s.imageCheck i ≠ 0 then (s, .now stBadParam (s.imageCheck i) 0 0 [])
  else if s.standbyBusy then deny s stBusyRetry
  else
    let n := roundUp p.p1.toNat 4096
    (s, .start (.fwStage i n 0) n 0 0 opQueued))

/-- The 4 KiB blocks of a slice of FW_STAGE. -/
def stageBlocks : Nat := 64

/-- One slice of FW_STAGE: the first makes the slot's old image unreadable, the last completes the new one. -/
def State.fwStageSlice (s : State) (h : Nat) (i : Image) (n cursor : Nat) : State :=
  let c := min n (cursor + stageBlocks)
  let s := (s.setStandby none 0).setBody h (.fwStage i n c)
  let s := s.ranTo h c
  if c < n then s
  else
    let s := ((s.setStandby (some i) 1).emit (.imageWritten (!s.tr.activeB) (imageFwver i))).setResults h (imageFwver i).toNat 0
    s.endOp h stOk

/-- FW_PREPARE: the image is checked again as the command is accepted; with none, check 1 fails. -/
def cFwPrepare : Cmd := longCmd 0x0B21 false .owner (fun s _ _ =>
  if s.standbyBusy then deny s stBusyRetry
  else match s.standbyImage with
    | none => (s, .now stBadParam 1 0 0 [])
    | some i =>
      if s.imageCheck i ≠ 0 then ({ s with tr.standby := 5 }, .now stBadParam (s.imageCheck i) 0 0 [])
      else ({ s with tr.standby := 2 }, .start .fwPrepare 0 0 0 opQueued))

/-- The slice of FW_PREPARE: the standby set is READY. -/
def State.fwPrepareSlice (s : State) (h : Nat) : State := { s with tr.standby := 3 }.endOp h stOk

/-- FW_ACTIVATE. -/
def cFwActivate : Cmd := longCmd 0x0B22 false .owner (fun s _ _ =>
  if s.tr.standby ≠ 3 then deny s stBadParam
  else ({ s with tr.standby := 4 }, .start (.fwActivate s.str.count) 0 0 0 opQueued))

/-- FW_COMMIT (R457): FUSE_SVN and the revocation bits are fused. A fuse does not go back, so FUSE_SVN never falls (DEDUCED,
assumption 44). -/
def cFwCommit : Cmd := shortCmd 0x0B23 false .owner (fun s _ p =>
  let bits := BitVec.ofNat 4 (fld p.p0.toNat 0 4)
  match s.image with
  | none => deny s stBadParam
  | some i =>
    if bits.getLsbD i.keyHash then deny s stBadParam
    else
      let v := max s.tr.fuseSvn (imageSvn i)
      done { s with tr.fuseSvn := v, tr.revoked := s.tr.revoked ||| bits } stOk v 0)

/-- FW_QUERY. -/
def cFwQuery : Cmd := shortCmd 0x0B24 false .any (fun s _ _ => done s stOk (s.slotVer s.tr.imgA) (s.slotVer s.tr.imgB))

/-! ## The handover (R32, R456, R457) -/

/-- The boot marker that names a set (R557): SET, zeros and their CRC. -/
def markerBytes (b : Bool) : List Byte :=
  let m := le 1 (if b then 1 else 0) ++ zeros 7
  m ++ le 4 (crc32c m).toNat

/-- The set that a boot marker names: set A where its CRC is bad or its SET is another value (R557). -/
def markerSet (m : List Byte) : Bool := fieldAt m 0 1 == 1 && fieldAt m 8 4 == (crc32c (sub m 0 8)).toNat

/-- The running FW_ACTIVATE, with the stride of its acceptance. -/
def State.activation (s : State) : Option (Nat × Nat) :=
  s.liveOps.findSome? (fun p => match p.2.body with
    | .fwActivate n => if p.2.st = opRunning then some (p.1, n) else none
    | _ => none)

/-- Whether the active set has a command in execution: one fetched or received and not yet answered. -/
def State.executing (s : State) : Bool :=
  s.q.qps.any (fun (q : Nat × Qp) => q.2.unanswered != 0) || !s.q.waiting.isEmpty || !s.q.replies.isEmpty
    || !s.cfg.heldBlocks.isEmpty

/-- Whether the handover takes a boundary, asked as the boundary begins. -/
def State.handoverDue (s : State) : Bool := s.activation.isSome && !s.executing

/-- End the operation of an activation at a boundary. -/
def State.endActivation (s : State) (h st status r0 : Nat) : State :=
  ({ s.modOp h (fun o => { o with st := st, status := status, r0 := r0, ran := false }) with
      q.noFetch := false, tr.prepared := none }).writeRecord h

/-- FIRMWARE_HANDOVER: at the boundary that STRIDE_BOUNDARY found free for it, the control sets exchange roles; the former active
set reloads its image. -/
def execFirmwareHandover (s : State) : Host.Outcome State Fault Refusal :=
  .next (match s.activation with
    | none => s
    | some (h, _) =>
      if s.tr.prepared ≠ some s.str.count ∨ s.str.snap then s
      else
        let b := !s.tr.activeB
        let s := ({ s with tr.activeB := b, tr.standby := 2 }.emit (.bootMarker (markerBytes b))).restartMgmt
        s.endActivation h opDone stOk s.str.count)

/-- FW_ACTIVATE_TIMEOUT: 65 strides after acceptance no boundary has qualified (R457). -/
def execFwActivateTimeout (s : State) : Host.Outcome State Fault Refusal :=
  .next (match s.activation with
    | none => s
    | some (h, n) =>
      if s.str.count < n + 65 ∨ s.tr.prepared = some s.str.count then s
      else { s with tr.standby := 3 }.endActivation h opFailed stBusyRetry 0)

/-- STANDBY_SET_RELOADED: the former active set is READY again. -/
def execStandbySetReloaded (s : State) : Host.Outcome State Fault Refusal :=
  .next (if s.tr.standby = 2 && !s.liveBody (fun b => b == .fwPrepare) then { s with tr.standby := 3 } else s)

/-- PLDM_FIRMWARE_UPDATE: an image staged as FW_STAGE stages one; also in recovery (R455). -/
def execPldmFirmwareUpdate (image : Image) (s : State) : Host.Outcome State Fault Refusal :=
  .next (if !(s.mgmtUp || s.pmu.stage == 6) || s.standbyBusy || s.imageCheck image != 0 then s
    else (s.setStandby (some image) 1).emit (.imageWritten (!s.tr.activeB) (imageFwver image)))

/-- FW_STAGE. -/
def execFwStage (o : Origin) (p : Pkt) (image : Image) (s : State) : Host.Outcome State Fault Refusal :=
  .next (s.packet (cFwStage image) (some image) o p)

/-- FW_PREPARE. -/
def execFwPrepare (o : Origin) (p : Pkt) (s : State) : Host.Outcome State Fault Refusal := .next (s.packet cFwPrepare none o p)

/-- FW_ACTIVATE. -/
def execFwActivate (o : Origin) (p : Pkt) (s : State) : Host.Outcome State Fault Refusal := .next (s.packet cFwActivate none o p)

/-- FW_COMMIT. -/
def execFwCommit (o : Origin) (p : Pkt) (s : State) : Host.Outcome State Fault Refusal := .next (s.packet cFwCommit none o p)

/-- FW_QUERY. -/
def execFwQuery (o : Origin) (p : Pkt) (s : State) : Host.Outcome State Fault Refusal := .next (s.packet cFwQuery none o p)

/-! ## SPDM (R450)

A path is a head's DOE (0 to 7) or an MCTP endpoint e (8 + e). The response codes and the order of the negotiation are those of
SPDM 1.3 (PRESUMED, assumption 38). -/

/-- A path on which nothing has been negotiated. -/
def Spdm.reset : Spdm := { st := 0, sessions := [], next := 1 }

/-- The negotiation of a path. -/
def State.spdmOf (s : State) (path : Nat) : Spdm := s.tr.spdm.getD path Spdm.reset

/-- Whether a path reaches the responder. -/
def State.spdmUp (s : State) (path : Nat) : Bool :=
  if path < 8 then s.isActive && (s.head path).up else s.mgmtUp

/-- The SPDM codes of responses and errors. -/
def spdmError : Nat := 0x7F
def errInvalid : Nat := 0x01
def errSession : Nat := 0x02
def errUnexpected : Nat := 0x04

/-- Answer a request on a path: unanswered where the path does not reach the responder. -/
def State.spdm (s : State) (path : Nat) (f : State → Spdm → State) : State :=
  if s.spdmUp path then f s (s.spdmOf path) else s

/-- Send an ERROR response. -/
def State.spdmFail (s : State) (path err : Nat) : State := s.emit (.spdm path spdmError [err] [])

/-- Set a path's negotiation. -/
def State.setSpdm (s : State) (path : Nat) (x : Spdm) : State := { s with tr.spdm := s.tr.spdm.set path x }

/-- A request that needs a finished negotiation. -/
def State.spdmReady (s : State) (path : Nat) (f : State → Spdm → State) : State :=
  s.spdm path (fun s x => if x.st = 3 then f s x else s.spdmFail path errUnexpected)

/-- The certificate chain of slot 0: Nylis root, DeviceID, Alias. -/
def State.chain (s : State) : List Byte := Config.certChain s.tr.identity ((s.image.map Image.header).getD [])

/-- A measurement (R450). -/
def State.measurement (s : State) (i : Nat) : List Byte :=
  match i with
  | 1 => Config.bootRom
  | 2 => Config.sha384 ((s.image.map Image.header).getD [])
  | 3 => if s.tr.standby = 0 then zeros 48 else match s.standbyImage with
    | some x => Config.sha384 x.header
    | none => zeros 48
  | _ => le 4 s.tr.fuseSvn ++ le 1 s.tr.revoked.toNat

/-- GET_VERSION: 1.3, and the negotiation starts anew. -/
def execGetVersion (path : Nat) (s : State) : Host.Outcome State Fault Refusal :=
  .next (s.spdm path (fun s x => (s.setSpdm path { x with st := 1 }).emit (.spdm path 0x04 [0x13] [])))

/-- GET_CAPABILITIES. -/
def execGetCapabilities (path : Nat) (s : State) : Host.Outcome State Fault Refusal :=
  .next (s.spdm path (fun s x =>
    if x.st = 1 then (s.setSpdm path { x with st := 2 }).emit (.spdm path 0x61 [] []) else s.spdmFail path errUnexpected))

/-- NEGOTIATE_ALGORITHMS: ECDSA P-384 with SHA-384, ECDHE on P-384, AES-256-GCM. -/
def execNegotiateAlgorithms (path : Nat) (s : State) : Host.Outcome State Fault Refusal :=
  .next (s.spdm path (fun s x =>
    if x.st = 2 then (s.setSpdm path { x with st := 3 }).emit (.spdm path 0x63 [384, 384, 256] [])
    else s.spdmFail path errUnexpected))

/-- GET_DIGESTS: slot 0. -/
def execGetDigests (path : Nat) (s : State) : Host.Outcome State Fault Refusal :=
  .next (s.spdmReady path (fun s _ => s.emit (.spdm path 0x01 [1] (Config.sha384 s.chain))))

/-- GET_CERTIFICATE: slot 0 alone is supported. -/
def execGetCertificate (path slot : Nat) (s : State) : Host.Outcome State Fault Refusal :=
  .next (s.spdmReady path (fun s _ => if slot = 0 then s.emit (.spdm path 0x02 [0] s.chain) else s.spdmFail path errInvalid))

/-- CHALLENGE: the chain's digest, the nonce and a signature of the Alias key. -/
def execChallenge (path slot : Nat) (nonce : List Byte) (s : State) : Host.Outcome State Fault Refusal :=
  .next (s.spdmReady path (fun s _ =>
    if slot = 0 then
      let (s, sig) := s.freeBytes 96
      s.emit (.spdm path 0x03 [0] (Config.sha384 s.chain ++ nonce ++ sig))
    else s.spdmFail path errInvalid))

/-- GET_MEASUREMENTS: their number for index 0, one of the four, or all for index 255. -/
def execGetMeasurements (path index : Nat) (s : State) : Host.Outcome State Fault Refusal :=
  .next (s.spdmReady path (fun s _ =>
    if index = 0 then s.emit (.spdm path 0x60 [4] [])
    else if index = 255 then s.emit (.spdm path 0x60 [4] ((rangeFrom 1 4).flatMap s.measurement))
    else if index ≤ 4 then s.emit (.spdm path 0x60 [1] (s.measurement index))
    else s.spdmFail path errInvalid))

/-- KEY_EXCHANGE: a session begins; the requester is the owner or not. -/
def execKeyExchange (path : Nat) (owner : Bool) (s : State) : Host.Outcome State Fault Refusal :=
  .next (s.spdmReady path (fun s x =>
    let (s, sig) := s.freeBytes 96
    (s.setSpdm path { x with sessions := x.sessions ++ [(x.next, owner, false)], next := x.next + 1 }).emit
      (.spdm path 0x64 [x.next] sig)))

/-- Change the session of a path that a request names, or answer that there is none. -/
def State.onSession (s : State) (path session : Nat) (ok : Bool → Bool) (f : List (Nat × Bool × Bool) → List (Nat × Bool × Bool))
    (code : Nat) : State :=
  s.spdmReady path (fun s x =>
    match x.sessions.find? (fun y => y.1 == session) with
    | none => s.spdmFail path errSession
    | some y =>
      if ok y.2.2 then (s.setSpdm path { x with sessions := f x.sessions }).emit (.spdm path code [session] [])
      else s.spdmFail path errUnexpected)

/-- FINISH: the session is established. -/
def execFinish (path session : Nat) (s : State) : Host.Outcome State Fault Refusal :=
  .next (s.onSession path session not (fun l => l.map (fun y => if y.1 = session then (y.1, y.2.1, true) else y)) 0x65)

/-- KEY_UPDATE. -/
def execKeyUpdate (path session : Nat) (s : State) : Host.Outcome State Fault Refusal :=
  .next (s.onSession path session id id 0x69)

/-- HEARTBEAT. -/
def execHeartbeat (path session : Nat) (s : State) : Host.Outcome State Fault Refusal :=
  .next (s.onSession path session id id 0x68)

/-- END_SESSION. -/
def execEndSession (path session : Nat) (s : State) : Host.Outcome State Fault Refusal :=
  .next (s.onSession path session id (fun l => l.filter (fun y => y.1 != session)) 0x6C)

/-! ## IDE (R446, R447) -/

/-- IDE_KEY_PROGRAM: within an SPDM session on the head's DOE, the keys of CXL.io or of CXL.cachemem IDE become active. -/
def execIdeKeyProgram (head : Nat) (cachemem : Bool) (s : State) : Host.Outcome State Fault Refusal :=
  .next (if head < 8 && s.spdmUp head && (s.spdmOf head).sessions.any (fun y => y.2.2) then
      let bit := BitVec.ofNat 8 (2 ^ head)
      if cachemem then { s with tr.ideMem := s.tr.ideMem ||| bit } else { s with tr.ideIo := s.tr.ideIo ||| bit }
    else s)

/-- IDE_CHECK_FAILURE: the error of the CXL specification, and a log entry; other heads are not affected. -/
def execIdeCheckFailure (head : Nat) (s : State) : Host.Outcome State Fault Refusal :=
  .next (if s.tr.ideIo.getLsbD head || s.tr.ideMem.getLsbD head then (s.logE 0x0B02 none head 0).emit (.ideError head) else s)

end Sys2Proof.Machine
end

