-- ==== Sys2Proof/Machine/Heads.lean ====
section
/-! DEFINITION. Heads and functions (R491 to R516): links, the resets of R508, HDM decoders (R500, R423), INTA (R505), the
configuration space (R495, R496) and completion timeouts (R514). -/

namespace Sys2Proof.Machine

/-! ## Function-level reset (R76, R233, R292, R508, R516, R572, R584) -/

/-- Cancel an operation as OP_CANCEL would; one issued through the function that is reset writes nothing further. -/
def State.cancelFor (s : State) (f : Nat) : State :=
  s.over s.liveOps (fun s x =>
    let mine := match x.2.o with
      | .qp g _ => g == f
      | .mgmt _ _ => false
    if mine then s.modOp x.1 (fun o => { o.askCancel with dead := true }) else s)

/-- Cancel the stream runs that deliver to a function; they write nothing further to it. -/
def State.cancelRuns (s : State) (f : Nat) : State :=
  s.over s.streams (fun s x => match x.2.run with
    | some r =>
      if r.func = f ∧ r.fail.isNone then
        (s.modRun x.1 (fun r => { r with fail := some r.released })).modOp r.handle Op.askCancel
      else s
    | none => s)

/-- Whether an origin is a queue pair of a function. -/
def ofFunc (f : Nat) (o : Origin) : Bool :=
  match o with
  | .qp g _ => g == f
  | .mgmt _ _ => false

/-- The state of a function after a reset of R508 with its cause: the HST_ registers and what belongs to its logical device stand. -/
def Func.afterReset (f : Func) (cause : Nat) : Func :=
  { f with resetCause := cause, resetSeen := true, intxDis := false, d3hot := false, cplRange := 0, cplDis := false, maxPayload := 0,
           maxRead := 2, tags := 0, cfg := [], latch := none }

/-- Reset a function (R508). -/
def State.resetFunction (s : State) (f cause : Nat) : State :=
  let s := (s.cancelFor f).cancelRuns f
  let s := { s with
    q.qps := s.q.qps.filter (fun (p : Nat × Qp) => p.1 / 64 != f)
    q.cmq := s.q.cmq.del f
    q.waiting := s.q.waiting.filter (fun w => !ofFunc f w.o)
    q.replies := s.q.replies.filter (fun (r : PendReply) => !ofFunc f r.o)
    cfg.heldBlocks := s.cfg.heldBlocks.filter (fun (b : HeldBlock) => !ofFunc f b.o) }
  let s := (s.updInta f).closeChans f
  { s.modFunc f (fun x => x.afterReset cause) with ras.pops := s.ras.pops.set f s.ras.nextLseq }

/-- Start the recall of every line that a logical device holds (R312). -/
def State.recallLd (s : State) (ld : Nat) (silent : Bool) : State :=
  s.over (s.ti.extents.filter (fun (e : Nat × Extent) => e.2.ld == ld && e.2.serves && e.2.hdmDb && e.2.kind == 0)) (fun s e =>
    { s with sh.recalls := s.sh.recalls ++
        [{ slot := e.2.slot, lo := e.2.doff, hi := e.2.doff + e.2.len, sharer := some e.2.sharer, ld := ld, cursor := 0,
           silent := silent, handle := none }] })

/-- The HDM decoders of a logical device return to their reset values. -/
def State.dropDecoders (s : State) (ld : Nat) : State := s.modFunc ld (fun f => { f with decoders := [] })

/-- A head loses its link: every function of it is reset, its decoders too, its lines are recalled, and its IDE streams and the SPDM
sessions of its DOE end (R447, R508, R510). -/
def State.loseHead (s : State) (h cause : Nat) : State :=
  let s := s.modHead h (fun x => { x with up := false, rate := 0, width := 0, l0p := false })
  let bit := BitVec.ofNat 8 (2 ^ h)
  let s := { s with tr.ideIo := s.tr.ideIo &&& ~~~bit, tr.ideMem := s.tr.ideMem &&& ~~~bit, tr.spdm := s.tr.spdm.del h }
  s.over (rangeFrom (16 * h) 16) (fun s f => ((s.resetFunction f cause).dropDecoders f).recallLd f true)

/-- PERST_N_ASSERT (R508); no effect while CHIP_RST_N is asserted (R555). -/
def execPerstNAssert (head : Nat) (s : State) : Host.Outcome State Fault Refusal :=
  .next (if s.pmu.inReset || decide (8 ≤ head) || (s.head head).perst then s
    else (s.loseHead head 1).modHead head (fun x => { x with perst := true }))

/-- PERST_N_DEASSERT: the head may train. -/
def execPerstNDeassert (head : Nat) (s : State) : Host.Outcome State Fault Refusal :=
  .next (if s.pmu.inReset || decide (8 ≤ head) then s else s.modHead head (fun x => { x with perst := false }))

/-- HOT_RESET. -/
def execHotReset (head : Nat) (s : State) : Host.Outcome State Fault Refusal :=
  .next (if head < 8 && (s.head head).up then s.loseHead head 2 else s)

/-- LINK_DISABLE. -/
def execLinkDisable (head : Nat) (s : State) : Host.Outcome State Fault Refusal :=
  .next (if head < 8 && (s.head head).up then s.loseHead head 3 else s)

/-- HEAD_LINK_LOSS (R510): what was outstanding on the head belongs to functions that the reset leaves without queue pairs and
channels. -/
def execHeadLinkLoss (head : Nat) (s : State) : Host.Outcome State Fault Refusal :=
  .next (if head < 8 && (s.head head).up then s.loseHead head 4 else s)

/-- Whether CXL operation supports a rate in GT/s and a width (R491). -/
def linkMode (rate width : Nat) : Bool := (rate == 32 || rate == 64) && [4, 8, 16].contains width

/-- HEAD_LINK_UP (R491, R512): from TRAIN on; a partner that cannot negotiate CXL with 256-byte flits leaves the head without a
function. Reservations on it are scaled where it runs below its full rate. -/
def execHeadLinkUp (head rate width : Nat) (mld lopt flit256 : Bool) (s : State) : Host.Outcome State Fault Refusal :=
  .next (if decide (8 ≤ head) || (s.head head).up || (s.head head).perst || s.pmu.inReset || decide (s.pmu.stage < 2)
        || decide (5 < s.pmu.stage) then s
    else if !flit256 || !linkMode rate width then s.logE 0x0005 none head 0
    else (s.modHead head (fun x =>
      { x with up := true, rate := rate, width := width, mld := mld, lopt := lopt, l0p := false })).logScaled s)

/-- LINK_SPEED_CHANGE (R492): the head's new rate and width, and whether L0p reduces the width. -/
def execLinkSpeedChange (head rate width : Nat) (l0p : Bool) (s : State) : Host.Outcome State Fault Refusal :=
  .next (if head < 8 && (s.head head).up && linkMode rate width then
      (s.modHead head (fun x => { x with rate := rate, width := width, l0p := l0p })).logScaled s
    else s)

/-- FUNCTION_LEVEL_RESET. -/
def execFunctionLevelReset (func : Nat) (s : State) : Host.Outcome State Fault Refusal :=
  .next (if s.isActive && s.hasFunc func then s.resetFunction func 5 else s)

/-- CXL_RESET (R508, R509): as a function-level reset, with the decoders reset and a recall that sends no snoops. -/
def execCxlReset (func : Nat) (s : State) : Host.Outcome State Fault Refusal :=
  .next (if s.isActive && s.hasFunc func then ((s.resetFunction func 6).dropDecoders func).recallLd func true else s)

/-! ## HDM decoders (R423, R500) -/

/-- Whether a decoder's values are ones that the device supports. -/
def decoderOk (d : HdmDecoder) : Bool :=
  [1, 2, 4, 8, 16].contains d.ways && [256, 512, 1024, 2048, 4096, 8192, 16384].contains d.gran && decide (d.position < d.ways)

/-- HDM_DECODER_COMMIT: a commit for which a standby logical device is paired takes effect when the partner has answered
(R423). -/
def execHdmDecoderCommit (func i : Nat) (d : HdmDecoder) (s : State) : Host.Outcome State Fault Refusal :=
  .next (if !s.isActive || !s.hasFunc func || decide (4 ≤ i) || (d.committed && !decoderOk d) then s
    else
      let pairs := s.herd.standbys.filter (fun x => x.2.1 == func)
      let set := fun (s : State) (d : HdmDecoder) => s.modFunc func (fun f => { f with decoders := f.decoders.set i d })
      let s := set s (if pairs.isEmpty then d else { d with committed := false })
      s.over pairs (fun s x =>
        match s.herd.domains.find? (fun r => r.hdom == x.1), s.slotOfHdom x.1 with
        | some r, some slot => match hAt r 1 with
          | some dev =>
            s.request { s.mkMsg 0x2D dev slot 0 with data := zeros 64, arg := BitVec.ofNat 128 (x.2.2 + i * 2 ^ 8), pay := .decoder d }
              (if d.committed then .commit func i else .quiet)
          | none => set s d
        | _, _ => set s d))

/-! ## INTA and configuration requests -/

/-- INTX_DISABLE_WRITE (R505): cleared, INTA is asserted at once if the condition holds. -/
def execIntxDisableWrite (func : Nat) (disable : Bool) (s : State) : Host.Outcome State Fault Refusal :=
  .next (if s.isActive && s.hasFunc func then (s.modFunc func (fun f => { f with intxDis := disable })).updInta func else s)

/-- The extended capabilities in their order, with the IDs of PCIe 6.2 (R496; PRESUMED, assumption 39). -/
def extCaps : List (Nat × Nat) :=
  [(0x100, 0x01), (0x180, 0x03), (0x190, 0x23), (0x1D0, 0x23), (0x1F0, 0x23), (0x220, 0x2E), (0x240, 0x25), (0x250, 0x26),
   (0x280, 0x2A), (0x2B0, 0x31), (0x2D0, 0x27), (0x320, 0x30)]

/-- The header of an extended capability: ID, version 1 and the next pointer. -/
def extHeader (off : Nat) : List (Nat × Nat) → Option Nat
  | [] => none
  | [(o, i)] => if o = off then some (i + 2 ^ 16) else none
  | (o, i) :: (o2, i2) :: l => if o = off then some (i + 2 ^ 16 + 2 ^ 20 * o2) else extHeader off ((o2, i2) :: l)

/-- The bits of a header dword that software writes: command, base addresses and interrupt line (R495). -/
def cfgMask (off : Nat) : Nat :=
  match off with
  | 0x04 => 0x146
  | 0x10 => 0xFFF00000
  | 0x14 => 0xFFFFFFFF
  | 0x18 => 0xFFFC0000
  | 0x1C => 0xFFFFFFFF
  | 0x24 => 0xFFFFFFF0
  | 0x3C => 0xFF
  | _ => 0

/-- A dword of a function's configuration space (R495, R496); what the manual leaves to PCIe 6.2 and CXL 3.1 is open. -/
def State.cfgRead (s : State) (f off : Nat) : Nat :=
  let x := s.func f
  let held := (x.cfg.getD off 0).toNat
  let cap := (s.func (16 * headOf f)).linkCap.toNat
  let open_ := (Config.cfgSpace off).toNat
  match off with
  | 0x00 => Config.vendorId.toNat + 0x7725 * 2 ^ 16
  | 0x04 => held + bitAt x.intxDis 10 + bitAt (s.intaDue f) 19 + 2 ^ 20
  | 0x08 => s.tr.siliconRev.toNat + 0x050210 * 2 ^ 8
  | 0x10 => held + 4
  | 0x14 => held
  | 0x18 => held + 4
  | 0x1C => held
  | 0x20 => 0xC
  | 0x24 => held
  | 0x2C => s.pmu.subsysVendor + 2 ^ 16 * s.pmu.subsysId
  | 0x34 => 0x40
  | 0x3C => held + 2 ^ 8
  | 0x40 => 0x01 + 0x50 * 2 ^ 8 + 2 ^ 16 * (open_ / 2 ^ 16)
  | 0x44 => (if x.d3hot then 3 else 0) + 8
  | 0x50 => 0x10 + 2 ^ 16 * (open_ / 2 ^ 16)
  | 0x58 => x.maxPayload * 2 ^ 5 + 2 ^ 12 * x.maxRead
  | 0x60 => cap
  | 0x78 => x.cplRange + bitAt x.cplDis 4 + 2 ^ 12 * x.tags
  | 0x184 => s.serial.toNat % 2 ^ 32
  | 0x188 => s.serial.toNat / 2 ^ 32
  | 0x198 => 2 ^ 16 * (open_ / 2 ^ 16)
  | 0x1D8 => 7 + 2 ^ 16 * (open_ / 2 ^ 16)
  | 0x1F8 => 8 + 2 ^ 16 * (open_ / 2 ^ 16)
  | _ => (extHeader off extCaps).getD open_

/-- Carry out a configuration request (R495, R496, R505, R514). -/
def State.cfgDo (s : State) (f : Nat) (r : CfgReq) : State :=
  match r with
  | .read off => s.emit (.cfgData f off (BitVec.ofNat 32 (s.cfgRead f off)))
  | .dState d => (s.modFunc f (fun x => { x with d3hot := d })).updInta f
  | .devCtl2 range disable => s.modFunc f (fun x => { x with cplRange := range % 16, cplDis := disable })
  | .linkCap v =>
    if f % 16 = 0 ∧ ¬(s.head (headOf f)).mld then s.modFunc f (fun x => { x with linkCap := v })
    else s.ignored f 0x60 v.toNat
  | .devCtl p r t => s.modFunc f (fun x => { x with maxPayload := p % 8, maxRead := r % 8, tags := t % 4 })
  | .other off v =>
    if cfgMask off = 0 then s
    else s.modFunc f (fun x => { x with cfg := x.cfg.set off (v &&& BitVec.ofNat 32 (cfgMask off)) })

/-- CONFIGURATION_REQUEST: before MEMORY_ACTIVE it is answered with retry status (R509). -/
def execConfigurationRequest (func : Nat) (r : CfgReq) (s : State) : Host.Outcome State Fault Refusal :=
  .next (if !(s.head (headOf func)).up || decide (128 ≤ func) then s
    else if !s.isActive then s.emit (.cfgRetry func)
    else if !s.hasFunc func then s.emit (.ioUr func)
    else s.cfgDo func r)

/-- COMPLETION_TIMEOUT (R514): a request of the device to a function times out and fails alone: of a queue pair's ring, of a DMA
channel (true), or of a command's own data, whose failure is COMMAND_DATA_ACCESS_FAILURE. -/
def execCompletionTimeout (func : Nat) (d : Option (Nat × Bool)) (s : State) : Host.Outcome State Fault Refusal :=
  .next (if !s.isActive || !s.hasFunc func || (s.func func).cplDis then s
    else
      let s := s.modFunc func (fun f => { f with cplTo := cntAdd f.cplTo 1 })
      match d with
      | some (ch, true) => if (s.chan ch).any (fun (c : Chan) => c.func == func) then s.dmaFailure ch else s
      | some (n, false) => if (s.qp func n).any Qp.enabled then s.faultQp func n 1 else s
      | none => s)

end Sys2Proof.Machine
end

