-- ==== Sys2Proof/Machine/Boot.lean ====
section
/-! DEFINITION. CHIP_RST_N, the boot stages (R554 to R559) and thermal sensing (R563 to R566). -/

namespace Sys2Proof.Machine

/-! ## CHIP_RST_N (R554) -/

/-- What is kept through CHIP_RST_N: the fuses, the flash bad-block lists of R363 and the boot flash, whose images are found again by
the boot ROM. The instruction register of the TAP is not reset by it (R530). -/
def State.afterChipReset (s : State) : State :=
  { State.reset with
    pending := s.pending
    out := s.out
    str.free := s.str.free
    fl.blocks := s.fl.blocks.filter (fun (b : Nat × FBlock) => b.2.st == 4)
    tst.ir := s.tst.ir
    tr.fuseSvn := s.tr.fuseSvn
    tr.revoked := s.tr.revoked
    tr.siliconRev := s.tr.siliconRev
    tr.identity := s.tr.identity
    tr.imgA := s.tr.imgA
    tr.imgB := s.tr.imgB
    pmu.inReset := true }

/-- CHIP_RST_N_ASSERT: a pulse shorter than 10 µs may be ignored, and is. -/
def execChipRstNAssert (heldNs : Nat) (s : State) : Host.Outcome State Fault Refusal :=
  .next (if heldNs < 10000 then s else s.afterChipReset)

/-- CHIP_RST_N_DEASSERT: stage ROM begins, and the fuses are read; what FW_COMMIT has fused stands (R457). -/
def execChipRstNDeassert (f : Fuses) (s : State) : Host.Outcome State Fault Refusal :=
  .next (if !s.pmu.inReset then s
    else { s with
      pmu.inReset := false
      tr.fuseSvn := max s.tr.fuseSvn f.fuseSvn
      tr.revoked := s.tr.revoked ||| f.revoked
      tr.siliconRev := f.siliconRev
      tr.identity := f.identity })

/-! ## Boot stages (R455, R557 to R559) -/

/-- Whether a boot stage is in force. -/
def State.inStage (s : State) (n : Nat) : Bool := s.pmu.stage == n && !s.pmu.inReset

/-- BOOT_ROM_COMPLETE: the image that the boot flash's marker names runs, else the other; with neither valid the device is in recovery. -/
def execBootRomComplete (marker : List Byte) (imgA imgB : Option Image) (s : State) : Host.Outcome State Fault Refusal :=
  .next (if !s.inStage 0 then s
    else
      let s := { s with tr.imgA := imgA, tr.imgB := imgB, tr.standby := 0 }
      let markerB := markerSet marker
      let a := s.validImage imgA
      let b := s.validImage imgB
      if !a && !b then { s with pmu.stage := 6, tr.activeB := markerB }
      else { s with pmu.stage := 1, tr.activeB := if markerB then b else !a })

/-- CORE_INIT_COMPLETE. -/
def execCoreInitComplete (s : State) : Host.Outcome State Fault Refusal :=
  .next (if s.inStage 1 then { s with pmu.stage := 2 } else s)

/-- TRAIN_COMPLETE: pseudo-channels that failed are retired before any data is stored on them; unused flash dies are logged
(R360, R559). -/
def execTrainComplete (failedPcs : List (Nat × Nat)) (flash : Option FlashPop) (s : State) : Host.Outcome State Fault Refusal :=
  .next (if !s.inStage 2 then s
    else
      let s := s.over (failedPcs.filter (fun x => decide (x.1 < 12) && decide (x.2 < 32))) (fun s x =>
        s.modPc x.1 x.2 (fun c => { c with st := 3 }))
      let s := match flash with
        | none => s
        | some p =>
          let s := s.over p.unusedDies (fun s x => s.logE 0x0609 none (x.1 * 256 + x.2) 0)
          let kept := (s.fl.blocks.map (fun (b : Nat × FBlock) => (b.1 / 65536, b.1 % 65536))).filter (fun x => !p.badBlocks.contains x)
          let s := s.over p.badBlocks (fun s x => s.modBlock x.1 x.2 (fun b => { b with st := 4 }))
          { s with fl.pop := some { p with badBlocks := p.badBlocks ++ kept }, fl.profileBad := !p.ok }
      { s with pmu.stage := 3 })

/-- Whether a tray record is present: its MAGIC, VERSION and CRC are right (R558). -/
def trayOk (b : List Byte) : Bool :=
  fieldAt b 0 4 == 0x54524159 && fieldAt b 4 1 == 1 && fieldAt b 0x3C 4 == (crc32c (sub b 0 0x3C)).toNat

/-- A flash population with the ratings of a tray record's profile (R362, R558). -/
def rated (p : FlashPop) (b : List Byte) : FlashPop :=
  { p with ratedPslc := fieldAt b 0x14 4, ratedNative := fieldAt b 0x18 4, trPslcNs := fieldAt b 0x1C 4,
           trNativeNs := fieldAt b 0x20 4, suspendNs := fieldAt b 0x24 4 }

/-- CONFIG_COMPLETE: the tray record is applied and the capacities are computed. With HERD_MODE 1 the device waits for its herd,
unless HERD_FORM or HERD_JOIN is done already. -/
def execConfigComplete (trayRecord : List Byte) (toActiveMs : Nat) (s : State) : Host.Outcome State Fault Refusal :=
  .next (if !s.inStage 3 then s
    else
      let ok := trayOk trayRecord
      let mode := if ok ∧ fieldAt trayRecord 5 1 = 1 then 1 else 0
      let pop := s.fl.pop.map (fun p => rated p trayRecord)
      let s := if ok then { s with fl.pop := pop, fl.profileBad := pop.any (fun p => !p.ok) } else { s with fl.profileBad := true }
      let s := { s with
        pmu.herdMode := mode
        pmu.subsysVendor := if ok then fieldAt trayRecord 8 2 else 0xFFFF
        pmu.subsysId := if ok then fieldAt trayRecord 0xA 2 else 0xFFFF }.setCaps
      if mode = 0 ∨ s.herd.st = 2 ∨ s.herd.st = 3 then s.enterActive toActiveMs else { s with pmu.stage := 4 })

/-! ## Thermal sensing (R563 to R566) -/

/-- The throttle limit, the release and the trip temperature of a sensor, in 1/16 °C. -/
def sensorLimits (i : Nat) : Int × Int × Int := if i < 36 then (1600, 1520, 1840) else (1472, 1392, 1600)

/-- The governors with their sensors. -/
def sensorGovs : List (Gov × List Nat) :=
  [(.hub, List.range 4)]
    ++ (List.range 4).map (fun n => (.store n, rangeFrom (4 + 2 * n) 2))
    ++ (List.range 4).map (fun n => (.engine n, rangeFrom (12 + 4 * n) 4))
    ++ (List.range 4).map (fun n => (.linkDie n, rangeFrom (28 + 2 * n) 2))
    ++ (List.range 12).map (fun n => (.stack n, [36 + n]))

/-- A level after a sample: up by 1, down by 1 or held. -/
def stepLevel (l : Nat) (hot cool : Bool) : Nat := if hot then min 7 (l + 1) else if cool then l - 1 else l

/-- The reading of a sensor in a sample. -/
def reading (temps : List (BitVec 16)) (i : Nat) : Int := (temps.getD i 0).toInt

/-- The levels after a sample (R563). -/
def State.sampleLevels (s : State) (temps : List (BitVec 16)) (watts : Nat) : FMap Nat :=
  let lv := sensorGovs.foldl (fun (m : FMap Nat) g =>
    let hot := g.2.any (fun i => decide ((sensorLimits i).1 ≤ reading temps i))
    let cool := g.2.all (fun i => decide (reading temps i < (sensorLimits i).2.1))
    m.set g.1.key (stepLevel (s.level g.1) hot cool)) []
  let cap := s.dev fPwrCap
  lv.set Gov.power.key (stepLevel (s.level .power) (decide (cap ≤ watts)) (decide (watts * 100 < cap * 95)))

/-- Keep a sample of every sensor, and the highest of each since CHIP_RST_N (R569). -/
def State.keepTemps (s : State) (temps : List (BitVec 16)) : State :=
  s.over (List.range 48) (fun s i =>
    let t := temps.getD i 0
    let mx := match s.pmu.temps.get? i with
      | some (x : BitVec 16 × BitVec 16) => if x.2.toInt < t.toInt then t else x.2
      | none => if (0 : Int) < t.toInt then t else 0
    { s with pmu.temps := s.pmu.temps.set i (t, mx) })

/-- The package trips (R566): heads and links are idle, the clocks stop, and what T0 and T1 held is lost. -/
def State.trip (s : State) : State :=
  { s with
    pmu.stage := 7
    pmu.thermtrip := true
    heads := s.heads.map (fun (h : Nat × Head) => (h.1, { h.2 with up := false, rate := 0, width := 0, l0p := false }))
    herd.links := s.herd.links.map (fun (l : Nat × Link) => (l.1, { l.2 with st := 0 }))
    mem := []
    syn := [] }

/-- THERMAL_SAMPLE: at cycle 768 of each stride whose count modulo 64 is 63; a sensor at its trip limit trips the package. -/
def execThermalSample (temps : List (BitVec 16)) (watts : Nat) (s : State) : Host.Outcome State Fault Refusal :=
  .next (if s.pmu.inReset || s.pmu.stage == 7 || s.str.count % 64 != 63 then s
    else
      let next := s.sampleLevels temps watts
      let s := { s.keepTemps temps with pmu.nextLevels := some next, pmu.estW := watts % 65536 }
      if (List.range 48).any (fun i => decide ((sensorLimits i).2.2 ≤ reading temps i)) then s.trip else s)

end Sys2Proof.Machine
end

