-- ==== Sys2Proof/Machine/Impressions.lean ====
section
/-! DEFINITION. Impressions (R315 to R321), recalls and DIR_RECALL (R312, R323), and their part of a boundary. -/

namespace Sys2Proof.Machine

/-- The directory entries that one slice scans. -/
def scanMax : Nat := 262144

/-- The directory entries of a domain's share: TOTAL of a scan (R317). -/
def State.scanTotal (s : State) (slot : Nat) : Nat := 65536 * s.domF slot fDirShare

/-! ## Impressions -/

/-- The domain offsets that an extent maps (R107, R241, R320). -/
def State.mapsOf (s : State) (e : Extent) : Nat × Nat :=
  if e.kind = 1 then (0, 0)
  else if e.kind = 2 then (e.doff, ((s.opr.binds.get? e.target).map Binding.tlen).getD 0)
  else (e.doff, e.len)

/-- Whether what IMPRESSION_OPEN names is in range and apart from everything that it must not meet (R315, R316). -/
def State.imprOk (s : State) (slot first count area areaCount : Nat) : Bool :=
  let src := (first, count)
  let cpy := (area, areaCount)
  let bytes := (4096 * area, 4096 * areaCount)
  first % 512 == 0 && count % 512 == 0 && decide (512 ≤ count) && decide (count ≤ 2 ^ 24)
    && decide (2 ≤ areaCount) && decide (areaCount ≤ 2 ^ 25) && decide (4096 * (first + count) ≤ s.size slot)
    && decide (4096 * (area + areaCount) ≤ s.size slot) && decide (mapPlates count + 1 ≤ areaCount) && !meets src cpy
    && !s.sh.imprs.any (fun (m : Nat × Impr) => m.2.slot == slot && meets (m.2.area, m.2.areaCount) cpy)
    && !s.ti.extents.any (fun (e : Nat × Extent) => e.2.slot == slot && meets (s.mapsOf e.2) bytes)

/-- The greatest number of open impressions that cover one plate of a range: it is reached at the first plate of the range or
of one of them. -/
def State.covered (s : State) (slot first count : Nat) : Nat :=
  let l := s.sh.imprs.filter (fun (m : Nat × Impr) => m.2.slot == slot && meets (m.2.first, m.2.count) (first, count))
  let starts := (max first) <$> (first :: l.map (fun (m : Nat × Impr) => m.2.first))
  starts.foldl (fun n p => max n (l.filter (fun (m : Nat × Impr) =>
    decide (m.2.first ≤ p) && decide (p < m.2.first + m.2.count))).length) 0

/-- IMPRESSION_OPEN (R315 to R317): the lowest free ID; the range seals from the next boundary. -/
def cImpressionOpen : Cmd := longCmd 0x0200 true .any (fun s _ p =>
  let slot := slotOf p
  let (first, count, area, areaCount) := (p.p0.toNat, p.p1.toNat, p.p2.toNat, p.p3.toNat)
  if !s.imprOk slot first count area areaCount then deny s stBadParam
  else if s.domF slot fImprLimit ≤ (s.sh.imprs.filter (fun (m : Nat × Impr) => m.2.slot == slot)).length
      ∨ 16 ≤ s.covered slot first count then deny s stNoResource
  else match s.sh.imprs.firstFree 65536 with
    | none => deny s stNoResource
    | some id =>
      let m : Impr := { slot := slot, first := first, count := count, area := area, areaCount := areaCount, st := 3, capture := 0,
                        copies := 0, torn := 0, map := [], scanned := 0, snoops := [] }
      ({ s with sh.imprs := s.sh.imprs.set id m }, .start (.imprOpen id 0 0) (s.scanTotal slot) id 0 opRunning))

/-- An impression that a command may name (R323). -/
def State.imprFor (s : State) (slot id : Nat) : Except Nat Impr :=
  match s.sh.imprs.get? id with
  | none => .error stBadParam
  | some m => if m.slot = slot then .ok m else .error stNotPermitted

/-- Whether an IMPRESSION_CLOSE of an impression is not final. -/
def State.imprClosing (s : State) (id : Nat) : Bool :=
  s.liveOps.any (fun p => match p.2.body with
    | .imprClose i _ _ => i == id
    | _ => false)

/-- IMPRESSION_CLOSE (R321). -/
def cImpressionClose : Cmd := longCmd 0x0201 true .any (fun s _ p =>
  let id := fld p.p0.toNat 0 16
  match s.imprFor (slotOf p) id with
  | .error st => deny s st
  | .ok m =>
    if m.st = 0 ∨ m.st = 3 ∨ s.imprClosing id then deny s stBadParam
    else ({ s with sh.imprs := s.sh.imprs.set id { m with st := max m.st 2 } },
      .start (.imprClose id 0 false) (mapPlates m.count + m.copies) 0 0 opQueued))

/-- IMPRESSION_QUERY (R323). -/
def cImpressionQuery : Cmd := shortCmd 0x0202 true .any (fun s _ p =>
  match s.imprFor (slotOf p) (fld p.p0.toNat 0 16) with
  | .error st => deny s st
  | .ok m => done s stOk m.capture (m.copies % 2 ^ 32 + 2 ^ 32 * (m.torn % 2 ^ 24) + bitAt (m.st == 2 || m.st == 4) 56))

/-- Change an impression. -/
def State.modImpr (s : State) (id : Nat) (f : Impr → Impr) : State := { s with sh.imprs := s.sh.imprs.modify id f }

/-- One slice of IMPRESSION_OPEN (R317): directory entries of the range in A are recalled to S, and plates of the copy map are
made never-written. The last slice looks at every entry again. -/
def State.imprSlice (s : State) (h id cursor mapCursor : Nat) : State :=
  match s.sh.imprs.get? id with
  | none => s
  | some m =>
    let total := s.scanTotal m.slot
    let c := min total (cursor + scanMax)
    let mc := min (mapPlates m.count) (mapCursor + 256)
    if cursor = total ∧ mapCursor = mapPlates m.count ∧ m.st = 0 ∧ m.scanned = 1 then s
    else
      let part := if c = total then s.dirOf m.slot else ((s.dirOf m.slot).drop cursor).take scanMax
      let mine := part.filter (fun (x : Nat × DirEnt) => x.2.isA && decide (m.first ≤ x.1 / 64) && decide (x.1 / 64 < m.first + m.count))
      let s := s.over mine (fun s x => s.over x.2.sharers (fun s y => s.sendSnoop m.slot x.1 y false (some h) (some id)))
      let s := s.over (rangeFrom (m.area + mapCursor) (mc - mapCursor)) (fun s p => s.forget m.slot p)
      ((s.modImpr id (fun m => { m with scanned := 1 })).setBody h (.imprOpen id c mc)).ranTo h c

/-- Whether an impression may be captured: every slice done and every snoop answered (R317). -/
def State.imprReady (s : State) (id : Nat) : Bool :=
  s.ops.tab.any (fun p => match p.2.body with
    | .imprOpen i c mc => match s.sh.imprs.get? id with
      | some m => i == id && p.2.st == opRunning && !p.2.cancel && m.st == 0 && m.scanned == 1 && c == s.scanTotal m.slot
          && mc == mapPlates m.count && !s.sh.snoops.any (fun (x : Nat × Snoop) => x.2.sealing == some id && !x.2.late)
      | none => false
    | _ => false)

/-- The impressions' part of a boundary: accepted ranges begin to seal, and those ready to be captured are noted. -/
def State.imprsBoundary (s : State) : State :=
  let s := { s with sh.imprs := s.sh.imprs.map (fun (p : Nat × Impr) => (p.1, if p.2.st = 3 then { p.2 with st := 0 } else p.2)) }
  let due := (s.sh.imprs.map Prod.fst).filter s.imprReady
  { s with atBoundary := s.atBoundary ++ due.map (fun i => (2, i, 0)) }

/-- The handle of the operation that opens an impression. -/
def State.imprOp (s : State) (id : Nat) : Option Nat :=
  (s.liveOps.find? (fun p => match p.2.body with
    | .imprOpen i _ _ => i == id
    | _ => false)).map Prod.fst

/-- IMPRESSION_CAPTURE (R317): at its capture boundary the impression takes effect and its operation becomes DONE. -/
def execImpressionCapture (id : Nat) (s : State) : Host.Outcome State Fault Refusal :=
  .next (match s.takeDue 2 id with
    | none => s
    | some s => match s.imprOp id with
      | none => s
      | some h =>
        let s := s.modImpr id (fun m => { m with st := 1, capture := s.str.count })
        let s := s.modOp h (fun o => { o with st := opDone, status := stOk, done := o.total, r1 := s.str.count, ran := false })
        s.writeRecord h)

/-- An IMPRESSION_OPEN that is cancelled leaves no impression. -/
def State.imprCancelled (s : State) (id : Nat) : State := { s with sh.imprs := s.sh.imprs.del id }

/-- Whether a kind-3 extent still serves readers of an impression (R321): one that is neither FREE nor EXPIRED. -/
def State.imprRead (s : State) (id : Nat) : Bool :=
  s.ti.extents.any (fun (e : Nat × Extent) => e.2.kind == 3 && e.2.target == id && e.2.st != 4)

/-- One slice of IMPRESSION_CLOSE (R321): it waits for the readers' extents, then returns the copy map and the copies, 256
plates a slice. -/
def State.closeImprSlice (s : State) (h id cursor : Nat) (draining : Bool) : State :=
  match s.sh.imprs.get? id with
  | none => s
  | some m =>
    let n := mapPlates m.count + m.copies
    let go := draining || !s.imprRead id
    if !go then s
    else
      let k := min 256 (n - cursor)
      let s := s.modImpr id (fun m => { m with st := 4 })
      let s := s.modOp h (fun o => { o with total := n })
      let s := s.over (rangeFrom (m.area + cursor) k) (fun s p => s.forget m.slot p)
      let s := (s.setBody h (.imprClose id (cursor + k) true)).ranTo h (cursor + k)
      if cursor + k = n then s.endOp h stOk else s

/-! ## Recalls (R312) -/

/-- The entries of a domain that the next slice of a recall scans. -/
def State.recallPart (s : State) (r : Recall) : List (Nat × DirEnt) := ((s.dirOf r.slot).filter (fun (x : Nat × DirEnt) =>
  decide (r.cursor ≤ x.1))).take scanMax

/-- The entries of those that a recall concerns. -/
def Recall.hits (r : Recall) (l : List (Nat × DirEnt)) : List (Nat × DirEnt) :=
  l.filter (fun (x : Nat × DirEnt) => decide (r.lo ≤ x.1 * 64) && decide (x.1 * 64 < r.hi)
    && (match r.sharer with
      | some i => x.2.sharers.contains i
      | none => true))

/-- One slice of a recall: its entries are snooped; those of a logical device without a link, or that is recalled without
snoops, count as unanswered at the boundary after the scan reaches them. The recall goes on until its last entry. -/
def State.recallStep (s : State) (r : Recall) : State × Option Recall :=
  let quiet := r.silent || !(s.head (headOf r.ld)).up
  let seen := r.handle == some 1
  let part := s.recallPart r
  let hits := r.hits part
  let next := match part.getLast? with
    | some x => x.1 + 1
    | none => r.cursor
  if quiet then
    if seen then
      let s := s.over hits (fun s x => match r.sharer with
        | some i => (s.dropHolder r.slot x.1 i r.ld).1
        | none => s)
      let r := { r with cursor := next, handle := none }
      if (s.recallPart r).isEmpty then (s, none) else (s, some { r with handle := some 1 })
    else (s, some { r with handle := some 1 })
  else
    let s := s.over hits (fun s x => match r.sharer with
      | some i => s.sendSnoopTo r.slot x.1 i r.ld true none none
      | none => s)
    let r := { r with cursor := next, handle := none }
    if (s.recallPart r).isEmpty then (s, none) else (s, some r)

/-- The recalls' part of a boundary; snoops to a head that has lost its link count as unanswered (R312). -/
def State.recallsBoundary (s : State) : State :=
  let s := s.over s.sh.snoops (fun s p =>
    if !p.2.late && p.2.home.isNone && decide (p.2.ld < 128) && !(s.head (headOf p.2.ld)).up then s.unanswered p.1 p.2 false else s)
  let (s, l) := s.sh.recalls.foldl (fun (a : State × List Recall) r =>
    match a.1.recallStep r with
    | (s, some r) => (s, a.2 ++ [r])
    | (s, none) => (s, a.2)) (s, [])
  -- a later recall of the same lines begins a log entry of its own (R313)
  let going := fun (x : Nat) => l.any (fun r => r.slot == x / 16 && r.sharer == some (x % 16))
    || s.sh.snoops.any (fun p => p.2.slot == x / 16 && p.2.sharer == x % 16 && !p.2.late)
  { s with sh.recalls := l, sh.lostLog := s.sh.lostLog.filter (fun p => going (p.1 / 2 ^ 20)) }

/-- DIR_RECALL (R323). -/
def cDirRecall : Cmd := longCmd 0x0210 true .any (fun s _ p =>
  match plateRange p with
  | none => deny s stBadParam
  | some (first, count) =>
    (s, .start (.dirRecall (slotOf p) first count 0) (s.scanTotal (slotOf p)) 0 0 opQueued))

/-- One slice of DIR_RECALL: every holder of every entry of the range is snooped. The last slice looks at every entry
again, and leaves the cursor beyond TOTAL. -/
def State.dirRecallSlice (s : State) (h slot first count cursor : Nat) : State :=
  match s.ops.tab.get? h with
  | none => s
  | some op =>
    let c := min op.total (cursor + scanMax)
    if op.total < cursor then s
    else
      let part := if c = op.total then s.dirOf slot else ((s.dirOf slot).drop cursor).take scanMax
      let mine := part.filter (fun (x : Nat × DirEnt) => decide (first ≤ x.1 / 64) && decide (x.1 / 64 < first + count))
      let fresh := (mine.filter (fun (x : Nat × DirEnt) => !s.snooping slot x.1)).length
      let s := s.over mine (fun s x => s.recallEntry slot x.1 x.2 (some h))
      let s := s.modOp h (fun o => { o with r0 := o.r0 + fresh })
      (s.setBody h (.dirRecall slot first count (if c = op.total then c + 1 else c))).ranTo h c

/-- Whether a DIR_RECALL is over: its scan done and each of its snoops answered or timed out. -/
def State.dirRecallOver (s : State) (h total cursor : Nat) : Bool :=
  decide (total < cursor) && !s.sh.snoops.any (fun (x : Nat × Snoop) => x.2.owner == some h && !x.2.late)

/-! ## Rows -/

/-- IMPRESSION_OPEN. -/
def execImpressionOpen (o : Origin) (p : Pkt) (s : State) : Host.Outcome State Fault Refusal :=
  .next (s.packet cImpressionOpen none o p)

/-- IMPRESSION_CLOSE. -/
def execImpressionClose (o : Origin) (p : Pkt) (s : State) : Host.Outcome State Fault Refusal :=
  .next (s.packet cImpressionClose none o p)

/-- IMPRESSION_QUERY. -/
def execImpressionQuery (o : Origin) (p : Pkt) (s : State) : Host.Outcome State Fault Refusal :=
  .next (s.packet cImpressionQuery none o p)

/-- DIR_RECALL. -/
def execDirRecall (o : Origin) (p : Pkt) (s : State) : Host.Outcome State Fault Refusal :=
  .next (s.packet cDirRecall none o p)

end Sys2Proof.Machine
end

