-- ==== Sys2Proof/Machine/Domains.lean ====
section
/-! DEFINITION. Domain slots: their states (R430 to R434), parking and erasing (R443 to R445), storage keys (R440 to R442) and the
commands of the 0x0Bxx range that concern them (R458). -/

namespace Sys2Proof.Machine

/-! ## The domain table -/

/-- A slot that nothing has used since reset: FREE, without a key. -/
def Dom.reset : Dom := { st := 0, activating := false, key := none, dueKey := none }

/-- A slot's entry. -/
def State.dom (s : State) (slot : Nat) : Dom := s.doms.getD slot Dom.reset

/-- Change a slot's entry. -/
def State.modDom (s : State) (slot : Nat) (g : Dom → Dom) : State := { s with doms := s.doms.set slot (g (s.dom slot)) }

/-- Whether a slot holds a storage key. -/
def Dom.hasKey (d : Dom) : Bool := d.key.isSome

/-- Remove a slot's domain fields: each returns to its default (R445). -/
def State.dropFields (s : State) (slot : Nat) : State :=
  { s with cfg.fields := s.cfg.fields.filter (fun (p : Nat × Nat) =>
      !(p.1 / 2 ^ 48 == slot && (fieldSpec (p.1 / 65536 % 2 ^ 32)).any FieldSpec.dom)) }

/-- A change of a slot's state takes effect (R430): a slot that becomes FREE keeps no field (R445). -/
def State.setSlotState (s : State) (slot st : Nat) : State :=
  let s := s.modDom slot (fun d => { d with st := st, activating := false })
  if st = 0 then s.dropFields slot else s

/-- Whether an origin's message arrives within an SPDM session with the owner that stands on its path (R441, R450): the sessions
of endpoint e have path 8 + e. -/
def State.ownerSession (s : State) : Origin → Bool
  | .mgmt e true => (s.tr.spdm.get? (8 + e)).any (fun (x : Spdm) => x.sessions.any (fun y => y.2.1 && y.2.2))
  | .mgmt _ false => false
  | .qp _ _ => false

/-! ## Short commands -/

/-- The field elements of a slot whose sum over the slots in use is bounded (R25, R132, R325, R436), with the newest value where it is
not 0. -/
def State.summed (s : State) (slot : Nat) : List (Nat × Nat × Nat) :=
  (([fTierShare, fDirShare, fT0Part, fBridleReserve].filterMap fieldSpec).flatMap (fun f => (elemsOf f).map (fun e =>
    (f.id, e, s.newest slot f.id e)))).filter (fun x => x.2.2 != 0)

/-- The values of a FREE slot that its activation lowers to what the slots in use leave (R25, R431): a reservation, a tier share, a
directory share or a T0 partition. -/
def State.activationClamps (s : State) (slot : Nat) : List Change :=
  (s.summed slot).filterMap (fun x => match s.depOf [] false slot x.1 x.2.1 with
    | .range _ hi => if hi < x.2.2 then some (.field (fkey slot x.1 x.2.1) hi) else none
    | _ => none)

/-- DOMAIN_ACTIVATE (R430, R458): the slot becomes ACTIVE with the generation that its reply names. What a FREE slot reserves counts
nowhere (R431), so here it is lowered to what the slots in use leave, with status CLAMPED; a DOM_HDOM that another slot in use holds
is BAD_PARAM (R432; both DEDUCED, assumption 110). -/
def cDomainActivate : Cmd := shortCmd 0x0B00 true .owner (fun s _ p =>
  let x := slotOf p
  let cs := s.activationClamps x
  if !s.domFree x || decide (s.newest x fT0Part 0 < 16) || cs.any (fun c => match c with
      | .field k v => k == fkey x fT0Part 0 && decide (v < 16)
      | _ => false)
      || s.upSlots.any (fun y => s.newest y fDomHdom 0 == s.newest x fDomHdom 0) then deny s stBadParam
  else
    let (s, g, due) := (s.modDom x (fun d => { d with activating := true })).join (cs ++ [.slotState x 1])
    (s, .later due (if cs.isEmpty then stOk else stClamped) 0 g 0 []))

/-- DOMAIN_UNPARK (R444). -/
def cDomainUnpark : Cmd := shortCmd 0x0B02 true .owner (fun s _ p =>
  let x := slotOf p
  if s.domSt x ≠ 3 then deny s stBadParam
  else
    let (s, g, due) := s.join [.slotState x 1]
    (s, .later due stOk 0 g 0 []))

/-- The word of DOMAIN_QUERY, and of SEC_DOM_STATE (R458, R460). -/
def State.domWord (s : State) (slot : Nat) : Nat :=
  s.domSt slot + bitAt (s.dom slot).hasKey 3 + bitAt (s.domF slot fDomPriv == 1) 4 + 2 ^ 16 * (s.domF slot fDomHdom)

/-- DOMAIN_QUERY. -/
def cDomainQuery : Cmd := shortCmd 0x0B04 true .any (fun s _ p => done s stOk (s.domWord (slotOf p)) 0)

/-- KEY_LOAD (R441): only on a management queue, within an SPDM session with the owner. The key slot changes at the next boundary (R14;
DEDUCED, assumption 110); a key on its way counts as held. -/
def cKeyLoad : Cmd := shortCmd 0x0B10 true .mgmtOnly (fun s o p =>
  let x := slotOf p
  if !s.ownerSession o then deny s stNotPermitted
  else if !s.domFree x || (s.dom x).hasKey || ((s.dom x).dueKey.bind id).isSome || p.data.length != 64 || p.data.take 32 == p.data.drop 32 then deny s stBadParam
  else done (s.modDom x (fun d => { d with dueKey := some (some (BitVec.ofNat 512 (leNat p.data))) })) stOk 0 0)

/-- KEY_DESTROY (R442): the key goes at the next boundary. -/
def cKeyDestroy : Cmd := shortCmd 0x0B11 true .owner (fun s _ p =>
  let x := slotOf p
  if !s.domFree x then deny s stBadParam
  else done (if s.doms.has x then s.modDom x (fun d => { d with dueKey := some none }) else s) stOk 0 0)

/-- The keys' part of a boundary: those loaded are in place, those that KEY_DESTROY named are cleared. -/
def State.keysBoundary (s : State) : State :=
  { s with doms := s.doms.map (fun (p : Nat × Dom) => (p.1, { p.2 with key := p.2.dueKey.getD p.2.key, dueKey := none })) }

/-! ## DOMAIN_PARK (R443) -/

/-- The long operations of a slot short of final. -/
def State.slotOps (s : State) (slot : Nat) : Nat := (s.liveOps.filter (fun p => p.2.slot == some slot)).length

/-- Whether a binding of a slot holds something of an open round: an accepted contribution or a PENDING unit. -/
def State.roundOpen (s : State) (slot : Nat) : Bool :=
  s.opr.binds.any (fun (b : Nat × Binding) => b.2.slot == slot
    && (!b.2.snap.isEmpty || !b.2.pend.isEmpty || !b.2.finishing.isEmpty || b.2.doneUnits != 0))

/-- The T0 slots in which a slot's plates, or its map pages, stand. -/
def State.residents (s : State) (slot : Nat) (pages : Bool) : List Nat :=
  (s.ti.t0.filter (fun (u : Nat × T0Use) => u.2.slot == slot && u.2.isPage == pages)).map Prod.fst

/-- DOMAIN_PARK: of a slot that is neither ACTIVE nor left PARKING by a park that was cancelled, BAD_PARAM (DESIGN CHOICE, assumption
92). -/
def cDomainPark : Cmd := longCmd 0x0B01 true .owner (fun s _ p =>
  let x := slotOf p
  if s.domSt x ≠ 1 ∧ s.domSt x ≠ 2 then deny s stBadParam
  else if s.slotOps x != 0 || s.roundOpen x
      || s.dma.chans.any (fun (c : Nat × Chan) => c.2.slot == x && c.2.st != 0) then deny s stBusyRetry
  else
    let (s, _, _) := s.join [.slotState x 2]
    (s, .start (.park x 0) 0 0 0 opQueued))

/-- One slice of DOMAIN_PARK: in its first the directory entries are recalled; once each is answered, up to 64 plates leave T0 in a
slice, dirty ones at the boundary that ends it (R127), and the map pages after them. Phase 2 waits for the slot to become PARKED. -/
def State.parkSlice (s : State) (h slot phase : Nat) : State :=
  if phase = 0 then
    if s.domSt slot ≠ 2 then s
    else
      let n := (s.residents slot false).length
      let s := s.over (s.dirOf slot) (fun s x => s.recallEntry slot x.1 x.2 (some h))
      (s.modOp h (fun o => { o with total := n })).setBody h (.park slot 1)
  else if phase = 1 then
    if s.sh.snoops.any (fun (x : Nat × Snoop) => x.2.owner == some h && !x.2.late) then s
    else
      let plates := s.residents slot false
      let stays := plates.filter (fun t => match s.ti.t0.get? t with
        | some u => !(s.ent slot u.num).any MapEnt.moving
        | none => false)
      let s := s.over (if plates.isEmpty then (s.residents slot true).take 64 else stays.take 64) State.evict
      let s := s.modOp h (fun o => { o with done := max o.done (o.total - (s.residents slot false).length), ran := true })
      if s.occupied slot ≠ 0 then s
      else
        let (s, _, _) := s.join [.slotState slot 3]
        s.setBody h (.park slot 2)
  else s

/-! ## DOMAIN_ERASE (R445) -/

/-- The map pages of a slot. -/
def State.pagesIn (s : State) (slot : Nat) : List Nat :=
  (s.ti.pages.filter (fun (p : Nat × MapPage) => p.1 / 2 ^ 28 == slot)).map Prod.fst

/-- Whether a slot still has something that DOMAIN_ERASE must not meet. -/
def State.eraseBusy (s : State) (x : Nat) : Bool :=
  s.ti.extents.any (fun (e : Nat × Extent) => e.2.slot == x && e.2.st != 0)
    || s.q.qps.any (fun (q : Nat × Qp) => q.2.slot == some x)
    || s.streams.any (fun (t : Nat × Stream) => t.2.slot == x)
    || s.dma.chans.any (fun (c : Nat × Chan) => c.2.slot == x && c.2.st != 0)
    || s.opr.binds.any (fun (b : Nat × Binding) => b.2.slot == x)
    || s.opr.digests.any (fun (d : Nat × Digest) => d.2.slot == x)
    || s.sh.imprs.any (fun (m : Nat × Impr) => m.2.slot == x)

/-- Whether a DOMAIN_PARK or DOMAIN_ERASE of a slot is under way. -/
def State.slotLeaving (s : State) (x : Nat) : Bool :=
  s.liveOps.any (fun p => match p.2.body with
    | .park y _ => x == y
    | .erase y _ _ => x == y
    | _ => false)

/-- DOMAIN_ERASE: of a slot that is neither ACTIVE, PARKED nor left ERASING by an erase that was cancelled, BAD_PARAM (DESIGN CHOICE,
assumption 92). -/
def cDomainErase : Cmd := longCmd 0x0B03 true .owner (fun s _ p =>
  let x := slotOf p
  if s.domSt x ≠ 1 ∧ s.domSt x ≠ 3 ∧ s.domSt x ≠ 4 then deny s stBadParam
  else if s.eraseBusy x || s.slotLeaving x then deny s stBusyRetry
  else
    let (s, _, _) := s.join [.slotState x 4]
    (s, .start (.erase x 0 []) 0 0 0 opQueued))

/-- Return a map page and its plates to never-written, and free what they hold. -/
def State.erasePage (s : State) (pk : Nat) : State :=
  let slot := pk / 2 ^ 28
  let s := s.over (rangeFrom (pk % 2 ^ 28 * 256) 256) (fun s plate => s.forget slot plate)
  match s.ti.pages.get? pk with
  | none => s
  | some pg =>
    let s := match pg.t0Slot with
      | some t => s.dropT0 t
      | none => s
    { s.freeAt (s.str.count + 1) pg.tier pg.store 4096 with
      ti.pages := s.ti.pages.del pk, ti.changed := s.ti.changed.filter (· != pk) }

/-- The first step of DOMAIN_ERASE, once the slot is ERASING: its key is cleared and its segments are dropped, their proof passes
cancelled (R442, R192). -/
def State.eraseBegin (s : State) (h slot : Nat) : State :=
  let s := s.modDom slot (fun d => { d with key := none, dueKey := none })
  let mine := (s.cod.segs.filter (fun (g : Nat × Seg) => g.2.slot == slot)).map Prod.fst
  let s := s.over mine (fun s g => s.over (s.proofsOf g) (fun s x => s.modOp x.1 Op.askCancel))
  let s := s.over mine (fun s g => { s with cod.segs := s.cod.segs.modify g (fun x => { x with dropping := true }) })
  let todo := s.pagesIn slot
  (s.modOp h (fun o => { o with total := todo.length })).setBody h (.erase slot 1 todo)

/-- One slice of DOMAIN_ERASE: up to 64 map pages. Phase 2 waits for the slot to become FREE. -/
def State.eraseSlice (s : State) (h slot phase : Nat) (todo : List Nat) : State :=
  if phase = 0 ∧ s.domSt slot ≠ 4 then s
  else if phase = 2 then s
  else
    let s := if phase = 0 then s.eraseBegin h slot else s
    let todo := if phase = 0 then s.pagesIn slot else todo
    let s := s.over (todo.take 64) State.erasePage
    let s := s.modOp h (fun o => { o with done := min o.total (o.done + (todo.take 64).length), ran := true })
    if 64 < todo.length then s.setBody h (.erase slot 1 (todo.drop 64))
    else
      let (s, _, _) := s.join [.slotState slot 0]
      s.setBody h (.erase slot 2 [])

/-- Whether a DOMAIN_PARK or DOMAIN_ERASE is over: its slot has reached its last state. -/
def State.slotReached (s : State) : OpBody → Bool
  | .park x 2 => s.domSt x == 3
  | .erase x 2 _ => s.domSt x == 0
  | _ => false

/-! ## Rows -/

/-- DOMAIN_ACTIVATE. -/
def execDomainActivate (o : Origin) (p : Pkt) (s : State) : Host.Outcome State Fault Refusal :=
  .next (s.packet cDomainActivate none o p)

/-- DOMAIN_PARK. -/
def execDomainPark (o : Origin) (p : Pkt) (s : State) : Host.Outcome State Fault Refusal := .next (s.packet cDomainPark none o p)

/-- DOMAIN_UNPARK. -/
def execDomainUnpark (o : Origin) (p : Pkt) (s : State) : Host.Outcome State Fault Refusal :=
  .next (s.packet cDomainUnpark none o p)

/-- DOMAIN_ERASE. -/
def execDomainErase (o : Origin) (p : Pkt) (s : State) : Host.Outcome State Fault Refusal :=
  .next (s.packet cDomainErase none o p)

/-- DOMAIN_QUERY. -/
def execDomainQuery (o : Origin) (p : Pkt) (s : State) : Host.Outcome State Fault Refusal :=
  .next (s.packet cDomainQuery none o p)

/-- KEY_LOAD. -/
def execKeyLoad (o : Origin) (p : Pkt) (s : State) : Host.Outcome State Fault Refusal := .next (s.packet cKeyLoad none o p)

/-- KEY_DESTROY. -/
def execKeyDestroy (o : Origin) (p : Pkt) (s : State) : Host.Outcome State Fault Refusal := .next (s.packet cKeyDestroy none o p)

end Sys2Proof.Machine
end

