-- ==== Sys2Proof/Machine/HerdTake.lean ====
section
/-! DEFINITION. The arrival of Apyan messages: forwarding (R399, R401), epochs (R408), herd domains (R432), and the step of each message
of R390; the herd's timed events (R409, R412, R420). -/

namespace Sys2Proof.Machine

/-! ## Delivery -/

/-- Whether a message opcode is one of R390. -/
def knownMop (mop : Nat) : Bool :=
  [0x01, 0x02, 0x03, 0x04, 0x05, 0x06, 0x07, 0x08, 0x09, 0x10, 0x11, 0x12, 0x18, 0x20, 0x21, 0x22, 0x23, 0x24, 0x25, 0x26, 0x27, 0x28,
    0x29, 0x2A, 0x2B, 0x2C, 0x2D].contains mop

/-- Whether a message acts on a slot of this device, so that its HDOM must name an ACTIVE one (R432). -/
def needsSlot (mop : Nat) : Bool := decide (mop < 0x10) || [0x18, 0x20, 0x21, 0x22, 0x2C, 0x2D].contains mop

/-- What a message does in the slot that maps its herd domain. -/
def State.slotMsg (s : State) (slot : Nat) (m : Msg) : State :=
  match m.mop with
  | 0x01 => s.takeRdLine slot m
  | 0x02 => s.takeRdPlate slot m
  | 0x03 => s.takeWrLine slot m
  | 0x04 => s.takeContrib slot m
  | 0x05 => s.takeMirror slot m
  | 0x06 => s.takeDirtyMark slot m
  | 0x07 => s.takeParityDelta slot m
  | 0x08 => s.takePlateMove slot m
  | 0x09 => s.takeTableRec m
  | 0x18 => s.takeBisnp slot m
  | 0x20 => s.takeLockReq slot m
  | 0x21 => s.takeLockGrant slot m
  | 0x22 => s.takeLockRel slot m
  | 0x2C => s.takeDoneNote slot m
  | 0x2D => s.takeStandby slot m
  | _ => s

/-- What a message does that acts on no slot. -/
def State.memberMsg (s : State) (m : Msg) : State :=
  match m.mop with
  | 0x10 => s.takeCmp m
  | 0x11 => s.takeData m
  | 0x12 => s.takeBirsp m
  | 0x23 => s.suspect (fld m.arg.toNat 0 16) (m.arg.getLsbD 16)
  | 0x24 => s.control 0x25 m.src 0 0 .none
  | 0x25 => { s with herd.suspects := s.herd.suspects.del m.src }
  | 0x26 => s.takePropose m
  | 0x27 => s.takeAccept m
  | 0x28 => s.takeCommit m
  | 0x29 => s.takeRecordsReq m
  | 0x2A => s.takeRecords m
  | 0x2B => s.linkLastMsg m
  | _ => s

/-- A message takes effect at its destination; one whose HDOM names no ACTIVE slot is answered and logged (R432). -/
def State.takeUp (s : State) (m : Msg) : State :=
  if needsSlot m.mop then
    match (s.slotOfHdom m.hdom).filter (fun x => s.domSt x == 1) with
    | some slot => s.slotMsg slot m
    | none => (s.sendCmp m stNotPermitted false).logE 0x0B01 none m.hdom m.src
  else s.memberMsg m

/-- Count the slots of a message as freed for its sender's credits (R386, R388). -/
def State.giveCredit (s : State) (n : Nat) (m : Msg) : State :=
  let v := mopVc m.mop
  s.modLink n (fun k => { k with freed := k.freed.set v ((k.freed.getD v 0 + msgSlots m) % 65536) })

/-- A request takes effect, and its slots are freed: with the admission of the access it makes, or else at once (R21, R388). -/
def State.takeRequest (s : State) (n : Nat) (m : Msg) : State :=
  let s := { s with herd.rx := some (n, msgSlots m) }.takeUp m
  if s.herd.rx.isSome then { s with herd.rx := none }.giveCredit n m else s

/-- A message for this device, by its epoch (R408): a request of a lower epoch is turned away, a message of a higher one held; control
messages carry the agreement itself and are taken whatever their epoch (DESIGN CHOICE, assumption 37). -/
def State.receive (s : State) (n : Nat) (m : Msg) : State :=
  let e := s.herd.epoch
  let vc := mopVc m.mop
  if vc = 3 then (s.giveCredit n m).takeUp m
  else if e < m.epoch then { s with herd.held := s.herd.held ++ [(n, m)] }
  else if vc = 0 ∧ m.epoch = e then s.takeRequest n m
  else
    let s := s.giveCredit n m
    if m.epoch = e ∨ (vc ≠ 0 ∧ m.epoch + 1 = e) then s.takeUp m
    else if vc = 0 then { s with herd.nakCnt := cntAdd s.herd.nakCnt 1 }.sendCmp m stHerdDisagree true
    else s

/-- Pass a message on toward its destination (R399, R401). -/
def State.passOn (s : State) (m : Msg) : State :=
  if m.hops ≤ 1 then s.discardMsg m else s.sendMsg { m with hops := m.hops - 1 } true

/-- Take again the messages that wait, and those that the device sends itself, once each. -/
def State.pump (s : State) : State :=
  let ms := s.herd.waitMsgs
  s |> fun s => { s with herd.waitMsgs := [] } |> fun s => s.over ms State.takeUp

/-- Messages held for an epoch that is now adopted take effect, in order (R408). -/
def State.releaseHeld (s : State) : State :=
  let ready := s.herd.held.filter (fun h => decide (h.2.epoch ≤ s.herd.epoch))
  { s with herd.held := s.herd.held.filter (fun h => decide (s.herd.epoch < h.2.epoch)) }.over ready (fun s h => s.receive h.1 h.2)

/-- Whether a message is for this device. -/
def State.forMe (s : State) (m : Msg) : Bool := s.inHerd && m.dst == s.herd.device

/-- Whether a message that has arrived on a link must wait in its ingress buffer, without credits, until a stride admits it (R21, R401):
a request for which its domain's slot has too little class-2 grant. Replies, snoops and control messages never wait. -/
def State.ingressWaits (s : State) (n : Nat) (m : Msg) : Bool :=
  mopVc m.mop == 0 && knownMop m.mop && decide (s.left (s.payer m (!s.forMe m)) 2 (n / 8) < msgSlots m)

/-- An admitted message: its slots are charged to fabric ingress (R401), and it is discarded, passed on or taken. -/
def State.admitMsg (s : State) (n : Nat) (m : Msg) : State :=
  let mine := s.forMe m
  let s := s.charge (s.payer m (!mine)) 2 (n / 8) (msgSlots m)
  if !knownMop m.mop then (s.giveCredit n m).discardMsg m
  else if mine then (s.receive n m).pump
  else (s.giveCredit n m).passOn m

/-- A message arrives on a link: it is admitted, or waits behind the requests of its link that wait (R21, R389). -/
def State.takeMsg (s : State) (n : Nat) (m : Msg) : State :=
  if (s.link n).st ≠ 5 then s
  else if s.ingressWaits n m || (mopVc m.mop == 0 && s.herd.ingress.any (fun x => x.1 == n)) then
    { s with herd.ingress := s.herd.ingress ++ [(n, m)] }
  else s.admitMsg n m

/-- The requests that wait in the links' ingress buffers are admitted in order, as far as the grants of the new stride allow (R21). -/
def State.drainIngress (s : State) : State :=
  { s with herd.ingress := [] }.over s.herd.ingress (fun s x =>
    if s.ingressWaits x.1 x.2 || s.herd.ingress.any (fun y => y.1 == x.1) then { s with herd.ingress := s.herd.ingress ++ [x] }
    else s.admitMsg x.1 x.2)

/-! ## Messages -/

/-- UNKNOWN_MESSAGE (R390, R399): a MOP that no row of the table has, or no valid route. -/
def execUnknownMessage (link : Nat) (m : Msg) (s : State) : Host.Outcome State Fault Refusal := .next (s.takeMsg link m)

/-- RD_LINE. -/
def execRdLine (link : Nat) (m : Msg) (s : State) : Host.Outcome State Fault Refusal := .next (s.takeMsg link { m with mop := 0x01 })

/-- RD_PLATE. -/
def execRdPlate (link : Nat) (m : Msg) (s : State) : Host.Outcome State Fault Refusal := .next (s.takeMsg link { m with mop := 0x02 })

/-- WR_LINE. -/
def execWrLine (link : Nat) (m : Msg) (s : State) : Host.Outcome State Fault Refusal := .next (s.takeMsg link { m with mop := 0x03 })

/-- CONTRIB. -/
def execContrib (link : Nat) (m : Msg) (s : State) : Host.Outcome State Fault Refusal := .next (s.takeMsg link { m with mop := 0x04 })

/-- MIRROR. -/
def execMirror (link : Nat) (m : Msg) (s : State) : Host.Outcome State Fault Refusal := .next (s.takeMsg link { m with mop := 0x05 })

/-- DIRTY_MARK. -/
def execDirtyMark (link : Nat) (m : Msg) (s : State) : Host.Outcome State Fault Refusal := .next (s.takeMsg link { m with mop := 0x06 })

/-- PARITY_DELTA. -/
def execParityDelta (link : Nat) (m : Msg) (s : State) : Host.Outcome State Fault Refusal :=
  .next (s.takeMsg link { m with mop := 0x07 })

/-- PLATE_MOVE. -/
def execPlateMove (link : Nat) (m : Msg) (s : State) : Host.Outcome State Fault Refusal := .next (s.takeMsg link { m with mop := 0x08 })

/-- TABLE_REC. -/
def execTableRec (link : Nat) (m : Msg) (s : State) : Host.Outcome State Fault Refusal := .next (s.takeMsg link { m with mop := 0x09 })

/-- CMP. -/
def execCmp (link : Nat) (m : Msg) (s : State) : Host.Outcome State Fault Refusal := .next (s.takeMsg link { m with mop := 0x10 })

/-- DATA. -/
def execDataMsg (link : Nat) (m : Msg) (s : State) : Host.Outcome State Fault Refusal := .next (s.takeMsg link { m with mop := 0x11 })

/-- BIRSP. -/
def execBirspMsg (link : Nat) (m : Msg) (s : State) : Host.Outcome State Fault Refusal := .next (s.takeMsg link { m with mop := 0x12 })

/-- BISNP. -/
def execBisnpMsg (link : Nat) (m : Msg) (s : State) : Host.Outcome State Fault Refusal := .next (s.takeMsg link { m with mop := 0x18 })

/-- LOCK_REQ. -/
def execLockReq (link : Nat) (m : Msg) (s : State) : Host.Outcome State Fault Refusal := .next (s.takeMsg link { m with mop := 0x20 })

/-- LOCK_GRANT. -/
def execLockGrant (link : Nat) (m : Msg) (s : State) : Host.Outcome State Fault Refusal := .next (s.takeMsg link { m with mop := 0x21 })

/-- LOCK_REL. -/
def execLockRel (link : Nat) (m : Msg) (s : State) : Host.Outcome State Fault Refusal := .next (s.takeMsg link { m with mop := 0x22 })

/-- SUSPECT. -/
def execSuspect (link : Nat) (m : Msg) (s : State) : Host.Outcome State Fault Refusal := .next (s.takeMsg link { m with mop := 0x23 })

/-- PROBE. -/
def execProbe (link : Nat) (m : Msg) (s : State) : Host.Outcome State Fault Refusal := .next (s.takeMsg link { m with mop := 0x24 })

/-- PROBE_ACK. -/
def execProbeAck (link : Nat) (m : Msg) (s : State) : Host.Outcome State Fault Refusal := .next (s.takeMsg link { m with mop := 0x25 })

/-- PROPOSE. -/
def execPropose (link : Nat) (m : Msg) (s : State) : Host.Outcome State Fault Refusal := .next (s.takeMsg link { m with mop := 0x26 })

/-- ACCEPT. -/
def execAccept (link : Nat) (m : Msg) (s : State) : Host.Outcome State Fault Refusal := .next (s.takeMsg link { m with mop := 0x27 })

/-- COMMIT. -/
def execCommit (link : Nat) (m : Msg) (s : State) : Host.Outcome State Fault Refusal := .next (s.takeMsg link { m with mop := 0x28 })

/-- RECORDS_REQ. -/
def execRecordsReq (link : Nat) (m : Msg) (s : State) : Host.Outcome State Fault Refusal :=
  .next (s.takeMsg link { m with mop := 0x29 })

/-- RECORDS. -/
def execRecords (link : Nat) (m : Msg) (s : State) : Host.Outcome State Fault Refusal := .next (s.takeMsg link { m with mop := 0x2A })

/-- LINK_LAST. -/
def execLinkLast (link : Nat) (m : Msg) (s : State) : Host.Outcome State Fault Refusal := .next (s.takeMsg link { m with mop := 0x2B })

/-- DONE_NOTE. -/
def execDoneNote (link : Nat) (m : Msg) (s : State) : Host.Outcome State Fault Refusal := .next (s.takeMsg link { m with mop := 0x2C })

/-- STANDBY_SYNC. -/
def execStandbySync (link : Nat) (m : Msg) (s : State) : Host.Outcome State Fault Refusal :=
  .next (s.takeMsg link { m with mop := 0x2D })

/-! ## Timed events -/

/-- PROBE_TIMEOUT (R420): no PROBE_ACK within 200 strides. -/
def execProbeTimeout (device : Nat) (s : State) : Host.Outcome State Fault Refusal :=
  .next (match s.herd.suspects.get? device with
    | some n => if n + 200 ≤ s.str.count then s.tryRemove device else s
    | none => s)

/-- SYNC_LOSS_TIMEOUT (R420): no sync block from a member on any link for LOSS_STRIDES strides. -/
def execSyncLossTimeout (device : Nat) (s : State) : Host.Outcome State Fault Refusal :=
  .next (match s.herd.lastSeen.get? device with
    | some n =>
      if s.inHerd && s.member device && decide (n + s.dev fLossStrides ≤ s.str.count) then
        if s.isLead then s.suspect device false
        else match s.lead with
          | some d => s.control 0x23 d device 0 .none
          | none => s
      else s
    | none => s)

/-- PROPOSAL_LOCKOUT_EXPIRY (R409). -/
def execProposalLockoutExpiry (s : State) : Host.Outcome State Fault Refusal := .next (if s.isVoter then s.lockoutEnds else s)

/-- COMMIT_STRIDE_REACHED (R409, R420): every change whose commit stride has come is applied, in order. -/
def execCommitStrideReached (s : State) : Host.Outcome State Fault Refusal :=
  .next ((s.over (s.herd.pendingAdopt.filter (fun a => decide (a.commitStride ≤ s.str.count))) State.applyCommit).releaseHeld)

/-- PROBATION_TIMEOUT (R412): a member in probation for PROBATION_LIMIT strides. -/
def execProbationTimeout (device : Nat) (s : State) : Host.Outcome State Fault Refusal :=
  .next (match s.herd.probation.get? device with
    | some n => if n + s.dev fProbationLimit ≤ s.str.count then s.tryRemove device else s
    | none => s)

end Sys2Proof.Machine
end

