-- ==== Sys2Proof/Machine/HerdOps.lean ====
section
/-! DEFINITION. The commands of the 0x0Axx range (R426) and the herd's part of a boundary (R394, R404, R408 to R412, R424, R425). -/

namespace Sys2Proof.Machine

/-! ## Commands -/

/-- The answer of a command that R409 requires of the lead voter, where it may not run here: another member leads, or no quorum
stands (R411, R426). -/
def State.leadCheck (s : State) : Option Ans :=
  if !s.isLead then some (.now stNotPermitted 0 (s.lead.getD 0) 0 [])
  else if !s.quorum then some (.now stHerdDisagree 0 0 0 [])
  else none

/-- Whether an operation of the herd that a test picks is live. -/
def State.liveHerdOp (s : State) (f : OpBody → Bool) : Bool := s.liveOps.any (fun x => f x.2.body)

/-- Whether a HERD_FORM or HERD_JOIN is under way. -/
def State.forming (s : State) : Bool := s.liveHerdOp (fun b => match b with
  | .herdForm _ _ => true
  | .herdJoin _ _ => true
  | _ => false)

/-- HERD_FORM (R426). -/
def cHerdForm : Cmd := longCmd 0x0A00 false .owner (fun s _ p =>
  if p.p0 = 0 then deny s stBadParam
  else if s.inHerd then deny s stNotPermitted
  else if s.forming then deny s stBusyRetry
  else (s, .start (.herdForm p.p0.toNat (fld p.p1.toNat 0 16)) 1 0 0 opQueued))

/-- HERD_JOIN (R18, R424): before MEMORY_ACTIVE only, since the stride count is adopted then. -/
def cHerdJoin : Cmd := longCmd 0x0A02 false .owner (fun s _ p =>
  if p.p0 = 0 then deny s stBadParam
  else if s.inHerd ∨ s.isActive then deny s stNotPermitted
  else if s.forming then deny s stBusyRetry
  else (s, .start (.herdJoin p.p0.toNat (fld p.p1.toNat 0 16)) 1 0 0 opQueued))

/-- HERD_ADMIT (R424). -/
def cHerdAdmit : Cmd := longCmd 0x0A01 false .owner (fun s _ p =>
  match s.leadCheck with
  | some a => (s, a)
  | none =>
    let d := fld p.p0.toNat 0 16
    if s.member d || s.liveHerdOp (fun b => match b with
        | .herdAdmit x _ _ _ => x == d
        | _ => false) then deny s stBadParam
    else (s, .start (.herdAdmit d (p.p0.getLsbD 16) (sub p.data 0 16) 0) 1 0 0 opQueued))

/-- HERD_REMOVE. -/
def cHerdRemove : Cmd := longCmd 0x0A03 false .owner (fun s _ p =>
  match s.leadCheck with
  | some a => (s, a)
  | none =>
    let d := fld p.p0.toNat 0 16
    if !s.member d then deny s stBadParam else (s, .start (.herdRemove d 0) 1 0 0 opQueued))

/-- The device IDs that HERD_VOTERS names. -/
def voterList (p : Pkt) : List Nat :=
  ((List.range 4).map (fun i => fld p.p0.toNat (16 * i) 16) ++ (List.range 3).map (fun i => fld p.p1.toNat (16 * i) 16)).take
    (fld p.p2.toNat 0 3)

/-- HERD_VOTERS (R406, R411). -/
def cHerdVoters : Cmd := longCmd 0x0A04 false .owner (fun s _ p =>
  let ds := voterList p
  let force := p.p2.getLsbD 8
  let normal := fun (d : Nat) => s.herd.roster.any (fun r => r.device == d && s.isNormal r)
  let ok := [1, 3, 5, 7].contains ds.length && ds.eraseDups.length == ds.length && ds.all normal && (!force || ds.all s.reaches)
  if force then
    if !s.inHerd then deny s stNotPermitted
    else if !ok then deny s stBadParam
    else (s, .start (.herdVoters ds true 0) 1 0 0 opQueued)
  else match s.leadCheck with
    | some a => (s, a)
    | none => if !ok then deny s stBadParam else (s, .start (.herdVoters ds false 0) 1 0 0 opQueued))

/-- HERD_DOMAIN_SET (R413, R425); a second one for a domain whose plan runs finds its record under that plan. -/
def cHerdDomainSet : Cmd := longCmd 0x0A05 false .owner (fun s o p =>
  let mg := match o with
    | .mgmt _ _ => true
    | .qp _ _ => false
  match s.leadCheck with
  | some a => (s, a)
  | none =>
    let r := hdomRecOf (sub p.data 0 160)
    let old := s.herd.domains.find? (fun x => x.hdom == r.hdom)
    let known := (List.range r.w).all (fun x => match hAt r x with
      | some d => s.member d && (!s.inProbation d || old.any (fun y => y.members.contains d))
      | none => true)
    if (!mg && p.p0.toNat % 64 != 0) || !hdomOk r || !known || (r.spareValid && !s.member r.spare) then deny s stBadParam
    else if s.liveHerdOp (fun b => match b with
        | .herdDomainSet x _ => x.hdom == r.hdom
        | _ => false) then deny s stBusyRetry
    else (s, .start (.herdDomainSet r 0) 0 0 0 opPlanned))

/-- ROUTE_WRITE (R399): entries join the generation being built. -/
def cRouteWrite : Cmd := shortCmd 0x0A06 false .owner (fun s _ p =>
  let first := fld p.p1.toNat 0 16
  let n := fld p.p2.toNat 0 17
  let es : List (Nat × Nat) := (List.range n).map (fun i => (first + i, fieldAt p.data (4 * i) 4))
  let bad := fun (e : Nat × Nat) => e.2.testBit 15 && !(decide (1 ≤ fld e.2 10 3) && decide (fld e.2 10 3 ≤ 4))
  if n = 0 ∨ 65536 < n ∨ 65536 < first + n ∨ es.any bad then deny s stBadParam
  else
    let (s, g, due) := s.join (es.map (fun (e : Nat × Nat) => .route e.1 (BitVec.ofNat 32 (e.2 % 2 ^ 16 &&& 0xBFFF))))
    (s, .later due stOk 0 g 0 []))

/-- The records that HERD_READ lists, by key (R406, R413, R426): a member known to be in probation shows STATE 3. -/
def State.herdList (s : State) (kind : Nat) : List (Nat × List Byte) :=
  let st := fun (r : RosterRec) => if r.st = 2 ∧ s.inProbation r.device then 3 else r.st
  if kind = 0 then s.herd.roster.map (fun r => (r.device, rosterBytes r (st r)))
  else if kind = 1 then (domainRecords s.herd.domains s.herd.shadows).map (fun r => (r.hdom, hdomBytes r))
  else s.voters.map (fun r => (r.device, rosterBytes r (st r)))

/-- HERD_READ (R426). -/
def cHerdRead : Cmd := shortCmd 0x0A07 false .any (fun s o p =>
  let kind := fld p.p2.toNat 0 2
  if kind = 3 then deny s stBadParam
  else
    let l := (if s.inHerd then s.herdList kind else []).filter (fun x => decide (fld p.p2.toNat 16 24 ≤ x.1))
    let n := roomFor o p.p1.toNat / (if kind = 1 then 160 else 32)
    let next := match l.drop n with
      | x :: _ => x.1
      | [] => 0
    doneData s o p.p0.toNat ((l.take n).flatMap Prod.snd) stOk (min n l.length) next)

/-- HERD_STANDBY (R423). -/
def cHerdStandby : Cmd := longCmd 0x0A09 false .owner (fun s _ p =>
  let h := fld p.p0.toNat 0 24
  let f := fld p.p1.toNat 0 7
  let pf := fld p.p1.toNat 16 7
  let clear := p.p1.getLsbD 32
  match (if s.inHerd then s.herd.domains.find? (fun r => r.hdom == h) else none), s.slotOfHdom h with
  | some r, some slot =>
    let db := s.ti.extents.any (fun e => e.2.ld == f && e.2.slot == slot && e.2.hdmDb && e.2.st != 0)
    if r.kind ≠ 3 ∨ hAt r 0 ≠ some s.herd.device ∨ db ∨ (clear ∧ ¬s.herd.standbys.contains (h, f, pf)) then deny s stBadParam
    else (s, .start (.herdStandby h f pf clear false) 1 0 0 opQueued)
  | _, _ => deny s stBadParam)

/-! ## Their work -/

/-- Form a herd of this device as sole voter, epoch 1 (R426). -/
def State.formHerd (s : State) (herd dev : Nat) : State :=
  let me : RosterRec := { device := dev, st := 2, voter := true, epochAdded := 1, identity := sub s.tr.identity 0 16 }
  { s with herd.st := 2, herd.device := dev, herd.herdId := BitVec.ofNat 64 herd, herd.epoch := 1, herd.roster := [me],
           herd.domains := [], herd.shadows := [], herd.cause := 0, herd.depth := 0 }

/-- Become JOINING under a herd ID and a device ID (R424). -/
def State.startJoin (s : State) (herd dev : Nat) : State :=
  { s with herd.st := 1, herd.device := dev, herd.herdId := BitVec.ofNat 64 herd, herd.epoch := 0, herd.roster := [],
           herd.domains := [], herd.shadows := [], herd.cause := 0, herd.ready := false, herd.strideAdopted := false }

/-- A proposal of an operation, once the lead may make one; without quorum or lead the operation fails (R409, R411). -/
def State.opPropose (s : State) (h : Nat) (c : HerdChange) (body : OpBody) : State :=
  if !s.isLead || !s.quorum then s.modOp h (fun o => { o with ending := some (opFailed, stHerdDisagree) })
  else if s.mayPropose then (s.modOp h (fun o => { o with body := body })).propose c
  else s

/-- Commit a forced voter set with this member's acceptance alone (R411). -/
def State.forceVoters (s : State) (ds : List Nat) : State :=
  let a : Agreement := { epoch := s.herd.epoch + 1, change := .voters ds, proposer := s.herd.device,
                         commitStride := s.str.count + 64 }
  { s with herd.proposing := none, herd.votes := [] }.recordCommit a (s.agreeKey a) none

/-- Send a pairing's decoders, or its end, to the partner (R423). -/
def State.pairStandby (s : State) (h hd f pf : Nat) (clear : Bool) : State :=
  match s.herd.domains.find? (fun r => r.hdom == hd), s.slotOfHdom hd with
  | some r, some slot => match hAt r 1 with
    | some dev =>
      let s := s.modOp h (fun o => { o with body := .herdStandby hd f pf clear true })
      if clear then s.request { s.mkMsg 0x2D dev slot 0 with data := zeros 64, arg := BitVec.ofNat 128 (pf + 2 ^ 16) } (.standby h)
      else s.over (List.range 4) (fun s i =>
        let d := (s.func f).decoders.getD i { base := 0, size := 0, ways := 1, gran := 256, position := 0, committed := false }
        s.request { s.mkMsg 0x2D dev slot 0 with data := zeros 64, arg := BitVec.ofNat 128 (pf + i * 2 ^ 8), pay := .decoder d }
          (.standby h))
    | none => s.modOp h (fun o => { o with ending := some (opFailed, stNotPermitted) })
  | _, _ => s.modOp h (fun o => { o with ending := some (opFailed, stNotPermitted) })

/-- The step of a HERD_DOMAIN_SET at a boundary (R93, R96, R425). -/
def State.domainStep (s : State) (h : Nat) (op : Op) (r : HdomRec) (phase : Nat) : State :=
  let put := fun (s : State) (st status phase : Nat) =>
    s.modOp h (fun o => { o with st := st, status := status, body := .herdDomainSet r phase, ran := true })
  if op.cancel ∧ phase = 0 then put s opAbandoned stAborted 0
  else if op.cancel ∧ phase = 2 ∧ op.st ≠ opFenced then
    let s := if op.st = opMigrating then put s opReverting stOk 2 else s
    if s.mayPropose then (s.modOp h (fun o => { o with body := .herdDomainSet r 4 })).propose (.unshadow r.hdom) else s
  else if phase = 0 then
    if !s.isLead || !s.quorum then put s opAbandoned stHerdDisagree 0
    else if s.mayPropose then (s.modOp h (fun o => { o with body := .herdDomainSet r 1 })).propose (.shadow r)
    else s
  else if phase = 2 then
    let left := sumOf ((s.herd.moves.filter (fun (v : HMove) => v.hdom == r.hdom)).map (fun (v : HMove) => v.todo.length))
    let s := if op.st = opMigrating then s.modOp h (fun o => { o with done := o.total - left, ran := o.ran || decide (o.done < o.total - left) })
      else s
    if op.st = opShadow then put s (if left = 0 then opFenced else opMigrating) stOk 2
    else if op.st = opMigrating ∧ s.movesDone r.hdom then put s opFenced stOk 2
    else if op.st = opFenced ∧ s.mayPropose then (s.modOp h (fun o => { o with body := .herdDomainSet r 3 })).propose (.domain r)
    else s
  else s

/-- The work of the herd's operations in a stride (R424 to R426). -/
def State.herdWork (s : State) : State :=
  s.over s.liveOps (fun s x =>
    let h := x.1
    let op := x.2
    match op.body with
    | .herdDomainSet r phase => s.domainStep h op r phase
    | body =>
      if op.st ≠ opRunning ∨ op.ending.isSome then s
      else match body with
        | .herdForm herd dev =>
          (s.formHerd herd dev).modOp h (fun o => { o with done := 1, ending := some (opDone, stOk) })
        | .herdJoin herd dev => if s.inHerd then s else s.startJoin herd dev
        | .herdAdmit d v i 0 =>
          s.opPropose h (.enrol { device := d, st := 1, voter := v, epochAdded := s.herd.epoch + 1, identity := i }) (.herdAdmit d v i 1)
        | .herdRemove d 0 => s.opPropose h (.remove d) (.herdRemove d 1)
        | .herdVoters ds true 0 => (s.modOp h (fun o => { o with body := .herdVoters ds true 1 })).forceVoters ds
        | .herdVoters ds false 0 => s.opPropose h (.voters ds) (.herdVoters ds false 1)
        | .herdStandby hd f pf clear false => s.pairStandby h hd f pf clear
        | _ => s)

/-- A joining member that has the herd's records and is aligned tells the lead, with its serial, until it is NORMAL (R424, R451). -/
def State.tellReady (s : State) : State :=
  if s.herd.st = 1 && s.member s.herd.device && decide (s.herd.depth < 7) && offsetWithin s.herd.offset 4
      && (!s.herd.ready || s.str.count % 256 == 0) then
    { s with herd.ready := true }.askRecords (5 + 2 ^ 64 * s.serial.toNat)
  else s

/-- Rebuilds that wait for room in a tier go on (R421). -/
def State.retryRebuilds (s : State) : State :=
  s.over (s.herd.rebuilds.filter (fun r => r.2.locked && r.2.wanted.all (fun y => r.2.parts.has y))) (fun s r =>
    s.finishRebuild r.1 r.2)

/-- The herd's part of a boundary. -/
def State.herdBoundary (s : State) : State :=
  let s := ((s.linksBoundary).adoptRecords).releaseHeld.timeBoundary
  let s := { s with herd.noQuorum := s.inHerd && !s.quorum }
  let s := s.tellReady.herdWork
  let s := s.over (s.herd.moves.map HMove.hdom) State.moveSlice
  s.retryRebuilds.drainIngress.pump.flushOut.sendSyncs

/-! ## Steps -/

/-- HERD_FORM. -/
def execHerdForm (o : Origin) (p : Pkt) (s : State) : Host.Outcome State Fault Refusal := .next (s.packet cHerdForm none o p)

/-- HERD_ADMIT. -/
def execHerdAdmit (o : Origin) (p : Pkt) (s : State) : Host.Outcome State Fault Refusal := .next (s.packet cHerdAdmit none o p)

/-- HERD_JOIN. -/
def execHerdJoin (o : Origin) (p : Pkt) (s : State) : Host.Outcome State Fault Refusal := .next (s.packet cHerdJoin none o p)

/-- HERD_REMOVE. -/
def execHerdRemove (o : Origin) (p : Pkt) (s : State) : Host.Outcome State Fault Refusal := .next (s.packet cHerdRemove none o p)

/-- HERD_VOTERS. -/
def execHerdVoters (o : Origin) (p : Pkt) (s : State) : Host.Outcome State Fault Refusal := .next (s.packet cHerdVoters none o p)

/-- HERD_DOMAIN_SET. -/
def execHerdDomainSet (o : Origin) (p : Pkt) (s : State) : Host.Outcome State Fault Refusal :=
  .next (s.packet cHerdDomainSet none o p)

/-- ROUTE_WRITE. -/
def execRouteWrite (o : Origin) (p : Pkt) (s : State) : Host.Outcome State Fault Refusal := .next (s.packet cRouteWrite none o p)

/-- HERD_READ. -/
def execHerdRead (o : Origin) (p : Pkt) (s : State) : Host.Outcome State Fault Refusal := .next (s.packet cHerdRead none o p)

/-- HERD_STANDBY. -/
def execHerdStandby (o : Origin) (p : Pkt) (s : State) : Host.Outcome State Fault Refusal :=
  .next (s.packet cHerdStandby none o p)

end Sys2Proof.Machine
end

