-- ==== Sys2Proof/Machine/Mailbox.lean ====
section
/-! DEFINITION. The FM API commands (R494) and the commands of a function's primary mailbox (R504). What the records of CXL 3.1 hold
beyond what the manual names is left out of the answers (PRESUMED, assumption 40). -/

namespace Sys2Proof.Machine

/-- Return codes of a CXL mailbox (PRESUMED from CXL 3.1). -/
def mbOk : Nat := 0
def mbInvalid : Nat := 2
def mbUnsupported : Nat := 3

/-! ## FM API (R494) -/

/-- Whether an FM API path answers: the FM-owned logical device of a head in MLD mode, or MCTP for any number above 7. -/
def State.fmUp (s : State) (path : Nat) : Bool :=
  s.mgmtUp && (decide (8 ≤ path) || ((s.head path).up && (s.head path).mld))

/-- Answer an FM API command. -/
def State.fm (s : State) (path code : Nat) (vals : List Nat) : State := if s.fmUp path then s.emit (.fmApi path code vals) else s

/-- GET_LD_INFO: capacity in GiB over the tiers, logical devices of the head. -/
def execGetLdInfo (head : Nat) (s : State) : Host.Outcome State Fault Refusal :=
  .next (s.fm head mbOk [s.ti.capT1 + s.ti.capT2 + s.ti.capT3, 16])

/-- GET_MHD_INFO: heads and logical devices. -/
def execGetMhdInfo (head : Nat) (s : State) : Host.Outcome State Fault Refusal := .next (s.fm head mbOk [8, 128])

/-- GET_QOS_STATUS: the DevLoad value of each domain on the head, or on every head over MCTP (R439). -/
def execGetQosStatus (head : Nat) (s : State) : Host.Outcome State Fault Refusal :=
  .next (s.fm head mbOk ((if head < 8 then [head] else List.range 8).flatMap (fun h =>
    s.liveSlots.flatMap (fun x => [h, x, s.devLoad h x]))))

/-- SET_LD_ALLOCATIONS: not supported. -/
def execSetLdAllocations (head : Nat) (s : State) : Host.Outcome State Fault Refusal := .next (s.fm head mbUnsupported [])

/-! ## The primary mailbox (R504) -/

/-- Answer a mailbox command of a function that its head presents. -/
def State.mbox (s : State) (func : Nat) (f : State → State × Nat × List Nat) : State :=
  if s.isActive && s.hasFunc func then
    let (s, code, vals) := f s
    s.emit (.mailbox func code vals)
  else s

/-- IDENTIFY_MEMORY_DEVICE: the firmware version; no static capacity, as every byte is dynamic capacity. -/
def execIdentifyMemoryDevice (func : Nat) (s : State) : Host.Outcome State Fault Refusal :=
  .next (s.mbox func (fun s => (s, mbOk, [s.fwver.toNat, 0])))

/-- GET_EVENT_RECORDS: the records of one event log. -/
def execGetEventRecords (func log : Nat) (s : State) : Host.Outcome State Fault Refusal :=
  .next (s.mbox func (fun s =>
    if 4 < log then (s, mbInvalid, []) else (s, mbOk, ((s.func func).events.getD log []).flatMap (fun (e : Nat × Nat) => [e.1, e.2]))))

/-- CLEAR_EVENT_RECORDS: the oldest records of one event log. -/
def execClearEventRecords (func log count : Nat) (s : State) : Host.Outcome State Fault Refusal :=
  .next (s.mbox func (fun s =>
    if 4 < log ∨ ((s.func func).events.getD log []).length < count then (s, mbInvalid, [])
    else (s.modFunc func (fun f => { f with events := f.events.set log ((f.events.getD log []).drop count) }), mbOk, [])))

/-- GET_EVENT_INTERRUPT_POLICY: no interrupt, for every log. -/
def execGetEventInterruptPolicy (func : Nat) (s : State) : Host.Outcome State Fault Refusal :=
  .next (s.mbox func (fun s => (s, mbOk, (List.range 5).map (fun i => (s.func func).policy.getD i 0))))

/-- SET_EVENT_INTERRUPT_POLICY: only the no-interrupt setting for every log is accepted. -/
def execSetEventInterruptPolicy (func : Nat) (policy : List Nat) (s : State) : Host.Outcome State Fault Refusal :=
  .next (s.mbox func (fun s =>
    if policy.all (· == 0) then (s.modFunc func (fun f => { f with policy := policy }), mbOk, []) else (s, mbInvalid, [])))

/-- GET_SUPPORTED_LOGS: the Command Effects Log, log 0. -/
def execGetSupportedLogs (func : Nat) (s : State) : Host.Outcome State Fault Refusal :=
  .next (s.mbox func (fun s => (s, mbOk, [0])))

/-- The command codes that the Command Effects Log lists: those of R504 (PRESUMED from CXL 3.1). -/
def effectsLog : List Nat :=
  [0x0100, 0x0101, 0x0102, 0x0103, 0x0300, 0x0301, 0x0400, 0x0401, 0x4000, 0x4200, 0x4800, 0x4801, 0x4802, 0x4803]

/-- GET_LOG. -/
def execGetLog (func log : Nat) (s : State) : Host.Outcome State Fault Refusal :=
  .next (s.mbox func (fun s => if log = 0 then (s, mbOk, effectsLog) else (s, mbInvalid, [])))

/-- GET_HEALTH_INFO: Device Fatal, and whether an uncorrectable error is on record. -/
def execGetHealthInfo (func : Nat) (s : State) : Host.Outcome State Fault Refusal :=
  .next (s.mbox func (fun s => (s, mbOk, [bitAt s.ras.fatal 0, bitAt s.ras.ue 0])))

/-- GET_TIMESTAMP: the value set, with 500 ns for every stride since; 0 where none is set. -/
def execGetTimestamp (func : Nat) (s : State) : Host.Outcome State Fault Refusal :=
  .next (s.mbox func (fun s =>
    let f := s.func func
    (s, mbOk, [if f.time = 0 then 0 else (f.time + (s.pmu.strides - f.timeSet) * 500) % 2 ^ 64])))

/-- SET_TIMESTAMP. -/
def execSetTimestamp (func : Nat) (val : U64) (s : State) : Host.Outcome State Fault Refusal :=
  .next (s.mbox func (fun s => (s.modFunc func (fun f => { f with time := val.toNat, timeSet := s.pmu.strides }), mbOk, [])))

/-- MAILBOX_FIRMWARE_UPDATE: not supported; FW_STAGE and PLDM carry it. -/
def execMailboxFirmwareUpdate (func : Nat) (s : State) : Host.Outcome State Fault Refusal :=
  .next (s.mbox func (fun s => (s, mbUnsupported, [])))

end Sys2Proof.Machine
end

