-- ==== Sys2Proof/Machine/Registers.lean ====
section
/-! DEFINITION. The register window (R498, R571 to R585): what each register reads (the tables of R33, R99, R146, R198, R268,
R295, R326, R357, R382, R428, R460, R489, R515, R543, R568 and R582), what a write of one does, the half latch and the log pop. -/

namespace Sys2Proof.Machine

/-! ## Offsets -/

/-- The register offset of a block and an offset in it (R581). -/
def reg (block off : Nat) : Nat := 0x10000 * block + off

/-- The block of an offset. -/
def blockOf (off : Nat) : Nat := off / 0x10000

/-- Whether a function sees the block of an offset (R581): GLB_, CMQ_ and HST_ every one, the others the owner function. -/
def State.sees (s : State) (func off : Nat) : Bool := [0, 8, 15].contains (blockOf off) || s.isOwner func

/-! ## Counters (R577) -/

/-- One counter: its offset, and its value as a function reads and holds it. -/
structure Counter where
  off : Nat
  get : State → Nat → U64
  put : State → Nat → U64 → State

/-- The counters of the blocks STR_ to ENG_. -/
def countersA : List Counter := [
  ⟨reg 1 0x28, fun s _ => s.str.overrunCnt, fun s _ v => { s with str.overrunCnt := v }⟩,
  ⟨reg 2 0x08, fun s _ => s.ti.hits, fun s _ v => { s with ti.hits := v }⟩,
  ⟨reg 2 0x10, fun s _ => s.ti.misses, fun s _ v => { s with ti.misses := v }⟩,
  ⟨reg 3 0x20, fun s _ => s.dram.act, fun s _ v => { s with dram.act := v }⟩,
  ⟨reg 3 0x28, fun s _ => s.dram.rfm, fun s _ v => { s with dram.rfm := v }⟩,
  ⟨reg 3 0x30, fun s _ => s.dram.caReplay, fun s _ v => { s with dram.caReplay := v }⟩,
  ⟨reg 3 0x38, fun s _ => s.dram.fwd, fun s _ v => { s with dram.fwd := v }⟩,
  ⟨reg 3 0x40, fun s _ => s.dram.rmw, fun s _ v => { s with dram.rmw := v }⟩,
  ⟨reg 3 0x48, fun s _ => s.dram.yokeRead, fun s _ v => { s with dram.yokeRead := v }⟩,
  ⟨reg 3 0x50, fun s _ => s.dram.unmapped, fun s _ v => { s with dram.unmapped := v }⟩,
  ⟨reg 4 0x30, fun s _ => s.fl.recon, fun s _ v => { s with fl.recon := v }⟩,
  ⟨reg 4 0x38, fun s _ => s.fl.suspend, fun s _ v => { s with fl.suspend := v }⟩,
  ⟨reg 4 0x40, fun s _ => s.fl.pad, fun s _ v => { s with fl.pad := v }⟩,
  ⟨reg 4 0x48, fun s _ => s.fl.reloc, fun s _ v => { s with fl.reloc := v }⟩,
  ⟨reg 4 0x50, fun s _ => s.fl.badBlock, fun s _ v => { s with fl.badBlock := v }⟩,
  ⟨reg 5 0x18, fun s _ => s.cod.decoded, fun s _ v => { s with cod.decoded := v }⟩,
  ⟨reg 5 0x20, fun s _ => s.cod.encoded, fun s _ v => { s with cod.encoded := v }⟩,
  ⟨reg 5 0x28, fun s _ => s.cod.rawFallback, fun s _ v => { s with cod.rawFallback := v }⟩,
  ⟨reg 5 0x30, fun s _ => s.cod.laneRetry, fun s _ v => { s with cod.laneRetry := v }⟩]

/-- The counters of the blocks OPS_ to DIR_. -/
def countersB : List Counter := [
  ⟨reg 6 0x18, fun s _ => s.opr.dup, fun s _ v => { s with opr.dup := v }⟩,
  ⟨reg 6 0x20, fun s _ => s.opr.offRound, fun s _ v => { s with opr.offRound := v }⟩,
  ⟨reg 6 0x28, fun s _ => s.opr.partialW, fun s _ v => { s with opr.partialW := v }⟩,
  ⟨reg 6 0x30, fun s _ => s.opr.nonfinite, fun s _ v => { s with opr.nonfinite := v }⟩,
  ⟨reg 6 0x38, fun s _ => s.opr.targetWrite, fun s _ v => { s with opr.targetWrite := v }⟩,
  ⟨reg 7 0x38, fun s _ => s.dma.bytes, fun s _ v => { s with dma.bytes := v }⟩,
  ⟨reg 7 0x40, fun s _ => s.dma.staged, fun s _ v => { s with dma.staged := v }⟩,
  ⟨reg 9 0x20, fun s _ => s.sh.bisnp, fun s _ v => { s with sh.bisnp := v }⟩,
  ⟨reg 9 0x28, fun s _ => s.sh.conflict, fun s _ v => { s with sh.conflict := v }⟩,
  ⟨reg 9 0x30, fun s _ => s.sh.timeouts, fun s _ v => { s with sh.timeouts := v }⟩,
  ⟨reg 9 0x38, fun s _ => s.sh.lost, fun s _ v => { s with sh.lost := v }⟩]

/-- The counters of the blocks FAB_ to HST_; those of HST_ are each function's own. -/
def countersC : List Counter := [
  ⟨reg 10 0x38, fun s _ => s.herd.replayCnt, fun s _ v => { s with herd.replayCnt := v }⟩,
  ⟨reg 10 0x40, fun s _ => s.herd.fecUncorr, fun s _ v => { s with herd.fecUncorr := v }⟩,
  ⟨reg 10 0x48, fun s _ => s.herd.fwdCnt, fun s _ v => { s with herd.fwdCnt := v }⟩,
  ⟨reg 10 0x50, fun s _ => s.herd.nakCnt, fun s _ v => { s with herd.nakCnt := v }⟩,
  ⟨reg 11 0x38, fun s _ => s.tr.denied, fun s _ v => { s with tr.denied := v }⟩,
  ⟨reg 12 0x20, fun s _ => s.ras.ce, fun s _ v => { s with ras.ce := v }⟩,
  ⟨reg 12 0x28, fun s _ => s.ras.uec, fun s _ v => { s with ras.uec := v }⟩,
  ⟨reg 12 0x30, fun s _ => s.ras.poisonRd, fun s _ v => { s with ras.poisonRd := v }⟩,
  ⟨reg 12 0x38, fun s _ => s.ras.dropCnt, fun s _ v => { s with ras.dropCnt := v }⟩,
  ⟨reg 13 0x30, fun s _ => s.pmu.thrStrides, fun s _ v => { s with pmu.thrStrides := v }⟩,
  ⟨reg 14 0x48, fun s _ => s.tst.peeks, fun s _ v => { s with tst.peeks := v }⟩,
  ⟨reg 15 0x2020, fun s f => (s.func f).cplTo, fun s f v => s.modFunc f (fun x => { x with cplTo := v })⟩,
  ⟨reg 15 0x2028, fun s f => (s.func f).unmapped, fun s f v => s.modFunc f (fun x => { x with unmapped := v })⟩]

/-- Every counter of the device. -/
def counters : List Counter := countersA ++ countersB ++ countersC

/-- Clear the counters of the blocks that a mask names (R578, R585): those of HST_ are the owner function's own. -/
def State.clearCounters (s : State) (mask : Nat) : State :=
  s.over (counters.filter (fun c => mask.testBit (blockOf c.off))) (fun s c => c.put s s.owner 0)

/-- The clearing that GLB_CNT_CLEAR asked for, at the boundary after it (R578). -/
def State.clearDue (s : State) : State :=
  if s.cntClear = 0 then s else { s.clearCounters s.cntClear with cntClear := 0 }

/-! ## What a register reads -/

/-- Bit fields at rising places: value and place. -/
def fields (l : List (Nat × Nat)) : Nat := l.foldl (fun a x => a + x.1 * 2 ^ x.2) 0

/-- The bit mask of the numbers below `n` with a property. -/
def maskOf (n : Nat) (f : Nat → Bool) : Nat := bitMask ((List.range n).filter f)

/-- A truth value as a number. -/
def bit (b : Bool) : Nat := if b then 1 else 0

/-- A register of GLB_ but the log pop (R582). -/
def State.glbReg (s : State) (off : Nat) : Option Nat :=
  match off with
  | 0x00 => some (fields [(0x7725, 0), (s.tr.siliconRev.toNat, 16), (1, 32)])
  | 0x08 => some s.fwver.toNat
  | 0x10 => some (fields [(4, 0), (4, 8), (12, 16), (32, 24), (8, 32), (16, 40), (32, 48), (32, 56)])
  | 0x18 => some (fields [(1024, 0), (256, 16), (64, 32), (64, 40), (16, 48), (4, 56)])
  | 0x20 => some (fields [(4096, 0), (4096, 16), (4096, 32), (16, 48)])
  | 0x28 => some (fields [(27, 0), (16, 8), (20, 16), (4096, 24), (48000, 40)])
  | 0x30 => some s.ti.capT1
  | 0x38 => some s.ti.capT2
  | 0x40 => some s.ti.capT3
  | 0x48 => some (fields [(s.pmu.stage, 0), (bit s.effT0, 8), (bit (s.effShare 1), 9), (bit (s.effShare 2), 10),
      (bit (s.effShare 3), 11), (bit s.ras.fatal, 15)])
  | 0x50 => some s.str.count
  | 0x60 => some 0
  | _ => none

/-- The writable bits of STR_BRIDLE_SEL, DRM_PC_SEL and TST_TRACE. -/
def bridleSelMask : U64 := 0xF7FFF#64
def pcSelMask : U64 := 0xF1F#64
def traceMask : U64 := 0xFF1#64

/-- A register of STR_ (R33); `w` fills the cycle position, which the model does not hold. -/
def State.strReg (s : State) (off w : Nat) : Option Nat :=
  match off with
  | 0x00 => some s.str.count
  | 0x08 => some (w % 1024)
  | 0x10 => some (if s.tst.inForce ≠ 0 then fields [(1, 0), (s.tst.inForce, 16)]
      else if s.tst.armed ≠ 0 then fields [(2, 0), (s.tst.armed, 16)] else 0)
  | 0x18 => some (fields [(s.cfg.gen, 0), ((s.cfg.build.map Build.num).getD 0, 32)])
  | 0x20 => some (fields [(bit s.str.overrun, 0), (bit s.str.late, 1), (bit s.str.broken, 2), (bit (s.tst.tracePins != 0), 3),
      (bit s.str.stagingWait, 4)])
  | 0x30 => some s.str.bridleSel.toNat
  | 0x38 =>
    let v := s.str.bridleSel.toNat
    let k := bridleKey (fld v 0 12) (fld v 12 3) (fld v 16 4)
    some (fields [(s.str.grant.getD k 0 % 2 ^ 24, 0), (s.str.used.getD k 0 % 2 ^ 24, 24)])
  | _ => none

/-- Whether the central store and the capacities are set up: from CONFIG on. -/
def State.configured (s : State) : Bool := decide (3 ≤ s.pmu.stage) && decide (s.pmu.stage ≤ 5)

/-- A register of CS_ (R146, R147). -/
def State.csReg (s : State) (off : Nat) : Option Nat :=
  let use := fun (i : Nat) => (s.ti.use.getD s.ti.useSel.toNat []).getD i 0
  match off with
  | 0x00 =>
    let start := 40960 + 256 * s.dev fStagingPool
    let total := if s.configured then t0Slots - start else 0
    some (fields [(total, 0), (total - (s.ti.t0.filter (fun x => decide (start ≤ x.1))).length, 32)])
  | 0x18 => some s.ti.useSel.toNat
  | 0x20 => some (use 0)
  | 0x28 => some (use 1)
  | 0x30 => some (use 2)
  | 0x38 => some (use 3)
  | 0x40 => some (use 4)
  | _ => none

/-- The refresh intervals that a pseudo-channel's bank is behind at most: 48 refreshes are one of each bank (R338). -/
def Pc.behind (c : Pc) : Nat := min 4 ((c.owed / 125 - c.issued) / 48)

/-- A register of DRM_ (R357). -/
def State.drmReg (s : State) (off : Nat) : Option Nat :=
  match off with
  | 0x00 => some (fields [(s.dram.hot % 4096, 0), (maskOf 12 s.stackOff, 16)])
  | 0x08 => some s.dram.pcSel.toNat
  | 0x10 =>
    let k := fld s.dram.pcSel.toNat 8 4
    let p := fld s.dram.pcSel.toNat 0 5
    let c := s.pc k p
    let alerts := (c.alerts.filter (fun x => decide (s.str.count < x + 64))).length
    some (fields [(c.st, 0), (c.behind, 8), (c.wbuf.length, 16), (min 255 alerts, 32), (s.field 0 fRetainMask (32 * k + p), 56)])
  | 0x18 => some (s.dram.degraded % 64)
  | _ => if 0x100 ≤ off ∧ off < 0x160 ∧ off % 8 = 0 then some (maskOf 32 (s.pcOff ((off - 0x100) / 8))) else none

/-- The erase counts of a mode in thousandths of the rated cycles: highest and mean (R382). -/
def State.flashLife (s : State) (mode : Nat) : Nat × Nat :=
  match s.pop with
  | none => (0, 0)
  | some p =>
    let lim := s.modeBlocks p mode
    let rated := if mode = 0 then p.ratedPslc else p.ratedNative
    let es := (s.fl.blocks.filter (fun (b : Nat × FBlock) => decide (lim.1 ≤ b.1 % 65536) && decide (b.1 % 65536 ≤ lim.2))).map
      (fun (b : Nat × FBlock) => b.2.erases)
    let groups := ((List.range 64).filter (fun g => s.groupSt g != 3)).length
    let n := groups * (lim.2 + 1 - lim.1)
    if rated = 0 ∨ n = 0 then (0, 0)
    else (min 0xFFFF (es.foldl max 0 * 1000 / rated), min 0xFFFF (sumOf es * 1000 / (n * rated)))

/-- A register of FLS_ (R382). -/
def State.flsReg (s : State) (off : Nat) : Option Nat :=
  match off with
  | 0x00 => some (match s.fl.pop with
      | none => 0
      | some p => fields [(if s.fl.profileBad then 0 else p.dies, 0), (p.bpc, 8), (p.pages, 32), (p.blocks, 48)])
  | 0x08 => some (match s.pop with
      | none => 0
      | some p => p.bT2 (s.dev fT2Permil))
  | 0x10 => some (fields [(bit s.fl.worn, 0), (bit ((List.range 64).any (fun g => s.groupSt g == 1)), 1), (bit s.fl.lateRead, 2),
      (bit s.fl.profileBad, 3)])
  | 0x18 =>
    let t2 := s.flashLife 0
    let t3 := s.flashLife 1
    some (fields [(t2.2, 0), (t3.2, 16), (t2.1, 32), (t3.1, 48)])
  | 0x20 => some s.fl.groupSel.toNat
  | 0x28 =>
    let g := s.fl.groupSel.toNat % 64
    let free := fun (mode : Nat) => match s.pop with
      | none => 0
      | some p => if s.groupSt g = 3 then 0 else s.freeCount p mode g
    some (fields [(s.groupSt g, 0), ((s.failedCh g).getD 0, 8), (free 0 % 65536, 16), (free 1 % 65536, 32)])
  | _ => none

/-- A register of ENG_ (R198, R199). -/
def State.engReg (s : State) (off : Nat) : Option Nat :=
  match off with
  | 0x00 => some (maskOf 64 (fun n => (s.lane n).off))
  | 0x08 => some (fields [(s.cod.tables.length, 0), (s.cod.lastTable, 32)])
  | 0x10 => some s.cod.segs.length
  | 0x38 => some s.cod.laneSel.toNat
  | 0x40 =>
    let l := s.lane (s.cod.laneSel.toNat % 64)
    let mode := match l.queue with
      | [] => 0
      | j :: _ => if j.kind = 4 then 2 else if j.kind = 5 then 3 else 1
    some (fields [(mode, 0), (l.queue.length, 4), (l.faults, 8), (bit l.off, 11)])
  | _ => none

/-- A register of OPS_ (R268, R269). -/
def State.opsReg (s : State) (off : Nat) : Option Nat :=
  match off with
  | 0x00 => some (fields [((s.opr.binds.filter (fun p => p.2.st == 1)).length, 0), (s.opr.digests.length, 16)])
  | 0x08 => some s.opr.sel.toNat
  | 0x10 => some (match s.binding s.opr.sel.toNat with
      | some b => if b.st = 1 then
          fields [(b.round % 2 ^ 32, 0), (b.doneUnits % 2 ^ 30, 32), (bit b.closing, 62), (bit (!b.pend.isEmpty), 63)] else 0
      | none => 0)
  | _ => none

/-- A register of DMA_ (R295, R296). -/
def State.dmaReg (s : State) (off : Nat) : Option Nat :=
  let inSt := fun (f : Nat → Bool) => maskOf 64 (fun n => (s.chan n).any (fun (c : Chan) => f c.st))
  let c := s.chan (s.dma.chSel.toNat % 64)
  match off with
  | 0x00 => some (inSt (fun st => st != chClosed))
  | 0x08 => some (inSt (fun st => st == chSleeping))
  | 0x10 => some (inSt (fun st => st == chError))
  | 0x18 => some s.dma.chSel.toNat
  | 0x20 => some ((c.map (fun (x : Chan) => x.word.toNat)).getD 0)
  | 0x28 => some ((c.map (fun (x : Chan) => x.addr / 64 * 64)).getD 0)
  | 0x30 => some ((c.map (fun (x : Chan) =>
      if x.st = chClosed then 0 else fields [(x.slot, 0), (x.func, 16), (x.prio, 24), (x.parkLimit, 32)])).getD 0)
  | _ => none

/-- A register of CMQ_, as one function sees it (R99, R101, R102). -/
def State.cmqReg (s : State) (func off : Nat) : Option Nat :=
  let c := s.cmq func
  match off with
  | 0x00 => some c.sqBase.toNat
  | 0x08 => some c.rqBase.toNat
  | 0x10 => some c.ctrl.toNat
  | 0x18 => some (maskOf 64 (fun n => (s.qp func n).any Qp.enabled))
  | 0x20 => some (maskOf 64 (fun n => (match s.qp func n with
      | some q => !q.enabled && q.unanswered == 0
      | none => true)
      && !s.q.replies.any (fun (r : PendReply) => r.o == .qp func n)
      && !s.q.waiting.any (fun w => w.1 == .qp func n)
      && !s.liveOps.any (fun (p : Nat × Op) => p.2.o == .qp func n)))
  | 0x28 => some c.fault.toNat
  | 0x30 => some (maskOf 64 (fun n => (s.qp func n).any Qp.pending))
  | 0x38 => some c.opSel.toNat
  | 0x40 => some (match s.ops.tab.get? (c.opSel.toNat % 4096) with
      | some op => if s.isOwner func || (match op.o with
          | .qp f _ => f == func
          | .mgmt _ _ => false) then op.word.toNat else 0
      | none => 0)
  | _ => none

/-- A register of DIR_ (R326, R327). -/
def State.dirReg (s : State) (off : Nat) : Option Nat :=
  let slot := s.sh.dirSel.toNat % 4096
  match off with
  | 0x00 => some (fields [(s.sh.dir.length, 0), (sumOf (s.liveSlots.map (fun x => s.domF x fDirShare)), 32)])
  | 0x08 => some (s.str.count % 8)
  | 0x10 => some (fields [(slot, 0), (s.domF slot fDirShare, 32)])
  | 0x18 =>
    let es := s.dirOf slot
    let a := (es.filter (fun (x : Nat × DirEnt) => x.2.isA)).length
    some (fields [(es.length - a, 0), (a, 32)])
  | 0x40 =>
    let ops := (s.liveOps.filter (fun (p : Nat × Op) => match p.2.body with
      | .dirRecall _ _ _ _ => true
      | _ => false)).length
    let scans := (s.sh.imprs.filter (fun (m : Nat × Impr) => m.2.st == 0)).length
    some (s.sh.recalls.length + scans + ops)
  | _ => none

/-- A signed number in a field of `w` bits. -/
def signed (w : Nat) (v : Int) : Nat := (BitVec.ofInt w v).toNat

/-- A register of FAB_ (R428, R429). -/
def State.fabReg (s : State) (off : Nat) : Option Nat :=
  match off with
  | 0x00 => some (fields [(if s.inHerd then s.herd.device else 0, 0), (s.herd.st, 16), (bit (s.inHerd && s.isVoter), 19),
      (bit s.isLead, 20), (bit (s.inHerd && s.herd.depth == 0), 21), (bit s.herd.noQuorum, 22), (s.herd.cause, 24)])
  | 0x08 => some s.herd.herdId.toNat
  | 0x10 => some (fields [(s.herd.epoch, 0), (s.herd.roster.length, 32)])
  | 0x18 => some s.herdDigest.toNat
  | 0x20 => some (fields [(signed 16 s.herd.offset, 0), (s.herd.parent, 16), (s.herd.depth, 21), (signed 8 s.herd.trim, 24)])
  | 0x28 => some s.herd.linkSel.toNat
  | 0x30 =>
    let l := s.link (s.herd.linkSel.toNat % 32)
    some (fields [(l.st, 0), (l.lanes, 4), (bit l.leads, 8), (l.peer, 16)])
  | _ => none

/-- A register of SEC_ (R460, R461). -/
def State.secReg (s : State) (off : Nat) : Option Nat :=
  match off with
  | 0x00 => some (fields [(bit s.tr.activeB, 0), (s.tr.standby, 4), (s.tr.revoked.toNat, 36), (s.tr.fuseSvn, 40)])
  | 0x08 => some (s.slotVer s.tr.imgA)
  | 0x10 => some (s.slotVer s.tr.imgB)
  | 0x18 => some s.serial.toNat
  | 0x20 => some (fields [(s.tr.ideIo.toNat, 0), (s.tr.ideMem.toNat, 8)])
  | 0x28 => some s.tr.domSel.toNat
  | 0x30 => some (s.domWord s.tr.domSel.toNat)
  | _ => none

/-- A register of RAS_ (R489, R490). -/
def State.rasReg (s : State) (off : Nat) : Option Nat :=
  match off with
  | 0x00 => some (fields [(bit s.ras.fatal, 0), (bit s.ras.ue, 1), (bit s.ras.logDrop, 2), (bit (s.ras.log.length == logMax), 3),
      (bit ((List.range 16).any (fun n => (s.core n).out)), 4), (bit ((List.range 4).any (fun d => s.sparesUsed d == 4)), 5)])
  | 0x08 => some (fields [(s.ras.log.length, 0), (s.ras.nextLseq, 32)])
  | 0x10 => some (fields [(maskOf 16 (fun n => (s.core n).out), 0), (bit s.ras.mgmtDown, 16)])
  | 0x18 => some (fields [(s.sparesUsed 0, 0), (s.sparesUsed 1, 4), (s.sparesUsed 2, 8), (s.sparesUsed 3, 12),
      (s.ras.flips.length, 16)])
  | _ => none

/-- A register of PMU_ (R568, R570). -/
def State.pmuReg (s : State) (off : Nat) : Option Nat :=
  let lv := fun (g : Gov) => s.level g
  match off with
  | 0x00 => some (fields [(s.pmu.stage, 0), (s.pmu.herdMode, 8), (s.pmu.toActive, 32)])
  | 0x08 => some s.pmu.tempSel.toNat
  | 0x10 =>
    let i := s.pmu.tempSel.toNat
    let t := s.pmu.temps.getD i (0, 0)
    some (fields [(t.1.toNat, 0), (signed 16 (sensorLimits i).1, 16), (t.2.toNat, 32)])
  | 0x18 => some (fields ([(lv .power, 0), (lv .hub, 4)] ++ (List.range 4).map (fun n => (lv (.store n), 8 + 4 * n))
      ++ (List.range 4).map (fun n => (lv (.engine n), 24 + 4 * n)) ++ (List.range 4).map (fun n => (lv (.linkDie n), 40 + 4 * n))))
  | 0x20 => some (fields ((List.range 12).map (fun n => (lv (.stack n), 4 * n))))
  | 0x28 => some (fields [(s.pmu.estW, 0), (s.dev fPwrCap, 16)])
  | _ => none

/-- The phase of the current stride in the table in force; 0 in dynamic mode (R520). -/
def State.phase (s : State) : Nat :=
  match s.table? with
  | some t => s.str.count % t.period
  | none => 0

/-- TAP instructions that act only while CHIP_RST_N is asserted (R530). -/
def tapRestricted (ir : Byte) : Bool := [0x00, 0x03, 0x04, 0x05, 0x06, 0x20].contains ir.toNat

/-- A register of TST_ (R543, R544). -/
def State.tstReg (s : State) (off : Nat) : Option Nat :=
  let sems := fun (st : Nat) => (s.ras.sems.filter (fun (x : Nat × Sem) => x.2.st == st)).length
  match off with
  | 0x00 => some (fields [(s.tst.inForce, 0), (s.phase, 16), (bit (s.tst.cause % 256 != 0), 22), (s.tst.cause % 256, 32)])
  | 0x08 => some s.tst.sig0.toNat
  | 0x10 => some s.tst.sig.toNat
  | 0x18 => some (fields [(s.tst.level, 0), (bit (tapRestricted s.tst.ir), 3), (maskOf 16 (fun n => (s.core n).halted), 16)])
  | 0x20 => some (fields [(sems 1, 0), (sems 2, 16), (sems 3, 32)])
  | 0x28 => some s.tst.semSel.toNat
  | 0x30 => some (match s.ras.sems.get? s.tst.semSel.toNat with
      | some m => fields [(m.st, 0), (m.holder, 8)]
      | none => 0)
  | 0x38 => some 0
  | 0x40 => some s.tst.trace.toNat
  | _ => none

/-- The RATE code of HST_LINK (R515). -/
def rateCode (rate : Nat) : Nat :=
  if rate = 0 then 0 else if rate < 5 then 1 else if rate < 8 then 2 else if rate < 16 then 3 else if rate < 32 then 4
  else if rate < 64 then 5 else 6

/-- A native register of HST_, as one function sees it (R515, R516). -/
def State.hstReg (s : State) (func off : Nat) : Option Nat :=
  let h := s.head (headOf func)
  let f := s.func func
  match off with
  | 0x2000 => some 0x4E594C53
  | 0x2008 => some (fields [(func, 0), (headOf func, 8), (func % 16, 12), (bit h.mld, 16), (bit (s.isOwner func), 17)])
  | 0x2010 => some (if h.up then fields [(rateCode h.rate, 0), (h.width, 4), (bit h.lopt, 10), (bit h.l0p, 11),
      (s.rawCap 0 (headOf func), 16)] else 0)
  | 0x2018 => some (fields [(f.resetCause, 0), (bit f.resetSeen, 8)])
  | _ => none

/-- Whether an offset lies in the part of HST_ whose registers CXL 3.1 lays out: the CXL.cachemem range, the memory device
registers and ARB/MUX (R497). -/
def cxlRegion (off : Nat) : Bool :=
  (decide (reg 15 0x1000 ≤ off) && decide (off < reg 15 0x2000)) || (decide (reg 15 0x8000 ≤ off) && decide (off < reg 15 0xC000))
    || (decide (reg 15 0xE000 ≤ off) && decide (off < reg 15 0xE400))

/-- The offset of GLB_LOG_POP. -/
def offLogPop : Nat := 0x58

/-- The register at an offset that is no counter and not the log pop, as a function sees it. -/
def State.plainReg (s : State) (func off w : Nat) : Option Nat :=
  let o := off % 0x10000
  match blockOf off with
  | 0 => s.glbReg o
  | 1 => s.strReg o w
  | 2 => s.csReg o
  | 3 => s.drmReg o
  | 4 => s.flsReg o
  | 5 => s.engReg o
  | 6 => s.opsReg o
  | 7 => s.dmaReg o
  | 8 => s.cmqReg func o
  | 9 => s.dirReg o
  | 10 => s.fabReg o
  | 11 => s.secReg o
  | 12 => s.rasReg o
  | 13 => s.pmuReg o
  | 14 => s.tstReg o
  | 15 => s.hstReg func o
  | _ => none

/-! ## The log pop (R580, R584) -/

/-- Whether a function may read a log entry of a slot (R584). -/
def State.mayRead (s : State) (func : Nat) (slot : Option Nat) : Bool :=
  s.isOwner func || (match slot with
    | some x => s.funcOf x func
    | none => false)

/-- The entry that a pop of a function returns, and whether others were skipped. -/
def State.popNext (s : State) (func : Nat) : Option (LogEnt × Bool) :=
  let ptr := s.ras.pops.getD func 0
  match s.ras.log.find? (fun e => lseqFrom ptr e.lseq && s.mayRead func e.slot) with
  | none => none
  | some e =>
    some (e, s.ras.lost.any (fun x => lseqFrom ptr x.1 && !lseqFrom e.lseq x.1 && s.mayRead func x.2))

/-- The value of GLB_LOG_POP. -/
def popWord : Option (LogEnt × Bool) → Nat
  | none => 0
  | some (e, skipped) => fields [(e.code, 0), (e.sev, 16), (bit skipped, 30), (1, 31), (e.lseq, 32)]

/-- What a register reads, without side effect (R573): zero where no register stands or the block is not seen. -/
def State.peekReg (s : State) (func off w : Nat) : Nat :=
  if !s.sees func off then 0
  else if off = offLogPop then popWord (s.popNext func)
  else if cxlRegion off then (Config.cfgSpace (0x100000 + off)).toNat + 2 ^ 32 * (Config.cfgSpace (0x100004 + off)).toNat
  else match counters.find? (fun c => c.off == off) with
    | some c => (c.get s func).toNat
    | none => (s.plainReg func off w).getD 0

/-- Whether a register that a function sees stands at an offset. -/
def State.hasReg (s : State) (func off : Nat) : Bool :=
  s.sees func off && (off == offLogPop || cxlRegion off || counters.any (fun c => c.off == off)
    || (s.plainReg func off 0).isSome)

/-- Pop the log for a function: a read that finds no item changes nothing (R580). -/
def State.pop1 (s : State) (func : Nat) : State :=
  match s.popNext func with
  | none => s
  | some (e, _) => { s with ras.pops := s.ras.pops.set func ((e.lseq + 1) % 2 ^ 32) }

/-! ## Reads -/

/-- The low half of a value. -/
def lowHalf (v : Nat) : Nat := v % 2 ^ 32

/-- The high half of a value. -/
def highHalf (v : Nat) : Nat := v / 2 ^ 32 % 2 ^ 32

/-- Whether the value of a register has a part that the model does not hold. -/
def openReg (off : Nat) : Bool := off == reg 1 0x08 || off == reg 3 0x10

/-- The word that fills the open part of a register's value: the next free value. -/
def State.openWord (s : State) (off : Nat) : State × Nat :=
  if openReg off then
    let (s, w) := s.freeWord
    (s, w.toNat)
  else (s, 0)

/-- A 4-byte read of a low half (R574, R577): the latch takes the high half, and a POP register is popped. -/
def State.readLow (s : State) (func off : Nat) : State :=
  let (s, w) := s.openWord off
  let v := s.peekReg func off w
  let has := s.hasReg func off
  let s := if off = offLogPop then s.pop1 func else s
  let s := if has then s.modFunc func (fun f => { f with latch := some (off, BitVec.ofNat 32 (highHalf v)) }) else s
  s.emit (.regData func off .low (BitVec.ofNat 64 (lowHalf v)))

/-- A 4-byte read of a high half: the latch where it holds the register, and it is then empty; else the live bits. -/
def State.readHigh (s : State) (func off : Nat) : State :=
  match (s.func func).latch with
  | some (o, v) =>
    if o = off then
      (s.modFunc func (fun f => { f with latch := none })).emit (.regData func off .high (v.setWidth 64))
    else
      let (s, w) := s.openWord off
      s.emit (.regData func off .high (BitVec.ofNat 64 (highHalf (s.peekReg func off w))))
  | none =>
    let (s, w) := s.openWord off
    s.emit (.regData func off .high (BitVec.ofNat 64 (highHalf (s.peekReg func off w))))

/-- A read of GLB_LOG_POP. -/
def State.popRead (s : State) (func : Nat) (part : Part) : State :=
  match part with
  | .whole =>
    let v := popWord (s.popNext func)
    (s.pop1 func).emit (.regData func offLogPop .whole (BitVec.ofNat 64 v))
  | .low => s.readLow func offLogPop
  | .high => s.readHigh func offLogPop

/-- GLB_LOG_POP_READ. -/
def execGlbLogPopRead (func : Nat) (part : Part) (s : State) : Host.Outcome State Fault Refusal :=
  .next (if s.regUp func then s.popRead func part else s)

/-- Whether an offset is that of an 8-byte register of the window. -/
def regOffset (off : Nat) : Bool := off % 8 == 0 && decide (off < 0x100000)

/-- Whether the offset of a read lies in the doorbell window (BAR2, 256 KiB): the operand numbers it from 1 MiB on, after the register
window (DESIGN CHOICE, assumption 109). -/
def inDoorbells (off : Nat) : Bool := decide (2 ^ 20 ≤ off) && decide (off < 2 ^ 20 + 2 ^ 18)

/-- LOW_HALF_READ: every read of the doorbell window returns zero (R46, R498); any other read that is not of a register completes with
Unsupported Request. -/
def execLowHalfRead (func off : Nat) (s : State) : Host.Outcome State Fault Refusal :=
  .next (if !s.regUp func then s else if inDoorbells off then s.emit (.regData func off .low 0)
    else if !regOffset off then s.emit (.ioUr func) else s.readLow func off)

/-- HIGH_HALF_READ. -/
def execHighHalfRead (func off : Nat) (s : State) : Host.Outcome State Fault Refusal :=
  .next (if !s.regUp func then s else if inDoorbells off then s.emit (.regData func off .high 0)
    else if !regOffset off then s.emit (.ioUr func) else s.readHigh func off)

/-! ## Selectors and other RW registers -/

/-- One RW register with its writable bits. -/
structure RwReg where
  off : Nat
  mask : U64
  get : State → Nat → U64
  put : State → Nat → U64 → State

/-- The RW registers whose every value is taken. -/
def rwRegs : List RwReg := [
  ⟨reg 2 0x18, 0xFFF, fun s _ => s.ti.useSel, fun s _ v => { s with ti.useSel := v }⟩,
  ⟨reg 4 0x20, 0x3F, fun s _ => s.fl.groupSel, fun s _ v => { s with fl.groupSel := v }⟩,
  ⟨reg 5 0x38, 0x3F, fun s _ => s.cod.laneSel, fun s _ v => { s with cod.laneSel := v }⟩,
  ⟨reg 6 0x08, 0xFFF, fun s _ => s.opr.sel, fun s _ v => { s with opr.sel := v }⟩,
  ⟨reg 7 0x18, 0x3F, fun s _ => s.dma.chSel, fun s _ v => { s with dma.chSel := v }⟩,
  ⟨reg 8 0x38, 0xFFF, fun s f => (s.cmq f).opSel, fun s f v => s.modCmq f (fun c => { c with opSel := v })⟩,
  ⟨reg 9 0x10, 0xFFF, fun s _ => s.sh.dirSel, fun s _ v => { s with sh.dirSel := v }⟩,
  ⟨reg 10 0x28, 0x1F, fun s _ => s.herd.linkSel, fun s _ v => { s with herd.linkSel := v }⟩,
  ⟨reg 11 0x28, 0xFFF, fun s _ => s.tr.domSel, fun s _ v => { s with tr.domSel := v }⟩,
  ⟨reg 14 0x28, 0x3FF, fun s _ => s.tst.semSel, fun s _ v => { s with tst.semSel := v }⟩]

/-- Write an RW register: a 4-byte write acts on its half (R574). -/
def RwReg.write (r : RwReg) (s : State) (func : Nat) (part : Part) (val : U64) : State :=
  r.put s func (mergePart (r.get s func) part val &&& r.mask)

/-- Write STR_BRIDLE_SEL: an INDEX beyond the range of its CLASS leaves it unchanged and is logged (R34). -/
def State.writeBridleSel (s : State) (func : Nat) (part : Part) (val : U64) : State :=
  let v := mergePart s.str.bridleSel part val &&& bridleSelMask
  if fld v.toNat 16 4 < indexCount (fld v.toNat 12 3) then { s with str.bridleSel := v } else s.ignored func (reg 1 0x30) val.toNat

/-- Write DRM_PC_SEL: a STACK above 11 leaves it unchanged and is logged (R358). -/
def State.writePcSel (s : State) (func : Nat) (part : Part) (val : U64) : State :=
  let v := mergePart s.dram.pcSel part val &&& pcSelMask
  if fld v.toNat 8 4 < 12 then { s with dram.pcSel := v } else s.ignored func (reg 3 0x08) val.toNat

/-- Write PMU_TEMP_SEL: a SENSOR above 47 leaves it unchanged and is logged (R569). -/
def State.writeTempSel (s : State) (func : Nat) (part : Part) (val : U64) : State :=
  let v := mergePart s.pmu.tempSel part val &&& 0x3F#64
  if v.toNat < 48 then { s with pmu.tempSel := v } else s.ignored func (reg 13 0x08) val.toNat

/-- Write TST_TRACE: with ENABLE set at a level below 1 it is ignored and logged (R544). -/
def State.writeTrace (s : State) (func : Nat) (part : Part) (val : U64) : State :=
  let v := mergePart s.tst.trace part val &&& traceMask
  if v.getLsbD 0 ∧ s.tst.level = 0 then s.ignored func (reg 14 0x40) val.toNat else { s with tst.trace := v }

/-- Write GLB_CNT_CLEAR: only the owner function, in 8 bytes (R574, R585). -/
def State.writeCntClear (s : State) (func : Nat) (part : Part) (val : U64) : State :=
  if s.isOwner func && part == .whole then { s with cntClear := s.cntClear ||| val.toNat % 65536 }
  else s.ignored func 0x60 val.toNat

/-- Write TST_SEM_FORCE: at level 2 a semaphore held by a halted core is PREEMPTED at once; any other write is ignored and logged
(R538, R574). -/
def State.writeSemForce (s : State) (func : Nat) (part : Part) (val : U64) : State :=
  let n := val.toNat % 1024
  match s.ras.sems.get? n with
  | some m =>
    if s.tst.level = 2 ∧ m.st = 2 ∧ part = .whole then
      let c := s.core m.holder
      { s with
        ras.sems := s.ras.sems.set n { m with st := 3 }
        ras.cores := s.ras.cores.set m.holder { c with released := true } }
    else s.ignored func (reg 14 0x38) val.toNat
  | none => s.ignored func (reg 14 0x38) val.toNat

/-- A write of a function to a register of a block that only the owner function sees: from another it is ignored and logged
(R573, R581). -/
def State.ownerWrite (s : State) (func off : Nat) (val : U64) (f : State → State) : State :=
  if !s.regUp func then s else if s.isOwner func then f s else s.ignored func off val.toNat

/-- STR_BRIDLE_SEL_WRITE. -/
def execStrBridleSelWrite (func : Nat) (part : Part) (val : U64) (s : State) : Host.Outcome State Fault Refusal :=
  .next (s.ownerWrite func (reg 1 0x30) val (fun s => s.writeBridleSel func part val))

/-- DRM_PC_SEL_WRITE. -/
def execDrmPcSelWrite (func : Nat) (part : Part) (val : U64) (s : State) : Host.Outcome State Fault Refusal :=
  .next (s.ownerWrite func (reg 3 0x08) val (fun s => s.writePcSel func part val))

/-- PMU_TEMP_SEL_WRITE. -/
def execPmuTempSelWrite (func : Nat) (part : Part) (val : U64) (s : State) : Host.Outcome State Fault Refusal :=
  .next (s.ownerWrite func (reg 13 0x08) val (fun s => s.writeTempSel func part val))

/-- GLB_CNT_CLEAR_WRITE. -/
def execGlbCntClearWrite (func : Nat) (part : Part) (val : U64) (s : State) : Host.Outcome State Fault Refusal :=
  .next (if s.regUp func then s.writeCntClear func part val else s)

/-- TST_SEM_FORCE_WRITE. -/
def execTstSemForceWrite (func : Nat) (part : Part) (val : U64) (s : State) : Host.Outcome State Fault Refusal :=
  .next (s.ownerWrite func (reg 14 0x38) val (fun s => s.writeSemForce func part val))

/-- TST_TRACE_WRITE. -/
def execTstTraceWrite (func : Nat) (part : Part) (val : U64) (s : State) : Host.Outcome State Fault Refusal :=
  .next (s.ownerWrite func (reg 14 0x40) val (fun s => s.writeTrace func part val))

/-! ## Status bits and the other writes -/

/-- Clear the bits of a status register that a write names (R571); none where the register has no such bit. -/
def State.clearStatus (s : State) (func off : Nat) (w : U64) : Option State :=
  let keep := fun (b : Bool) (i : Nat) => b && !w.getLsbD i
  if off = reg 1 0x20 then
    some { s with str.overrun := keep s.str.overrun 0, str.late := keep s.str.late 1, str.broken := keep s.str.broken 2,
                  str.stagingWait := keep s.str.stagingWait 4 }
  else if off = reg 4 0x10 then some { s with fl.lateRead := keep s.fl.lateRead 2 }
  else if off = reg 8 0x28 then some (s.modCmq func (fun c => { c with fault := c.fault &&& ~~~w }))
  else if off = reg 12 0x00 then some { s with ras.ue := keep s.ras.ue 1, ras.logDrop := keep s.ras.logDrop 2 }
  else if off = reg 14 0x00 then
    some { s with tst.cause := maskOf 8 (fun i => s.tst.cause.testBit i && !w.getLsbD (32 + i)) }
  else if off = reg 15 0x2018 then some (s.modFunc func (fun f => { f with resetSeen := keep f.resetSeen 8 }))
  else none

/-- A write of a register that a function sees (R571 to R574). Writes of CXL's own registers act by their own rows. -/
def State.writeReg (s : State) (func off : Nat) (part : Part) (val : U64) : State :=
  if off = reg 0 0x60 then s.writeCntClear func part val
  else if off = offLogPop then (if part = .whole then s else s.ignored func off val.toNat)
  else if off = reg 1 0x30 then s.writeBridleSel func part val
  else if off = reg 3 0x08 then s.writePcSel func part val
  else if off = reg 13 0x08 then s.writeTempSel func part val
  else if off = reg 14 0x38 then s.writeSemForce func part val
  else if off = reg 14 0x40 then s.writeTrace func part val
  else if off = offSqBase then s.writeBase func false part val
  else if off = offRqBase then s.writeBase func true part val
  else if off = offCtrl then s.writeCtrl func part val
  else if cxlRegion off then s
  else match counters.find? (fun c => c.off == off) with
    | some c => c.put s func (c.get s func &&& ~~~(w1cPart part val &&& 0x8000000000000000#64))
    | none => match rwRegs.find? (fun r => r.off == off) with
      | some r => r.write s func part val
      | none => match s.clearStatus func off (w1cPart part val) with
        | some s' => s'
        | none => s.ignored func off val.toNat

/-- A write to the doorbell window (R46, R498): of an offset that is no doorbell it is ignored and logged. -/
def State.doorbell (s : State) (func off size : Nat) (val : U64) : State :=
  let v := if size = 4 then val &&& 0xFFFFFFFF#64 else val
  if off % 4096 = 0 then s.sqTailWrite func (off / 4096) size v
  else if off % 4096 = 8 then s.rqHeadWrite func (off / 4096) size v
  else s.ignored func off val.toNat

/-- A write of a function to one of its windows (R498, R573). -/
def State.windowWrite (s : State) (func : Nat) (w : WinWrite) : State :=
  if w.doorbell then s.doorbell func w.off w.size w.val
  else if !(w.size == 4 || w.size == 8) || w.off % w.size != 0 || decide (0x100000 < w.off + w.size) then
    s.ignored func w.off w.val.toNat
  else
    let off := w.off / 8 * 8
    let part : Part := if w.size = 8 then .whole else if w.off % 8 = 0 then .low else .high
    if s.sees func off then s.writeReg func off part w.val else s.ignored func w.off w.val.toNat

/-- REGISTER_WRITE. -/
def execRegisterWrite (func : Nat) (w : WinWrite) (s : State) : Host.Outcome State Fault Refusal :=
  .next (if s.regUp func then s.windowWrite func w else s)

end Sys2Proof.Machine
end

