-- ==== Sys2Proof/Machine/TestOps.lean ====
section
/-! DEFINITION. Dressage tables and the dressage record (R517 to R527), self-tests (R528, R529), the debug port (R530 to R539), trace
(R540) and the commands of the 0x09xx range (R541). -/

namespace Sys2Proof.Machine

/-! ## Dressage tables -/

/-- One entry of a dressage table (R518): slot, class, index, phase, grant, slice. -/
def dressageEntry (v : Nat) : Nat × Nat × Nat × Nat × Nat × Bool :=
  (fld v 0 12, fld v 12 3, fld v 16 4, fld v 20 6, fld v 32 24, v.testBit 15)

/-- The entries of a dressage table's bytes. -/
def dressageEntries (b : List Byte) (n : Nat) : List Nat := (List.range n).map (fun i => fieldAt b (64 + 8 * i) 8)

/-- Whether the numbers of a list differ from one another. -/
def distinct : List Nat → Bool
  | [] => true
  | x :: l => !l.contains x && distinct l

/-- Whether a dressage table is valid (R517 to R519); `len` is the length that the command names. -/
def State.dressageOk (s : State) (b : List Byte) (len : Nat) : Bool :=
  let p := fieldAt b 3 1
  let n := fieldAt b 8 4
  let raw := dressageEntries b n
  let es := raw.map dressageEntry
  decide (64 ≤ b.length) && fieldAt b 0 2 == 0xD7A1 && fieldAt b 2 1 == 1 && decide (1 ≤ p) && decide (p ≤ 64)
    && fieldAt b 4 2 != 0 && zeroAt b 6 2 && decide (1 ≤ n) && decide (n ≤ 65536) && zeroAt b 16 48
    && len == 64 + 8 * n && b.length == len
    && fieldAt b 12 4 == (crc32c (splice b 12 (zeros 4))).toNat
    && raw.all (fun v => fld v 26 6 == 0 && fld v 56 8 == 0)
    && es.all (fun e => decide (e.2.2.1 < indexCount e.2.1) && decide (e.2.2.2.1 < p))
    && distinct (raw.map (fun v => v % 2 ^ 15 + 2 ^ 15 * (fld v 16 10)))
    && (List.range p).all (fun ph => allIndices.all (fun x =>
        decide (sumOf ((es.filter (fun e => e.2.1 == x.1 && e.2.2.1 == x.2 && e.2.2.2.1 == ph)).map (fun e => e.2.2.2.2.1))
          ≤ s.capNow x.1 x.2)))

/-- The table that bytes hold. -/
def dressageTable (b : List Byte) : DTable :=
  { period := fieldAt b 3 1, crc := BitVec.ofNat 32 (fieldAt b 12 4),
    entries := (dressageEntries b (fieldAt b 8 4)).map dressageEntry }

/-- Whether a table is in force or armed, or named by the configuration in force or armed (R519, R541). -/
def State.dressageUsed (s : State) (id : Nat) : Bool :=
  s.tst.inForce == id || s.tst.armed == id || s.dev fDressageTable == id || s.newest 0 fDressageTable 0 == id

/-- The table IDs of DRESSAGE_LOADs under way. -/
def State.loadingTables (s : State) : List Nat :=
  s.liveOps.filterMap (fun (p : Nat × Op) => match p.2.body with
    | .dressageLoad _ b => some (fieldAt b 4 2)
    | _ => none)

/-- DRESSAGE_LOAD (R519). -/
def cDressageLoad : Cmd := longCmd 0x0910 false .owner (fun s _ p =>
  let id := fieldAt p.data 4 2
  if p.p0.toNat % 64 ≠ 0 ∨ !s.dressageOk p.data p.p1.toNat then deny s stBadParam
  else if (s.tst.tables.has id && s.dressageUsed id) || s.loadingTables.contains id then deny s stBusyRetry
  else if !s.tst.tables.has id && decide (4 ≤ s.tst.tables.length + s.loadingTables.length) then deny s stNoResource
  else (s, .start (.dressageLoad 0 p.data) (fieldAt p.data 8 4) id 0 opQueued))

/-- One slice of DRESSAGE_LOAD: 4,096 entries. The table is installed when the operation is done. -/
def State.dressageSlice (s : State) (h cursor : Nat) (b : List Byte) : State :=
  let n := fieldAt b 8 4
  let c := min n (cursor + 4096)
  let s := (s.setBody h (.dressageLoad c b)).ranTo h c
  if n ≤ c then s.endOp h stOk else s

/-- Install a loaded table. -/
def State.installTable (s : State) (b : List Byte) : State :=
  { s with tst.tables := s.tst.tables.set (fieldAt b 4 2) (dressageTable b) }

/-- DRESSAGE_DROP (R541). -/
def cDressageDrop : Cmd := shortCmd 0x0911 false .owner (fun s _ p =>
  let id := fld p.p0.toNat 0 16
  if !s.tst.tables.has id || s.tst.dropping.contains id then deny s stBadParam
  else if s.dressageUsed id then deny s stBusyRetry
  else done { s with tst.dropping := s.tst.dropping ++ [id] } stOk 0 0)

/-! ## The dressage record (R524, R525) -/

/-- The configuration blocks over which CONFIG_CRC is taken: the device's and every slot's that is not FREE, in slot order. -/
def State.configBlocks (s : State) : List Byte :=
  s.readBlock false false 0 ++ s.liveSlots.flatMap (fun x => s.readBlock true false x)

/-- The dressage record. -/
def State.dressageRecord (s : State) : List Byte :=
  let t := s.table?
  let reg' := fun (o : Option Nat) => le 8 (o.getD 0)
  let spares := sumOf ((List.range 4).map (fun d => s.sparesUsed d * 16 ^ d))
  let flash := sumOf ((List.range 64).map (fun g => s.groupSt g * 4 ^ g))
  let heads := (List.range 8).flatMap (fun h =>
    le 2 (if (s.head h).up then rateCode (s.head h).rate + (s.head h).width * 16 else 0))
  let links := sumOf ((List.range 32).map (fun n => (if (s.link n).st = 5 then (s.link n).lanes % 16 else 0) * 16 ^ n))
  le 8 s.fwver.toNat ++ le 2 s.tst.inForce ++ le 1 ((t.map DTable.period).getD 0) ++ zeros 1
    ++ le 4 ((t.map (fun x => x.crc.toNat)).getD 0) ++ reg' (s.engReg 0) ++ reg' (s.rasReg 0x10) ++ le 8 spares
    ++ (List.range 12).flatMap (fun k => reg' (s.drmReg (0x100 + 8 * k)))
    ++ le 8 (2 ^ 16 * (maskOf 12 s.stackOff)) ++ le 16 flash ++ heads ++ le 16 links ++ le 4 (crc32c s.configBlocks).toNat ++ zeros 4
    ++ le 8 s.herdDigest.toNat ++ zeros 48

/-- At a boundary: an armed table whose phase is 0 comes into force, its signature is latched and the CAUSE bits are cleared; the
signature is taken afresh, and a record that changes while a table is in force makes the run diverge (R520, R525, R527). -/
def State.dressageBoundary (s : State) : State :=
  let s := { s with tst.tables := s.tst.tables.filter (fun (x : Nat × DTable) => !s.tst.dropping.contains x.1), tst.dropping := [] }
  let entering := s.tst.armed != 0 && (match s.tst.tables.get? s.tst.armed with
    | some t => s.str.count % t.period == 0
    | none => false)
  let s := if entering then { s with tst.inForce := s.tst.armed, tst.armed := 0, tst.cause := 0 } else s
  let r := s.dressageRecord
  let sig := crc64 r
  let s := if !entering && s.tst.inForce != 0 && r != s.tst.lastRec then s.diverge 6 else s
  let s := if entering then { s with tst.sig0 := sig } else s
  { s with tst.sig := sig, tst.lastRec := r }

/-- A generation changes DRESSAGE_TABLE: a table is armed, or the device is in dynamic mode again (R520). -/
def State.dressageField (s : State) (old : Nat) : State :=
  let v := s.dev fDressageTable
  if v = old then s else { s with tst.inForce := 0, tst.armed := v }

/-- DRESSAGE_QUERY (R524, R541): the record as it stands at cycle 0 of the stride. -/
def cDressageQuery : Cmd := shortCmd 0x0912 false .owner (fun s o p =>
  if p.p0.toNat % 64 ≠ 0 then deny s stBadParam
  else doneData s o p.p0.toNat (if s.tst.lastRec.isEmpty then s.dressageRecord else s.tst.lastRec) stOk s.tst.sig.toNat
    s.tst.sig0.toNat)

/-! ## Self-tests (R528, R529) -/

/-- Whether a self-test may not start because of dressage. -/
def State.dressageNamed (s : State) : Bool := s.dev fDressageTable != 0 || s.newest 0 fDressageTable 0 != 0

/-- The unit of a lane or operator test in `laneTests`. -/
def testKey (kind unit : Nat) : Nat := if kind = 0 then unit else 64 + unit

/-- SELFTEST_LOGIC. -/
def cSelftestLogic : Cmd := longCmd 0x0900 false .owner (fun s _ p =>
  let kind := fld p.p0.toNat 0 1
  let unit := fld p.p0.toNat 8 6
  if kind = 1 ∧ 4 ≤ unit then deny s stBadParam
  else if s.dressageNamed || s.tst.laneTests.contains (testKey kind unit) then deny s stBusyRetry
  else
    ({ s with tst.laneTests := s.tst.laneTests ++ [testKey kind unit] },
      .start (.selftestLogic kind unit 0) (if kind = 0 then 65536 else 262144) 0 0 opQueued))

/-- One slice of SELFTEST_LOGIC: 1,024 patterns of a lane, 256 of an operator unit. The MISR of the part is a free value. -/
def State.logicSlice (s : State) (h kind unit cursor : Nat) : State :=
  let n := if kind = 0 then 65536 else 262144
  let c := min n (cursor + (if kind = 0 then 1024 else 256))
  let s := (s.setBody h (.selftestLogic kind unit c)).ranTo h c
  if c < n then s
  else
    let (s, misr) := s.freeWord
    let want := Config.misr (testKey kind unit) % 2 ^ 64
    (s.setResults h misr.toNat want).endOp h (if misr.toNat = want then stOk else stDataError)

/-- A lane or operator test is over: the unit serves again, or one that failed is taken out of service (R529). -/
def State.logicOver (s : State) (kind unit status : Nat) : State :=
  let s := { s with tst.laneTests := s.tst.laneTests.filter (· != testKey kind unit) }
  if status = stDataError then
    if kind = 0 then s.modLane unit (fun l => { l with pendingOff := true })
    else { s with tst.laneTests := s.tst.laneTests ++ [128 + unit] }
  else s

/-- Whether a SELFTEST_STORE or SELFTEST_STACK of a unit is under way. -/
def State.testLive (s : State) (f : OpBody → Bool) : Bool := s.liveOps.any (fun (p : Nat × Op) => f p.2.body)

/-- SELFTEST_STORE. -/
def cSelftestStore : Cmd := longCmd 0x0901 false .owner (fun s _ p =>
  let die := fld p.p0.toNat 0 2
  let mode := fld p.p0.toNat 8 1
  let bank := fld p.p1.toNat 0 8
  if mode = 1 ∧ 64 ≤ bank then deny s stBadParam
  else if s.dressageNamed || s.testLive (fun b => match b with
      | .selftestStore d m k _ _ _ _ => d == die && m == mode && (m == 0 || k == bank)
      | _ => false) then deny s stBusyRetry
  else (s, .start (.selftestStore die mode bank 0 0 0 []) (if mode = 0 then 65536 * (4 - s.sparesUsed die) else 65536) 0 0 opQueued))

/-- The line index in a row of a live bank of a store die (R12). -/
def bankLine (bank row : Nat) : Nat := row * 256 + ((bank ^^^ row % 256) ^^^ row / 256)

/-- The results of a test whose outcome is the part's own: the failing lines are a free value, and so are their locations. -/
def State.openResults (s : State) (h lines : Nat) : State :=
  let (s, n) := s.freeWord
  let bad := n.toNat % (lines + 1)
  if bad = 0 then (s.setResults h 0 0).endOp h stOk
  else
    let (s, first) := s.freeWord
    let (s, crc) := s.freeWord
    (s.modOp h (fun o => { o with r0 := bad, r1 := first.toNat, r2 := crc.toNat % 2 ^ 32 })).endOp h stDataError

/-- The results of a test that has kept its failing locations (R528). -/
def State.listedResults (s : State) (h failing first : Nat) (locs : List Nat) : State :=
  let crc := if locs.isEmpty then 0 else (crc32c (locs.flatMap (le 8))).toNat
  (s.modOp h (fun o => { o with r0 := failing, r1 := first, r2 := crc })).endOp h (if failing = 0 then stOk else stDataError)

/-- One slice of SELFTEST_STORE: 102 lines of the spare banks, or 1,024 lines of a live bank, whose failures are handled as scrub
handles them (R474). -/
def State.storeSlice (s : State) (h die mode bank cursor failing first : Nat) (locs : List Nat) : State :=
  if mode = 0 then
    let n := ((s.ops.tab.get? h).map Op.total).getD 0
    let c := min n (cursor + 102)
    let s := (s.setBody h (.selftestStore die mode bank c 0 0 [])).ranTo h c
    if c < n then s else s.openResults h n
  else
    let c := min 65536 (cursor + 1024)
    let (s, bad) := (rangeFrom cursor (c - cursor)).foldl (fun (a : State × List Nat) row =>
      let l := csLine (bankLine (64 * die + bank) row)
      match a.1.scrubLine l with
      | (s, .good) => (s, a.2)
      | (s, .poison) => (s, a.2)
      | (s, _) => (s, a.2 ++ [lineLoc l])) (s, locs)
    let first := if failing = 0 then bad.headD 0 else first
    let s := (s.setBody h (.selftestStore die mode bank c bad.length first bad)).ranTo h c
    if c < 65536 then s else s.listedResults h bad.length first bad

/-- SELFTEST_STACK. -/
def cSelftestStack : Cmd := longCmd 0x0902 false .owner (fun s _ p =>
  let k := fld p.p0.toNat 0 4
  let offline := p.p0.getLsbD 8
  let mask := fld p.p1.toNat 0 32
  if 12 ≤ k ∨ (offline ∧ (bitsSet mask 32).any (fun i => !s.pcOff k i)) then deny s stBadParam
  else if s.dressageNamed || s.testLive (fun b => match b with
      | .selftestStack k' _ m _ _ _ _ => k' == k && m &&& mask != 0
      | _ => false) then deny s stBusyRetry
  else
    let s := s.over (bitsSet mask 32) (fun s p => s.modPc k p (fun c => { c with bist := 0 }))
    (s, .start (.selftestStack k offline mask 0 0 0 []) (16384 * (bitsSet mask 32).length) 0 0 opQueued))

/-- The line operations of March C− over a pseudo-channel's 1 MiB area: 10 for each of its 16,384 lines (R528). -/
def marchOps : Nat := 163840

/-- What a self-test takes of a pseudo-channel's slot: the line-times that refresh, training and scrub leave (R32, R337). -/
def Pc.tested (c : Pc) : Pc :=
  if c.st = 1 ∨ c.st = 3 then c
  else { c with bist := min marchOps (c.bist + c.room), room := c.room - (marchOps - c.bist) }

/-- One slice of SELFTEST_STACK: the line operations for which each pseudo-channel's slot has a line-time; the stack's own test of its
retired pseudo-channels takes a line of each (DESIGN CHOICE, assumption 113). -/
def State.stackSlice (s : State) (h k : Nat) (offline : Bool) (mask cursor : Nat) : State :=
  let pcs := bitsSet mask 32
  let n := 16384 * pcs.length
  let s := if offline then s else s.over pcs (fun s p => s.modPc k p Pc.tested)
  let c := if offline then min n (cursor + pcs.length) else sumOf (pcs.map (fun p => (s.pc k p).bist / 10))
  let s := (s.setBody h (.selftestStack k offline mask c 0 0 [])).ranTo h c
  if c < n then s else s.openResults h n

/-! ## Debug levels (R531) -/

/-- DEBUG_UNLOCK: within an SPDM session with the owner only. -/
def cDebugUnlock : Cmd := shortCmd 0x0920 false .mgmtOnly (fun s o p =>
  let lv := fld p.p0.toNat 0 2
  let eid := match o with
    | .mgmt e _ => e
    | .qp _ _ => 0
  if !s.ownerSession o then deny s stNotPermitted
  else if lv = 0 ∨ lv = 3 then deny s stBadParam
  else done (if s.tst.level = lv then s else { s with tst.level := lv }.logE 0x0006 none lv eid) stOk 0 0)

/-- DEBUG_LOCK: level 0 at the next boundary. -/
def cDebugLock : Cmd := shortCmd 0x0921 false .owner (fun s _ _ => done { s with tst.lockDue := true } stOk 0 0)

/-! ## Halting (R537 to R539) -/

/-- Change a core. -/
def State.modCore (s : State) (n : Nat) (g : Core → Core) : State := { s with ras.cores := s.ras.cores.set n (g (s.core n)) }

/-- Move the semaphores of a core from one state to another. -/
def State.moveSems (s : State) (core old new : Nat) : State :=
  { s with ras.sems := s.ras.sems.map (fun (x : Nat × Sem) =>
      if x.2.holder = core ∧ x.2.st = old then (x.1, { x.2 with st := new }) else x) }

/-- A core halts: the semaphores it holds become HELD_BY_HALTED, and its watchdog stops (R537). -/
def State.haltHart (s : State) (n : Nat) : State :=
  if 16 ≤ n ∨ (s.core n).halted then s
  else ((s.modCore n (fun c => { c with halted := true, released := false })).moveSems n 1 2).diverge 5

/-- A halted core resumes: it goes on with its semaphores, or is reset where one was released (R539). -/
def State.resumeHart (s : State) (n : Nat) : State :=
  let c := s.core n
  if 16 ≤ n ∨ !c.halted then s
  else
    let s := s.modCore n (fun c => { c with halted := false, released := false })
    if c.released then s else s.moveSems n 2 1

/-- HART_HALT: by the debugger, a trigger or a single step, at level 2. -/
def execHartHalt (hart : Nat) (s : State) : Host.Outcome State Fault Refusal :=
  .next (if s.tst.level = 2 then s.haltHart hart else s)

/-- HART_RESUME: a core of which a semaphore was released is reset, and the command it was executing is answered ABORTED (R539). -/
def execHartResume (hart : Nat) (cmd : Option Nat) (s : State) : Host.Outcome State Fault Refusal :=
  .next (if s.tst.level = 2 then
      (s.resumeHart hart).abortHeld (if hart < 16 && (s.core hart).halted && (s.core hart).released then cmd else none)
    else s)

/-- Clear TST_TRACE.ENABLE. -/
def State.traceOff (s : State) : State := { s with tst.trace := s.tst.trace &&& 0xFF0#64 }

/-- Level 0, with a log entry where the level changes. -/
def State.levelZero (s : State) : State :=
  if s.tst.level = 0 then s else { s with tst.level := 0 }.logE 0x0006 none 0 0

/-- DEBUG_LOCK takes effect: the level is 0, every halted core resumes and trace is disabled (R531). -/
def State.lockStep (s : State) : State :=
  if s.tst.lockDue then ({ s.traceOff with tst.lockDue := false }.over (List.range 16) State.resumeHart).levelZero else s

/-- The boundary's part: DEBUG_LOCK takes effect, and trace holds the pins that TST_TRACE grants it (R540). -/
def State.debugBoundary (s : State) : State :=
  let s := s.lockStep
  let pins : Nat := if s.tst.trace.getLsbD 0 then fld s.tst.trace.toNat 4 4 * 16 else 0
  { s with tst.tracePins := pins }

/-! ## Trace (R540, R549) -/

/-- The admission records of the stride that ends: one for each slot and class with charged units. A count beyond the field is a free
value. -/
def State.admissionRecs (s : State) : State :=
  if !s.traces 1 then s
  else
    let keys := (s.str.used.map (fun (x : Nat × Nat) => x.1 / 256)).eraseDups
    s.over keys (fun s k =>
      let n := sumOf ((s.str.used.filter (fun (x : Nat × Nat) => x.1 / 256 == k)).map Prod.snd)
      let (s, w) := if n < 8192 then (s, n) else
        let (s, w) := s.freeWord
        (s, w.toNat % 8192)
      s.traceRec (0x20000000 + 2 ^ 16 * (k / 8) + 2 ^ 13 * (k % 8) + w))

/-- The 36 bit periods of a frame, the first in bit 0 (R549): a start bit, the record, an odd-parity bit of the record (DEDUCED: over
its 32 bits; assumption 115) and two periods of 0. -/
def traceFrame (r : U32) : BitVec 36 :=
  BitVec.ofNat 36 (1 + r.toNat * 2 + 2 ^ 33 * (1 - ((List.range 32).filter r.getLsbD).length % 2))

/-- The records of the stride that ends leave on the granted pins: three frames a pin. Where some do not fit, the first frame
carries a stride record with bit 27 set. -/
def State.traceOut (s : State) : State :=
  let pins := bitsSet s.tst.tracePins 8
  if pins.isEmpty then { s with tst.records := [] }
  else
    let s := s.admissionRecs
    let mark : U32 := BitVec.ofNat 32 (0x18000000 + s.str.count % 2 ^ 27)
    let rs := if s.tst.records.length ≤ 3 * pins.length then s.tst.records else mark :: s.tst.records
    let frames := (rs.take (3 * pins.length)).zipIdx.map (fun x => (pins.getD (x.2 % pins.length) 0, x.2 / pins.length, traceFrame x.1))
    let s := { s with tst.records := [] }
    if frames.isEmpty then s else s.emit (.trace s.str.count frames)

/-- The record of a boundary: of the stride, or of dressage. -/
def State.traceBoundary (s : State) : State :=
  let s := if s.traces 0 then s.traceRec (0x10000000 + s.str.count % 2 ^ 28) else s
  if s.traces 2 then s.traceRec (0x30000000 + 2 ^ 16 * s.phase + s.tst.inForce) else s

/-! ## The system bus (R534 to R536) -/

/-- What a system-bus address names. -/
inductive BusPlace where
  | register (off : Nat)
  | line (l : Nat)
  | nowhere
deriving DecidableEq, Repr

/-- The system-bus address map (R534). -/
def busPlace (a : Nat) : BusPlace :=
  let l := a / 64
  if a < 0x100000 then .register a
  else if 0x4000000 ≤ l ∧ l < 0x4000000 + 2 ^ 24 then .line l
  else if isDram l ∧ lineStack l < 12 ∧ lineGran l < stackGranules then .line l
  else .nowhere

/-- A peek (R535): it counts in TST_PEEKS, loads the Debug Module's data registers and has no other effect; one of a
granule takes a line-time of its maintenance slot. -/
def State.peek (s : State) (a : Nat) : State :=
  let s := { s with tst.peeks := cntAdd s.tst.peeks 1 }
  let s := match busPlace a with
    | .line l => if isDram l then s.modPc (lineStack l) (granPc (lineGran l)) (fun c => { c with room := c.room - 1 }) else s
    | _ => s
  let load := fun (s : State) (d : List Byte) (c x : U32) =>
    { s with tst.sbData := d, tst.sbCheck := c, tst.sbSyn := x }.emit (.sbData d c x)
  match busPlace a with
  | .register off =>
    let base := off / 8 * 8
    let (s, w) := s.openWord base
    load s (le 8 (s.peekReg s.owner base w)) 0 0
  | .line l => load s (s.rawLine l) (s.checkWord l) (s.synOf l)
  | .nowhere => load s.logOpen (zeros 64) 0 0

/-- A system-bus read at the level in force: at level 0 it returns zero (R532). -/
def State.busRead (s : State) (a : Nat) : State := if s.tst.level = 0 then s.emit (.dmi 0) else s.peek a

/-- A write to the system bus (R536): at level 2 a register write of the owner function, or a full line with a correct check word;
each is logged. Below level 2 it is ignored and logged. -/
def State.busWrite (s : State) (a : Nat) (d : List Byte) : State :=
  if s.tst.level ≠ 2 then s.logOpen
  else
    match busPlace a with
    | .register off =>
      let w : WinWrite := { doorbell := false, off := off, size := d.length, val := BitVec.ofNat 64 (leNat (d.take 8)) }
      (s.windowWrite s.owner w).logOpen
    | .line l => (s.writeLine l (sub d 0 64) false).logOpen
    | .nowhere => s.logOpen

/-- PEEK. -/
def execPeek (addr : Nat) (s : State) : Host.Outcome State Fault Refusal := .next (s.busRead addr)

/-- SYSTEM_BUS_WRITE. -/
def execSystemBusWrite (addr : Nat) (data : List Byte) (s : State) : Host.Outcome State Fault Refusal :=
  .next (s.busWrite addr data)

/-! ## The TAP and the Debug Module (R530, R532, R533) -/

/-- The device's IDCODE: its manufacturer code is Nylis's, which the manual does not give as a number. -/
def State.idcode (s : State) : U32 :=
  BitVec.ofNat 32 (1 + (Config.cfgSpace 0x200000).toNat % 2 ^ 11 * 2 + 0x7725 * 2 ^ 12 + 2 ^ 28 * (s.tr.siliconRev.toNat % 16))

/-- TAP_INSTRUCTION: the register takes the code; IDCODE shifts out the identity, and a code that acts as BYPASS shifts zero. -/
def execTapInstruction (code : Byte) (s : State) : Host.Outcome State Fault Refusal :=
  .next (
    let s := { s with tst.ir := code }
    if code = 0x02 then s.emit (.tdo 0x02 s.idcode)
    else if tapRestricted code && s.pmu.inReset then s
    else if code = 0x01 ∨ code = 0x10 ∨ code = 0x11 then s
    else s.emit (.tdo 0xFF 0))

/-- TAP_RESET: IDCODE is in the instruction register. -/
def execTapReset (s : State) : Host.Outcome State Fault Refusal := .next { s with tst.ir := 0x02 }

/-- The Debug Module's status (dmstatus of the RISC-V debug specification, PRESUMED): version 1.0, authenticated, and whether any and
all of the harts that the array mask names are halted or running. -/
def State.dmStatus (s : State) : Nat :=
  let hs := bitsSet s.tst.hartMask.toNat 16
  let up := hs.filter (fun h => (s.core h).halted)
  fields [(3, 0), (1, 7), (bit (!up.isEmpty), 8), (bit (up.length == hs.length), 9), (bit (up.length != hs.length), 10),
    (bit up.isEmpty, 11)]

/-- An abstract register access of a halted hart: what nothing has written reads as a free value. -/
def State.accessReg (s : State) (hart num : Nat) (write : Bool) (val : U64) : State :=
  if 16 ≤ hart ∨ !(s.core hart).halted then s
  else
    let key := 65536 * hart + num % 65536
    if write then { s with tst.hartRegs := s.tst.hartRegs.set key val }
    else match s.tst.hartRegs.get? key with
      | some v => s.emit (.dmi v)
      | none =>
        let (s, v) := s.freeWord
        { s with tst.hartRegs := s.tst.hartRegs.set key v }.emit (.dmi v)

/-- A DMI operation at level 2 (R533): Quick Access, Access Memory and the Debug Module's own authentication have no effect. -/
def State.dmiFull (s : State) (op : DmiOp) : State :=
  match op with
  | .readStatus => s.emit (.dmi (BitVec.ofNat 64 s.dmStatus))
  | .readSbData => s.emit (.dmi (BitVec.ofNat 64 (leNat (s.tst.sbData.take 8))))
  | .sbRead a => s.peek a
  | .sbWrite a v => s.busWrite a (le 8 v.toNat)
  | .readOther r =>
    if 0x20 ≤ r ∧ r < 0x28 then s.emit (.dmi ((s.tst.progBuf.getD (r - 0x20) 0).setWidth 64))
    else
      let (s, v) := s.freeWord
      s.emit (.dmi (v &&& 0xFFFFFFFF#64))
  | .halt h => s.haltHart h
  | .resume h => s.resumeHart h
  | .resetHart h => if h < 16 then s.modCore h (fun c => { c with halted := false, released := false }) else s
  | .hartArray m => if m.toNat % 256 = 0 ∨ m.toNat / 256 = 0 then { s with tst.hartMask := m } else s
  | .accessReg h r w v => s.accessReg h r w v
  | .progBuf i v => if i < 8 then { s with tst.progBuf := s.tst.progBuf.set i v } else s
  | .step h => (s.resumeHart h).haltHart h
  | .trigger h i v => if h < 16 ∧ i < 4 then { s with tst.triggers := s.tst.triggers.set (65536 * h + i) v } else s
  | .quickAccess => s
  | .accessMem => s
  | .auth => s

/-- Whether a DMI operation is a read. -/
def dmiReads : DmiOp → Bool
  | .readStatus => true
  | .readSbData => true
  | .sbRead _ => true
  | .readOther _ => true
  | .accessReg _ _ w _ => !w
  | _ => false

/-- Whether level 1 accepts a DMI operation: reads of the status and of system-bus access (R532). -/
def dmiObserves : DmiOp → Bool
  | .readStatus => true
  | .readSbData => true
  | .sbRead _ => true
  | _ => false

/-- DMI_ACCESS: at level 0 reads return zero and writes are ignored; a refused write is logged. -/
def execDmiAccess (op : DmiOp) (s : State) : Host.Outcome State Fault Refusal :=
  .next (if s.tst.level = 2 ∨ (s.tst.level = 1 ∧ dmiObserves op) then s.dmiFull op
    else if dmiReads op then s.emit (.dmi 0) else s.logOpen)

/-! ## Rows -/

/-- SELFTEST_LOGIC. -/
def execSelftestLogic (o : Origin) (p : Pkt) (s : State) : Host.Outcome State Fault Refusal :=
  .next (s.packet cSelftestLogic none o p)

/-- SELFTEST_STORE. -/
def execSelftestStore (o : Origin) (p : Pkt) (s : State) : Host.Outcome State Fault Refusal :=
  .next (s.packet cSelftestStore none o p)

/-- SELFTEST_STACK. -/
def execSelftestStack (o : Origin) (p : Pkt) (s : State) : Host.Outcome State Fault Refusal :=
  .next (s.packet cSelftestStack none o p)

/-- DRESSAGE_LOAD. -/
def execDressageLoad (o : Origin) (p : Pkt) (s : State) : Host.Outcome State Fault Refusal :=
  .next (s.packet cDressageLoad none o p)

/-- DRESSAGE_DROP. -/
def execDressageDrop (o : Origin) (p : Pkt) (s : State) : Host.Outcome State Fault Refusal :=
  .next (s.packet cDressageDrop none o p)

/-- DRESSAGE_QUERY. -/
def execDressageQuery (o : Origin) (p : Pkt) (s : State) : Host.Outcome State Fault Refusal :=
  .next (s.packet cDressageQuery none o p)

/-- DEBUG_UNLOCK. -/
def execDebugUnlock (o : Origin) (p : Pkt) (s : State) : Host.Outcome State Fault Refusal :=
  .next (s.packet cDebugUnlock none o p)

/-- DEBUG_LOCK. -/
def execDebugLock (o : Origin) (p : Pkt) (s : State) : Host.Outcome State Fault Refusal := .next (s.packet cDebugLock none o p)

end Sys2Proof.Machine
end

