-- ==== Sys2Proof/Machine/Commands.lean ====
section
/-! DEFINITION. The opcodes in one table (R59), the packet of an opcode that is not assigned, the failure of a command's access to
its own data (R586), and the packets that FENCE holds back (R51). -/

namespace Sys2Proof.Machine

/-! ## The table -/

/-- The commands of the ranges 0x01xx to 0x03xx. -/
def addressCmds : List Cmd :=
  [cExtentGrant, cExtentRelease, cTetherRenew, cExtentList, cWindowSet, cImpressionOpen, cImpressionClose, cImpressionQuery,
    cDirRecall, cStreamLoad, cStreamRun, cStreamUnload, cStreamQuery]

/-- The commands of the ranges 0x04xx and 0x05xx. -/
def engineCmds : List Cmd :=
  [cOperBind, cOperUnbind, cOperStep, cOperRoundClose, cOperQuery, cDigestOpen, cDigestClose, cDigestRead, cDmaChanOpen,
    cDmaChanStop, cDmaChanClose, cDmaKick, cDmaChanQuery]

/-- The commands of the ranges 0x06xx and 0x07xx. -/
def storageCmds : List Cmd :=
  [cPlaceMove, cPlateQuery, cPlateDiscard, cSegmentDefine, cProofPass, cSegmentDrop, cSegmentQuery, cTableRead, cScrub, cRetire,
    cFlipArm, cFlipDisarm, cLogRead, cLogRelease]

/-- The commands of the ranges 0x08xx and 0x09xx. -/
def queueCmds : List Cmd :=
  [cNop, cQueueCreate, cQueueDelete, cConfigWrite, cConfigPlan, cConfigRead, cCatalogueRead, cOpCancel, cOpStatusRead,
    cSelftestLogic, cSelftestStore, cSelftestStack, cDressageLoad, cDressageDrop, cDressageQuery, cDebugUnlock, cDebugLock]

/-- The commands of the ranges 0x0Axx and 0x0Bxx but FW_STAGE, which takes an image. -/
def ownerCmds : List Cmd :=
  [cHerdForm, cHerdAdmit, cHerdJoin, cHerdRemove, cHerdVoters, cHerdDomainSet, cRouteWrite, cHerdRead, cLinkCtrl, cHerdStandby,
    cDomainActivate, cDomainPark, cDomainUnpark, cDomainErase, cDomainQuery, cKeyLoad, cKeyDestroy, cFwPrepare, cFwActivate,
    cFwCommit, cFwQuery]

/-- The opcode of FW_STAGE. -/
def opFwStage : Nat := 0x0B20

/-- The command of an opcode, with the image that its parameters name where it takes one. -/
def cmdOf (opcode : Nat) (img : Option Image) : Option Cmd :=
  if opcode = opFwStage then img.map cFwStage
  else (addressCmds ++ engineCmds ++ storageCmds ++ queueCmds ++ ownerCmds).find? (fun c => c.opcode == opcode)

/-- Whether a chapter defines an opcode (R59). -/
def assigned (opcode : Nat) : Bool := opcode == opFwStage || (cmdOf opcode none).isSome

/-- The command that a packet's OPCODE names (R59). FW_STAGE comes with the image that its parameters name; one whose image cannot be
read fails as R586 says. -/
def commandOf (opcode : Nat) (o : Origin) (p : Pkt) (img : Option Image) : Instr :=
  match opcode with
  | 0x0100 => .extentGrant o p
  | 0x0101 => .extentRelease o p
  | 0x0102 => .tetherRenew o p
  | 0x0103 => .extentList o p
  | 0x0104 => .windowSet o p
  | 0x0200 => .impressionOpen o p
  | 0x0201 => .impressionClose o p
  | 0x0202 => .impressionQuery o p
  | 0x0210 => .dirRecall o p
  | 0x0300 => .streamLoad o p
  | 0x0301 => .streamRun o p
  | 0x0302 => .streamUnload o p
  | 0x0303 => .streamQuery o p
  | 0x0400 => .operBind o p
  | 0x0401 => .operUnbind o p
  | 0x0402 => .operStep o p
  | 0x0403 => .operRoundClose o p
  | 0x0404 => .operQuery o p
  | 0x0410 => .digestOpen o p
  | 0x0411 => .digestClose o p
  | 0x0412 => .digestRead o p
  | 0x0500 => .dmaChanOpen o p
  | 0x0501 => .dmaChanStop o p
  | 0x0502 => .dmaChanClose o p
  | 0x0503 => .dmaKick o p
  | 0x0504 => .dmaChanQuery o p
  | 0x0600 => .placeMove o p
  | 0x0601 => .plateQuery o p
  | 0x0602 => .plateDiscard o p
  | 0x0603 => .segmentDefine o p
  | 0x0604 => .proofPass o p
  | 0x0605 => .segmentDrop o p
  | 0x0606 => .segmentQuery o p
  | 0x0607 => .tableRead o p
  | 0x0700 => .scrub o p
  | 0x0710 => .retire o p
  | 0x0720 => .flipArm o p
  | 0x0721 => .flipDisarm o p
  | 0x0730 => .logRead o p
  | 0x0731 => .logRelease o p
  | 0x0800 => .nop o p
  | 0x0801 => .queueCreate o p
  | 0x0802 => .queueDelete o p
  | 0x0810 => .configWrite o p
  | 0x0811 => .configPlan o p
  | 0x0812 => .configRead o p
  | 0x0813 => .catalogueRead o p
  | 0x0820 => .opCancel o p
  | 0x0821 => .opStatusRead o p
  | 0x0900 => .selftestLogic o p
  | 0x0901 => .selftestStore o p
  | 0x0902 => .selftestStack o p
  | 0x0910 => .dressageLoad o p
  | 0x0911 => .dressageDrop o p
  | 0x0912 => .dressageQuery o p
  | 0x0920 => .debugUnlock o p
  | 0x0921 => .debugLock o p
  | 0x0A00 => .herdForm o p
  | 0x0A01 => .herdAdmit o p
  | 0x0A02 => .herdJoin o p
  | 0x0A03 => .herdRemove o p
  | 0x0A04 => .herdVoters o p
  | 0x0A05 => .herdDomainSet o p
  | 0x0A06 => .routeWrite o p
  | 0x0A07 => .herdRead o p
  | 0x0A08 => .linkCtrl o p
  | 0x0A09 => .herdStandby o p
  | 0x0B00 => .domainActivate o p
  | 0x0B01 => .domainPark o p
  | 0x0B02 => .domainUnpark o p
  | 0x0B03 => .domainErase o p
  | 0x0B04 => .domainQuery o p
  | 0x0B10 => .keyLoad o p
  | 0x0B11 => .keyDestroy o p
  | 0x0B21 => .fwPrepare o p
  | 0x0B22 => .fwActivate o p
  | 0x0B23 => .fwCommit o p
  | 0x0B24 => .fwQuery o p
  | 0x0B20 => match img with
    | some i => .fwStage o p i
    | none => .commandDataAccessFailure (.packet o opFwStage p)
  | _ => .unassignedOpcode o opcode p

/-- The command that the 64 bytes of a packet spell (R53), with the bytes that its parameters name. -/
def receivedCommand (b : List Byte) (o : Origin) (data : List Byte) (img : Option Image) : Instr :=
  commandOf (pktOf b data).1 o (pktOf b data).2 img

/-- A command that no chapter defines: check 2 of R587 turns it away. -/
def cUnassigned (opcode : Nat) : Cmd := shortCmd opcode false .nowhere (fun s _ _ => deny s stBadOpcode)

/-- UNASSIGNED_OPCODE (R59): BAD_OPCODE, and its SEQ is consumed as that of any packet (R587). -/
def execUnassignedOpcode (o : Origin) (opcode : Nat) (p : Pkt) (s : State) : Host.Outcome State Fault Refusal :=
  .next (if assigned opcode then s else s.packet (cUnassigned opcode) none o p)

/-! ## Data of a command that cannot be read or written (R586) -/

/-- The opcodes that read what an address parameter names before they are accepted. -/
def readsData : List Nat := [0x0300, 0x0400, 0x0810, 0x0811, 0x0910, 0x0A01, 0x0A05, 0x0A06, opFwStage]

/-- The opcodes that write a result buffer. -/
def writesData : List Nat := [0x0103, 0x0607, 0x0730, 0x0812, 0x0813, 0x0912, 0x0A07]

/-- The opcodes of `readsData` whose PARAM_0 is an address aligned to 64 bytes, and those that only the lead voter takes (R426): a
packet that fails that is turned away before it reads anything. -/
def readsAligned : List Nat := [0x0300, 0x0400, 0x0810, 0x0811, 0x0910, 0x0A05, opFwStage]

/-- A command whose data access fails: one that is turned away before it reads or writes anything answers as ever, any other completes
with DATA_ERROR and has no effect. -/
def Cmd.failing (c : Cmd) : Cmd :=
  { c with
    fails := true
    run := fun s o p =>
      if writesData.contains c.opcode then
        match c.run s o p with
        | (s', .now st d r0 r1 inl) => if st = stOk then deny s stDataError else (s', .now st d r0 r1 inl)
        | _ => deny s stDataError
      else if readsAligned.contains c.opcode && p.p0.toNat % 64 != 0 then c.run s o p
      else if c.opcode == 0x0A01 || c.opcode == 0x0A05 then
        match s.leadCheck with
        | some a => (s, a)
        | none => deny s stDataError
      else deny s stDataError }

/-- FW_STAGE whose image cannot be read: the image plays no part. -/
def cFwStageUnread : Cmd :=
  (longCmd opFwStage false .owner (fun s _ _ => deny s stBadParam)).failing

/-- The failing command of an opcode. -/
def failingOf (opcode : Nat) : Option Cmd :=
  if opcode = opFwStage then some cFwStageUnread else (cmdOf opcode none).map Cmd.failing

/-- Whether a running operation reads or writes host memory by R586: a schedule, a dressage table or an image that it copies, the
summary of a SCRUB. Stream runs and DMA channels have rules of their own (R234, R291). -/
def OpBody.usesHost : OpBody → Bool
  | .streamLoad _ _ => true
  | .dressageLoad _ _ => true
  | .fwStage _ _ _ => true
  | .scrub _ _ _ _ _ _ _ _ _ _ _ _ sum => sum != 0
  | _ => false

/-- COMMAND_DATA_ACCESS_FAILURE: an access of a command to its data in host memory fails; a management queue's data travels with its
packet. -/
def execCommandDataAccessFailure (d : DataFail) (s : State) : Host.Outcome State Fault Refusal :=
  .next (match d with
    | .packet (.qp f n) opcode p =>
      if readsData.contains opcode || writesData.contains opcode then
        match failingOf opcode with
        | some c => s.packet c none (.qp f n) p
        | none => s
      else s
    | .packet (.mgmt _ _) _ _ => s
    | .running h => match s.ops.tab.get? h with
      | some op => match op.o with
        | .qp _ _ => if isFinal op.st || !op.body.usesHost then s else s.failOp h stDataError
        | .mgmt _ _ => s
      | none => s)

/-! ## Packets that FENCE holds back (R51) -/

/-- The command of a waiting packet's code. -/
def cmdWaiting (code : Nat) (img : Option Image) : Cmd :=
  let op := code % 65536
  if code.testBit 16 then (failingOf op).getD (cUnassigned op) else (cmdOf op img).getD (cUnassigned op)

/-- Start the waiting packets whose earlier commands are final, each queue's in order. -/
def State.startWaiting (s : State) : State :=
  { s with q.waiting := [] }.over s.q.waiting (fun s w =>
    if s.mustWait w.o w.p then { s with q.waiting := s.q.waiting ++ [w] }
    else { s with q.headAfter := w.head }.sequence (cmdWaiting w.code w.img) w.o w.p)

end Sys2Proof.Machine
end

