-- ==== Sys2Proof/Machine/Boundary.lean ====
section
/-! DEFINITION. STRIDE_BOUNDARY (R15): what the hub does at cycle 0 of a stride, in one order. First the counter and the capacity of
each class; then the moves of the stride that ends take effect and staged plans step; then the armed generation (R32: after the plans'
step); then bridles, the operations' states, records and replies (R70), queues; then the engines' own parts; last the slices of the
new stride. -/

namespace Sys2Proof.Machine

/-! ## The stride begins -/

/-- What class-7 use beyond its grant leaves for the next stride (R375). -/
def State.flashExcess (s : State) : FMap Nat :=
  (s.str.used.filter (fun (x : Nat × Nat) => x.1 % 2048 / 256 == 7)).map
    (fun (x : Nat × Nat) => (x.1, x.2 - s.str.grant.getD x.1 0))

/-- Add units to a table of charges. -/
def addUnits (m : FMap Nat) (xs : List (Nat × Nat)) : FMap Nat :=
  xs.foldl (fun (m : FMap Nat) x => if x.2 = 0 then m else m.set x.1 (m.getD x.1 0 + x.2)) m

/-- Log the accesses of the stride before last, to plates of this device with home T0 or T1, that are still not complete where a slice
of their domain has overrun since their admission (R20, R23). Which access an overrun delays is the model's choice (DESIGN CHOICE,
assumption 89). -/
def State.logDelayed (s : State) : State :=
  s.over (s.sh.waiting.filter (fun (x : Nat × Access) => x.2.stride + 2 == s.str.count && !x.2.sent
      && s.str.overran.any (fun o => o.1 == x.2.slot && decide (x.2.stride ≤ o.2))
      && !(s.ent x.2.slot (x.2.line / 64)).any (fun e => decide (2 ≤ e.tier)))) (fun s x =>
    s.logE 0x0003 (some x.2.slot) (match x.2.origin with
      | some _ => 0x100 + (x.2.credit.map Prod.fst).getD 0
      | none => headOf x.2.func) (x.2.line / 64))

/-- The counter increments; the charges of the new stride are the remainders of overrun slices and of flash accesses (R15, R23,
R375); the trace of the stride that ended goes out, and named counters are cleared (R540, R578). -/
def State.startStride (s : State) : State :=
  let s := s.traceOut
  { s with
    str.count := (s.str.count + 1) % 2 ^ 64
    str.overran := s.str.overran.filter (fun (o : Nat × Nat) => decide (s.str.count < o.2 + 2))
    str.used := addUnits s.str.carry s.flashExcess
    str.carry := []
    str.snap := false
    pmu.strides := s.pmu.strides + 1
    ras.rate := []
    atBoundary := [] }.clearDue

/-- The throttle levels of the last thermal sample take effect, and a stride with a level above 0 is counted (R563, R568). -/
def State.setLevels (s : State) : State :=
  let s := match s.pmu.nextLevels with
    | some m => { s with pmu.levels := m, pmu.nextLevels := none }
    | none => s
  if s.pmu.levels.any (fun (x : Nat × Nat) => x.2 != 0) then
    { s with pmu.thrStrides := cntAdd s.pmu.thrStrides 1 }.breakDressage
  else s

/-- Accesses past their bound are logged; levels, retired pseudo-channels and lanes change the capacities (R195, R352, R564). -/
def State.capacityBoundary (s : State) : State := s.logDelayed.setLevels.dramBoundary.lanesBoundary.capFalls s

/-! ## Slices of the stride that ended -/

/-- Renewed tethers stand from here on (R114). -/
def State.renewTethers (s : State) : State :=
  { s with
    ti.renewals := []
    ti.extents := s.ti.renewals.foldl (fun (m : FMap Extent) x =>
      m.modify x.1 (fun e => if e.st = 2 then { e with expiry := x.2 } else e)) s.ti.extents }

/-- End the slice of one operation. -/
def State.endOpSlice (s : State) (h : Nat) (op : Op) : State :=
  if op.st ≠ opRunning ∨ op.ending.isSome then s
  else match op.body with
    | .discard slot first count cursor => if op.ran then s.discardEndSlice h slot first count cursor else s
    | .dirRecall _ _ _ cursor => if s.dirRecallOver h op.total cursor then s.endOp h stOk else s
    | .retire _ _ _ _ _ => s.retireEnd h op
    | _ => s

/-- End the slices of the operations. -/
def State.endSlices (s : State) : State := s.over s.liveOps (fun s x => s.endOpSlice x.1 x.2)

/-- The tables built in the stride that ended join, and their recode phases begin (R187). A proof pass whose cancellation is asked for
does not join its table (R189). -/
def State.joinTables (s : State) : State :=
  s.over s.liveOps (fun s x => match x.2.body with
    | .proof seg table recode 2 cursor _ _ _ _ =>
      if x.2.st = opRunning ∧ x.2.ending.isNone ∧ ¬x.2.cancel then s.proofJoin x.1 seg table recode cursor else s
    | _ => s)

/-- The plans' step (R32, R93). -/
def State.plansStep (s : State) : State := (s.over s.plans (fun s x => s.planStep x.1)).plansDue

/-- Map entries switch to the homes written in the stride that ended, once the encode has passed its verify (R193), and storage whose
stride has come is free (R127). -/
def State.switchHomes (s : State) : State :=
  let waits := fun (x : Switch) => s.verifying x.key
  let s := { s with ti.switches := s.ti.switches.filter waits }.over (s.ti.switches.filter (fun x => !waits x)) State.applySwitch
  let s := s.switchPages
  let due := s.ti.freeing.filter (fun f => decide (f.1 ≤ s.str.count))
  { s with
    ti.freeing := s.ti.freeing.filter (fun f => decide (s.str.count < f.1))
    fl.slots := due.foldl (fun (m : FMap FSlot) f => if 2 ≤ f.2.1 then m.del f.2.2.1 else m) s.fl.slots }

/-- DAMAGED is cleared from resident plates none of whose lines is poisoned any more (R469). -/
def State.clearDamaged (s : State) : State :=
  s.over (s.ti.map.filter (fun (x : Nat × MapEnt) => x.2.damaged && x.2.res0)) (fun s x =>
    if (s.poisonLines x.2).isEmpty then s.modEnt (x.1 / 2 ^ 36) (x.1 % 2 ^ 36) (fun e => { e with damaged := false }) else s)

/-- A copy of a chunk that no operation goes on with gives its new place back. -/
def State.dropCopies (s : State) : State :=
  let going := s.liveOps.flatMap (fun (x : Nat × Op) => match x.2.body with
    | .plan p => (p.todo ++ p.slice).map Prod.snd
    | .retire _ _ _ todo _ => todo.map Prod.snd
    | _ => [])
  { s with ti.chunks := s.ti.chunks.map (fun (c : Chunk) =>
      if c.copyTo.isSome && !going.any (fun u => isChunk u && chunkAt u == (c.stack, c.granule))
          && !(List.range 32).any (fun p => s.pcOff c.stack p) then { c with copyTo := none } else c) }

/-! ## The generation (R87) -/

/-- One change of a generation takes effect. -/
def State.applyChange (s : State) (c : Change) : State :=
  match c with
  | .field k v => { s with cfg.fields := s.cfg.fields.set k v }
  | .window k doff len slot valid ro =>
    { s with ti.windows := s.ti.windows.set k { doff := doff, len := len, slot := slot, valid := valid, ro := ro } }
  | .extentState idx st => s.setExtentState idx st
  | .slotState slot st => s.setSlotState slot st
  | .route dev entry => { s with herd.routes := s.herd.routes.set dev entry }
  | .digestOpen id => { s with opr.digests := s.opr.digests.modify id (fun g => { g with st := 1 }) }
  | .digestClose id => { s with opr.digests := s.opr.digests.modify id (fun g => { g with st := 3 }) }

/-- OWNER_FUNC has changed: every queue pair of the former owner function and of the new one faults (R434). -/
def State.ownerChanged (s : State) (old : Nat) : State :=
  let now := s.owner
  if old = now then s
  else
    let mine := (s.q.qps.map Prod.fst).filter (fun k => k / 64 == old || k / 64 == now)
    s.over mine (fun s k => s.faultQp (k / 64) (k % 64) 2)

/-- Whether the armed generation takes this boundary: it is due, and no firmware activation takes it (R32, R87). -/
def State.swapDue (s : State) : Bool := s.tr.prepared.isNone && s.cfg.build.any (fun b => decide (b.due ≤ s.str.count))

/-- GENERATION_SWAP: the armed generation takes effect; changes that came after its window closed arm the next (R87, R89). A slot newly
active gets its reservations (R28). -/
def State.swapGeneration (s : State) : State :=
  match s.cfg.build with
  | none => s
  | some b =>
    let owner := s.owner
    let table := s.dev fDressageTable
    let up := s.activeSlots
    let late := s.cfg.deferred
    let s := { s with cfg.gen := b.num, cfg.build := none, cfg.deferred := [] }.over b.changes State.applyChange
    let s := ((s.ownerChanged owner).dressageField table).setCaps
    let s := if late.isEmpty then s else (s.join late).1
    { s with str.active := s.activeSlots.filter (fun x => !up.contains x) }

/-! ## Bridles -/

/-- Where firmware activation takes the boundary for which a generation was armed, the bridles computed for its parameters do not apply:
they follow from the same snapshot and the parameters that stay in force (R15, R32). -/
def State.replan (s : State) : State :=
  if s.tr.prepared.isSome && s.str.next.isSome && s.cfg.build.any (fun b => decide (b.due ≤ s.str.count)) then
    { s with str.next := some (s.computeBridles false s.activeSlots s.str.demand) }
  else s

/-- The bridles of the new stride (R15, R17, R28, R521); `fresh` lists the slots that became active at this boundary: where none were
computed, such a slot gets its reservations and the others keep what they had. -/
def State.setBridles (s : State) (fresh : List Nat) : State :=
  let g : FMap Nat := match s.table? with
    | some t => s.dressageGrants t s.str.count
    | none => match s.str.next with
      | some g => g.filter (fun (x : Nat × Nat) => activeSt (s.domSt (x.1 / 2048)))
      | none =>
        let g := s.str.grant.filter (fun (x : Nat × Nat) => activeSt (s.domSt (x.1 / 2048)) && !fresh.contains (x.1 / 2048))
        fresh.foldl (fun (m : FMap Nat) x => (s.firstGrants x).foldl (fun (m : FMap Nat) y => m.set y.1 y.2) m) g
  { s with str.grant := g, str.next := none, str.active := s.activeSlots }

/-! ## States of operations (R69, R70, R74) -/

/-- What an operation becomes whose completion a boundary shows by itself: an extent's offer or release in force, a slot that reached
its last state. -/
def State.inForce (s : State) (op : Op) : Option (Nat × Nat) :=
  match op.body with
  | .extentGrant idx _ => if (s.ti.extents.get? idx).any (fun e => e.st != 0) then some (opDone, stOk) else none
  | .extentRelease idx _ =>
    if !s.ti.extents.has idx || s.ti.released.contains idx then some (opDone, stOk) else none
  | b => if s.slotReached b then some (opDone, stOk) else none

/-- The state and status that an operation takes at the boundary; the same state where it does not change. -/
def State.opNext (s : State) (op : Op) : Nat × Nat :=
  if op.st = opCancelling then (opCancelled, stAborted)
  else match s.inForce op with
    | some x => x
    | none =>
      if op.st = opQueued then
        if op.cancel then (opCancelled, stAborted) else op.ending.getD (opRunning, stOk)
      else if op.st = opRunning then
        if op.cancel then (opCancelling, stOk) else op.ending.getD (opRunning, stOk)
      else (op.st, op.status)

/-- Changes that have joined a generation do not come into force. -/
def State.withdraw (s : State) (cs : List Change) : State :=
  let keep := fun (c : Change) => !cs.contains c
  { s with
    cfg.build := s.cfg.build.map (fun b => { b with changes := b.changes.filter keep })
    cfg.deferred := s.cfg.deferred.filter keep }

/-- Undo what a grant that is cancelled has prepared. -/
def State.grantCancelled (s : State) (idx : Nat) : State :=
  { s.withdraw [.extentState idx 1] with
    ti.extents := s.ti.extents.del idx
    ti.chunks := s.ti.chunks.filter (fun c => !(c.isExtent && c.owner == idx)) }

/-- What follows when an operation becomes CANCELLING, or CANCELLED with no slice run: the changes of an extent's or a slot's state that
it has asked for and that are not yet in force are withdrawn, and an activation lets the fetcher go on (DESIGN CHOICE, assumption 92). -/
def State.opCancels (s : State) (op : Op) : State :=
  match op.body with
  | .extentGrant idx _ => s.withdraw [.extentState idx 1]
  | .extentRelease idx forced => s.withdraw [.extentState idx (if forced then 0 else 3)]
  | .park x _ => s.withdraw [.slotState x 2, .slotState x 3]
  | .erase x _ _ => s.withdraw [.slotState x 4, .slotState x 0]
  | .fwActivate _ => { s with q.noFetch := false, tr.prepared := none, tr.standby := 3 }
  | _ => s

/-- What follows when an operation becomes RUNNING. -/
def State.opBegins (s : State) (h : Nat) (op : Op) : State :=
  match op.body with
  | .roundClose id _ _ => s.closeBegin id
  | .streamRun n => s.streamBegin h n
  | .fwActivate _ => { s with q.noFetch := true }
  | _ => s

/-- What follows when an impression's close ends short of DONE: readers are served again where nothing was returned yet (R321). -/
def State.closeCancelled (s : State) (id : Nat) (draining : Bool) : State :=
  if draining then s else s.modImpr id (fun m => if m.st = 2 then { m with st := 1 } else m)

/-- What follows when an operation becomes final. -/
def State.opEnds (s : State) (op : Op) (st status : Nat) : State :=
  let ok := st == opDone
  match op.body with
  | .extentGrant idx _ => if ok then s else s.grantCancelled idx
  | .roundClose id _ _ => if ok then s else s.closeStopped id
  | .proof _ table _ _ _ _ _ _ _ => if ok then s else s.proofCancelled table
  | .streamLoad n _ => if ok then s else { s with streams := s.streams.del n }.unhold (fun x => x % 256 == n)
  | .streamRun n => s.streamEnd n
  | .operBind id _ => if ok then s.bindActive id else s.dropBinding id
  | .imprOpen id _ _ => if ok then s else s.imprCancelled id
  | .imprClose id _ draining => if ok then { s with sh.imprs := s.sh.imprs.del id } else s.closeCancelled id draining
  | .scrub _ _ _ _ _ _ _ _ _ _ _ _ _ => s.scrubFinal op
  | .selftestLogic kind unit _ => s.logicOver kind unit status
  | .dressageLoad _ b => if ok then s.installTable b else s
  | .fwStage _ _ cursor => if ok || cursor == 0 then s else s.setStandby none 0
  | .herdForm _ _ => if ok then s.herdDone else s
  | .herdJoin _ _ => if ok then s.herdDone else if s.herd.st = 1 then { s with herd.st := 0 } else s
  | _ => s

/-- One operation's transition. Plans, and herd domain plans, step by themselves. -/
def State.opStep (s : State) (h : Nat) (op : Op) : State :=
  match op.body with
  | .plan _ => s
  | .herdDomainSet _ _ => s
  | _ =>
    let (st, status) := s.opNext op
    if st = op.st then s
    else
      let units : Nat := match op.body with
        | .extentRelease _ _ => if isFinal st then 1 else op.done
        | _ => op.done
      let op' : Op := { op with st := st, status := status, ran := true, ending := none, done := units }
      let s := s.modOp h (fun _ => op')
      if isFinal st then (if op.st = opQueued ∧ st = opCancelled then s.opCancels op' else s).opEnds op' st status
      else if st = opRunning then s.opBegins h op' else s.opCancels op'

/-- The transitions of the operations. -/
def State.opsStep (s : State) : State :=
  s.over (s.liveOps.map Prod.fst) (fun s h => match s.ops.tab.get? h with
    | some op => s.opStep h op
    | none => s)

/-- Write the records of operations whose state changed or whose slice finished (R70); an impression to be captured in this stride gets its
record then. -/
def State.writeRecords (s : State) : State :=
  s.over (s.ops.tab.filter (fun (x : Nat × Op) => x.2.ran)) (fun s x =>
    let due := match x.2.body with
      | .imprOpen id _ _ => s.atBoundary.contains (2, id, 0)
      | _ => false
    if due then s else (s.modOp x.1 (fun o => { o with ran := false })).writeRecord x.1)

/-- Send the replies whose boundary this is (R37, R87). -/
def State.sendReplies (s : State) : State :=
  let due := s.q.replies.filter (fun r => decide (r.due ≤ s.str.count))
  { s with q.replies := s.q.replies.filter (fun r => decide (s.str.count < r.due)) }.over due (fun s r =>
    s.reply r.o r.r r.inline)

/-! ## Map pages (R116, R467) -/

/-- Whether a map page belongs in T1: some plate of it has its home in T0, T1 or T2. -/
def State.pageInT1 (s : State) (key : Nat) : Bool :=
  (rangeFrom (key % 2 ^ 28 * 256) 256).any (fun p => (s.ent (key / 2 ^ 28) p).any (fun e => decide (e.tier ≤ 2)))

/-- Write the lines of a page that differ from what is stored, or whose stored bits are not good. -/
def State.writeChanged (s : State) (line : Nat → Nat) (b : List Byte) : State :=
  s.over (List.range 64) (fun s i =>
    let d := sub b (64 * i) 64
    if s.rawLine (line i) = d ∧ s.synOf (line i) = 0 then s else s.writeLine (line i) d false)

/-- Put a map page into a flash slot of T2; false where none is free. -/
def State.pageToFlash (s : State) (key : Nat) (pg : MapPage) : State × Bool :=
  let slot := key / 2 ^ 28
  let cw := fun (_ w : Nat) =>
    ({ payload := s.pageBytes key, ident := key % 2 ^ 28, hdom := s.domF slot fDomHdom, kind := 2, version := 0,
       coding := cRaw, elem := 0, table := noTable, clen := 4096,
       encrypted := (s.doms.get? slot).any (fun d => d.key.isSome), wseq := w, bad := false } : FSlot)
  match s.flashPut 0 cw with
  | none => (s, false)
  | some (s, a) =>
    let s := (s.charge slot 7 (faEngine a) 83).freeAt (s.str.count + 1) pg.tier pg.store 4096
    ({ s with ti.pages := s.ti.pages.set key { pg with tier := 2, store := a } }, true)

/-- Write a changed map page through to its home and to its copy in T0: false where its new home must wait for room. -/
def State.writePage (s : State) (key : Nat) : State × Bool :=
  match s.ti.pages.get? key with
  | none => (s, true)
  | some pg =>
    let (s, ok) : State × Bool :=
      if s.pageInT1 key then
        if pg.tier = 1 then
          (s.writeChanged (fun i => dramLine (storeStack pg.store) (storeGran pg.store + i)) (s.pageBytes key), true)
        else s.pageToT1 key pg
      else match s.pageToFlash key pg with
        | (s, true) => (s, true)
        | (s, false) =>
          if pg.tier = 1 then
            (s.writeChanged (fun i => dramLine (storeStack pg.store) (storeGran pg.store + i)) (s.pageBytes key), true)
          else (s, false)
    match pg.t0Slot with
    | some t => (s.writeChanged (t0Line t) (s.pageBytes key), ok)
    | none => (s, ok)

/-- Write every changed map page through. -/
def State.pagesBoundary (s : State) : State :=
  { s with ti.changed := [] }.over s.ti.changed (fun s key =>
    match s.writePage key with
    | (s, true) => s
    | (s, false) => { s with ti.changed := s.ti.changed ++ [key] })

/-! ## Partitions and use (R147, R436) -/

/-- Evict up to `n` plates of a domain. -/
def State.evictSome (s : State) (slot : Nat) : Nat → State
  | 0 => s
  | n + 1 => match s.victim slot with
    | (s, some t) => (s.evict t).evictSome slot n
    | (s, none) => s

/-- Domains that occupy more than their effective partition give up 64 plates a stride. -/
def State.effectiveBoundary (s : State) : State :=
  if s.effT0 then s.over s.liveSlots (fun s x => s.evictSome x (min 64 (s.occupied x - s.partition x))) else s

/-- The counts that CS_USE_T0 to CS_USE_PEND show in the stride. -/
def State.useOfSlot (s : State) (slot : Nat) : List Nat :=
  let n := fun (t : Nat) => ((s.platesOf slot).filter (fun (p : Nat × MapEnt) => p.2.tier == t && (t == 0 || !p.2.remote))).length
  [(s.residents slot false).length, s.tierHeld slot 1 + s.pinned slot / 64, n 2, n 3, n 0]

/-- Take the counts of the slots that are not FREE. -/
def State.countUse (s : State) : State :=
  { s with ti.use := s.liveSlots.foldl (fun (m : FMap (List Nat)) x => m.set x (s.useOfSlot x)) [] }

/-! ## Slices of the new stride -/

/-- A pinned extent's lines are poisoned; with the last its offer joins the generation being built (R135). -/
def State.grantSlice (s : State) (h idx cursor total : Nat) : State :=
  match s.ti.extents.get? idx with
  | none => s
  | some e =>
    if e.kind ≠ 1 ∨ total < cursor then s
    else
      let (s, c) := s.poisonLinesFrom idx e.slot cursor (total - cursor)
      let s := if c = cursor then s else s.ranTo h c
      if c < total then s.setBody h (.extentGrant idx c)
      else (s.join [.extentState idx 1]).1.setBody h (.extentGrant idx (total + 1))

/-- One slice of a RUNNING operation. -/
def State.opSlice (s : State) (h : Nat) (op : Op) : State :=
  match op.body with
  | .extentGrant idx cursor => s.grantSlice h idx cursor op.total
  | .placeMove slot first count tier cursor => s.placeSlice h slot first count tier cursor
  | .discard slot first count cursor => s.discardSlice h slot first count cursor
  | .proof seg table recode phase cursor hist zeros todo _ => s.proofSlice h seg table recode phase cursor hist zeros todo
  | .streamLoad n _ => s.streamLoadSlice h n
  | .operBind id cursor => s.bindSlice h id cursor
  | .roundClose id cursor _ => s.closeSlice h id cursor
  | .imprOpen id cursor mapCursor => s.imprSlice h id cursor mapCursor
  | .imprClose id cursor draining => s.closeImprSlice h id cursor draining
  | .dirRecall slot first count cursor => s.dirRecallSlice h slot first count cursor
  | .scrub _ _ _ _ _ _ _ _ _ _ _ _ _ => s.scrubSlice h op
  | .retire kind part imm todo started => s.retireSlice h kind part imm todo started
  | .park slot phase => s.parkSlice h slot phase
  | .erase slot phase todo => s.eraseSlice h slot phase todo
  | .fwStage image blocks cursor => s.fwStageSlice h image blocks cursor
  | .fwPrepare => s.fwPrepareSlice h
  | .selftestLogic kind unit cursor => s.logicSlice h kind unit cursor
  | .selftestStore die mode bank cursor failing first locs => s.storeSlice h die mode bank cursor failing first locs
  | .selftestStack stack offline mask cursor _ _ _ => s.stackSlice h stack offline mask cursor
  | .dressageLoad cursor bytes => s.dressageSlice h cursor bytes
  | .plan _ => s
  | .extentRelease _ _ => s
  | .streamRun _ => s
  | .herdForm _ _ => s
  | .herdAdmit _ _ _ _ => s
  | .herdJoin _ _ => s
  | .herdRemove _ _ => s
  | .herdVoters _ _ _ => s
  | .herdDomainSet _ _ => s
  | .herdStandby _ _ _ _ _ => s
  | .fwActivate _ => s

/-- The slices of the RUNNING operations, of those slots whose slices run in this stride (R22, R521). -/
def State.opSlices (s : State) : State :=
  s.over (s.liveOps.map Prod.fst) (fun s h => match s.ops.tab.get? h with
    | some op => if op.st = opRunning && op.ending.isNone && s.slicesRun op.slot then s.opSlice h op else s
    | none => s)

/-- The work list of the stride: streams first, then plans, then operations, then the units that wait for step parameters. -/
def State.slices (s : State) : State :=
  let s := (s.streamsBoundary s.slicesRun).planSlices s.slicesRun
  let s := s.opSlices
  s.over (s.opr.binds.map Prod.fst) State.finishPending

/-- Streams forget the tables that are gone (R226). -/
def State.pruneSent (s : State) : State :=
  { s with streams := s.streams.map (fun (x : Nat × Stream) =>
      (x.1, { x.2 with sent := x.2.sent.filter (fun i => s.cod.tables.has i) })) }

/-! ## The whole boundary -/

/-- Configuration, bridles and operations take their values of the new stride. -/
def State.boundaryControl (s : State) : State :=
  let s := s.renewTethers.endSlices
  let s := { s with tr.prepared := if s.handoverDue then some s.str.count else none }
  let s := (s.plansStep.switchHomes.joinTables.dropCopies.clearDamaged).keysBoundary
  let s := { s with str.active := [] }
  let s := if s.swapDue then s.swapGeneration else s
  let fresh := s.str.active
  let s := s.dressageBoundary.replan.setBridles fresh
  s.opsStep.herdBoundary

/-- Engines, sharing, storage and reports of the boundary. -/
def State.boundaryEngines (s : State) (links : List (Nat × U64)) : State :=
  let s := s.tablesBoundary.pruneSent.operatorsBoundary.imprsBoundary
  let s := s.sampleDoorbells.writeRecords.sendReplies.deletesBoundary
  let s := (s.debugBoundary.traceBoundary.recallsBoundary).dmaBoundary links
  let s := s.flashBoundary.rescueChunks.yokeSlices.patrol
  s.effectiveBoundary.pagesBoundary.countUse

/-- The stride boundary. -/
def State.strideBoundary (s : State) (links : List (Nat × U64)) : State :=
  if s.pmu.inReset || s.pmu.stage == 7 then s
  else
    let s := s.startStride
    let s := (s.capacityBoundary.boundaryControl.logScaled s).boundaryEngines links
    let s := { s.slices.moversBoundary.retryFinishes.retryOwed.advance with ti.released := [] }
    s.startWaiting.flushOut

/-- STRIDE_BOUNDARY. -/
def execStrideBoundary (links : List (Nat × U64)) (s : State) : Host.Outcome State Fault Refusal := .next (s.strideBoundary links)

end Sys2Proof.Machine
end

