-- ==== Sys2Proof/Machine/Dispatch.lean ====
section
/-! DEFINITION. One arm per command: the meaning it calls. -/

namespace Sys2Proof.Machine

def exec (i : Instr) (s : State) : Host.Outcome State Fault Refusal :=
  match i with
  | .strideBoundary links => Sys2Proof.Machine.execStrideBoundary links s
  | .tetherExpiry extent => Sys2Proof.Machine.execTetherExpiry extent s
  | .offerTimeout extent => Sys2Proof.Machine.execOfferTimeout extent s
  | .demandSnapshot => Sys2Proof.Machine.execDemandSnapshot s
  | .plannerLate => Sys2Proof.Machine.execPlannerLate s
  | .sliceOverrun handle cls idx units => Sys2Proof.Machine.execSliceOverrun handle cls idx units s
  | .heldConfigBlockTake => Sys2Proof.Machine.execHeldConfigBlockTake s
  | .accessAdmission id => Sys2Proof.Machine.execAccessAdmission id s
  | .stagingClaimGrant => Sys2Proof.Machine.execStagingClaimGrant s
  | .laneJobDispatch die => Sys2Proof.Machine.execLaneJobDispatch die s
  | .planCommit handle => Sys2Proof.Machine.execPlanCommit handle s
  | .planAbandon handle => Sys2Proof.Machine.execPlanAbandon handle s
  | .sqTailWrite func qp size val => Sys2Proof.Machine.execSqTailWrite func qp size val s
  | .rqHeadWrite func qp size val => Sys2Proof.Machine.execRqHeadWrite func qp size val s
  | .ringAccessFailure func qp => Sys2Proof.Machine.execRingAccessFailure func qp s
  | .commandDataAccessFailure d => Sys2Proof.Machine.execCommandDataAccessFailure d s
  | .clampReportWriteFailure o plan p => Sys2Proof.Machine.execClampReportWriteFailure o plan p s
  | .qp0Enable func part val => Sys2Proof.Machine.execQp0Enable func part val s
  | .qp0Disable func part val => Sys2Proof.Machine.execQp0Disable func part val s
  | .qp0IntEnWrite func part val => Sys2Proof.Machine.execQp0IntEnWrite func part val s
  | .qp0BaseWrite func reply part val => Sys2Proof.Machine.execQp0BaseWrite func reply part val s
  | .nop o p => Sys2Proof.Machine.execNop o p s
  | .queueCreate o p => Sys2Proof.Machine.execQueueCreate o p s
  | .queueDelete o p => Sys2Proof.Machine.execQueueDelete o p s
  | .configWrite o p => Sys2Proof.Machine.execConfigWrite o p s
  | .configPlan o p => Sys2Proof.Machine.execConfigPlan o p s
  | .configRead o p => Sys2Proof.Machine.execConfigRead o p s
  | .catalogueRead o p => Sys2Proof.Machine.execCatalogueRead o p s
  | .opCancel o p => Sys2Proof.Machine.execOpCancel o p s
  | .opStatusRead o p => Sys2Proof.Machine.execOpStatusRead o p s
  | .extentGrant o p => Sys2Proof.Machine.execExtentGrant o p s
  | .extentRelease o p => Sys2Proof.Machine.execExtentRelease o p s
  | .tetherRenew o p => Sys2Proof.Machine.execTetherRenew o p s
  | .extentList o p => Sys2Proof.Machine.execExtentList o p s
  | .windowSet o p => Sys2Proof.Machine.execWindowSet o p s
  | .placeMove o p => Sys2Proof.Machine.execPlaceMove o p s
  | .plateQuery o p => Sys2Proof.Machine.execPlateQuery o p s
  | .plateDiscard o p => Sys2Proof.Machine.execPlateDiscard o p s
  | .segmentDefine o p => Sys2Proof.Machine.execSegmentDefine o p s
  | .proofPass o p => Sys2Proof.Machine.execProofPass o p s
  | .segmentDrop o p => Sys2Proof.Machine.execSegmentDrop o p s
  | .segmentQuery o p => Sys2Proof.Machine.execSegmentQuery o p s
  | .tableRead o p => Sys2Proof.Machine.execTableRead o p s
  | .streamLoad o p => Sys2Proof.Machine.execStreamLoad o p s
  | .streamRun o p => Sys2Proof.Machine.execStreamRun o p s
  | .streamUnload o p => Sys2Proof.Machine.execStreamUnload o p s
  | .streamQuery o p => Sys2Proof.Machine.execStreamQuery o p s
  | .streamWriteFailure stream q => Sys2Proof.Machine.execStreamWriteFailure stream q s
  | .operBind o p => Sys2Proof.Machine.execOperBind o p s
  | .operUnbind o p => Sys2Proof.Machine.execOperUnbind o p s
  | .operStep o p => Sys2Proof.Machine.execOperStep o p s
  | .operRoundClose o p => Sys2Proof.Machine.execOperRoundClose o p s
  | .operQuery o p => Sys2Proof.Machine.execOperQuery o p s
  | .roundComplete binding => Sys2Proof.Machine.execRoundComplete binding s
  | .roundEventWriteFailure binding => Sys2Proof.Machine.execRoundEventWriteFailure binding s
  | .digestOpen o p => Sys2Proof.Machine.execDigestOpen o p s
  | .digestClose o p => Sys2Proof.Machine.execDigestClose o p s
  | .digestRead o p => Sys2Proof.Machine.execDigestRead o p s
  | .dmaChanOpen o p => Sys2Proof.Machine.execDmaChanOpen o p s
  | .dmaChanStop o p => Sys2Proof.Machine.execDmaChanStop o p s
  | .dmaChanClose o p => Sys2Proof.Machine.execDmaChanClose o p s
  | .dmaKick o p => Sys2Proof.Machine.execDmaKick o p s
  | .dmaChanQuery o p => Sys2Proof.Machine.execDmaChanQuery o p s
  | .descriptorFetch ch bytes => Sys2Proof.Machine.execDescriptorFetch ch bytes s
  | .descriptorComplete ch src link => Sys2Proof.Machine.execDescriptorComplete ch src link s
  | .parkLimitExpiry ch => Sys2Proof.Machine.execParkLimitExpiry ch s
  | .dmaAccessFailure ch => Sys2Proof.Machine.execDmaAccessFailure ch s
  | .impressionOpen o p => Sys2Proof.Machine.execImpressionOpen o p s
  | .impressionCapture id => Sys2Proof.Machine.execImpressionCapture id s
  | .impressionClose o p => Sys2Proof.Machine.execImpressionClose o p s
  | .impressionQuery o p => Sys2Proof.Machine.execImpressionQuery o p s
  | .dirRecall o p => Sys2Proof.Machine.execDirRecall o p s
  | .snoopTimeout snoop => Sys2Proof.Machine.execSnoopTimeout snoop s
  | .memRd r => Sys2Proof.Machine.execMemRd r s
  | .memRdData r => Sys2Proof.Machine.execMemRdData r s
  | .memInv r => Sys2Proof.Machine.execMemInv r s
  | .memInvNt r => Sys2Proof.Machine.execMemInvNt r s
  | .memWr r => Sys2Proof.Machine.execMemWr r s
  | .memWrPtl r => Sys2Proof.Machine.execMemWrPtl r s
  | .memClnEvct r => Sys2Proof.Machine.execMemClnEvct r s
  | .memSpecRd r => Sys2Proof.Machine.execMemSpecRd r s
  | .memFwdDrop r => Sys2Proof.Machine.execMemFwdDrop r s
  | .biConflict ld snoop => Sys2Proof.Machine.execBiConflict ld snoop s
  | .biRsp ld snoop shared => Sys2Proof.Machine.execBiRsp ld snoop shared s
  | .biRspE ld snoop => Sys2Proof.Machine.execBiRspE ld snoop s
  | .expansionWindowRead func off len => Sys2Proof.Machine.execExpansionWindowRead func off len s
  | .expansionWindowWrite func off data => Sys2Proof.Machine.execExpansionWindowWrite func off data s
  | .demotionSlice slot => Sys2Proof.Machine.execDemotionSlice slot s
  | .touchedSweep => Sys2Proof.Machine.execTouchedSweep s
  | .decodeComplete lane fault => Sys2Proof.Machine.execDecodeComplete lane fault s
  | .encodeComplete lane fault => Sys2Proof.Machine.execEncodeComplete lane fault s
  | .dramReadComplete stack granule flips => Sys2Proof.Machine.execDramReadComplete stack granule flips s
  | .caParityAlert stack pc replayed => Sys2Proof.Machine.execCaParityAlert stack pc replayed s
  | .retrainingComplete stack pc pass => Sys2Proof.Machine.execRetrainingComplete stack pc pass s
  | .trainPeriodExpiry => Sys2Proof.Machine.execTrainPeriodExpiry s
  | .selfRefreshEntry stack pc => Sys2Proof.Machine.execSelfRefreshEntry stack pc s
  | .selfRefreshExit stack pc => Sys2Proof.Machine.execSelfRefreshExit stack pc s
  | .bankSpareCopyDone bank => Sys2Proof.Machine.execBankSpareCopyDone bank s
  | .flashReadComplete addr ok corrected => Sys2Proof.Machine.execFlashReadComplete addr ok corrected s
  | .softRetryComplete addr ok => Sys2Proof.Machine.execSoftRetryComplete addr ok s
  | .flashProgramComplete die mode => Sys2Proof.Machine.execFlashProgramComplete die mode s
  | .flashProgramFailure die mode ch => Sys2Proof.Machine.execFlashProgramFailure die mode ch s
  | .flashEraseComplete group block failed => Sys2Proof.Machine.execFlashEraseComplete group block failed s
  | .padTimeout die mode => Sys2Proof.Machine.execPadTimeout die mode s
  | .reclaimStart die mode => Sys2Proof.Machine.execReclaimStart die mode s
  | .wearLevel die mode => Sys2Proof.Machine.execWearLevel die mode s
  | .flashDieFailure channel die => Sys2Proof.Machine.execFlashDieFailure channel die s
  | .flashPatrolRead addr ok corrected => Sys2Proof.Machine.execFlashPatrolRead addr ok corrected s
  | .watchdogExpiry core cmd => Sys2Proof.Machine.execWatchdogExpiry core cmd s
  | .mgmtWatchdogExpiry => Sys2Proof.Machine.execMgmtWatchdogExpiry s
  | .scrub o p => Sys2Proof.Machine.execScrub o p s
  | .retire o p => Sys2Proof.Machine.execRetire o p s
  | .flipArm o p => Sys2Proof.Machine.execFlipArm o p s
  | .flipDisarm o p => Sys2Proof.Machine.execFlipDisarm o p s
  | .logRead o p => Sys2Proof.Machine.execLogRead o p s
  | .logRelease o p => Sys2Proof.Machine.execLogRelease o p s
  | .selftestLogic o p => Sys2Proof.Machine.execSelftestLogic o p s
  | .selftestStore o p => Sys2Proof.Machine.execSelftestStore o p s
  | .selftestStack o p => Sys2Proof.Machine.execSelftestStack o p s
  | .dressageLoad o p => Sys2Proof.Machine.execDressageLoad o p s
  | .dressageDrop o p => Sys2Proof.Machine.execDressageDrop o p s
  | .dressageQuery o p => Sys2Proof.Machine.execDressageQuery o p s
  | .debugUnlock o p => Sys2Proof.Machine.execDebugUnlock o p s
  | .debugLock o p => Sys2Proof.Machine.execDebugLock o p s
  | .herdForm o p => Sys2Proof.Machine.execHerdForm o p s
  | .herdAdmit o p => Sys2Proof.Machine.execHerdAdmit o p s
  | .herdJoin o p => Sys2Proof.Machine.execHerdJoin o p s
  | .herdRemove o p => Sys2Proof.Machine.execHerdRemove o p s
  | .herdVoters o p => Sys2Proof.Machine.execHerdVoters o p s
  | .herdDomainSet o p => Sys2Proof.Machine.execHerdDomainSet o p s
  | .routeWrite o p => Sys2Proof.Machine.execRouteWrite o p s
  | .herdRead o p => Sys2Proof.Machine.execHerdRead o p s
  | .linkCtrl o p => Sys2Proof.Machine.execLinkCtrl o p s
  | .herdStandby o p => Sys2Proof.Machine.execHerdStandby o p s
  | .domainActivate o p => Sys2Proof.Machine.execDomainActivate o p s
  | .domainPark o p => Sys2Proof.Machine.execDomainPark o p s
  | .domainUnpark o p => Sys2Proof.Machine.execDomainUnpark o p s
  | .domainErase o p => Sys2Proof.Machine.execDomainErase o p s
  | .domainQuery o p => Sys2Proof.Machine.execDomainQuery o p s
  | .keyLoad o p => Sys2Proof.Machine.execKeyLoad o p s
  | .keyDestroy o p => Sys2Proof.Machine.execKeyDestroy o p s
  | .fwStage o p image => Sys2Proof.Machine.execFwStage o p image s
  | .fwPrepare o p => Sys2Proof.Machine.execFwPrepare o p s
  | .fwActivate o p => Sys2Proof.Machine.execFwActivate o p s
  | .firmwareHandover => Sys2Proof.Machine.execFirmwareHandover s
  | .fwActivateTimeout => Sys2Proof.Machine.execFwActivateTimeout s
  | .fwCommit o p => Sys2Proof.Machine.execFwCommit o p s
  | .fwQuery o p => Sys2Proof.Machine.execFwQuery o p s
  | .pldmFirmwareUpdate image => Sys2Proof.Machine.execPldmFirmwareUpdate image s
  | .syncBlockReceive link b arrival => Sys2Proof.Machine.execSyncBlockReceive link b arrival s
  | .flitReceive link f => Sys2Proof.Machine.execFlitReceive link f s
  | .retryReqReceive link fseq => Sys2Proof.Machine.execRetryReqReceive link fseq s
  | .linkStateTimeout link => Sys2Proof.Machine.execLinkStateTimeout link s
  | .linkTrainStepComplete link x => Sys2Proof.Machine.execLinkTrainStepComplete link x s
  | .linkRecoverEntry link width lanes => Sys2Proof.Machine.execLinkRecoverEntry link width lanes s
  | .linkDown link => Sys2Proof.Machine.execLinkDown link s
  | .unknownMessage link m => Sys2Proof.Machine.execUnknownMessage link m s
  | .rdLine link m => Sys2Proof.Machine.execRdLine link m s
  | .rdPlate link m => Sys2Proof.Machine.execRdPlate link m s
  | .wrLine link m => Sys2Proof.Machine.execWrLine link m s
  | .contrib link m => Sys2Proof.Machine.execContrib link m s
  | .mirror link m => Sys2Proof.Machine.execMirror link m s
  | .dirtyMark link m => Sys2Proof.Machine.execDirtyMark link m s
  | .parityDelta link m => Sys2Proof.Machine.execParityDelta link m s
  | .plateMove link m => Sys2Proof.Machine.execPlateMove link m s
  | .tableRec link m => Sys2Proof.Machine.execTableRec link m s
  | .cmp link m => Sys2Proof.Machine.execCmp link m s
  | .dataMsg link m => Sys2Proof.Machine.execDataMsg link m s
  | .birspMsg link m => Sys2Proof.Machine.execBirspMsg link m s
  | .bisnpMsg link m => Sys2Proof.Machine.execBisnpMsg link m s
  | .lockReq link m => Sys2Proof.Machine.execLockReq link m s
  | .lockGrant link m => Sys2Proof.Machine.execLockGrant link m s
  | .lockRel link m => Sys2Proof.Machine.execLockRel link m s
  | .suspect link m => Sys2Proof.Machine.execSuspect link m s
  | .probe link m => Sys2Proof.Machine.execProbe link m s
  | .probeAck link m => Sys2Proof.Machine.execProbeAck link m s
  | .probeTimeout device => Sys2Proof.Machine.execProbeTimeout device s
  | .syncLossTimeout device => Sys2Proof.Machine.execSyncLossTimeout device s
  | .propose link m => Sys2Proof.Machine.execPropose link m s
  | .proposalLockoutExpiry => Sys2Proof.Machine.execProposalLockoutExpiry s
  | .accept link m => Sys2Proof.Machine.execAccept link m s
  | .commit link m => Sys2Proof.Machine.execCommit link m s
  | .commitStrideReached => Sys2Proof.Machine.execCommitStrideReached s
  | .recordsReq link m => Sys2Proof.Machine.execRecordsReq link m s
  | .records link m => Sys2Proof.Machine.execRecords link m s
  | .linkLast link m => Sys2Proof.Machine.execLinkLast link m s
  | .doneNote link m => Sys2Proof.Machine.execDoneNote link m s
  | .standbySync link m => Sys2Proof.Machine.execStandbySync link m s
  | .probationTimeout device => Sys2Proof.Machine.execProbationTimeout device s
  | .chipRstNAssert heldNs => Sys2Proof.Machine.execChipRstNAssert heldNs s
  | .chipRstNDeassert f => Sys2Proof.Machine.execChipRstNDeassert f s
  | .bootRomComplete marker imgA imgB => Sys2Proof.Machine.execBootRomComplete marker imgA imgB s
  | .coreInitComplete => Sys2Proof.Machine.execCoreInitComplete s
  | .trainComplete failedPcs flash => Sys2Proof.Machine.execTrainComplete failedPcs flash s
  | .configComplete trayRecord toActiveMs => Sys2Proof.Machine.execConfigComplete trayRecord toActiveMs s
  | .thermalSample temps watts => Sys2Proof.Machine.execThermalSample temps watts s
  | .perstNAssert head => Sys2Proof.Machine.execPerstNAssert head s
  | .perstNDeassert head => Sys2Proof.Machine.execPerstNDeassert head s
  | .hotReset head => Sys2Proof.Machine.execHotReset head s
  | .linkDisable head => Sys2Proof.Machine.execLinkDisable head s
  | .headLinkLoss head => Sys2Proof.Machine.execHeadLinkLoss head s
  | .headLinkUp head rate width mld lopt flit256 => Sys2Proof.Machine.execHeadLinkUp head rate width mld lopt flit256 s
  | .linkSpeedChange head rate width l0p => Sys2Proof.Machine.execLinkSpeedChange head rate width l0p s
  | .functionLevelReset func => Sys2Proof.Machine.execFunctionLevelReset func s
  | .cxlReset func => Sys2Proof.Machine.execCxlReset func s
  | .hdmDecoderCommit func n d => Sys2Proof.Machine.execHdmDecoderCommit func n d s
  | .intxDisableWrite func disable => Sys2Proof.Machine.execIntxDisableWrite func disable s
  | .dcAddResponse ld extent accept part => Sys2Proof.Machine.execDcAddResponse ld extent accept part s
  | .dcReleaseResponse ld extent => Sys2Proof.Machine.execDcReleaseResponse ld extent s
  | .ideKeyProgram head cachemem => Sys2Proof.Machine.execIdeKeyProgram head cachemem s
  | .ideCheckFailure head => Sys2Proof.Machine.execIdeCheckFailure head s
  | .getLdInfo head => Sys2Proof.Machine.execGetLdInfo head s
  | .getMhdInfo head => Sys2Proof.Machine.execGetMhdInfo head s
  | .getDcRegionConfiguration ld => Sys2Proof.Machine.execGetDcRegionConfiguration ld s
  | .getDcExtentLists ld => Sys2Proof.Machine.execGetDcExtentLists ld s
  | .initiateDcAdd eid p => Sys2Proof.Machine.execInitiateDcAdd eid p s
  | .initiateDcRelease eid p => Sys2Proof.Machine.execInitiateDcRelease eid p s
  | .getQosStatus head => Sys2Proof.Machine.execGetQosStatus head s
  | .setLdAllocations head => Sys2Proof.Machine.execSetLdAllocations head s
  | .identifyMemoryDevice func => Sys2Proof.Machine.execIdentifyMemoryDevice func s
  | .getEventRecords func log => Sys2Proof.Machine.execGetEventRecords func log s
  | .clearEventRecords func log count => Sys2Proof.Machine.execClearEventRecords func log count s
  | .getEventInterruptPolicy func => Sys2Proof.Machine.execGetEventInterruptPolicy func s
  | .setEventInterruptPolicy func policy => Sys2Proof.Machine.execSetEventInterruptPolicy func policy s
  | .getSupportedLogs func => Sys2Proof.Machine.execGetSupportedLogs func s
  | .getLog func log => Sys2Proof.Machine.execGetLog func log s
  | .getHealthInfo func => Sys2Proof.Machine.execGetHealthInfo func s
  | .getTimestamp func => Sys2Proof.Machine.execGetTimestamp func s
  | .setTimestamp func val => Sys2Proof.Machine.execSetTimestamp func val s
  | .mailboxFirmwareUpdate func => Sys2Proof.Machine.execMailboxFirmwareUpdate func s
  | .getVersion path => Sys2Proof.Machine.execGetVersion path s
  | .getCapabilities path => Sys2Proof.Machine.execGetCapabilities path s
  | .negotiateAlgorithms path => Sys2Proof.Machine.execNegotiateAlgorithms path s
  | .getDigests path => Sys2Proof.Machine.execGetDigests path s
  | .getCertificate path slot => Sys2Proof.Machine.execGetCertificate path slot s
  | .challenge path slot nonce => Sys2Proof.Machine.execChallenge path slot nonce s
  | .getMeasurements path index => Sys2Proof.Machine.execGetMeasurements path index s
  | .keyExchange path owner => Sys2Proof.Machine.execKeyExchange path owner s
  | .finish path session => Sys2Proof.Machine.execFinish path session s
  | .keyUpdate path session => Sys2Proof.Machine.execKeyUpdate path session s
  | .heartbeat path session => Sys2Proof.Machine.execHeartbeat path session s
  | .endSession path session => Sys2Proof.Machine.execEndSession path session s
  | .strBridleSelWrite func part val => Sys2Proof.Machine.execStrBridleSelWrite func part val s
  | .drmPcSelWrite func part val => Sys2Proof.Machine.execDrmPcSelWrite func part val s
  | .pmuTempSelWrite func part val => Sys2Proof.Machine.execPmuTempSelWrite func part val s
  | .glbLogPopRead func part => Sys2Proof.Machine.execGlbLogPopRead func part s
  | .glbCntClearWrite func part val => Sys2Proof.Machine.execGlbCntClearWrite func part val s
  | .tstSemForceWrite func part val => Sys2Proof.Machine.execTstSemForceWrite func part val s
  | .tstTraceWrite func part val => Sys2Proof.Machine.execTstTraceWrite func part val s
  | .lowHalfRead func off => Sys2Proof.Machine.execLowHalfRead func off s
  | .highHalfRead func off => Sys2Proof.Machine.execHighHalfRead func off s
  | .registerWrite func w => Sys2Proof.Machine.execRegisterWrite func w s
  | .tapInstruction code => Sys2Proof.Machine.execTapInstruction code s
  | .peek addr => Sys2Proof.Machine.execPeek addr s
  | .systemBusWrite addr data => Sys2Proof.Machine.execSystemBusWrite addr data s
  | .hartHalt hart => Sys2Proof.Machine.execHartHalt hart s
  | .hartResume hart cmd => Sys2Proof.Machine.execHartResume hart cmd s
  | .unassignedOpcode o opcode p => Sys2Proof.Machine.execUnassignedOpcode o opcode p s
  | .completionTimeout func d => Sys2Proof.Machine.execCompletionTimeout func d s
  | .configurationRequest func r => Sys2Proof.Machine.execConfigurationRequest func r s
  | .dmiAccess op => Sys2Proof.Machine.execDmiAccess op s
  | .tapReset => Sys2Proof.Machine.execTapReset s
  | .managementCoreRestartDone => Sys2Proof.Machine.execManagementCoreRestartDone s
  | .standbySetReloaded => Sys2Proof.Machine.execStandbySetReloaded s

end Sys2Proof.Machine
end

