-- ==== Sys2Proof/Safety.lean ====
section
/-! DEFINITION. The terms in which claims about the device are stated: when a packet's command runs and how it is answered, and what
it means for a state to be well formed. -/

namespace Sys2Proof.Machine

/-- The state in which the command of a packet runs, where it runs at once: the packet can be taken from its queue now (R47), waits for no
earlier command (R51), carries the SEQ expected next (R62) and is turned away by none of checks 2 to 4 of R587. -/
def State.takes (s : State) (c : Cmd) (o : Origin) (p : Pkt) : Option State :=
  match s.receivePacket c o p with
  | none => none
  | some u =>
    if u.mustWait o p then none
    else match u.inOrder c o p with
      | none => none
      | some t => if (t.checks c o p).isNone then some t else none

/-- The state with a short command's reply written (R57, R58): status and results, no data. -/
def State.answer (t : State) (opcode : Nat) (o : Origin) (p : Pkt) (status r0 r1 : Nat) : State :=
  t.reply o (mkReply t o opcode p status 0 r0 r1) []

/-- The state with a short command's data returned and its reply written (R42). -/
def State.answerData (t : State) (opcode : Nat) (o : Origin) (p : Pkt) (buf : Nat) (bytes : List Byte) (status r0 r1 : Nat) : State :=
  (t.returnData o buf bytes).1.reply o (mkReply (t.returnData o buf bytes).1 o opcode p status 0 r0 r1) (t.returnData o buf bytes).2

/-- The state with a short command's reply due at a later stride (R37, R87). -/
def State.answerAt (t : State) (opcode : Nat) (o : Origin) (p : Pkt) (due status r0 r1 : Nat) : State :=
  { t with q.replies := t.q.replies ++ [{ o := o, due := due, r := mkReply t o opcode p status 0 r0 r1, inline := [] }] }

/-- Whether a long command of a packet is within the limits of R30. -/
def State.mayStart (t : State) (c : Cmd) (o : Origin) (p : Pkt) : Bool := !t.opLimit (t.opSlot c o p)

/-- Whether a packet comes over a management queue (R40). -/
def managed : Origin → Bool
  | .qp _ _ => false
  | .mgmt _ _ => true

/-- Whether a message from a link is admitted as it arrives (R21, R389): it is no request, or its slot has the grant and no earlier
request of the link waits. -/
def State.admits (s : State) (n : Nat) (m : Msg) : Bool :=
  !(s.ingressWaits n m || (mopVc m.mop == 0 && s.herd.ingress.any (fun x => x.1 == n)))

/-- The state in which a message from a link takes effect at this device (R399, R401, R408): the link is ACTIVE, the message is admitted,
has a known MOP, names this device and carries the epoch of the herd, or is a control message; its slots are charged, and credited at
once where it is no request (R21). -/
def State.delivered (s : State) (n : Nat) (m : Msg) : Option State :=
  let u := s.charge (s.payer m false) 2 (n / 8) (msgSlots m)
  if (s.link n).st = 5 ∧ s.inHerd = true ∧ m.dst = s.herd.device ∧ knownMop m.mop = true ∧ s.admits n m = true
    ∧ (mopVc m.mop = 3 ∨ m.epoch = s.herd.epoch)
  then some (if mopVc m.mop = 0 then { u with herd.rx := some (n, msgSlots m) } else u.giveCredit n m) else none

/-- The state once a request has taken effect: its slots are credited now, unless an access that waits for its admission keeps them
(R21, R388). -/
def State.credited (s : State) (n : Nat) (m : Msg) : State :=
  if s.herd.rx.isSome then { s with herd.rx := none }.giveCredit n m else s

/-- The ACTIVE slot of this device that a message's HDOM names (R432). -/
def State.actsOn (s : State) (m : Msg) : Option Nat := (s.slotOfHdom m.hdom).filter (fun x => s.domSt x == 1)

/-- Whether another state differs from this one only as a packet without effect leaves it: in the queues, the outputs, the charges of the
stride and the counter of denied commands. -/
def State.onlyAnswers (s t : State) : Prop :=
  t = { s with out := t.out, q := t.q, str.used := t.str.used, tr.denied := t.tr.denied }

/-- The memory's bytes are listed in their one form. -/
def State.memoryOk (s : State) : Prop := Memory.wf s.mem = true

end Sys2Proof.Machine
end

