-- ==== Sys2Proof/Certificates/Slice0/Obligations.lean ====
section
/-! DEFINITION. The statements about the device, for the provers: first, row by row, where each command completes and with what
effect; then what holds of every command. -/

open Sys2Proof Sys2Proof.Machine

/-- The rows of the planner and of the accesses and jobs it lets go, each where it takes effect (R15, R17, R20, R23, R26, R32, R177). -/
def Obligations.PlannerRowsComplete : Prop :=
  (∀ (links : List (Nat × U64)) (s : State), s.pmu.inReset = false → s.pmu.stage ≠ 7 →
    ∃ u, u = (s.startStride.capacityBoundary.boundaryControl.logScaled s.startStride).boundaryEngines links ∧
      exec (.strideBoundary links) s =
        .next { u.slices.moversBoundary.retryFinishes.retryOwed.advance with ti.released := [] }.startWaiting.flushOut) ∧
  (∀ s : State, s.startStride.str.count = (s.str.count + 1) % 2 ^ 64 ∧ s.startStride.str.snap = false ∧
    s.startStride.pmu.strides = s.pmu.strides + 1) ∧
  (∀ s : State, s.str.snap = false → s.pmu.inReset = false → s.isActive = true →
    exec .demandSnapshot s = .next { s with
      str.demand := s.takeDemand, str.active := s.comingSlots, str.next := some (s.computeBridles true s.comingSlots s.takeDemand),
      str.snap := true }.streamsSnapshot) ∧
  (∀ s : State, exec .plannerLate s = .next { s with
      ras := (s.logE 0x0001 none 0 0).ras, str.late := true, str.next := none }) ∧
  (∀ (h cls idx units x : Nat) (op : Op) (s : State), s.ops.tab.get? h = some op → op.slot = some x → cls < 8 → idx < indexCount cls →
    exec (.sliceOverrun h cls idx units) s = .next { s with
      tst := (s.diverge 0).tst, ras := (s.logE 0x0002 (some x) h s.str.count).ras, str.overrun := true,
      str.overrunCnt := cntAdd s.str.overrunCnt 1, str.overran := s.str.overran ++ [(x, s.str.count)],
      str.carry := s.str.carry.set (bridleKey x cls idx) (s.str.carry.getD (bridleKey x cls idx) 0 + units) }) ∧
  (∀ (id ext off : Nat) (h a : Access) (s : State), s.isActive = true → s.sh.held.get? id = some h → s.retarget h = .ok a →
    s.admissible id a = true → a.target = .pinned ext off → a.origin = none →
    ∃ u, u = (s.charge a.slot 0 (headOf a.func) 1).charge a.slot 1 (headOf a.func) 1 ∧
      exec (.accessAdmission id) s = .next (({ u with
        sh.held := u.sh.held.del id, sh.waiting := u.sh.waiting.set id { a with stride := u.str.count } }.creditBack a.credit).tryAccess id)) ∧
  (∀ (id dpa : Nat) (h : Access) (s : State), s.isActive = true → s.sh.held.get? id = some h → s.retarget h = .error dpa →
    exec (.accessAdmission id) s = .next (({ s with sh.held := s.sh.held.del id }.logUnmapped h.ld dpa).answerUnmapped h)) ∧
  (∀ (die : Nat) (s : State), exec (.laneJobDispatch die) s = .next (if die < 4 then s.dispatchLanes die else s)) ∧
  (∀ s u : State, s.atBoundary.contains (3, 0, 0) = true →
    u = ({ s with atBoundary := s.atBoundary.filter (· != (3, 0, 0)) } : State).grantClaims →
    exec .stagingClaimGrant s = .next (u.over u.dma.chans (fun v x =>
      if x.2.desc.any Desc.staged && (x.2.st == chRunning || x.2.st == chStageWait) then
        ((v.modChan x.1 (fun c => { c with
          st := if v.stageWaits x.1 x.2 then chStageWait else chRunning
          touch := c.touch || c.st != (if v.stageWaits x.1 x.2 then chStageWait else chRunning) })).chanReport x.1).moveDie (chanDie x.1)
      else v)))

/-- Configuration blocks and plans: a block is held while the port is closed or another is held, a block without clamps joins the generation
being built and is answered in the stride in which that takes effect, the port takes the block held longest, and a plan commits or reverts
(R83, R84, R87, R90, R92, R93, R97). -/
def Obligations.ConfigurationRowsComplete : Prop :=
  (∀ (o : Origin) (p : Pkt) (s t : State), s.takes cConfigWrite o p = some t → (t.portClosed || !t.cfg.heldBlocks.isEmpty) = true →
    exec (.configWrite o p) s = .next { t with
      cfg.heldBlocks := t.cfg.heldBlocks ++ [{ o := o, plan := false, p := p, head := t.q.headAfter }] }) ∧
  (∀ (o : Origin) (p : Pkt) (s t u : State) (dom : Bool) (slot g due : Nat) (es : List (Nat × FieldSpec × Entry)) (v : FMap Nat)
      (sets : List (Nat × Nat)),
    s.takes cConfigWrite o p = some t → t.portClosed = false → t.cfg.heldBlocks = [] → t.checkBlock o false p = .ok dom slot es →
    t.clampBlock (managed o) slot es = (v, sets, []) → t.heldBack p [] = none → (∀ x ∈ es, x.2.1.lock = false) →
    p.p3.toNat < 32 → t.join (sets.map (fun c => .field c.1 c.2)) = (u, g, due) →
    exec (.configWrite o p) s = .next (u.answerAt 0x0810 o p due stOk g 0)) ∧
  (∀ (o : Origin) (p : Pkt) (s t : State), s.takes cConfigPlan o p = some t → (t.portClosed || !t.cfg.heldBlocks.isEmpty) = true →
    exec (.configPlan o p) s = .next { t with
      cfg.heldBlocks := t.cfg.heldBlocks ++ [{ o := o, plan := true, p := p, head := t.q.headAfter }] }) ∧
  (∀ (o : Origin) (p : Pkt) (s t : State), s.takes cConfigPlan o p = some t → t.portClosed = false → t.cfg.heldBlocks = [] →
    exec (.configPlan o p) s = .next (t.takePlan o p)) ∧
  (∀ (o : Origin) (p : Pkt) (s t : State) (plan : Bool), p.p2.toNat % 64 = 0 →
    s.takes (if plan then cConfigPlan else cConfigWrite) o { p with p2 := 0 } = some t → t.portClosed = false → t.cfg.heldBlocks = [] →
    exec (.clampReportWriteFailure o plan p) s =
      .next (if plan then t.takePlan o { p with p2 := 0 } else t.takeWrite o { p with p2 := 0 })) ∧
  (∀ (b : HeldBlock) (l : List HeldBlock) (s u : State), s.portClosed = false → s.cfg.heldBlocks = b :: l →
    u = { s with cfg.heldBlocks := l, q.headAfter := b.head } →
    exec .heldConfigBlockTake s = .next (if b.plan then u.takePlan b.o b.p else u.takeWrite b.o b.p)) ∧
  (∀ (h : Nat) (op : Op) (pl : Plan) (s t : State), s.takeDue 11 h = some t → t.ops.tab.get? h = some op → op.body = .plan pl →
    op.st = opFenced →
    ∃ u : State, u = { t with cfg.fields := pl.sets.foldl (fun (m : FMap Nat) (c : Nat × Nat) => m.set c.1 c.2) t.cfg.fields } ∧
      exec (.planCommit h) s = .next (((u.clearPool (t.dev fStagingPool) (u.dev fStagingPool)).modOp h (fun o =>
        { o with st := opCommitted, status := if pl.damaged = 0 then stOk else stDataError })).setCaps.writeRecord h)) ∧
  (∀ (h : Nat) (op : Op) (pl : Plan) (s t : State), s.takeDue 12 h = some t → t.ops.tab.get? h = some op → op.body = .plan pl →
    op.st = opReverting →
    exec (.planAbandon h) s = .next ((t.modOp h (fun o => { o with st := opAbandoned, status := stAborted })).writeRecord h))

/-- Doorbells, the failure of a ring access, and the registers of queue pair 0: a doorbell within the ring is kept, one beyond it and a
failed access fault the queue pair, which logs the cause, and a register write that the state allows takes the masked value (R46, R49, R52,
R99, R100, R101, R574). -/
def Obligations.DoorbellRowsComplete : Prop :=
  (∀ (f n size : Nat) (val : U64) (q : Qp) (s : State), s.regUp f = true → s.qp f n = some q → q.enabled = true → doorbellSize size = true →
    exec (.sqTailWrite f n size val) s = .next (if q.size ≤ doorbellIndex val then s.faultQp f n 0
      else s.modQp f n (fun q => { q with sqTail := doorbellIndex val }))) ∧
  (∀ (f n size : Nat) (val : U64) (q : Qp) (s : State), s.regUp f = true → s.qp f n = some q → q.enabled = true → doorbellSize size = true →
    exec (.rqHeadWrite f n size val) s = .next (if q.size ≤ doorbellIndex val then s.faultQp f n 0
      else (s.modQp f n (fun q => { q with rqHead := doorbellIndex val })).updInta f)) ∧
  (∀ (f n : Nat) (q : Qp) (s : State), s.qp f n = some q → (q.enabled || s.qpBusy f n) = true →
    exec (.ringAccessFailure f n) s = .next (s.faultQp f n 1)) ∧
  (∀ (f n cause : Nat) (q : Qp) (s : State), s.qp f n = some q → q.faulted = false →
    ∃ c, c = s.q.cmq.getD f { sqBase := 0, rqBase := 0, ctrl := 0, fault := 0, opSel := 0 } ∧
      s.faultQp f n cause = { s with
        q.qps := s.q.qps.modify (qpKey f n) (fun q => { q with faulted := true }),
        q.cmq := s.q.cmq.set f { c with fault := c.fault ||| BitVec.ofNat 64 (2 ^ n) },
        ras := (s.logE 0x0801 q.slot (f * 256 + n) cause).ras }) ∧
  (∀ (f : Nat) (part : Part) (val v : U64) (s : State), s.regUp f = true → v = mergePart (s.cmq f).ctrl part val →
    s.ctrlOk (s.cmq f).ctrl (v &&& ctrlMask) = true → (s.cmq f).ctrl.getLsbD 8 = false → v.getLsbD 8 = true →
    exec (.qp0Enable f part val) s = .next (((s.modCmq f (fun c => { c with ctrl := v &&& ctrlMask })).modQp f 0 (fun q =>
      { q with intEn := v.getLsbD 9 })).updInta f)) ∧
  (∀ (f : Nat) (part : Part) (val v : U64) (s : State), s.regUp f = true → v = mergePart (s.cmq f).ctrl part val →
    (s.cmq f).ctrl.getLsbD 8 = true → v.getLsbD 8 = false →
    exec (.qp0Disable f part val) s = .next (((s.modCmq f (fun c => { c with ctrl := v &&& ctrlMask })).modQp f 0 (fun q =>
      { q with intEn := v.getLsbD 9, stopping := q.stopping || q.enabled })).updInta f)) ∧
  (∀ (f : Nat) (part : Part) (val v : U64) (s : State), s.regUp f = true → v = mergePart (s.cmq f).ctrl part val →
    s.ctrlOk (s.cmq f).ctrl (v &&& ctrlMask) = true → (s.cmq f).ctrl.getLsbD 8 = v.getLsbD 8 →
    exec (.qp0IntEnWrite f part val) s = .next (((s.modCmq f (fun c => { c with ctrl := v &&& ctrlMask })).modQp f 0 (fun q =>
      { q with intEn := v.getLsbD 9 })).updInta f)) ∧
  (∀ (f : Nat) (reply : Bool) (part : Part) (val : U64) (s : State), s.regUp f = true → (s.cmq f).ctrl.getLsbD 8 = false →
    exec (.qp0BaseWrite f reply part val) s = .next (s.modCmq f (fun c =>
      if reply then { c with rqBase := mergePart c.rqBase part val &&& ~~~0xFFF#64 }
      else { c with sqBase := mergePart c.sqBase part val &&& ~~~0xFFF#64 })))

/-- Queue and operation commands that are taken: NOP answers with the stride counter, QUEUE_CREATE makes the queue pair and is answered one
stride later, QUEUE_DELETE stops its fetching, OP_CANCEL asks for the cancellation, OP_STATUS_READ reads word and DONE, CONFIG_READ and
CATALOGUE_READ return what they read, and an opcode that is not assigned is answered BAD_OPCODE (R37, R42, R45, R59, R60, R73, R74, R75, R78, R587). -/
def Obligations.QueueCommandsComplete : Prop :=
  (∀ (o : Origin) (p : Pkt) (s t : State), s.takes cNop o p = some t →
    exec (.nop o p) s = .next (t.answer 0x0800 o p stOk t.str.count 0)) ∧
  (∀ (f m n size slot : Nat) (p : Pkt) (s t : State), s.takes cQueueCreate (.qp f m) p = some t → n = fld p.p2.toNat 0 6 →
    size = fld p.p2.toNat 8 5 → slot = fld p.p2.toNat 32 12 → n ≠ 0 → 4 ≤ size → size ≤ 16 → p.p0.toNat % 4096 = 0 →
    p.p1.toNat % 4096 = 0 → t.qp f n = none → (t.isOwner f || (t.funcOf slot f && [1, 2, 3].contains (t.domSt slot))) = true →
    t.enabledCount < 4096 →
    exec (.queueCreate (.qp f m) p) s = .next ({ t with q.qps := t.q.qps.set (qpKey f n) (Qp.fresh p.p0.toNat p.p1.toNat size
      (p.p2.getLsbD 16) (if t.isOwner f then none else some slot) (p.p3.toNat % 2 ^ 32)) }.answerAt 0x0801 (.qp f m) p
      (t.str.count + 1) stOk 0 0)) ∧
  (∀ (f m n : Nat) (p : Pkt) (q : Qp) (s t : State), s.takes cQueueDelete (.qp f m) p = some t → n = fld p.p0.toNat 0 6 → n ≠ 0 →
    t.qp f n = some q → q.deleting = none →
    exec (.queueDelete (.qp f m) p) s = .next (t.modQp f n (fun q => { q with
      stopping := true
      deleting := some { o := .qp f m, due := t.str.count + 1, inline := [], r := mkReply t (.qp f m) 0x0802 p stOk 0 0 0 } }))) ∧
  (∀ (o : Origin) (p : Pkt) (h : Nat) (op : Op) (s t : State), s.takes cOpCancel o p = some t → h = fld p.p0.toNat 0 12 →
    t.ops.tab.get? h = some op → t.seesHandle o op = true →
    exec (.opCancel o p) s = .next ((t.modOp h Op.askCancel).answer 0x0820 o p stOk op.word.toNat 0)) ∧
  (∀ (o : Origin) (p : Pkt) (h : Nat) (op : Op) (s t : State), s.takes cOpStatusRead o p = some t → h = fld p.p0.toNat 0 12 →
    t.ops.tab.get? h = some op → t.seesHandle o op = true →
    exec (.opStatusRead o p) s = .next (t.answer 0x0821 o p stOk op.word.toNat op.done)) ∧
  (∀ (o : Origin) (p : Pkt) (scope : Nat) (b : List Byte) (s t : State), s.takes cConfigRead o p = some t → scope = fld p.p2.toNat 8 2 →
    scope ≤ 1 → (scope = 1 → t.unbound o = false) →
    b = t.readBlock (scope == 1) (p.p2.getLsbD 0) (if scope = 1 then slotOf p else 0) → b.length ≤ roomFor o p.p1.toNat →
    exec (.configRead o p) s = .next (t.answerData 0x0812 o p p.p0.toNat b stOk b.length 0)) ∧
  (∀ (o : Origin) (p : Pkt) (l : List FieldSpec) (n next : Nat) (s t : State), s.takes cCatalogueRead o p = some t →
    l = catalogue.filter (fun f => decide (p.p2.toNat % 2 ^ 32 ≤ f.id)) → n = min l.length (roomFor o p.p1.toNat / 64) →
    next = ((l[n]?).map FieldSpec.id).getD 0 →
    exec (.catalogueRead o p) s =
      .next (t.answerData 0x0813 o p p.p0.toNat ((l.take n).flatMap t.fieldRecord) stOk n next)) ∧
  (∀ (o : Origin) (p : Pkt) (op : Nat) (s u t : State), assigned op = false → s.receivePacket (cUnassigned op) o p = some u →
    u.mustWait o p = false → u.inOrder (cUnassigned op) o p = some t →
    exec (.unassignedOpcode o op p) s = .next (t.answer op o p stBadOpcode 0 0)) ∧
  (∀ (f n op : Nat) (p : Pkt) (c : Cmd) (s t : State), (readsData.contains op || writesData.contains op) = true → failingOf op = some c →
    s.takes c (.qp f n) p = some t →
    exec (.commandDataAccessFailure (.packet (.qp f n) op p)) s = .next (t.execute c (.qp f n) p)) ∧
  (∀ (h f n : Nat) (op : Op) (s : State), s.ops.tab.get? h = some op → op.o = .qp f n → isFinal op.st = false → op.body.usesHost = true →
    exec (.commandDataAccessFailure (.running h)) s = .next (s.failOp h stDataError))

/-- Extents, tethers and windows: a grant lists the extent and is accepted as a long operation, a release and the host's responses join the
next generation, a renewal stands from the next boundary, and an extent or an offer whose time has run out lapses (R106, R108, R109, R110, R113,
R114, R139, R141, R142). -/
def Obligations.ExtentRowsComplete : Prop :=
  (∀ (o : Origin) (p : Pkt) (g : Grant) (doff target j sharer idx : Nat) (e : Extent) (s t : State), s.takes cExtentGrant o p = some t →
    t.mayStart cExtentGrant o p = true → g = grantOf p → t.grantCheck g = .ok (doff, target, j, sharer) → g.kind ≠ 1 →
    t.ti.extents.firstFree (2 ^ 20) = some idx →
    e = { dpa := g.dpa, len := g.len, doff := doff, slot := g.slot, ld := g.ld, kind := g.kind, ro := g.ro, hdmDb := g.hdmDb, st := 0,
          tetherLen := g.tether, expiry := 0, tag := g.tag, target := target, contributor := j, sharer := sharer, offered := 0,
          firstStack := t.ti.nextStack } →
    exec (.extentGrant o p) s = .next (({ t with ti.extents := t.ti.extents.set idx e }.join [.extentState idx 1]).1.acceptOp
      cExtentGrant o p (.extentGrant idx 0) 0 idx 0 opQueued false [])) ∧
  (∀ (o : Origin) (p : Pkt) (g : Grant) (doff target j sharer idx : Nat) (e : Extent) (s t u : State), s.takes cExtentGrant o p = some t →
    t.mayStart cExtentGrant o p = true → g = grantOf p → t.grantCheck g = .ok (doff, target, j, sharer) → g.kind = 1 →
    t.ti.extents.firstFree (2 ^ 20) = some idx →
    e = { dpa := g.dpa, len := g.len, doff := doff, slot := g.slot, ld := g.ld, kind := g.kind, ro := g.ro, hdmDb := g.hdmDb, st := 0,
          tetherLen := g.tether, expiry := 0, tag := g.tag, target := target, contributor := j, sharer := sharer, offered := 0,
          firstStack := t.ti.nextStack } →
    { t with ti.extents := t.ti.extents.set idx e }.giveChunks true idx t.ti.nextStack (g.len / blk) = some u →
    exec (.extentGrant o p) s = .next ({ u with ti.nextStack := (t.ti.nextStack + g.len / blk) % 12 }.acceptOp
      cExtentGrant o p (.extentGrant idx 0) (g.len / 64) idx 0 opQueued false [])) ∧
  (∀ (o : Origin) (p : Pkt) (idx : Nat) (e : Extent) (s t : State), s.takes cExtentRelease o p = some t →
    t.mayStart cExtentRelease o p = true → idx = fld p.p0.toNat 0 20 → t.ti.extents.get? idx = some e → e.st = 2 → e.lapsed t.str.count = false →
    exec (.extentRelease o p) s = .next (if p.p0.getLsbD 32
      then ((t.dcEvent idx 2).join [.extentState idx 0]).1.acceptOp cExtentRelease o p (.extentRelease idx true) 1 0 0 opQueued false []
      else (t.join [.extentState idx 3]).1.acceptOp cExtentRelease o p (.extentRelease idx false) 1 0 0 opQueued false [])) ∧
  (∀ (o : Origin) (p : Pkt) (idx n x : Nat) (e : Extent) (s t : State), s.takes cTetherRenew o p = some t → idx = fld p.p0.toNat 0 20 →
    t.ti.extents.get? idx = some e → t.ownerOrigin o = true → e.st = 2 → e.lapsed t.str.count = false → n = fld p.p1.toNat 0 32 →
    x = t.str.count + 1 + (if n = 0 then e.tetherLen else n) →
    exec (.tetherRenew o p) s = .next ({ t with ti.renewals := t.ti.renewals ++ [(idx, x)] }.answer 0x0102 o p stOk x 0)) ∧
  (∀ (o : Origin) (p : Pkt) (l : FMap Extent) (n : Nat) (s t : State), s.takes cExtentList o p = some t →
    (managed o || p.p0.toNat % 64 == 0) = true → t.bound o = none →
    l = t.ti.extents.filter (fun x => x.2.st != 0 && decide (fld p.p2.toNat 0 20 ≤ x.1)) → n = min l.length (roomFor o p.p1.toNat / 64) →
    exec (.extentList o p) s = .next (t.answerData 0x0103 o p p.p0.toNat ((l.take n).flatMap (fun x => x.2.record x.1)) stOk n
      (((l[n]?).map Prod.fst).getD 0))) ∧
  (∀ (o : Origin) (p : Pkt) (g due : Nat) (s t u : State), s.takes cWindowSet o p = some t → t.ownerOrigin o = true →
    (p.p3.getLsbD 16 = true → p.p1.toNat % blk = 0 ∧ fld p.p2.toNat 0 10 ≠ 0 ∧ fld p.p2.toNat 0 10 ≤ 512 ∧ p.p1.toNat < 2 ^ 48) →
    t.join [.window (fld p.p0.toNat 8 7 * 64 + fld p.p0.toNat 0 6) p.p1.toNat (fld p.p2.toNat 0 10) (fld p.p3.toNat 0 12)
      (p.p3.getLsbD 16) (p.p3.getLsbD 17)] = (u, g, due) →
    exec (.windowSet o p) s = .next (u.answerAt 0x0104 o p due stOk g 0)) ∧
  (∀ (x : Nat) (e : Extent) (s : State), s.ti.extents.get? x = some e → e.st = 2 → e.expiry ≤ s.str.count →
    exec (.tetherExpiry x) s = .next ({ s with ti.extents := s.ti.extents.set x { e with st := 4 } }.recallExtent e)) ∧
  (∀ (x : Nat) (e : Extent) (s : State), s.ti.extents.get? x = some e → e.st = 1 → e.offered + 2000000 ≤ s.str.count →
    s.coming x 0 = false → s.coming x 2 = false →
    exec (.offerTimeout x) s = .next (s.join [.extentState x 0]).1) ∧
  (∀ (ld x : Nat) (e : Extent) (accept part : Bool) (s : State), s.ti.extents.get? x = some e → e.ld = ld → e.st = 1 →
    s.coming x 2 = false → s.coming x 0 = false →
    exec (.dcAddResponse ld x accept part) s = .next (s.join [.extentState x (if accept && !part then 2 else 0)]).1) ∧
  (∀ (ld x : Nat) (e : Extent) (s : State), s.ti.extents.get? x = some e → e.ld = ld → (e.st = 3 ∨ s.coming x 3 = true) →
    exec (.dcReleaseResponse ld x) s = .next (s.join [.extentState x 0]).1)

/-- CXL.mem requests that reach a line: each is charged and acts as an access of its kind, held until its domain has what it needs, a
MemSpecRd starts the fill of a plate that is not resident, a MemClnEvct is completed at once, a request that reaches no line is answered as unmapped, and a
forwarded form is dropped and logged (R105, R301, R306, R430, R501). -/
def Obligations.MemoryRequestsComplete : Prop :=
  (∀ (r : MemReq) (a : Access) (s : State), s.takesMem r.ld = true → s.reach r (.read r.mv) = .access a →
    exec (.memRd r) s = .next (s.arrive { a with kind := .read r.mv })) ∧
  (∀ (r : MemReq) (a : Access) (s : State), s.takesMem r.ld = true → s.reach r (.read .I) = .access a →
    exec (.memRdData r) s = .next (s.arrive { a with kind := .read (if a.sharer.isSome then .S else .I) })) ∧
  (∀ (r : MemReq) (a : Access) (s : State), s.takesMem r.ld = true → s.reach r .inv = .access a →
    exec (.memInv r) s = .next (s.arrive { a with kind := .inv }) ∧ exec (.memInvNt r) s = .next (s.arrive { a with kind := .inv })) ∧
  (∀ (r q : MemReq) (a b : Access) (s : State), s.takesMem r.ld = true → q = { r with be := BitVec.ofNat 64 allBe } →
    s.reach q (.write r.mv true) = .access a → b = { a with kind := .write r.mv true } → s.crosses b = false →
    exec (.memWr r) s = .next (s.arrive b)) ∧
  (∀ (r : MemReq) (a b : Access) (s : State), s.takesMem r.ld = true →
    s.reach r (.write r.mv false) = .access a → b = { a with kind := .write r.mv false } → s.crosses b = false →
    exec (.memWrPtl r) s = .next (s.arrive b)) ∧
  (∀ (r : MemReq) (a : Access) (s u : State), s.takesMem r.ld = true → s.reach r .inv = .access a →
    (a.sharer = none ∨ s.plateHome a.slot (a.line / 64) = .here) →
    u = (s.charge a.slot 0 (headOf a.func) 1).charge a.slot 1 (headOf a.func) 1 →
    exec (.memClnEvct r) s =
      .next (((if a.target == .line then u.cleanEvict a else u).complete { a with kind := .write .I true } [] false).advance)) ∧
  (∀ (r : MemReq) (a : Access) (x : MapEnt) (i p : Nat) (s : State), s.takesMem r.ld = true →
    s.reach r (.read .I) = .access a → a.target = .line → s.resolve a = .at p i → s.plateHome a.slot p = .here →
    s.ent a.slot p = some x → x.res0 = false → x.remote = false → x.damaged = false → s.filling a.slot p = false →
    s.homeGrant a.slot p x = true → s.hasT0 a.slot (s.t0Need a.slot p false) = true →
    exec (.memSpecRd r) s = .next (s.startFill a.slot p i x)) ∧
  (∀ (r : MemReq) (s : State), s.takesMem r.ld = true →
    exec (.memFwdDrop r) s = .next (s.logRated (2000 + r.ld) 0x0101 none r.ld ((s.dpaOf r.ld r.hpa).getD r.hpa))) ∧
  (∀ (r : MemReq) (dpa : Nat) (s : State), s.takesMem r.ld = true → s.reach r (.read r.mv) = .unmapped dpa →
    exec (.memRd r) s = .next (s.unmappedMem r (.read r.mv) dpa))

/-- Back-Invalidate responses and the snoop's time limit: a response completes the snoop it names, BIRspE does so and is logged, a conflict is
counted and acknowledged, an unanswered snoop counts a timeout and its holder is removed (R301, R304, R306, R307, R501). -/
def Obligations.SharingRowsComplete : Prop :=
  (∀ (ld id : Nat) (shared : Bool) (sn : Snoop) (s : State), s.sh.snoops.get? id = some sn → sn.ld = ld → (s.head (headOf ld)).up = true →
    sn.late = false → sn.home = none →
    exec (.biRsp ld id shared) s = .next (((s.dropSnoop id).charge sn.slot 0 (headOf ld) 1).answerSnoop sn shared).advance) ∧
  (∀ (ld id : Nat) (sn : Snoop) (s : State), s.sh.snoops.get? id = some sn → sn.ld = ld → (s.head (headOf ld)).up = true →
    sn.late = false →
    exec (.biRspE ld id) s = .next ((s.birsp ld id false).logE 0x0201 (some sn.slot) sn.sharer (sn.line * 64))) ∧
  (∀ (ld id : Nat) (sn : Snoop) (s : State), s.sh.snoops.get? id = some sn → sn.ld = ld → (s.head (headOf ld)).up = true →
    s.sh.waiting.find? (fun p => p.2.ld == ld && p.2.slot == sn.slot && p.2.line == sn.line && p.2.target == .line && p.2.sent) = none →
    exec (.biConflict ld id) s =
      .next { s with sh.conflict := cntAdd s.sh.conflict 1, out := s.out ++ [.biConflictAck ld id] }) ∧
  (∀ (ld id : Nat) (sn : Snoop) (w : Nat × Access) (s : State), s.sh.snoops.get? id = some sn → sn.ld = ld →
    (s.head (headOf ld)).up = true →
    s.sh.waiting.find? (fun p => p.2.ld == ld && p.2.slot == sn.slot && p.2.line == sn.line && p.2.target == .line && p.2.sent) = some w →
    exec (.biConflict ld id) s =
      .next { s with sh.conflict := cntAdd s.sh.conflict 1, sh.acks := s.sh.acks ++ [(ld, id, w.1)] }) ∧
  (∀ (id : Nat) (sn : Snoop) (s : State), s.sh.snoops.get? id = some sn → sn.late = false → sn.home = none →
    sn.sent + s.dev fSnoopLimit ≤ s.str.count →
    exec (.snoopTimeout id) s = .next ({ s with sh.timeouts := cntAdd s.sh.timeouts 1 }.unanswered id sn true).advance)

/-- The expansion window (R105, R140): a read and a write that stay in the window go line by line, each line in a window entry as an access of
its own, each other line poisoned or dropped and logged. -/
def Obligations.WindowRowsComplete : Prop :=
  (∀ (f off len : Nat) (s : State), s.isActive = true → (s.head (headOf f)).up = true → off + len ≤ 2 ^ 36 →
    exec (.expansionWindowRead f off len) s = .next (s.over (splitLines off len) (fun s x =>
      match s.windowAt f x.1 with
      | some (slot, doff, _) => s.arrive (windowAccess f x.1 slot doff .ioRead [] 0)
      | none => ((s.logUnmapped f x.1).countPoison true).emit (.ioData f (zeros 64) true)))) ∧
  (∀ (f off : Nat) (d : List Byte) (s : State), s.isActive = true → (s.head (headOf f)).up = true → off + d.length ≤ 2 ^ 36 →
    exec (.expansionWindowWrite f off d) s = .next (s.over (splitLines off d.length) (fun s x =>
      match s.windowAt f x.1 with
      | some (slot, doff, true) =>
        s.arrive (windowAccess f x.1 slot doff .ioWrite
          (zeros (x.1 % 64) ++ sub d (x.1 - off) x.2 ++ zeros (64 - x.1 % 64 - x.2)) ((2 ^ x.2 - 1) * 2 ^ (x.1 % 64)))
      | _ => s.logUnmapped f x.1)))

/-- Placement, segments and tables: ranges start their operations, queries return the entry and the segment's counts, a segment takes the lowest
free number and goes with the next generation, a table's record is returned, demotion moves up to 16 plates, and the sweep clears the touched bits
(R124, R126, R130, R133, R189, R192, R196). -/
def Obligations.PlacementRowsComplete : Prop :=
  (∀ (o : Origin) (p : Pkt) (a n tier : Nat) (s t : State), s.takes cPlaceMove o p = some t → t.mayStart cPlaceMove o p = true →
    plateRange p = some (a, n) → tier = fld p.p2.toNat 0 2 → tier ≠ 0 →
    exec (.placeMove o p) s = .next (t.acceptOp cPlaceMove o p (.placeMove (slotOf p) a n tier 0) n 0 0 opQueued false [])) ∧
  (∀ (o : Origin) (p : Pkt) (w : Nat) (s t : State), s.takes cPlateQuery o p = some t → p.p0.toNat < 2 ^ 36 →
    w = ((t.ent (slotOf p) p.p0.toNat).map MapEnt.word).getD 0 →
    exec (.plateQuery o p) s = .next (t.answer 0x0601 o p stOk (w % 2 ^ 64) (w / 2 ^ 64))) ∧
  (∀ (o : Origin) (p : Pkt) (a n : Nat) (s t : State), s.takes cPlateDiscard o p = some t → t.mayStart cPlateDiscard o p = true →
    plateRange p = some (a, n) →
    exec (.plateDiscard o p) s = .next (t.acceptOp cPlateDiscard o p (.discard (slotOf p) a n 0) n 0 0 opQueued false [])) ∧
  (∀ (o : Origin) (p : Pkt) (a n elem id : Nat) (g : Seg) (s t : State), s.takes cSegmentDefine o p = some t → a = p.p0.toNat → n = p.p1.toNat →
    elem = fld p.p2.toNat 0 4 → 1 ≤ n → n ≤ 65536 → a + n ≤ 2 ^ 36 → elemKnown elem = true →
    t.cod.segs.any (fun g => g.2.slot == slotOf p && decide (g.2.first < a + n) && decide (a < g.2.first + g.2.count)) = false →
    t.cod.segs.firstFree 65536 = some id →
    g = { slot := slotOf p, first := a, count := n, elem := elem, table := none, escapes := 0, coded := 0, warn := false,
          dropping := false } →
    exec (.segmentDefine o p) s = .next ({ t with cod.segs := t.cod.segs.set id g }.answer 0x0603 o p stOk id 0)) ∧
  (∀ (o : Origin) (p : Pkt) (id gen due : Nat) (g : Seg) (s t u : State), s.takes cSegmentDrop o p = some t → id = fld p.p0.toNat 0 16 →
    t.segFor (slotOf p) id = .ok g → t.proofsOf id = [] →
    { t with cod.segs := t.cod.segs.set id { g with dropping := true } }.join [] = (u, gen, due) →
    exec (.segmentDrop o p) s = .next (u.answerAt 0x0605 o p due stOk gen 0)) ∧
  (∀ (o : Origin) (p : Pkt) (g : Seg) (s t : State), s.takes cSegmentQuery o p = some t →
    t.segFor (slotOf p) (fld p.p0.toNat 0 16) = .ok g →
    exec (.segmentQuery o p) s = .next (t.answer 0x0606 o p stOk
      (g.first + 2 ^ 36 * g.count + 2 ^ 53 * g.elem + bitAt g.warn 57 + bitAt g.table.isSome 58)
      (g.table.getD noTable + 65536 * (g.escapes % 2 ^ 48)))) ∧
  (∀ (o : Origin) (p : Pkt) (x : Table) (s t : State), s.takes cTableRead o p = some t →
    t.cod.tables.get? (fld p.p0.toNat 0 16) = some x → x.joined = true → (managed o || p.p1.toNat % 64 == 0) = true →
    exec (.tableRead o p) s = .next (t.answerData 0x0607 o p p.p1.toNat x.record stOk 0 0)) ∧
  (∀ (o : Origin) (p : Pkt) (id x : Nat) (g : Seg) (s t : State), s.takes cProofPass o p = some t → t.mayStart cProofPass o p = true →
    id = fld p.p0.toNat 0 16 → t.segFor (slotOf p) id = .ok g → 1 ≤ g.elem → g.elem ≤ 3 → g.dropping = false → t.proofsOf id = [] →
    t.nextTable = some x →
    exec (.proofPass o p) s = .next (((t.takeTable x).claim 2 x 2112).acceptOp cProofPass o p
      (.proof id x (p.p1.getLsbD 0) 0 0 [] 0 [] false) g.count x 0 opQueued false [])) ∧
  (∀ (slot ptr : Nat) (s u : State), s.tst.inForce = 0 → s.isActive = true → s.domSt slot = 1 → s.demoting slot = true →
    ptr = s.ti.demote.getD slot 0 / 2 →
    u = { s with ti.demote := s.ti.demote.set slot (2 * ptr + 1) }.demoteSome slot 16 (s.demotable slot ptr) →
    exec (.demotionSlice slot) s = .next (if u.demoting slot then u
      else { u with ti.demote := u.ti.demote.set slot (u.ti.demote.getD slot 0 / 2 * 2) })) ∧
  (∀ s : State, s.str.count % (4096 * s.dev fSweepPeriod) = 0 →
    exec .touchedSweep s = .next { s with ti.pages := s.ti.pages.map (fun (p : Nat × MapPage) => (p.1, { p.2 with touched := false })) })

/-- Decodes, histograms and encodes of the burin lanes: the job at the head of a lane's queue leaves it, a good decode fills the plate, one
that fails a check is retried or damages the plate, an encode that passes its verify is counted, one that fails it goes to another lane
and at a second failure the plate is stored RAW (R173, R177, R179, R193, R194, R195). -/
def Obligations.LaneRowsComplete : Prop :=
  (∀ (lane slot plate cycles : Nat) (j : Job) (l : List Job) (e : MapEnt) (b d : List Byte) (bad : List Nat) (s u : State),
    (s.lane lane).queue = j :: l → j.kind = 1 → slot = j.key / 2 ^ 36 → plate = j.key % 2 ^ 36 →
    (s.popJob lane).ent slot plate = some e → e.res0 = false → e.damaged = false →
    (s.popJob lane).readHome slot plate e = (u, .bytes b bad) → u.expand e b j.line = .good d cycles →
    exec (.decodeComplete lane none) s = .next (u.decodeDone lane j d bad cycles)) ∧
  (∀ (lane slot plate cycles c n : Nat) (j : Job) (l : List Job) (e : MapEnt) (b d : List Byte) (bad : List Nat) (s u : State),
    (s.lane lane).queue = j :: l → j.kind = 1 → slot = j.key / 2 ^ 36 → plate = j.key % 2 ^ 36 →
    (s.popJob lane).ent slot plate = some e → e.res0 = false → e.damaged = false →
    (s.popJob lane).readHome slot plate e = (u, .bytes b bad) → u.expand e b j.line = .good d cycles →
    exec (.decodeComplete lane (some (c, n))) s =
      .next (u.decodeFailed lane j e c (laneLines (faultLanes e.coding c n (j.line / 8))) d)) ∧
  (∀ (lane : Nat) (j : Job) (l : List Job) (fault : Option (Nat × Nat)) (s : State), (s.lane lane).queue = j :: l → j.kind = 5 →
    exec (.decodeComplete lane fault) s = .next (s.popJob lane)) ∧
  (∀ (lane slot : Nat) (j : Job) (l : List Job) (s u : State), (s.lane lane).queue = j :: l → j.kind = 4 → slot = j.key / 2 ^ 36 →
    j.failedOn = none → u = s.popJob lane →
    exec (.encodeComplete lane false) s =
        .next ({ u with cod.encoded := cntAdd u.cod.encoded 1 }.charge slot 5 (lane / 16) j.extra) ∧
      exec (.encodeComplete lane true) s = .next (((u.diverge 1).charge slot 5 (lane / 16) (encodeNominal + j.extra)).giveJob (lane / 16)
        { j with failedOn := some lane })) ∧
  (∀ (lane n slot plate : Nat) (j : Job) (l : List Job) (s u : State), (s.lane lane).queue = j :: l → j.kind = 4 →
    slot = j.key / 2 ^ 36 → plate = j.key % 2 ^ 36 → j.failedOn = some n → u = s.popJob lane →
    exec (.encodeComplete lane false) s =
        .next (({ u with cod.encoded := cntAdd u.cod.encoded 1 }.charge slot 5 (lane / 16) j.extra).laneFault n (n != lane) slot plate) ∧
      exec (.encodeComplete lane true) s = .next (u.storeRaw slot plate))

/-- Streams: a schedule that passes its checks takes the lowest free stream, a ready stream without a run starts one, a stream without a run is
unloaded, a query reads the point of release and the buffers, and a failed write ends the run at the next boundary (R200, R205, R209, R232, R233, R234). -/
def Obligations.StreamRowsComplete : Prop :=
  (∀ (o : Origin) (p : Pkt) (sc : Sched) (n : Nat) (x : Stream) (s t : State), s.takes cStreamLoad o p = some t → t.mayStart cStreamLoad o p = true →
    p.p0.toNat % 64 = 0 → headerOk p.data p.p1.toNat (t.size (slotOf p)) = true → badLayer p.data = none →
    badTile p.data (t.size (slotOf p)) = none → sc = schedOf p.data → t.streams.firstFree 256 = some n →
    sumOf (t.streams.map (fun x => x.2.sched.tiles.length)) + sc.tiles.length ≤ 131072 →
    (t.streams.filter (fun x => x.2.slot == slotOf p)).length < t.domF (slotOf p) fStreamLimit →
    x = { slot := slotOf p, ready := false, sched := sc, sent := [], slotSeq := 0, released := 0, run := none } →
    exec (.streamLoad o p) s = .next ({ t with streams := t.streams.set n x }.acceptOp cStreamLoad o p
      (.streamLoad n 0) sc.tiles.length n 0 opQueued false [])) ∧
  (∀ (o : Origin) (p : Pkt) (n func : Nat) (st : Stream) (run : Run) (s t : State), s.takes cStreamRun o p = some t →
    t.mayStart cStreamRun o p = true → n = fld p.p0.toNat 0 8 → t.streamFor (slotOf p) n = .ok st → st.ready = true → st.run = none →
    (!st.sched.push && st.sched.tiles.any (fun x => decide (t.partition st.slot < 2 * x.nplate))) = false →
    func = (match o with
      | .qp f _ => if t.isOwner f then fld p.p3.toNat 0 7 else f
      | .mgmt _ _ => 0) →
    run = Run.fresh p.p1.toNat (fld p.p2.toNat 0 32) func →
    exec (.streamRun o p) s = .next ({ t with streams := t.streams.set n { st with run := some run, sent := [] } }.acceptOp cStreamRun o p
      (.streamRun n) (st.sched.layers.length * fld p.p2.toNat 0 32) 0 0 opQueued false [])) ∧
  (∀ (o : Origin) (p : Pkt) (n : Nat) (st : Stream) (s t : State), s.takes cStreamUnload o p = some t → n = fld p.p0.toNat 0 8 →
    t.streamFor (slotOf p) n = .ok st → st.run = none → st.ready = true →
    exec (.streamUnload o p) s =
      .next (({ t with streams := t.streams.del n }.unhold (fun x => x % 256 == n)).answer 0x0302 o p stOk 0 0)) ∧
  (∀ (o : Origin) (p : Pkt) (n : Nat) (st : Stream) (s t : State), s.takes cStreamQuery o p = some t → n = fld p.p0.toNat 0 8 →
    t.streamFor (slotOf p) n = .ok st →
    exec (.streamQuery o p) s = .next (t.answer 0x0303 o p stOk st.released
      (((st.run.map (fun r => (r.tiles.filter (fun (x : TileRun) => x.started && !x.delivered)).length)).getD 0)
        + 2 ^ 32 * (t.ti.t0.filter (fun (u : Nat × T0Use) => u.2.held.any (fun x => x % 512 == n))).length))) ∧
  (∀ (n : Nat) (st : Stream) (r : Run) (q : Nat) (s : State), s.streams.get? n = some st → st.run = some r → r.handle < 4096 → r.fail = none →
    r.within st.sched q = true →
    exec (.streamWriteFailure n q) s = .next (((s.modRun n (fun r => { r with fail := some q })).failOp r.handle stDataError).logE 0x0303
      (some st.slot) n q))

/-- Impressions and recalls: an impression takes the lowest free number and seals, is captured at its boundary with its operation DONE, is closed and
read out, and a recall of a range starts (R315, R316, R317, R321, R323). -/
def Obligations.ImpressionRowsComplete : Prop :=
  (∀ (o : Origin) (p : Pkt) (id slot : Nat) (m : Impr) (s t : State), s.takes cImpressionOpen o p = some t → t.mayStart cImpressionOpen o p = true →
    slot = slotOf p → t.imprOk slot p.p0.toNat p.p1.toNat p.p2.toNat p.p3.toNat = true →
    (t.sh.imprs.filter (fun (m : Nat × Impr) => m.2.slot == slot)).length < t.domF slot fImprLimit →
    t.covered slot p.p0.toNat p.p1.toNat < 16 → t.sh.imprs.firstFree 65536 = some id →
    m = { slot := slot, first := p.p0.toNat, count := p.p1.toNat, area := p.p2.toNat, areaCount := p.p3.toNat, st := 3, capture := 0,
          copies := 0, torn := 0, map := [], scanned := 0, snoops := [] } →
    exec (.impressionOpen o p) s = .next ({ t with sh.imprs := t.sh.imprs.set id m }.acceptOp cImpressionOpen o p (.imprOpen id 0 0)
      (t.scanTotal slot) id 0 opRunning false [])) ∧
  (∀ (o : Origin) (p : Pkt) (id : Nat) (m : Impr) (s t : State), s.takes cImpressionClose o p = some t →
    t.mayStart cImpressionClose o p = true → id = fld p.p0.toNat 0 16 → t.imprFor (slotOf p) id = .ok m → m.st ≠ 0 → m.st ≠ 3 →
    t.imprClosing id = false →
    exec (.impressionClose o p) s = .next ({ t with sh.imprs := t.sh.imprs.set id { m with st := max m.st 2 } }.acceptOp cImpressionClose o p
      (.imprClose id 0 false) (mapPlates m.count + m.copies) 0 0 opQueued false [])) ∧
  (∀ (o : Origin) (p : Pkt) (m : Impr) (s t : State), s.takes cImpressionQuery o p = some t →
    t.imprFor (slotOf p) (fld p.p0.toNat 0 16) = .ok m →
    exec (.impressionQuery o p) s = .next (t.answer 0x0202 o p stOk m.capture
      (m.copies % 2 ^ 32 + 2 ^ 32 * (m.torn % 2 ^ 24) + bitAt (m.st == 2 || m.st == 4) 56))) ∧
  (∀ (id h : Nat) (s u : State), s.takeDue 2 id = some u → u.imprOp id = some h →
    exec (.impressionCapture id) s = .next (((u.modImpr id (fun m => { m with st := 1, capture := u.str.count })).modOp h (fun o =>
      { o with st := opDone, status := stOk, done := o.total, r1 := u.str.count, ran := false })).writeRecord h)) ∧
  (∀ (o : Origin) (p : Pkt) (first count : Nat) (s t : State), s.takes cDirRecall o p = some t → t.mayStart cDirRecall o p = true →
    plateRange p = some (first, count) →
    exec (.dirRecall o p) s = .next (t.acceptOp cDirRecall o p (.dirRecall (slotOf p) first count 0) (t.scanTotal (slotOf p)) 0 0
      opQueued false []))

/-- Operators and digests: a binding whose form and room hold takes the lowest free number, is unbound, stepped, closed and queried; a round
completes at its boundary and a failed event write is logged; a digest is opened, closed with the next generation and read (R236, R240, R246, R247,
R249, R264, R265, R266). -/
def Obligations.OperatorRowsComplete : Prop :=
  (∀ (o : Origin) (p : Pkt) (b : Binding) (id : Nat) (s t u : State), s.takes cOperBind o p = some t → t.mayStart cOperBind o p = true →
    (managed o || p.p0.toNat % 64 == 0) = true →
    b = bindingOf p.data (slotOf p) (match o with
      | .qp f _ => f
      | .mgmt _ _ => t.owner) →
    bindFormOk p.data = true → b.valid = true → t.bindFits b = true →
    (t.opr.binds.filter (fun (x : Nat × Binding) => x.2.slot == slotOf p)).length < t.domF (slotOf p) fOperLimit →
    t.workFits b = true → t.opr.binds.firstFree 4096 = some id →
    { t with opr.binds := t.opr.binds.set id b }.giveChunks false id t.ti.nextStack b.workChunks = some u →
    exec (.operBind o p) s = .next ({ u with ti.nextStack := (t.ti.nextStack + b.workChunks) % 12 }.acceptOp cOperBind o p
      (.operBind id 0) b.areaLines id 0 opQueued false [])) ∧
  (∀ (o : Origin) (p : Pkt) (id : Nat) (b : Binding) (s t : State), s.takes cOperUnbind o p = some t → id = fld p.p0.toNat 0 12 →
    t.bindFor (slotOf p) id = .ok b → b.st ≠ 0 → t.closeLive id = false →
    t.ti.extents.any (fun (x : Nat × Extent) => x.2.kind == 2 && x.2.target == id) = false →
    exec (.operUnbind o p) s = .next ((t.modBinding id (fun b => { b with st := 2 })).answer 0x0401 o p stOk 0 0)) ∧
  (∀ (o : Origin) (p : Pkt) (id r : Nat) (b : Binding) (q : StepParams) (s t : State), s.takes cOperStep o p = some t →
    id = fld p.p0.toNat 0 12 → r = fld p.p0.toNat 32 32 → t.bindFor (slotOf p) id = .ok b → b.adamw = true → b.st = 1 →
    r = (b.round + 1) % 2 ^ 32 → r ≠ b.round % 2 ^ 32 →
    q = { lr := BitVec.ofNat 32 (fld p.p1.toNat 0 32), wd := BitVec.ofNat 32 (fld p.p1.toNat 32 32),
          c1 := BitVec.ofNat 32 (fld p.p2.toNat 0 32), c2 := BitVec.ofNat 32 (fld p.p2.toNat 32 32),
          gscale := BitVec.ofNat 32 (fld p.p3.toNat 0 32) } →
    exec (.operStep o p) s = .next ((t.modBinding id (fun b => { b with steps := b.steps.set (b.round + 1) q })).answer 0x0402 o p stOk 0 0)) ∧
  (∀ (o : Origin) (p : Pkt) (id : Nat) (b : Binding) (s t : State), s.takes cOperRoundClose o p = some t →
    t.mayStart cOperRoundClose o p = true → id = fld p.p0.toNat 0 12 → t.bindFor (slotOf p) id = .ok b → b.st = 1 → t.closeLive id = false →
    exec (.operRoundClose o p) s = .next (t.acceptOp cOperRoundClose o p (.roundClose id 0 false) b.units 0 0 opQueued false [])) ∧
  (∀ (o : Origin) (p : Pkt) (b : Binding) (s t : State), s.takes cOperQuery o p = some t →
    t.bindFor (slotOf p) (fld p.p0.toNat 0 12) = .ok b →
    exec (.operQuery o p) s = .next (t.answer 0x0404 o p stOk (b.round % 2 ^ 32 + 2 ^ 32 * b.doneUnits)
      (b.units + 2 ^ 32 * b.pend.length))) ∧
  (∀ (id : Nat) (s u : State), s.takeDue 1 id = some u → exec (.roundComplete id) s = .next (u.endRound id)) ∧
  (∀ (id : Nat) (b : Binding) (s : State), s.binding id = some b → b.st = 1 → b.evWrite = true → 0 < b.round →
    exec (.roundEventWriteFailure id) s = .next { s with ras := (s.logE 0x0403 (some b.slot) id (b.round - 1)).ras }) ∧
  (∀ (o : Origin) (p : Pkt) (id gen due : Nat) (g : Digest) (s t u : State), s.takes cDigestOpen o p = some t → 1 ≤ p.p2.toNat →
    p.p2.toNat ≤ 2 ^ 24 → p.p1.toNat + p.p2.toNat ≤ 2 ^ 36 →
    (t.opr.digests.filter (fun (x : Nat × Digest) => x.2.slot == slotOf p)).length < t.domF (slotOf p) fDigestLimit →
    t.opr.digests.firstFree 1024 = some id →
    g = { slot := slotOf p, tag := p.p0.toNat % 65536, first := p.p1.toNat, count := p.p2.toNat, sum := 0, n := 0, sum0 := 0, n0 := 0,
          st := 0 } →
    { t with opr.digests := t.opr.digests.set id g }.join [.digestOpen id] = (u, gen, due) →
    exec (.digestOpen o p) s = .next (u.answerAt 0x0410 o p due stOk id gen)) ∧
  (∀ (o : Origin) (p : Pkt) (id gen due : Nat) (g : Digest) (s t u : State), s.takes cDigestClose o p = some t →
    id = fld p.p0.toNat 0 10 → t.digestFor (slotOf p) id = .ok g → g.st = 1 →
    { t with opr.digests := t.opr.digests.set id { g with st := 2 } }.join [.digestClose id] = (u, gen, due) →
    exec (.digestClose o p) s = .next (u.answerAt 0x0411 o p due stOk gen 0)) ∧
  (∀ (o : Origin) (p : Pkt) (id : Nat) (g : Digest) (s t : State), s.takes cDigestRead o p = some t → id = fld p.p0.toNat 0 10 →
    t.digestFor (slotOf p) id = .ok g → (p.p0.getLsbD 16 = true → g.st = 3) →
    exec (.digestRead o p) s = .next ((if p.p0.getLsbD 16 then { t with opr.digests := t.opr.digests.del id } else t).answer 0x0412 o p stOk
      (if g.st = 3 then g.sum else g.sum0).toNat ((if g.st = 3 then g.n else g.n0) % 2 ^ 48 + 2 ^ 48 * g.tag)))

/-- DMA channels: a channel opens under its number, is stopped, closed, kicked and queried; a fetched descriptor that passes its checks is taken, a
completed one moves its bytes and the channel goes along LINK or parks, a parked channel whose limit has run out goes to sleep, and a failed access
ends a channel in ERROR (R271, R272, R278, R281, R283, R289, R291, R293). -/
def Obligations.DmaRowsComplete : Prop :=
  (∀ (o : Origin) (p : Pkt) (n func : Nat) (c : Chan) (s t : State), s.takes cDmaChanOpen o p = some t → n = fld p.p0.toNat 0 7 → n < 64 →
    func = (match o with
      | .qp f _ => if t.isOwner f then fld p.p0.toNat 16 7 else f
      | .mgmt _ _ => fld p.p0.toNat 16 7) →
    p.p1.toNat % 64 = 0 → p.p2.toNat % 8 = 0 → p.p4.toNat % 64 = 0 → 1 ≤ fld p.p3.toNat 32 13 → fld p.p3.toNat 32 13 ≤ 4096 →
    fld p.p0.toNat 8 2 ≤ t.domF (slotOf p) fDmaPrioMax → t.dma.chans.has n = false →
    (t.dma.chans.filter (fun (x : Nat × Chan) => x.2.slot == slotOf p)).length < t.domF (slotOf p) fDmaLimit →
    c = { slot := slotOf p, func := func, prio := fld p.p0.toNat 8 2, parkLimit := fld p.p3.toNat 32 13, stAddr := p.p2.toNat,
          evArea := p.p4.toNat, st := chClosed, next := some (chRunning, stOk),
          lastDseq := (fld p.p3.toNat 0 32 + 2 ^ 32 - 1) % 2 ^ 32, status := stOk, poison := false, update := 0, word := 0,
          addr := p.p1.toNat, desc := none, cur := none, flight := [], moved := 0, stage := [], bad := false,
          parkLeft := fld p.p3.toNat 32 13, reread := false, ended := [], touch := false } →
    exec (.dmaChanOpen o p) s = .next ({ t with dma.chans := t.dma.chans.set n c }.answer 0x0500 o p stOk n 0)) ∧
  (∀ (o : Origin) (p : Pkt) (n : Nat) (c : Chan) (partly : Bool) (s t u : State), s.takes cDmaChanStop o p = some t →
    n = fld p.p0.toNat 0 6 → t.chanFor (slotOf p) n = .ok (some c) → c.st ≠ chStopped → c.coming ≠ chError → c.coming ≠ chClosed →
    t.stopBursts n c = (u, partly) →
    exec (.dmaChanStop o p) s = .next (((u.modChan n (fun c => { c with
      next := some (chStopped, if partly then stAborted else stOk) })).unclaimOthers n none).answer 0x0501 o p stOk 0 0)) ∧
  (∀ (o : Origin) (p : Pkt) (n : Nat) (c : Chan) (s t : State), s.takes cDmaChanClose o p = some t → n = fld p.p0.toNat 0 6 →
    t.chanFor (slotOf p) n = .ok (some c) → c.st ≠ chRunning → c.st ≠ chStageWait → c.st ≠ chClosed → c.coming ≠ chRunning →
    exec (.dmaChanClose o p) s = .next ((t.modChan n (fun c => { c with next := some (chClosed, c.status) })).answer 0x0502 o p stOk 0 0)) ∧
  (∀ (o : Origin) (p : Pkt) (n : Nat) (c : Chan) (s t : State), s.takes cDmaKick o p = some t → n = fld p.p0.toNat 0 6 →
    t.chanFor (slotOf p) n = .ok (some c) → c.st = chSleeping → c.next = none →
    exec (.dmaKick o p) s = .next ((t.modChan n (fun x => { x with next := some (chParked, x.status) })).answer 0x0503 o p stOk 0 0)) ∧
  (∀ (o : Origin) (p : Pkt) (c : Chan) (s t : State), s.takes cDmaChanQuery o p = some t →
    t.chanFor (slotOf p) (fld p.p0.toNat 0 6) = .ok (some c) →
    exec (.dmaChanQuery o p) s = .next (t.answer 0x0504 o p stOk c.word.toNat c.addr)) ∧
  (∀ (ch : Nat) (bytes : List Byte) (c : Chan) (d : Desc) (s u : State), s.chan ch = some c → c.fetches = true → d = descOf bytes →
    u = s.charge c.slot 0 (headOf c.func) 1 → descOk bytes = true → d.dseq = (c.lastDseq + 1) % 2 ^ 32 →
    (d.srcDom = true → d.srcHull.1 + d.srcHull.2 ≤ u.size c.slot) → (d.dstDom = true → d.dstHull.1 + d.dstHull.2 ≤ u.size c.slot) →
    (d.overlaps && !(d.rows == 1 && d.reshape == 0)) = false →
    exec (.descriptorFetch ch bytes) s = .next ((u.modChan ch (fun c => { c with
      desc := some d, cur := some d.first, flight := [], moved := 0, stage := [], bad := false })).moveDie (chanDie ch))) ∧
  (∀ (ch : Nat) (bytes : List Byte) (c : Chan) (d : Desc) (s u : State), s.chan ch = some c → c.fetches = true → d = descOf bytes →
    u = s.charge c.slot 0 (headOf c.func) 1 → descOk bytes = true → d.dseq = (c.lastDseq + 1) % 2 ^ 32 →
    (d.srcDom = true → d.srcHull.1 + d.srcHull.2 ≤ u.size c.slot) → (d.dstDom = true → d.dstHull.1 + d.dstHull.2 ≤ u.size c.slot) →
    (d.overlaps && !(d.rows == 1 && d.reshape == 0)) = true → d.total ≤ 16 * mib →
    exec (.descriptorFetch ch bytes) s = .next (({ u with dma.staged := cntAdd u.dma.staged 1 }.claim 1 (claimOf ch d)
      ((d.total + 63) / 64 * 64)).takeDesc ch { d with staged := true })) ∧
  (∀ (ch : Nat) (src : List Byte) (link : U64) (c : Chan) (d : Desc) (s u v w : State), u = s.moveDie (chanDie ch) →
    v = u.finishBursts ch (((u.chan ch).map (fun c => c.flight.length)).getD 0) → v.chan ch = some c → c.desc = some d →
    c.cur = none → c.flight = [] → c.coming ≠ chError → c.coming ≠ chStopped → v.stageWaits ch c = false →
    v.putHost ch c d src = (w, true) → d.link.getLsbD 0 = false →
    exec (.descriptorComplete ch src link) s = .next ((w.modChan ch (fun c => { c with
      desc := none, cur := none, stage := [], lastDseq := d.dseq, poison := c.poison || c.bad,
      ended := c.ended ++ [(d.dseq, d.evIndex, c.bad, d.evPin, d.evWrite)], reread := false,
      addr := d.link.toNat / 64 * 64 })).dropFar c d)) ∧
  (∀ (ch : Nat) (src : List Byte) (link : U64) (c : Chan) (d : Desc) (s u v w : State), u = s.moveDie (chanDie ch) →
    v = u.finishBursts ch (((u.chan ch).map (fun c => c.flight.length)).getD 0) → v.chan ch = some c → c.desc = some d →
    c.cur = none → c.flight = [] → c.coming ≠ chError → c.coming ≠ chStopped → v.stageWaits ch c = false →
    v.putHost ch c d src = (w, true) → d.link.getLsbD 0 = true → link.getLsbD 0 = true →
    exec (.descriptorComplete ch src link) s = .next ((w.modChan ch (fun c => { c with
      desc := none, cur := none, stage := [], lastDseq := d.dseq, poison := c.poison || c.bad,
      ended := c.ended ++ [(d.dseq, d.evIndex, c.bad, d.evPin, d.evWrite)], reread := true,
      parkLeft := c.parkLimit, next := some (chParked, stOk) })).dropFar c d)) ∧
  (∀ (ch : Nat) (c : Chan) (s : State), s.chan ch = some c → c.st = chParked → c.parkLeft = 0 → c.next = none →
    exec (.parkLimitExpiry ch) s = .next (s.modChan ch (fun c => { c with next := some (chSleeping, c.status) }))) ∧
  (∀ (ch : Nat) (c : Chan) (s : State), s.chan ch = some c → c.st ≠ chClosed → c.st < 4 → c.coming ≠ chError → c.desc = none →
    exec (.dmaAccessFailure ch) s = .next (s.modChan ch (fun c => { c with next := some (chError, stDataError) })))

/-- Stack rows: a read shows the bits that the cells have inverted, a CA parity alert is counted and logged and the fourth in 64 strides starts a
retraining, a retraining ends in service or in retirement, a training pass begins, self-refresh is entered and left, and a finished copy puts the spare bank into
service (R340, R341, R342, R348, R349, R351, R464, R466, R478). -/
def Obligations.StackRowsComplete : Prop :=
  (∀ (k g : Nat) (s u : State) (d : List Byte), k < 12 → g < stackGranules → s.pcOff k (granPc g) = false → s.refreshed k g = true →
    s.readLine (dramLine k g) = (u, .good d) → exec (.dramReadComplete k g []) s = .next u) ∧
  (∀ (k pc n : Nat) (recent : List Nat) (w : U64) (s v u : State), pcExists k pc = true → (s.pc k pc).st = 0 →
    recent = (s.pc k pc).alerts.filter (fun n => decide (s.str.count < n + 64)) ++ [s.str.count] → s.freeWord = (v, w) →
    u = ({ v.modPc k pc (Pc.replay n) with
      dram.caReplay := cntAdd v.dram.caReplay 1
      dram.act := cntAdd v.dram.act (w.toNat % (n + 1)) }.logE 0x0607 none (k * 256 + pc) n).diverge 2 →
    exec (.caParityAlert k pc n) s = .next (u.modPc k pc (fun c => if 4 ≤ recent.length
      then { c with alerts := recent, st := 2, training := 256 } else { c with alerts := recent }))) ∧
  (∀ (k pc : Nat) (pass : Bool) (s : State), pcExists k pc = true → (s.pc k pc).st = 2 → (s.pc k pc).training = 0 →
    exec (.retrainingComplete k pc pass) s =
      .next (s.modPc k pc (fun c => if pass then { c with st := 0 } else { c with retiring := true }))) ∧
  (∀ s : State, s.dram.lastPass + s.dev fTrainPeriod ≤ s.str.count →
    exec .trainPeriodExpiry s = .next { s with dram.pass := 16, dram.lastPass := s.str.count }) ∧
  (∀ (k pc : Nat) (s : State), pcExists k pc = true → (s.pc k pc).st = 0 → s.dev fSrIdle ≠ 0 → s.noGrant k = true →
    (s.pc k pc).queue = [] → (s.pc k pc).wbuf = [] → (s.pc k pc).last + s.dev fSrIdle ≤ s.str.count →
    s.dram.granted.getD k 0 + s.dev fSrIdle ≤ s.str.count →
    exec (.selfRefreshEntry k pc) s = .next (s.modPc k pc (fun c => { c with st := 1, rows := [] }))) ∧
  (∀ (k pc : Nat) (s : State), pcExists k pc = true → (s.pc k pc).st = 1 →
    (s.stackDemand k || !(s.pc k pc).queue.isEmpty || !(s.pc k pc).wbuf.isEmpty) = true →
    exec (.selfRefreshExit k pc) s = .next (s.modPc k pc (fun c => { c with st := 0, steps := c.steps + 1 }))) ∧
  (∀ (bank n : Nat) (s u : State), s.ras.sparing.find? (fun x => x.1 == bank) = some (bank, n) →
    u = s.over ((s.syn.map Prod.fst).filter (fun l => !isDram l && csBank (lineIndex l) == bank)) State.copySpare → s.liveOps = [] →
    u.liveOps = [] →
    exec (.bankSpareCopyDone bank) s = .next { u with
      ras := { (u.logE 0x0706 none bank n).ras with
        sparing := u.ras.sparing.filter (fun x => x.1 != bank), spares := u.ras.spares.set bank n } })

/-- Flash rows: a good read serves its waiters, one that fails starts the reconstruct read and the soft retries, retries that pass serve it, a
programmed unit leaves its buffer, a failed one is rewritten and its block retired, an erased block is free or bad, a unit whose time has run out is padded,
reclaim and wear levelling empty the block with the fewest live slots or the lowest erase count, a failed die degrades its group, and patrol reads a written
codeword (R366, R368, R369, R370, R371, R376, R377, R378, R473). -/
def Obligations.FlashRowsComplete : Prop :=
  (∀ (a n : Nat) (r : FRead) (s : State), s.fl.reads.get? a = some r → r.reconFailed = false → r.recon = false →
    (r.patrol || s.identOk a r.key) = true → exec (.flashReadComplete a true n) s = .next (s.readPassed a r false n)) ∧
  (∀ (a n : Nat) (r : FRead) (s u : State), s.fl.reads.get? a = some r → r.reconFailed = false → r.recon = false →
    u = (((((s.setBad a true).diverge 3).over (peerChannels a) State.takeIssue).charge (r.key / 2 ^ 36) 7 (faEngine a)
      (if r.patrol then 0 else 504)).suspends a 7) →
    exec (.flashReadComplete a false n) s = .next ({ u with
      fl.recon := cntAdd u.fl.recon 1, fl.reads := u.fl.reads.set a { r with recon := true, soft := true } }.dieOpFailed (faCh a) (faDie a))) ∧
  (∀ (a : Nat) (r : FRead) (s : State), s.fl.reads.get? a = some r → r.soft = true → (r.patrol || s.identOk a r.key) = true →
    exec (.softRetryComplete a true) s = .next (s.readPassed a r true 1)) ∧
  (∀ (a : Nat) (r : FRead) (s : State), s.fl.reads.get? a = some r → r.soft = true → r.reconFailed = false →
    exec (.softRetryComplete a false) s = .next { s with fl.reads := s.fl.reads.set a { r with soft := false, softFailed := true } }) ∧
  (∀ (die mode ch : Nat) (u : FUnit) (s t : State), s.takeUnit die mode = some (t, u) →
    exec (.flashProgramComplete die mode) s = .next t ∧
    exec (.flashProgramFailure die mode ch) s = .next (((t.modBlock u.group u.block (fun b => { b with st := 5 })).over u.slots
      (fun s a => s.rewriteSlot mode a)).dieOpFailed (8 * die + ch) (u.group % 16))) ∧
  (∀ (g b ch : Nat) (s : State), (s.block g b).st = 3 →
    exec (.flashEraseComplete g b none) s = .next (s.modBlock g b (fun x => { x with st := 0, pages := 0, erases := x.erases + 1 })) ∧
    exec (.flashEraseComplete g b (some ch)) s = .next ({ s.modBlock g b (fun x => { x with st := 4, erases := x.erases + 1 }) with
      fl.badBlock := cntAdd s.fl.badBlock 1 }.dieOpFailed (8 * (g / 16) + ch) (g % 16))) ∧
  (∀ (die mode : Nat) (u : FUnit) (s : State), s.openUnit die mode = some u → u.slots ≠ [] → u.opened + s.dev fPadStrides ≤ s.str.count →
    exec (.padTimeout die mode) s = .next (s.padUnit die mode)) ∧
  (∀ (die mode n e g b : Nat) (p : FlashPop) (s : State), s.pop = some p → die < 4 → mode < 2 →
    sumOf ((s.groupsOf die).map (s.freeCount p mode)) < 2 * (s.groupsOf die).length →
    leastBy (fun x => (x.1, x.2.1)) (s.written p die mode) = some (n, e, g, b) →
    exec (.reclaimStart die mode) s = .next (s.modBlock g b (fun x => { x with st := 6 }))) ∧
  (∀ (die mode n e g b : Nat) (p : FlashPop) (mine : FMap FBlock) (s : State), s.pop = some p → die < 4 → mode < 2 →
    mine = s.fl.blocks.filter (fun x => x.1 / 65536 / 16 == die && s.blockMode p (x.1 % 65536) == mode && x.2.st != 4) →
    leastBy (fun x => (x.2.1, x.1)) (s.written p die mode) = some (n, e, g, b) →
    s.dev fWearSpread * (if mode = 0 then p.ratedPslc else p.ratedNative) < 1000 * (mine.foldl (fun m x => max m x.2.erases) 0 - e) →
    exec (.wearLevel die mode) s = .next (s.modBlock g b (fun x => { x with st := 6 }))) ∧
  (∀ (ch die : Nat) (s : State), ch < 32 → die < 16 → exec (.flashDieFailure ch die) s = .next (s.failDie ch die)) ∧
  (∀ (a n key : Nat) (ok : Bool) (s : State), s.dev fFlScrubH ≠ 0 → s.fl.slots.has a = true → s.inWriteBuffer a = false →
    s.fl.reads.has a = false → s.slotOwner a = some (false, key) →
    exec (.flashPatrolRead a ok n) s = .next ((s.beginRead a key (s.onFailedDie a) true none).flashRead a ok n))

/-- Integrity commands and the cores: ranges are scrubbed and retired, an injection takes the lowest free place and is disarmed, the log is read and
released, a core whose watchdog expires gives up its semaphores and the held block that it had in hand is answered ABORTED, and the management core restarts (R457, R475, R476, R480, R482, R483, R487). -/
def Obligations.IntegrityRowsComplete : Prop :=
  (∀ (o : Origin) (p : Pkt) (k first n : Nat) (s t : State), s.takes cScrub o p = some t → t.mayStart cScrub o p = true →
    fld p.p0.toNat 0 2 = 0 → k = fld p.p0.toNat 4 4 → k < 12 → first = p.p1.toNat → n = p.p2.toNat → 1 ≤ n → n ≤ 2 ^ 32 →
    p.p3.toNat % 64 = 0 → first + n ≤ stackGranules →
    exec (.scrub o p) s = .next (t.acceptOp cScrub o p (.scrub 0 k first n 0 0 0 0 0 0 0 0 p.p3.toNat) n 0 0 opQueued false [])) ∧
  (∀ (o : Origin) (p : Pkt) (kind part : Nat) (s t : State), s.takes cRetire o p = some t → t.mayStart cRetire o p = true →
    kind = fld p.p0.toNat 0 3 → part = p.p1.toNat → p.p0.toNat.testBit 8 = false → t.partOk kind part = true → (kind = 1 ∨ kind = 2) →
    exec (.retire o p) s = .next (t.acceptOp cRetire o p (.retire kind part false (t.retireUnits kind part) false)
      (t.retireUnits kind part).length 0 0 opQueued false [])) ∧
  (∀ (o : Origin) (p : Pkt) (f : Flip) (i : Nat) (s t : State), s.takes cFlipArm o p = some t → flipOf p = some f →
    t.ras.flips.firstFree 16 = some i →
    exec (.flipArm o p) s = .next ({ t with ras.flips := t.ras.flips.set i f }.answer 0x0720 o p stOk i 0)) ∧
  (∀ (o : Origin) (p : Pkt) (s t : State), s.takes cFlipDisarm o p = some t →
    exec (.flipDisarm o p) s = .next ({ t with ras.flips := t.ras.flips.del (fld p.p0.toNat 0 4) }.answer 0x0721 o p stOk 0 0)) ∧
  (∀ (o : Origin) (p : Pkt) (es : List LogEnt) (n : Nat) (s t : State), s.takes cLogRead o p = some t → p.p0.toNat % 32 = 0 →
    t.ownerOrigin o = true → n = roomFor o p.p1.toNat / 32 → es = t.ras.log.filter (fun e => lseqFrom (fld p.p2.toNat 0 32) e.lseq) →
    exec (.logRead o p) s = .next (t.answerData 0x0730 o p p.p0.toNat ((es.take n).flatMap LogEnt.bytes) stOk (es.take n).length
      ((((es.drop n).head?).map LogEnt.lseq).getD t.ras.nextLseq))) ∧
  (∀ (o : Origin) (p : Pkt) (q : Nat) (kept : List LogEnt) (gone : List (Nat × Option Nat)) (s t : State), s.takes cLogRelease o p = some t → q = fld p.p0.toNat 0 32 →
    kept = t.ras.log.filter (fun e => lseqFrom q e.lseq) →
    gone = (t.ras.log.filter (fun e => !lseqFrom q e.lseq)).map (fun e => (e.lseq, e.slot)) →
    exec (.logRelease o p) s =
      .next ({ t with ras.log := kept, ras.lost := t.ras.lost ++ gone }.answer 0x0731 o p stOk kept.length 0)) ∧
  (∀ (core n : Nat) (s u v : State) (xs : List Nat), core < 16 → (s.core core).out = false → (s.core core).halted = false →
    s.preempt core = (u, n) → v = (u.logE 0x0704 none core n).diverge 5 →
    xs = (s.core core).expiries.filter (fun x => decide (v.str.count < x + 2000000)) ++ [v.str.count] → xs.length < 3 →
    { v with ras.cores := v.ras.cores.set core { s.core core with expiries := xs, out := false } }.coresGone = false →
    exec (.watchdogExpiry core none) s =
      .next { v with ras.cores := v.ras.cores.set core { s.core core with expiries := xs, out := false } }) ∧
  (∀ (core n i : Nat) (b : HeldBlock) (s u v w : State) (xs : List Nat), core < 16 → (s.core core).out = false →
    (s.core core).halted = false → s.preempt core = (u, n) → v = (u.logE 0x0704 none core n).diverge 5 →
    xs = (s.core core).expiries.filter (fun x => decide (v.str.count < x + 2000000)) ++ [v.str.count] → xs.length < 3 →
    w = { v with
      ras.cores := v.ras.cores.set core { s.core core with expiries := xs, out := false }
      cfg.heldBlocks := v.cfg.heldBlocks.eraseIdx i
      q.headAfter := b.head } → v.cfg.heldBlocks[i]? = some b →
    (w.reply b.o (mkReply w b.o (if b.plan then 0x0811 else 0x0810) b.p stAborted 0 0 0) []).coresGone = false →
    exec (.watchdogExpiry core (some i)) s =
      .next (w.reply b.o (mkReply w b.o (if b.plan then 0x0811 else 0x0810) b.p stAborted 0 0 0) [])) ∧
  (∀ s : State, exec .mgmtWatchdogExpiry s = .next { (s.logE 0x0704 none 16 0).diverge 5 with
      ras.mgmtDown := true
      tr.spdm := [] }) ∧
  (∀ s : State, exec .managementCoreRestartDone s = .next { s with ras.mgmtDown := false })

/-- Messages that act on a slot, each delivered to the ACTIVE slot that its HDOM names: it does what its MOP says there, a request's slots
are credited unless an access keeps them, and what has come free is sent on; a request without its grant waits (R21, R390, R399, R401, R408, R432). -/
def Obligations.SlotMessagesComplete : Prop :=
  (∀ (n slot : Nat) (m q : Msg) (s u : State), q = { m with mop := 0x01 } → s.delivered n q = some u → u.actsOn q = some slot →
    exec (.rdLine n m) s = .next ((u.takeRdLine slot q).credited n q).pump) ∧
  (∀ (n slot : Nat) (m q : Msg) (s u : State), q = { m with mop := 0x02 } → s.delivered n q = some u → u.actsOn q = some slot →
    exec (.rdPlate n m) s = .next ((u.takeRdPlate slot q).credited n q).pump) ∧
  (∀ (n slot : Nat) (m q : Msg) (s u : State), q = { m with mop := 0x03 } → s.delivered n q = some u → u.actsOn q = some slot →
    exec (.wrLine n m) s = .next ((u.takeWrLine slot q).credited n q).pump) ∧
  (∀ (n slot : Nat) (m q : Msg) (s u : State), q = { m with mop := 0x04 } → s.delivered n q = some u → u.actsOn q = some slot →
    exec (.contrib n m) s = .next ((u.takeContrib slot q).credited n q).pump) ∧
  (∀ (n slot : Nat) (m q : Msg) (s u : State), q = { m with mop := 0x05 } → s.delivered n q = some u → u.actsOn q = some slot →
    exec (.mirror n m) s = .next ((u.takeMirror slot q).credited n q).pump) ∧
  (∀ (n slot : Nat) (m q : Msg) (s u : State), q = { m with mop := 0x06 } → s.delivered n q = some u → u.actsOn q = some slot →
    exec (.dirtyMark n m) s = .next ((u.takeDirtyMark slot q).credited n q).pump) ∧
  (∀ (n slot : Nat) (m q : Msg) (s u : State), q = { m with mop := 0x07 } → s.delivered n q = some u → u.actsOn q = some slot →
    exec (.parityDelta n m) s = .next ((u.takeParityDelta slot q).credited n q).pump) ∧
  (∀ (n slot : Nat) (m q : Msg) (s u : State), q = { m with mop := 0x08 } → s.delivered n q = some u → u.actsOn q = some slot →
    exec (.plateMove n m) s = .next ((u.takePlateMove slot q).credited n q).pump) ∧
  (∀ (n slot : Nat) (m q : Msg) (s u : State), q = { m with mop := 0x09 } → s.delivered n q = some u → u.actsOn q = some slot →
    exec (.tableRec n m) s = .next ((u.takeTableRec q).credited n q).pump) ∧
  (∀ (n slot : Nat) (m q : Msg) (s u : State), q = { m with mop := 0x18 } → s.delivered n q = some u → u.actsOn q = some slot →
    exec (.bisnpMsg n m) s = .next (u.takeBisnp slot q).pump) ∧
  (∀ (n slot : Nat) (m q : Msg) (s u : State), q = { m with mop := 0x20 } → s.delivered n q = some u → u.actsOn q = some slot →
    exec (.lockReq n m) s = .next (u.takeLockReq slot q).pump) ∧
  (∀ (n slot : Nat) (m q : Msg) (s u : State), q = { m with mop := 0x21 } → s.delivered n q = some u → u.actsOn q = some slot →
    exec (.lockGrant n m) s = .next (u.takeLockGrant slot q).pump) ∧
  (∀ (n slot : Nat) (m q : Msg) (s u : State), q = { m with mop := 0x22 } → s.delivered n q = some u → u.actsOn q = some slot →
    exec (.lockRel n m) s = .next (u.takeLockRel slot q).pump) ∧
  (∀ (n slot : Nat) (m q : Msg) (s u : State), q = { m with mop := 0x2C } → s.delivered n q = some u → u.actsOn q = some slot →
    exec (.doneNote n m) s = .next (u.takeDoneNote slot q).pump) ∧
  (∀ (n slot : Nat) (m q : Msg) (s u : State), q = { m with mop := 0x2D } → s.delivered n q = some u → u.actsOn q = some slot →
    exec (.standbySync n m) s = .next (u.takeStandby slot q).pump) ∧
  (∀ (n : Nat) (m q : Msg) (s : State), q = { m with mop := 0x01 } → (s.link n).st = 5 → s.admits n q = false →
    exec (.rdLine n m) s = .next { s with herd.ingress := s.herd.ingress ++ [(n, q)] })

/-- Messages that act on no slot, each delivered to this device: completions go to what waits for them, control messages to the agreement, the probes and
the links, and a message of an unknown MOP is discarded (R390, R391, R399, R406, R408, R409, R410, R420). -/
def Obligations.MemberMessagesComplete : Prop :=
  (∀ (n : Nat) (m q : Msg) (s u : State), q = { m with mop := 0x10 } → s.delivered n q = some u →
    exec (.cmp n m) s = .next (u.takeCmp q).pump) ∧
  (∀ (n : Nat) (m q : Msg) (s u : State), q = { m with mop := 0x11 } → s.delivered n q = some u →
    exec (.dataMsg n m) s = .next (u.takeData q).pump) ∧
  (∀ (n : Nat) (m q : Msg) (s u : State), q = { m with mop := 0x12 } → s.delivered n q = some u →
    exec (.birspMsg n m) s = .next (u.takeBirsp q).pump) ∧
  (∀ (n : Nat) (m q : Msg) (s u : State), q = { m with mop := 0x23 } → s.delivered n q = some u →
    exec (.suspect n m) s = .next (u.suspect (fld m.arg.toNat 0 16) (m.arg.getLsbD 16)).pump) ∧
  (∀ (n : Nat) (m q : Msg) (s u : State), q = { m with mop := 0x24 } → s.delivered n q = some u →
    exec (.probe n m) s = .next (u.control 0x25 m.src 0 0 .none).pump) ∧
  (∀ (n : Nat) (m q : Msg) (s u : State), q = { m with mop := 0x26 } → s.delivered n q = some u →
    exec (.propose n m) s = .next (u.takePropose q).pump) ∧
  (∀ (n : Nat) (m q : Msg) (s u : State), q = { m with mop := 0x27 } → s.delivered n q = some u →
    exec (.accept n m) s = .next (u.takeAccept q).pump) ∧
  (∀ (n : Nat) (m q : Msg) (s u : State), q = { m with mop := 0x28 } → s.delivered n q = some u →
    exec (.commit n m) s = .next (u.takeCommit q).pump) ∧
  (∀ (n : Nat) (m q : Msg) (s u : State), q = { m with mop := 0x29 } → s.delivered n q = some u →
    exec (.recordsReq n m) s = .next (u.takeRecordsReq q).pump) ∧
  (∀ (n : Nat) (m q : Msg) (s u : State), q = { m with mop := 0x2A } → s.delivered n q = some u →
    exec (.records n m) s = .next (u.takeRecords q).pump) ∧
  (∀ (n : Nat) (m q : Msg) (s u : State), q = { m with mop := 0x2B } → s.delivered n q = some u →
    exec (.linkLast n m) s = .next (u.linkLastMsg q).pump) ∧
  (∀ (n : Nat) (m q : Msg) (s u : State), q = { m with mop := 0x25 } → s.delivered n q = some u →
    exec (.probeAck n m) s = .next { u with herd.suspects := u.herd.suspects.del m.src }.pump) ∧
  (∀ (n : Nat) (m : Msg) (s : State), (s.link n).st = 5 → knownMop m.mop = false → s.admits n m = true →
    exec (.unknownMessage n m) s = .next (((s.charge (s.payer m (!(s.inHerd && m.dst == s.herd.device))) 2 (n / 8)
      (msgSlots m)).giveCredit n m).discardMsg m))

/-- Apyan links: a flit in order is taken and its ACK and CREDIT count, a retry request resends, a state that lasts too long and a lost link end in DOWN, a
training step goes on to the next state, a lost lock or lane raises a request, a sync block is measured, and LINK_CTRL enables, disables, retrains and sets lanes
(R387, R391, R393, R394, R395, R403, R426). -/
def Obligations.LinkRowsComplete : Prop :=
  (∀ (n : Nat) (d : List Byte) (at' : Int) (b : SyncBlock) (s : State), syncOf d at' = some b → (s.link n).st = 4 ∨ (s.link n).st = 5 →
    s.inHerd = false → b.idValid = false →
    exec (.syncBlockReceive n d at') s = .next ((s.modLink n (fun k => { k with
      lastSync := s.str.count, echo := syncMeasure b, peerStride := b.stride, peerDepth := b.depth })).peerReq n b)) ∧
  (∀ (n : Nat) (d : List Byte) (at' : Int) (s : State), syncOf d at' = none → exec (.syncBlockReceive n d at') s = .next s) ∧
  (∀ (n : Nat) (f : Flit) (s u : State), (s.link n).st = 5 → flitType f = 1 → f.uncorr = 0 → flitGood f = true →
    u = ({ s with herd.fecUncorr := cntAdd s.herd.fecUncorr 0 } : State).modLink n (fun k =>
        ({ k with replay := ackThrough (flitAck f) k.replay }).credit (flitCredit f)) → flitSeq f = (u.link n).rxSeq →
    exec (.flitReceive n f) s = .next (u.modLink n (fun k => { k with rxSeq := (k.rxSeq + 1) % 4096, retrySent := none })).flushOut) ∧
  (∀ (n q : Nat) (s : State), (s.link n).st = 5 → exec (.retryReqReceive n q) s = .next (s.resendFrom n q)) ∧
  (∀ (n k : Nat) (s : State), linkMax (s.link n).st = some k → (s.link n).entered + k ≤ s.str.count →
    exec (.linkStateTimeout n) s = .next (s.linkDown n)) ∧
  (∀ (n : Nat) (x : Exchange) (s : State), n < 32 → 1 ≤ (s.link n).st → (s.link n).st ≤ 3 →
    exec (.linkTrainStepComplete n x) s =
      .next (s.modLink n (fun k => { k with st := (s.link n).st + 1, entered := s.str.count }))) ∧
  (∀ (n : Nat) (x : Exchange) (s : State), n < 32 → (s.link n).st = 4 → x.herdId = s.herd.herdId → x.proto = s.proto →
    s.wrongSerial x = false → exec (.linkTrainStepComplete n x) s = .next ((s.linkActive n x).logScaled s)) ∧
  (∀ (n lanes : Nat) (s : State), (s.link n).st = 5 →
    exec (.linkRecoverEntry n false lanes) s = .next (s.raiseReq n 1 (s.link n).lanes)) ∧
  (∀ (n : Nat) (s : State), (s.link n).st ≠ 0 → exec (.linkDown n) s = .next (s.linkDown n)) ∧
  (∀ (o : Origin) (p : Pkt) (n : Nat) (s t : State), s.takes cLinkCtrl o p = some t → n = fld p.p0.toNat 0 5 → fld p.p0.toNat 8 2 = 3 →
    exec (.linkCtrl o p) s =
      .next ((t.modLink n (fun k => { k with enabled := true, badStride := false })).answer 0x0A08 o p stOk 0 0)) ∧
  (∀ (o : Origin) (p : Pkt) (n : Nat) (s t : State), s.takes cLinkCtrl o p = some t → n = fld p.p0.toNat 0 5 → fld p.p0.toNat 8 2 = 0 →
    (t.link n).st = 5 → (t.link n).req = 0 →
    exec (.linkCtrl o p) s = .next ((t.raiseReq n 1 (t.link n).lanes).answer 0x0A08 o p stOk 0 0))

/-- Herd commands that are taken: a herd is formed or joined, members, voters and domain records are changed by agreement through the lead voter, routes
join the generation being built, and the herd's records are read (R399, R406, R411, R413, R423, R424, R425, R426). -/
def Obligations.HerdCommandsComplete : Prop :=
  (∀ (o : Origin) (p : Pkt) (s t : State), s.takes cHerdForm o p = some t → t.mayStart cHerdForm o p = true → p.p0 ≠ 0 → t.inHerd = false →
    t.forming = false →
    exec (.herdForm o p) s = .next (t.acceptOp cHerdForm o p (.herdForm p.p0.toNat (fld p.p1.toNat 0 16)) 1 0 0 opQueued false [])) ∧
  (∀ (o : Origin) (p : Pkt) (s t : State), s.takes cHerdJoin o p = some t → t.mayStart cHerdJoin o p = true → p.p0 ≠ 0 → t.inHerd = false →
    t.isActive = false → t.forming = false →
    exec (.herdJoin o p) s = .next (t.acceptOp cHerdJoin o p (.herdJoin p.p0.toNat (fld p.p1.toNat 0 16)) 1 0 0 opQueued false [])) ∧
  (∀ (o : Origin) (p : Pkt) (d : Nat) (s t : State), s.takes cHerdAdmit o p = some t → t.mayStart cHerdAdmit o p = true →
    t.leadCheck = none → d = fld p.p0.toNat 0 16 → t.member d = false → t.liveOps = [] →
    exec (.herdAdmit o p) s = .next (t.acceptOp cHerdAdmit o p (.herdAdmit d (p.p0.getLsbD 16) (sub p.data 0 16) 0) 1 0 0 opQueued
      false [])) ∧
  (∀ (o : Origin) (p : Pkt) (d : Nat) (s t : State), s.takes cHerdRemove o p = some t → t.mayStart cHerdRemove o p = true →
    t.leadCheck = none → d = fld p.p0.toNat 0 16 → t.member d = true →
    exec (.herdRemove o p) s = .next (t.acceptOp cHerdRemove o p (.herdRemove d 0) 1 0 0 opQueued false [])) ∧
  (∀ (o : Origin) (p : Pkt) (s t : State), s.takes cHerdVoters o p = some t → t.mayStart cHerdVoters o p = true → p.p2.getLsbD 8 = false →
    t.leadCheck = none → [1, 3, 5, 7].contains (voterList p).length = true → (voterList p).eraseDups.length = (voterList p).length →
    (∀ d ∈ voterList p, t.herd.roster.any (fun r => r.device == d && t.isNormal r) = true) →
    exec (.herdVoters o p) s = .next (t.acceptOp cHerdVoters o p (.herdVoters (voterList p) false 0) 1 0 0 opQueued false [])) ∧
  (∀ (o : Origin) (p : Pkt) (r : HdomRec) (s t : State), s.takes cHerdDomainSet o p = some t → t.mayStart cHerdDomainSet o p = true →
    t.leadCheck = none → r = hdomRecOf (sub p.data 0 160) → (managed o || p.p0.toNat % 64 == 0) = true → hdomOk r = true →
    (∀ x < r.w, ∀ d, hAt r x = some d → t.member d = true ∧ t.inProbation d = false) → r.spareValid = false → t.liveOps = [] →
    exec (.herdDomainSet o p) s = .next (t.acceptOp cHerdDomainSet o p (.herdDomainSet r 0) 0 0 0 opPlanned false [])) ∧
  (∀ (o : Origin) (p : Pkt) (first n g due : Nat) (es : List (Nat × Nat)) (s t u : State), s.takes cRouteWrite o p = some t →
    first = fld p.p1.toNat 0 16 → n = fld p.p2.toNat 0 17 → es = (List.range n).map (fun i => (first + i, fieldAt p.data (4 * i) 4)) →
    1 ≤ n → first + n ≤ 65536 → (∀ e ∈ es, e.2.testBit 15 = true → 1 ≤ fld e.2 10 3 ∧ fld e.2 10 3 ≤ 4) →
    t.join (es.map (fun (e : Nat × Nat) => .route e.1 (BitVec.ofNat 32 (e.2 % 2 ^ 16 &&& 0xBFFF)))) = (u, g, due) →
    exec (.routeWrite o p) s = .next (u.answerAt 0x0A06 o p due stOk g 0)) ∧
  (∀ (o : Origin) (p : Pkt) (l : List (Nat × List Byte)) (n : Nat) (s t : State), s.takes cHerdRead o p = some t → fld p.p2.toNat 0 2 ≠ 3 →
    l = (if t.inHerd then t.herdList (fld p.p2.toNat 0 2) else []).filter (fun x => decide (fld p.p2.toNat 16 24 ≤ x.1)) →
    n = roomFor o p.p1.toNat / (if fld p.p2.toNat 0 2 = 1 then 160 else 32) →
    exec (.herdRead o p) s = .next (t.answerData 0x0A07 o p p.p0.toNat ((l.take n).flatMap Prod.snd) stOk (min n l.length)
      ((((l.drop n).head?).map Prod.fst).getD 0))) ∧
  (∀ (o : Origin) (p : Pkt) (h f pf slot : Nat) (r : HdomRec) (s t : State), s.takes cHerdStandby o p = some t →
    t.mayStart cHerdStandby o p = true → h = fld p.p0.toNat 0 24 → f = fld p.p1.toNat 0 7 → pf = fld p.p1.toNat 16 7 →
    p.p1.getLsbD 32 = false → t.inHerd = true → t.herd.domains.find? (fun r => r.hdom == h) = some r → t.slotOfHdom h = some slot →
    t.ti.extents.any (fun e => e.2.ld == f && e.2.slot == slot && e.2.hdmDb && e.2.st != 0) = false → r.kind = 3 →
    hAt r 0 = some t.herd.device →
    exec (.herdStandby o p) s = .next (t.acceptOp cHerdStandby o p (.herdStandby h f pf false false) 1 0 0 opQueued false []))

/-- The herd's time limits: a member that does not answer its probe or stays in probation too long is proposed for removal, one unheard of is suspected,
the proposals of lost proposers are let go, and a change is applied at its commit stride, after which held messages take effect (R408, R409, R412, R420). -/
def Obligations.HerdTimersComplete : Prop :=
  (∀ (d n : Nat) (s : State), s.herd.suspects.get? d = some n → n + 200 ≤ s.str.count → exec (.probeTimeout d) s = .next (s.tryRemove d)) ∧
  (∀ (d n : Nat) (s : State), s.herd.lastSeen.get? d = some n → s.inHerd = true → s.member d = true →
    n + s.dev fLossStrides ≤ s.str.count → s.isLead = true → exec (.syncLossTimeout d) s = .next (s.suspect d false)) ∧
  (∀ (d n l : Nat) (s : State), s.herd.lastSeen.get? d = some n → s.inHerd = true → s.member d = true →
    n + s.dev fLossStrides ≤ s.str.count → s.isLead = false → s.lead = some l →
    exec (.syncLossTimeout d) s = .next (s.control 0x23 l d 0 .none)) ∧
  (∀ s : State, s.isVoter = true → exec .proposalLockoutExpiry s = .next s.lockoutEnds) ∧
  (∀ s : State, exec .commitStrideReached s =
      .next (s.over (s.herd.pendingAdopt.filter (fun a => decide (a.commitStride ≤ s.str.count))) State.applyCommit).releaseHeld) ∧
  (∀ (d n : Nat) (s : State), s.herd.probation.get? d = some n → n + s.dev fProbationLimit ≤ s.str.count →
    exec (.probationTimeout d) s = .next (s.tryRemove d))

/-- Self-tests, dressage tables and debug access where they are taken: each test and each table becomes an operation, a table no run uses is dropped, the
record is returned, the access level is set over the owner's session and falls at the next boundary (R519, R524, R541, and the rules of the test commands). -/
def Obligations.SelfTestRowsComplete : Prop :=
  (∀ (o : Origin) (p : Pkt) (kind unit : Nat) (s t : State), s.takes cSelftestLogic o p = some t → t.mayStart cSelftestLogic o p = true →
    kind = fld p.p0.toNat 0 1 → unit = fld p.p0.toNat 8 6 → (kind = 1 → unit < 4) → t.dressageNamed = false →
    t.tst.laneTests.contains (testKey kind unit) = false →
    exec (.selftestLogic o p) s = .next ({ t with tst.laneTests := t.tst.laneTests ++ [testKey kind unit] }.acceptOp cSelftestLogic o p
      (.selftestLogic kind unit 0) (if kind = 0 then 65536 else 262144) 0 0 opQueued false [])) ∧
  (∀ (o : Origin) (p : Pkt) (die mode bank : Nat) (s t : State), s.takes cSelftestStore o p = some t → t.mayStart cSelftestStore o p = true →
    die = fld p.p0.toNat 0 2 → mode = fld p.p0.toNat 8 1 → bank = fld p.p1.toNat 0 8 → (mode = 1 → bank < 64) → t.dressageNamed = false →
    t.liveOps = [] →
    exec (.selftestStore o p) s = .next (t.acceptOp cSelftestStore o p (.selftestStore die mode bank 0 0 0 [])
      (if mode = 0 then 65536 * (4 - t.sparesUsed die) else 65536) 0 0 opQueued false [])) ∧
  (∀ (o : Origin) (p : Pkt) (k mask : Nat) (s t : State), s.takes cSelftestStack o p = some t → t.mayStart cSelftestStack o p = true →
    k = fld p.p0.toNat 0 4 → mask = fld p.p1.toNat 0 32 → k < 12 → p.p0.getLsbD 8 = false → t.dressageNamed = false →
    t.liveOps = [] →
    exec (.selftestStack o p) s = .next ((t.over (bitsSet mask 32) (fun s p =>
      s.modPc k p (fun c => { c with bist := 0 }))).acceptOp cSelftestStack o p (.selftestStack k false mask 0 0 0 [])
      (16384 * (bitsSet mask 32).length) 0 0 opQueued false [])) ∧
  (∀ (o : Origin) (p : Pkt) (s t : State), s.takes cDressageLoad o p = some t → t.mayStart cDressageLoad o p = true → p.p0.toNat % 64 = 0 →
    t.dressageOk p.data p.p1.toNat = true → t.tst.tables.has (fieldAt p.data 4 2) = false →
    t.loadingTables.contains (fieldAt p.data 4 2) = false → t.tst.tables.length + t.loadingTables.length < 4 →
    exec (.dressageLoad o p) s = .next (t.acceptOp cDressageLoad o p (.dressageLoad 0 p.data) (fieldAt p.data 8 4) (fieldAt p.data 4 2) 0
      opQueued false [])) ∧
  (∀ (o : Origin) (p : Pkt) (id : Nat) (s t : State), s.takes cDressageDrop o p = some t → id = fld p.p0.toNat 0 16 →
    t.tst.tables.has id = true → t.tst.dropping.contains id = false → t.dressageUsed id = false →
    exec (.dressageDrop o p) s = .next ({ t with tst.dropping := t.tst.dropping ++ [id] }.answer 0x0911 o p stOk 0 0)) ∧
  (∀ (o : Origin) (p : Pkt) (s t : State), s.takes cDressageQuery o p = some t → p.p0.toNat % 64 = 0 →
    exec (.dressageQuery o p) s = .next (t.answerData 0x0912 o p p.p0.toNat
      (if t.tst.lastRec.isEmpty then t.dressageRecord else t.tst.lastRec) stOk t.tst.sig.toNat t.tst.sig0.toNat)) ∧
  (∀ (e lv : Nat) (sec : Bool) (p : Pkt) (s t : State), s.takes cDebugUnlock (.mgmt e sec) p = some t → t.ownerSession (.mgmt e sec) = true →
    lv = fld p.p0.toNat 0 2 → lv ≠ 0 → lv ≠ 3 →
    exec (.debugUnlock (.mgmt e sec) p) s = .next ((if t.tst.level = lv then t
      else { t with tst.level := lv }.logE 0x0006 none lv e).answer 0x0920 (.mgmt e sec) p stOk 0 0)) ∧
  (∀ (o : Origin) (p : Pkt) (s t : State), s.takes cDebugLock o p = some t →
    exec (.debugLock o p) s = .next ({ t with tst.lockDue := true }.answer 0x0921 o p stOk 0 0))

/-- Test access: the TAP's reset and instructions, and at access level 2 the halting and resuming of harts, peeks, system-bus writes and DMI accesses; at
level 0 a DMI read gives zero (the rules of the test port; the dmstatus layout and the log code of refused writes are the model's, assumption 46). -/
def Obligations.TestAccessRowsComplete : Prop :=
  (∀ s : State, exec .tapReset s = .next { s with tst.ir := 0x02 }) ∧
  (∀ s : State, exec (.tapInstruction 0x02) s =
    .next (({ s with tst.ir := 0x02 } : State).emit (.tdo 0x02 ({ s with tst.ir := 0x02 } : State).idcode))) ∧
  (∀ (code : Byte) (s : State), code ≠ 0x02 → code ≠ 0x01 → code ≠ 0x10 → code ≠ 0x11 → s.pmu.inReset = false →
    exec (.tapInstruction code) s = .next (({ s with tst.ir := code } : State).emit (.tdo 0xFF 0))) ∧
  (∀ (hart : Nat) (s : State), s.tst.level = 2 → exec (.hartHalt hart) s = .next (s.haltHart hart)) ∧
  (∀ (hart : Nat) (cmd : Option Nat) (s : State), s.tst.level = 2 → exec (.hartResume hart cmd) s =
    .next ((s.resumeHart hart).abortHeld (if hart < 16 && (s.core hart).halted && (s.core hart).released then cmd else none))) ∧
  (∀ (addr : Nat) (s : State), exec (.peek addr) s = .next (s.busRead addr)) ∧
  (∀ (addr : Nat) (d : List Byte) (s : State), exec (.systemBusWrite addr d) s = .next (s.busWrite addr d)) ∧
  (∀ (op : DmiOp) (s : State), s.tst.level = 2 → exec (.dmiAccess op) s = .next (s.dmiFull op)) ∧
  (∀ (op : DmiOp) (s : State), s.tst.level = 0 → dmiReads op = true → exec (.dmiAccess op) s = .next (s.emit (.dmi 0)))

/-- Domains and their keys: a FREE slot becomes ACTIVE and a PARKED one ACTIVE again with the generation that the reply names, an ACTIVE one is parked and
erased by operations, its word is read, and a key is loaded over the owner's session and destroyed, each from the next boundary. That a slot whose newest values pass
a maximum is activated clamped is the model's reading (assumption 110) (R430, R441, R442, R444, R458). -/
def Obligations.DomainRowsComplete : Prop :=
  (∀ (o : Origin) (p : Pkt) (x g due : Nat) (s t u : State), s.takes cDomainActivate o p = some t → x = slotOf p → t.domFree x = true →
    16 ≤ t.newest x fT0Part 0 → t.activationClamps x = [] → (∀ y ∈ t.upSlots, t.newest y fDomHdom 0 ≠ t.newest x fDomHdom 0) →
    (t.modDom x (fun d => { d with activating := true })).join [.slotState x 1] = (u, g, due) →
    exec (.domainActivate o p) s = .next (u.answerAt 0x0B00 o p due stOk g 0)) ∧
  (∀ (o : Origin) (p : Pkt) (x g due : Nat) (cs : List Change) (s t u : State), s.takes cDomainActivate o p = some t → x = slotOf p →
    t.domFree x = true → 16 ≤ t.newest x fT0Part 0 → cs = t.activationClamps x → cs ≠ [] →
    (∀ v, .field (fkey x fT0Part 0) v ∈ cs → 16 ≤ v) → (∀ y ∈ t.upSlots, t.newest y fDomHdom 0 ≠ t.newest x fDomHdom 0) →
    (t.modDom x (fun d => { d with activating := true })).join (cs ++ [.slotState x 1]) = (u, g, due) →
    exec (.domainActivate o p) s = .next (u.answerAt 0x0B00 o p due stClamped g 0)) ∧
  (∀ (o : Origin) (p : Pkt) (g due : Nat) (s t u : State), s.takes cDomainUnpark o p = some t → t.domSt (slotOf p) = 3 →
    t.join [.slotState (slotOf p) 1] = (u, g, due) → exec (.domainUnpark o p) s = .next (u.answerAt 0x0B02 o p due stOk g 0)) ∧
  (∀ (o : Origin) (p : Pkt) (x : Nat) (s t : State), s.takes cDomainPark o p = some t → t.mayStart cDomainPark o p = true → x = slotOf p →
    t.domSt x = 1 → t.slotOps x = 0 → t.roundOpen x = false → t.dma.chans = [] →
    exec (.domainPark o p) s = .next ((t.join [.slotState x 2]).1.acceptOp cDomainPark o p (.park x 0) 0 0 0 opQueued false [])) ∧
  (∀ (o : Origin) (p : Pkt) (x : Nat) (s t : State), s.takes cDomainErase o p = some t → t.mayStart cDomainErase o p = true → x = slotOf p →
    t.domSt x = 1 ∨ t.domSt x = 3 → t.eraseBusy x = false → t.slotLeaving x = false →
    exec (.domainErase o p) s = .next ((t.join [.slotState x 4]).1.acceptOp cDomainErase o p (.erase x 0 []) 0 0 0 opQueued false [])) ∧
  (∀ (o : Origin) (p : Pkt) (s t : State), s.takes cDomainQuery o p = some t →
    exec (.domainQuery o p) s = .next (t.answer 0x0B04 o p stOk (t.domWord (slotOf p)) 0)) ∧
  (∀ (o : Origin) (p : Pkt) (x : Nat) (s t : State), s.takes cKeyLoad o p = some t → x = slotOf p → t.ownerSession o = true →
    t.domFree x = true → (t.dom x).hasKey = false → (t.dom x).dueKey.bind id = none → p.data.length = 64 → p.data.take 32 ≠ p.data.drop 32 →
    exec (.keyLoad o p) s =
      .next ((t.modDom x (fun d => { d with dueKey := some (some (BitVec.ofNat 512 (leNat p.data))) })).answer 0x0B10 o p stOk 0 0)) ∧
  (∀ (o : Origin) (p : Pkt) (x : Nat) (s t : State), s.takes cKeyDestroy o p = some t → x = slotOf p → t.domFree x = true →
    t.doms.has x = true →
    exec (.keyDestroy o p) s = .next ((t.modDom x (fun d => { d with dueKey := some none })).answer 0x0B11 o p stOk 0 0))

/-- Firmware: an image that passes its checks is staged, prepared, activated and committed, a handover exchanges the control sets at its boundary, an
activation that finds none fails after 65 strides, and the images' versions are read (R455, R456, R457, R458). FUSE_SVN does not fall at a commit: the model's reading
(assumption 44). -/
def Obligations.FirmwareRowsComplete : Prop :=
  (∀ (o : Origin) (p : Pkt) (i : Image) (s t : State), s.takes (cFwStage i) o p = some t → t.mayStart (cFwStage i) o p = true →
    (managed o || p.p0.toNat % 64 == 0) = true → t.imageCheck i = 0 → t.standbyBusy = false →
    exec (.fwStage o p i) s = .next (t.acceptOp (cFwStage i) o p (.fwStage i (roundUp p.p1.toNat 4096) 0) (roundUp p.p1.toNat 4096) 0 0
      opQueued false [])) ∧
  (∀ (o : Origin) (p : Pkt) (i : Image) (s t : State), s.takes cFwPrepare o p = some t → t.mayStart cFwPrepare o p = true →
    t.standbyImage = some i → t.imageCheck i = 0 → t.standbyBusy = false →
    exec (.fwPrepare o p) s = .next ({ t with tr.standby := 2 }.acceptOp cFwPrepare o p .fwPrepare 0 0 0 opQueued false [])) ∧
  (∀ (o : Origin) (p : Pkt) (s t : State), s.takes cFwActivate o p = some t → t.mayStart cFwActivate o p = true → t.tr.standby = 3 →
    exec (.fwActivate o p) s = .next ({ t with tr.standby := 4 }.acceptOp cFwActivate o p (.fwActivate t.str.count) 0 0 0 opQueued false [])) ∧
  (∀ (o : Origin) (p : Pkt) (i : Image) (bits : BitVec 4) (s t : State), s.takes cFwCommit o p = some t → t.image = some i →
    bits = BitVec.ofNat 4 (fld p.p0.toNat 0 4) → bits.getLsbD i.keyHash = false →
    exec (.fwCommit o p) s = .next ({ t with
      tr.fuseSvn := max t.tr.fuseSvn (imageSvn i), tr.revoked := t.tr.revoked ||| bits }.answer 0x0B23 o p stOk
      (max t.tr.fuseSvn (imageSvn i)) 0)) ∧
  (∀ (o : Origin) (p : Pkt) (s t : State), s.takes cFwQuery o p = some t →
    exec (.fwQuery o p) s = .next (t.answer 0x0B24 o p stOk (t.slotVer t.tr.imgA) (t.slotVer t.tr.imgB))) ∧
  (∀ (h n : Nat) (u : State) (s : State), s.activation = some (h, n) → s.tr.prepared = some s.str.count → s.str.snap = false →
    u = (({ s with tr.activeB := !s.tr.activeB, tr.standby := 2 } : State).emit (.bootMarker (markerBytes (!s.tr.activeB)))).restartMgmt →
    exec .firmwareHandover s = .next (u.endActivation h opDone stOk u.str.count)) ∧
  (∀ (h n : Nat) (s : State), s.activation = some (h, n) → n + 65 ≤ s.str.count → s.tr.prepared ≠ some s.str.count →
    exec .fwActivateTimeout s = .next ({ s with tr.standby := 3 }.endActivation h opFailed stBusyRetry 0)) ∧
  (∀ s : State, s.tr.standby = 2 → s.liveBody (fun b => b == .fwPrepare) = false →
    exec .standbySetReloaded s = .next { s with tr.standby := 3 }) ∧
  (∀ (i : Image) (s : State), s.mgmtUp = true ∨ s.pmu.stage = 6 → s.standbyBusy = false → s.imageCheck i = 0 →
    exec (.pldmFirmwareUpdate i) s = .next ((s.setStandby (some i) 1).emit (.imageWritten (!s.tr.activeB) (imageFwver i))))

/-- Reset and boot: CHIP_RST_N held long enough puts the device in reset and its release begins stage ROM with the fuses read; a stage ends in the
next, no valid image in recovery, and CONFIG in MEMORY_ACTIVE or in the wait for the herd; a temperature sample keeps its readings and trips the package at a trip
limit (R360, R455, R555, R559, R566). What the fuses held before stands (assumption 44). -/
def Obligations.BootRowsComplete : Prop :=
  (∀ (n : Nat) (s : State), 10000 ≤ n → exec (.chipRstNAssert n) s = .next s.afterChipReset) ∧
  (∀ (f : Fuses) (s : State), s.pmu.inReset = true → exec (.chipRstNDeassert f) s = .next { s with
      pmu.inReset := false
      tr.fuseSvn := max s.tr.fuseSvn f.fuseSvn
      tr.revoked := s.tr.revoked ||| f.revoked
      tr.siliconRev := f.siliconRev
      tr.identity := f.identity }) ∧
  (∀ (m : List Byte) (a b : Option Image) (u s : State), s.inStage 0 = true → u = { s with tr.imgA := a, tr.imgB := b, tr.standby := 0 } →
    exec (.bootRomComplete m a b) s = .next (if u.validImage a = false ∧ u.validImage b = false
      then { u with pmu.stage := 6, tr.activeB := markerSet m }
      else { u with pmu.stage := 1, tr.activeB := (markerSet m && u.validImage b) || (!markerSet m && !u.validImage a) })) ∧
  (∀ b : Bool, (markerBytes b).length = 12 ∧ markerSet (markerBytes b) = b) ∧
  (∀ s : State, s.inStage 1 = true → exec .coreInitComplete s = .next { s with pmu.stage := 2 }) ∧
  (∀ (l : List (Nat × Nat)) (s : State), s.inStage 2 = true → (∀ x ∈ l, x.1 < 12 ∧ x.2 < 32) → exec (.trainComplete l none) s =
    .next { s.over l (fun s x => s.modPc x.1 x.2 (fun c => { c with st := 3 })) with pmu.stage := 3 }) ∧
  (∀ (r : List Byte) (ms : Nat) (u s : State), s.inStage 3 = true → trayOk r = true → fieldAt r 5 1 = 0 →
    u = ({ s with
      fl.pop := s.fl.pop.map (fun p => rated p r),
      fl.profileBad := (s.fl.pop.map (fun p => rated p r)).any (fun p => !p.ok),
      pmu.herdMode := 0,
      pmu.subsysVendor := fieldAt r 8 2,
      pmu.subsysId := fieldAt r 0xA 2 } : State).setCaps →
    exec (.configComplete r ms) s = .next (u.enterActive ms)) ∧
  (∀ (r : List Byte) (ms : Nat) (u s : State), s.inStage 3 = true → trayOk r = true → fieldAt r 5 1 = 1 → s.herd.st = 0 →
    u = ({ s with
      fl.pop := s.fl.pop.map (fun p => rated p r),
      fl.profileBad := (s.fl.pop.map (fun p => rated p r)).any (fun p => !p.ok),
      pmu.herdMode := 1,
      pmu.subsysVendor := fieldAt r 8 2,
      pmu.subsysId := fieldAt r 0xA 2 } : State).setCaps →
    exec (.configComplete r ms) s = .next { u with pmu.stage := 4 }) ∧
  (∀ (l : List (BitVec 16)) (w : Nat) (u s : State), s.pmu.inReset = false → s.pmu.stage ≠ 7 → s.str.count % 64 = 63 →
    u = { s.keepTemps l with pmu.nextLevels := some (s.sampleLevels l w), pmu.estW := w % 65536 } →
    exec (.thermalSample l w) s = .next (if (List.range 48).all (fun i => decide (reading l i < (sensorLimits i).2.2)) then u else u.trip))

/-- Heads: PERST#, a hot reset, a disabled and a lost link take the head down with the cause of each, a link that trains brings it up with its rate and
width, and configuration requests, resets of a function, decoder commits, INTx and IDE act on the functions they name (R491, R492, R495, R505, R508, R509, R510, R512,
R514). -/
def Obligations.HeadRowsComplete : Prop :=
  (∀ (h : Nat) (s : State), s.pmu.inReset = false → h < 8 → (s.head h).perst = false →
    exec (.perstNAssert h) s = .next ((s.loseHead h 1).modHead h (fun x => { x with perst := true }))) ∧
  (∀ (h : Nat) (s : State), s.pmu.inReset = false → h < 8 →
    exec (.perstNDeassert h) s = .next (s.modHead h (fun x => { x with perst := false }))) ∧
  (∀ (h : Nat) (s : State), h < 8 → (s.head h).up = true → exec (.hotReset h) s = .next (s.loseHead h 2)) ∧
  (∀ (h : Nat) (s : State), h < 8 → (s.head h).up = true → exec (.linkDisable h) s = .next (s.loseHead h 3)) ∧
  (∀ (h : Nat) (s : State), h < 8 → (s.head h).up = true → exec (.headLinkLoss h) s = .next (s.loseHead h 4)) ∧
  (∀ (h rate width : Nat) (mld lopt : Bool) (s : State), h < 8 → (s.head h).up = false → (s.head h).perst = false → s.pmu.inReset = false →
    2 ≤ s.pmu.stage → s.pmu.stage ≤ 5 → linkMode rate width = true →
    exec (.headLinkUp h rate width mld lopt true) s = .next ((s.modHead h (fun x =>
      { x with up := true, rate := rate, width := width, mld := mld, lopt := lopt, l0p := false })).logScaled s)) ∧
  (∀ (h rate width : Nat) (mld lopt : Bool) (s : State), h < 8 → (s.head h).up = false → (s.head h).perst = false → s.pmu.inReset = false →
    2 ≤ s.pmu.stage → s.pmu.stage ≤ 5 →
    exec (.headLinkUp h rate width mld lopt false) s = .next (s.logE 0x0005 none h 0)) ∧
  (∀ (h rate width : Nat) (l0p : Bool) (s : State), h < 8 → (s.head h).up = true → linkMode rate width = true →
    exec (.linkSpeedChange h rate width l0p) s =
      .next ((s.modHead h (fun x => { x with rate := rate, width := width, l0p := l0p })).logScaled s)) ∧
  (∀ (f : Nat) (s : State), s.isActive = true → s.hasFunc f = true → exec (.functionLevelReset f) s = .next (s.resetFunction f 5)) ∧
  (∀ (f : Nat) (s : State), s.isActive = true → s.hasFunc f = true →
    exec (.cxlReset f) s = .next (((s.resetFunction f 6).dropDecoders f).recallLd f true)) ∧
  (∀ (f i : Nat) (d : HdmDecoder) (s : State), s.isActive = true → s.hasFunc f = true → i < 4 → (d.committed = true → decoderOk d = true) →
    s.herd.standbys = [] →
    exec (.hdmDecoderCommit f i d) s = .next (s.modFunc f (fun x => { x with decoders := x.decoders.set i d }))) ∧
  (∀ (f : Nat) (b : Bool) (s : State), s.isActive = true → s.hasFunc f = true →
    exec (.intxDisableWrite f b) s = .next ((s.modFunc f (fun x => { x with intxDis := b })).updInta f)) ∧
  (∀ (f : Nat) (r : CfgReq) (s : State), (s.head (headOf f)).up = true → f < 128 → s.isActive = true → s.hasFunc f = true →
    exec (.configurationRequest f r) s = .next (s.cfgDo f r)) ∧
  (∀ (f : Nat) (r : CfgReq) (s : State), (s.head (headOf f)).up = true → f < 128 → s.isActive = false →
    exec (.configurationRequest f r) s = .next (s.emit (.cfgRetry f))) ∧
  (∀ (f : Nat) (s : State), s.isActive = true → s.hasFunc f = true → (s.func f).cplDis = false →
    exec (.completionTimeout f none) s = .next (s.modFunc f (fun x => { x with cplTo := cntAdd x.cplTo 1 }))) ∧
  (∀ (f n : Nat) (q : Qp) (s u : State), s.isActive = true → s.hasFunc f = true → (s.func f).cplDis = false →
    u = s.modFunc f (fun x => { x with cplTo := cntAdd x.cplTo 1 }) → u.qp f n = some q → q.enabled = true →
    exec (.completionTimeout f (some (n, false))) s = .next (u.faultQp f n 1)) ∧
  (∀ (f ch : Nat) (c : Chan) (s u : State), s.isActive = true → s.hasFunc f = true → (s.func f).cplDis = false →
    u = s.modFunc f (fun x => { x with cplTo := cntAdd x.cplTo 1 }) → u.chan ch = some c → c.func = f →
    exec (.completionTimeout f (some (ch, true))) s = .next (u.dmaFailure ch)) ∧
  (∀ (h : Nat) (mem : Bool) (s : State), h < 8 → s.spdmUp h = true → (s.spdmOf h).sessions.any (fun y => y.2.2) = true →
    exec (.ideKeyProgram h mem) s = .next (if mem then { s with tr.ideMem := s.tr.ideMem ||| BitVec.ofNat 8 (2 ^ h) }
      else { s with tr.ideIo := s.tr.ideIo ||| BitVec.ofNat 8 (2 ^ h) })) ∧
  (∀ (h : Nat) (s : State), s.tr.ideIo.getLsbD h = true ∨ s.tr.ideMem.getLsbD h = true →
    exec (.ideCheckFailure h) s = .next ((s.logE 0x0B02 none h 0).emit (.ideError h)))

/-- The FM API and the function mailboxes, each answered with what it reports: capacities and counts, the dynamic capacity region and extents, DevLoad,
events, logs, health and the timestamp; what the device does not support is answered so (R109, R112, R439). The codes and contents of the replies are the model's
(assumption 40). -/
def Obligations.ManagementCommandsComplete : Prop :=
  (∀ (h : Nat) (s : State), s.fmUp h = true →
    exec (.getLdInfo h) s = .next (s.emit (.fmApi h mbOk [s.ti.capT1 + s.ti.capT2 + s.ti.capT3, 16])) ∧
    exec (.getMhdInfo h) s = .next (s.emit (.fmApi h mbOk [8, 128])) ∧
    exec (.getQosStatus h) s = .next (s.emit (.fmApi h mbOk ((if h < 8 then [h] else List.range 8).flatMap (fun i =>
      s.liveSlots.flatMap (fun x => [i, x, s.devLoad i x]))))) ∧
    exec (.setLdAllocations h) s = .next (s.emit (.fmApi h mbUnsupported []))) ∧
  (∀ (ld : Nat) (s : State), s.mgmtUp = true →
    exec (.getDcRegionConfiguration ld) s = .next (s.emit (.fmApi ld mbOk [1, 0, 2 ^ 48, blk])) ∧
    exec (.getDcExtentLists ld) s = .next (s.emit (.fmApi ld mbOk ((s.ti.extents.filter (fun x => x.2.ld == ld && x.2.serves)).flatMap
      (fun x => [x.1, x.2.dpa, x.2.len, leNat x.2.tag]))))) ∧
  (∀ (m : Nat) (p : Pkt) (g : Grant) (doff target j sharer idx : Nat) (e : Extent) (s t : State),
    s.takes cExtentGrant (.mgmt m false) p = some t → t.mayStart cExtentGrant (.mgmt m false) p = true → g = grantOf p →
    t.grantCheck g = .ok (doff, target, j, sharer) → g.kind ≠ 1 → t.ti.extents.firstFree (2 ^ 20) = some idx →
    e = { dpa := g.dpa, len := g.len, doff := doff, slot := g.slot, ld := g.ld, kind := g.kind, ro := g.ro, hdmDb := g.hdmDb, st := 0,
          tetherLen := g.tether, expiry := 0, tag := g.tag, target := target, contributor := j, sharer := sharer, offered := 0,
          firstStack := t.ti.nextStack } →
    exec (.initiateDcAdd m p) s = .next (({ t with ti.extents := t.ti.extents.set idx e }.join [.extentState idx 1]).1.acceptOp
      cExtentGrant (.mgmt m false) p (.extentGrant idx 0) 0 idx 0 opQueued false [])) ∧
  (∀ (e idx : Nat) (p : Pkt) (x : Extent) (s t : State), s.takes cExtentRelease (.mgmt e false) p = some t →
    t.mayStart cExtentRelease (.mgmt e false) p = true → idx = fld p.p0.toNat 0 20 → p.p0.getLsbD 32 = false →
    t.ti.extents.get? idx = some x → x.st = 2 → x.lapsed t.str.count = false →
    exec (.initiateDcRelease e p) s = .next ((t.join [.extentState idx 3]).1.acceptOp cExtentRelease (.mgmt e false) p
      (.extentRelease idx false) 1 0 0 opQueued false [])) ∧
  (∀ (f : Nat) (s : State), s.isActive = true → s.hasFunc f = true →
    exec (.identifyMemoryDevice f) s = .next (s.emit (.mailbox f mbOk [s.fwver.toNat, 0])) ∧
    exec (.getSupportedLogs f) s = .next (s.emit (.mailbox f mbOk [0])) ∧
    exec (.getLog f 0) s = .next (s.emit (.mailbox f mbOk effectsLog)) ∧
    exec (.getHealthInfo f) s = .next (s.emit (.mailbox f mbOk [bitAt s.ras.fatal 0, bitAt s.ras.ue 0])) ∧
    exec (.mailboxFirmwareUpdate f) s = .next (s.emit (.mailbox f mbUnsupported []))) ∧
  (∀ (f log : Nat) (s : State), s.isActive = true → s.hasFunc f = true → log ≤ 4 →
    exec (.getEventRecords f log) s =
      .next (s.emit (.mailbox f mbOk (((s.func f).events.getD log []).flatMap (fun (e : Nat × Nat) => [e.1, e.2]))))) ∧
  (∀ (f log n : Nat) (s : State), s.isActive = true → s.hasFunc f = true → log ≤ 4 → n ≤ ((s.func f).events.getD log []).length →
    exec (.clearEventRecords f log n) s = .next ((s.modFunc f (fun x =>
      { x with events := x.events.set log ((x.events.getD log []).drop n) })).emit (.mailbox f mbOk []))) ∧
  (∀ (f : Nat) (s : State), s.isActive = true → s.hasFunc f = true →
    exec (.getEventInterruptPolicy f) s = .next (s.emit (.mailbox f mbOk ((List.range 5).map (fun i => (s.func f).policy.getD i 0))))) ∧
  (∀ (f : Nat) (l : List Nat) (s : State), s.isActive = true → s.hasFunc f = true → (∀ x ∈ l, x = 0) →
    exec (.setEventInterruptPolicy f l) s = .next ((s.modFunc f (fun x => { x with policy := l })).emit (.mailbox f mbOk []))) ∧
  (∀ (f : Nat) (s : State), s.isActive = true → s.hasFunc f = true → (s.func f).time = 0 →
    exec (.getTimestamp f) s = .next (s.emit (.mailbox f mbOk [0]))) ∧
  (∀ (f : Nat) (v : U64) (s : State), s.isActive = true → s.hasFunc f = true →
    exec (.setTimestamp f v) s = .next ((s.modFunc f (fun x => { x with time := v.toNat, timeSet := s.pmu.strides })).emit
      (.mailbox f mbOk [])))

/-- SPDM requests in their order: version, capabilities and algorithms are negotiated, digests, certificates, challenges and measurements answered, and
sessions opened, finished, kept up and ended. Codes and contents are presumed (assumption 38); signatures are free bytes. -/
def Obligations.AttestationRequestsComplete : Prop :=
  (∀ (p : Nat) (s : State), s.spdmUp p = true →
    exec (.getVersion p) s = .next ((s.setSpdm p { s.spdmOf p with st := 1 }).emit (.spdm p 0x04 [0x13] []))) ∧
  (∀ (p : Nat) (s : State), s.spdmUp p = true → (s.spdmOf p).st = 1 →
    exec (.getCapabilities p) s = .next ((s.setSpdm p { s.spdmOf p with st := 2 }).emit (.spdm p 0x61 [] []))) ∧
  (∀ (p : Nat) (s : State), s.spdmUp p = true → (s.spdmOf p).st = 2 →
    exec (.negotiateAlgorithms p) s = .next ((s.setSpdm p { s.spdmOf p with st := 3 }).emit (.spdm p 0x63 [384, 384, 256] []))) ∧
  (∀ (p : Nat) (s : State), s.spdmUp p = true → (s.spdmOf p).st = 3 →
    exec (.getDigests p) s = .next (s.emit (.spdm p 0x01 [1] (Config.sha384 s.chain))) ∧
    exec (.getCertificate p 0) s = .next (s.emit (.spdm p 0x02 [0] s.chain)) ∧
    exec (.getMeasurements p 0) s = .next (s.emit (.spdm p 0x60 [4] []))) ∧
  (∀ (p i : Nat) (s : State), s.spdmUp p = true → (s.spdmOf p).st = 3 → 1 ≤ i → i ≤ 4 →
    exec (.getMeasurements p i) s = .next (s.emit (.spdm p 0x60 [1] (s.measurement i)))) ∧
  (∀ (p : Nat) (nonce sig : List Byte) (s u : State), s.spdmUp p = true → (s.spdmOf p).st = 3 → s.freeBytes 96 = (u, sig) →
    exec (.challenge p 0 nonce) s = .next (u.emit (.spdm p 0x03 [0] (Config.sha384 u.chain ++ nonce ++ sig)))) ∧
  (∀ (p : Nat) (own : Bool) (sig : List Byte) (x : Spdm) (s u : State), s.spdmUp p = true → x = s.spdmOf p → x.st = 3 →
    s.freeBytes 96 = (u, sig) →
    exec (.keyExchange p own) s = .next ((u.setSpdm p { x with
      sessions := x.sessions ++ [(x.next, own, false)], next := x.next + 1 }).emit (.spdm p 0x64 [x.next] sig))) ∧
  (∀ (p n : Nat) (own : Bool) (x : Spdm) (s : State), s.spdmUp p = true → x = s.spdmOf p → x.st = 3 →
    x.sessions.find? (fun y => y.1 == n) = some (n, own, false) →
    exec (.finish p n) s = .next ((s.setSpdm p { x with
      sessions := x.sessions.map (fun y => if y.1 = n then (y.1, y.2.1, true) else y) }).emit (.spdm p 0x65 [n] []))) ∧
  (∀ (p n : Nat) (own : Bool) (x : Spdm) (s : State), s.spdmUp p = true → x = s.spdmOf p → x.st = 3 →
    x.sessions.find? (fun y => y.1 == n) = some (n, own, true) →
    exec (.keyUpdate p n) s = .next ((s.setSpdm p x).emit (.spdm p 0x69 [n] [])) ∧
    exec (.heartbeat p n) s = .next ((s.setSpdm p x).emit (.spdm p 0x68 [n] [])) ∧
    exec (.endSession p n) s = .next ((s.setSpdm p { x with sessions := x.sessions.filter (fun y => y.1 != n) }).emit
      (.spdm p 0x6C [n] [])))

/-- Register reads and writes of a function that can reach its window: the halves of a register, the pops of GLB_LOG_POP, and the selectors and controls of
the owner function; what a register does not take is ignored and logged (R34, R358, R498, R538, R544, R569, R573, R574, R577, R585). -/
def Obligations.RegisterRowsComplete : Prop :=
  (∀ (f : Nat) (s : State), s.regUp f = true →
    exec (.glbLogPopRead f .whole) s =
      .next ((s.pop1 f).emit (.regData f offLogPop .whole (BitVec.ofNat 64 (popWord (s.popNext f))))) ∧
    exec (.glbLogPopRead f .low) s = .next (s.readLow f offLogPop) ∧ exec (.glbLogPopRead f .high) s = .next (s.readHigh f offLogPop)) ∧
  (∀ (f off : Nat) (s : State), s.regUp f = true → inDoorbells off = false → regOffset off = true →
    exec (.lowHalfRead f off) s = .next (s.readLow f off) ∧ exec (.highHalfRead f off) s = .next (s.readHigh f off)) ∧
  (∀ (f off : Nat) (s : State), s.regUp f = true → inDoorbells off = false → regOffset off = false →
    exec (.lowHalfRead f off) s = .next (s.emit (.ioUr f)) ∧ exec (.highHalfRead f off) s = .next (s.emit (.ioUr f))) ∧
  (∀ (f off : Nat) (s : State), s.regUp f = true → inDoorbells off = true →
    exec (.lowHalfRead f off) s = .next (s.emit (.regData f off .low 0)) ∧
    exec (.highHalfRead f off) s = .next (s.emit (.regData f off .high 0))) ∧
  (∀ (f : Nat) (part : Part) (val v : U64) (s : State), s.regUp f = true → s.isOwner f = true →
    v = mergePart s.str.bridleSel part val &&& bridleSelMask →
    exec (.strBridleSelWrite f part val) s = .next (if fld v.toNat 16 4 < indexCount (fld v.toNat 12 3) then { s with str.bridleSel := v }
      else s.ignored f (reg 1 0x30) val.toNat)) ∧
  (∀ (f : Nat) (part : Part) (val v : U64) (s : State), s.regUp f = true → s.isOwner f = true →
    v = mergePart s.dram.pcSel part val &&& pcSelMask →
    exec (.drmPcSelWrite f part val) s = .next (if fld v.toNat 8 4 < 12 then { s with dram.pcSel := v }
      else s.ignored f (reg 3 0x08) val.toNat)) ∧
  (∀ (f : Nat) (part : Part) (val v : U64) (s : State), s.regUp f = true → s.isOwner f = true →
    v = mergePart s.pmu.tempSel part val &&& 0x3F#64 →
    exec (.pmuTempSelWrite f part val) s = .next (if v.toNat < 48 then { s with pmu.tempSel := v }
      else s.ignored f (reg 13 0x08) val.toNat)) ∧
  (∀ (f : Nat) (part : Part) (val : U64) (s : State), s.regUp f = true →
    exec (.glbCntClearWrite f part val) s = .next (if s.isOwner f = true ∧ part = .whole
      then { s with cntClear := s.cntClear ||| val.toNat % 65536 } else s.ignored f 0x60 val.toNat)) ∧
  (∀ (f n : Nat) (val : U64) (m : Sem) (s : State), s.regUp f = true → s.isOwner f = true → n = val.toNat % 1024 →
    s.ras.sems.get? n = some m → m.st = 2 → s.tst.level = 2 →
    exec (.tstSemForceWrite f .whole val) s = .next { s with
      ras.sems := s.ras.sems.set n { m with st := 3 }
      ras.cores := s.ras.cores.set m.holder { s.core m.holder with released := true } }) ∧
  (∀ (f : Nat) (part : Part) (val v : U64) (s : State), s.regUp f = true → s.isOwner f = true →
    v = mergePart s.tst.trace part val &&& traceMask →
    exec (.tstTraceWrite f part val) s = .next (if v.getLsbD 0 = true ∧ s.tst.level = 0 then s.ignored f (reg 14 0x40) val.toNat
      else { s with tst.trace := v })) ∧
  (∀ (f : Nat) (part : Part) (val : U64) (s : State), s.regUp f = true → s.isOwner f = false →
    exec (.strBridleSelWrite f part val) s = .next (s.ignored f (reg 1 0x30) val.toNat) ∧
    exec (.drmPcSelWrite f part val) s = .next (s.ignored f (reg 3 0x08) val.toNat) ∧
    exec (.pmuTempSelWrite f part val) s = .next (s.ignored f (reg 13 0x08) val.toNat) ∧
    exec (.tstSemForceWrite f part val) s = .next (s.ignored f (reg 14 0x38) val.toNat) ∧
    exec (.tstTraceWrite f part val) s = .next (s.ignored f (reg 14 0x40) val.toNat)) ∧
  (∀ (f : Nat) (w : WinWrite) (s : State), s.regUp f = true → w.doorbell = false → w.size = 4 ∨ w.size = 8 → w.off % w.size = 0 →
    w.off + w.size ≤ 0x100000 →
    exec (.registerWrite f w) s = .next (if s.sees f (w.off / 8 * 8) = true
      then s.writeReg f (w.off / 8 * 8) (if w.size = 8 then .whole else if w.off % 8 = 0 then .low else .high) w.val
      else s.ignored f w.off w.val.toNat)) ∧
  (∀ (f : Nat) (w : WinWrite) (s : State), s.regUp f = true → w.doorbell = true →
    exec (.registerWrite f w) s = .next (s.doorbell f w.off w.size w.val))

/-- A step takes the command at the front of the queue and is exec of it on the state with the queue's rest; what exec answers, the step answers. -/
def Obligations.StepRunsTheFrontCommand : Prop :=
  ∀ (c : Instr) (l : List Instr) (s : State), s.pending = c :: l → step s = exec c { s with pending := l }

/-- On an empty queue the block idles: the state stays as it is. The table gives the clock a row of its own, STRIDE_BOUNDARY, so an idle step is the
model's choice (assumption 2). -/
def Obligations.IdleStepLeavesTheState : Prop :=
  ∀ s : State, s.pending = [] → step s = .next s

/-- Every command, in every state, gives a next state: the manual gives every row of the table an effect or says that it has none, so that nothing here
faults or is refused. -/
def Obligations.EveryCommandGivesANextState : Prop :=
  ∀ (c : Instr) (s : State), ∃ t, exec c s = .next t

/-- After CHIP_RST_N rises the device is in stage ROM with the stride counter at zero (R18, R554), generation 1 in force (R33, R79), no
operation and no log entry, standalone (R398), at debug level 0 (R543), with its memory in its one form. Memory reads as zero there by the model's choice (assumption
7). -/
def Obligations.ResetStateHolds : Prop :=
  State.reset.pmu.stage = 0 ∧ State.reset.str.count = 0 ∧ State.reset.cfg.gen = 1 ∧ State.reset.ops.tab = [] ∧ State.reset.ras.log = [] ∧
    State.reset.herd.st = 0 ∧ State.reset.tst.level = 0 ∧ State.reset.pending = [] ∧ State.reset.memoryOk

/-- While CHIP_RST_N is asserted everything is as after reset but the fuses, the bad-block list and the boot flash's images (R554). What the environment
has seen and the commands that wait are no part of the device, and the TAP's instruction register is kept (R530). -/
def Obligations.ChipResetKeepsOnlyFuses : Prop :=
  ∀ (n : Nat) (s t : State), 10000 ≤ n → exec (.chipRstNAssert n) s = .next t →
    t.pmu.stage = 0 ∧ t.str.count = 0 ∧ t.mem = [] ∧ t.doms = [] ∧ t.ras.log = [] ∧ t.ti.map = [] ∧ t.ops.tab = [] ∧ t.heads = [] ∧
    t.tr.fuseSvn = s.tr.fuseSvn ∧ t.tr.revoked = s.tr.revoked ∧ t.tr.identity = s.tr.identity ∧ t.tr.imgA = s.tr.imgA ∧
    t.tr.imgB = s.tr.imgB ∧ t.fl.blocks = s.fl.blocks.filter (fun (b : Nat × FBlock) => b.2.st == 4)

/-- No command touches the queue of the commands that wait, and none takes back what the device has sent: the outputs only grow. The queue and the list
of outputs are the model's (assumption 3). -/
def Obligations.ExecLeavesQueueAndSentOutputs : Prop :=
  ∀ (c : Instr) (s t : State), exec c s = .next t → t.pending = s.pending ∧ s.out <+: t.out

/-- The central store and the stacks are listed in one canonical form, rising addresses and no byte that equals what an unlisted one reads as, and every
step keeps it, whatever the command. -/
def Obligations.EveryStepKeepsMemoryForm : Prop :=
  ∀ s t : State, s.memoryOk → step s = .next t → t.memoryOk

/-- No command clears a revocation bit, and none lowers FUSE_SVN: both are fused (R457). That FUSE_SVN cannot fall is read from that it is fused
(assumption 44). -/
def Obligations.FusesNeverGoBack : Prop :=
  ∀ (c : Instr) (s t : State), exec c s = .next t → s.tr.fuseSvn ≤ t.tr.fuseSvn ∧ ∀ i, s.tr.revoked.getLsbD i = true → t.tr.revoked.getLsbD i = true

/-- A byte reads as it was last written and a write leaves every other byte, on memory in its form; bytes written in a row read back in a row. -/
def Obligations.MemoryReadsBackWhatIsWritten : Prop :=
  (∀ (m : List Host.Cell) (a b : Nat) (v : Byte), Memory.wf m = true →
    Memory.get (Memory.put m a v) b = if b = a then v else Memory.get m b) ∧
  (∀ (m : List Host.Cell) (a : Nat) (l : List Byte), Memory.wf m = true → Memory.getN (Memory.putN m a l) a l.length = l) ∧
  (∀ (m : List Host.Cell) (a b : Nat) (l : List Byte), Memory.wf m = true → b < a ∨ a + l.length ≤ b →
    Memory.get (Memory.putN m a l) b = Memory.get m b)

/-- R62: the expected value begins at SEQ_INIT with an empty window, at a queue pair's enabling and as a management queue comes into being, and the NOP of
R44 empties the window. A packet with the expected SEQ is taken on, the expected value goes up by one and its SEQ enters the window, which the reply then marks with
its status and handle; one in the window is answered DUPLICATE with what the window holds of it, and any other BAD_PARAM with the low 16 bits of the expected value,
both without executing, and both leave the expected value and the window as they are. -/
def Obligations.SequenceNumbersDecide : Prop :=
  (∀ (s : State) (c : Cmd) (o : Origin) (p : Pkt) (x : Nat) (w : List WinEnt), s.seqOf o = (x, w) → p.seq.toNat = x →
    (∀ e q, o = .mgmt e q → c.opcode ≠ 0x0800 ∨ x ≠ 0) →
    s.inOrder c o p = some (s.setSeq o ((x + 1) % 2 ^ 32)
      (prune (w ++ [{ seq := x, status := stInProgress, handle := none }]) ((x + 1) % 2 ^ 32)))) ∧
  (∀ (s v : State) (c : Cmd) (img : Option Image) (o : Origin) (p : Pkt) (x : Nat) (w : List WinEnt) (e : WinEnt),
    s.receivePacket c o p = some v → v.mustWait o p = false → v.seqOf o = (x, w) → p.seq.toNat ≠ x →
    (∀ m q, o = .mgmt m q → c.opcode ≠ 0x0800 ∨ p.seq.toNat ≠ 0) → w.find? (fun e => e.seq == p.seq.toNat) = some e →
    s.packet c img o p = v.reply o { mkReply v o c.opcode p stDuplicate e.status 0 0 with
      long := e.handle.isSome, handle := e.handle.getD 0 } [] ∧ (s.packet c img o p).seqOf o = (x, w)) ∧
  (∀ (s v : State) (c : Cmd) (img : Option Image) (o : Origin) (p : Pkt) (x : Nat) (w : List WinEnt),
    s.receivePacket c o p = some v → v.mustWait o p = false → v.seqOf o = (x, w) → p.seq.toNat ≠ x →
    (∀ m q, o = .mgmt m q → c.opcode ≠ 0x0800 ∨ p.seq.toNat ≠ 0) → w.find? (fun e => e.seq == p.seq.toNat) = none →
    s.packet c img o p = v.reply o (mkReply v o c.opcode p stBadParam (x % 65536) 0 0) [] ∧ (s.packet c img o p).seqOf o = (x, w)) ∧
  (∀ (sq rq size x : Nat) (en : Bool) (slot : Option Nat), (Qp.fresh sq rq size en slot x).expected = x ∧
    (Qp.fresh sq rq size en slot x).window = []) ∧
  (∀ (e q : Nat) (s : State), s.q.mgmts.get? e = none →
    ∃ m, (s.openMgmt e q).q.mgmts.get? e = some m ∧ m.expected = q ∧ m.window = []) ∧
  (∀ (c : Cmd) (e : Nat) (sec : Bool) (p : Pkt) (s : State), c.opcode = 0x0800 → p.seq = 0 →
    s.inOrder c (.mgmt e sec) p = some (s.setSeq (.mgmt e sec) 1 [])) ∧
  (∀ (w : List WinEnt) (r : Reply), r.status ≠ stDuplicate →
    ∀ e ∈ markWindow w r, e.seq = r.seq → e.status = r.status ∧ e.handle = (if r.long then some r.handle else none))

/-- R587: a packet that is taken meets the checks in order and the first that fails decides its reply: SEQ, the opcode, the slot, PROG_ADDR, and then what
the opcode's own chapter says; a packet that reaches check 2 has consumed its SEQ. Device and slot are taken to be ACTIVE, so that the stage rule R559 and the parking
rule R433 turn nothing away. -/
def Obligations.ChecksDecideInOrder : Prop :=
  (∀ (s v : State) (c : Cmd) (img : Option Image) (o : Origin) (p : Pkt), s.receivePacket c o p = some v → v.mustWait o p = false →
    v.inOrder c o p = none → s.packet c img o p = v.outOfOrder c o p) ∧
  (∀ (s v t : State) (c : Cmd) (img : Option Image) (o : Origin) (p : Pkt), s.receivePacket c o p = some v → v.mustWait o p = false →
    v.inOrder c o p = some t → t.accepts c o = false → s.packet c img o p = t.answer c.opcode o p stBadOpcode 0 0) ∧
  (∀ (s v t : State) (c : Cmd) (img : Option Image) (o : Origin) (p : Pkt) (x : Nat), s.receivePacket c o p = some v →
    v.mustWait o p = false → v.inOrder c o p = some t → t.accepts c o = true → t.isActive = true → t.bound o = some x → slotOf p ≠ x →
    s.packet c img o p = t.answer c.opcode o p stNotPermitted 0 0) ∧
  (∀ (s v t : State) (c : Cmd) (img : Option Image) (o : Origin) (p : Pkt), s.receivePacket c o p = some v →
    v.mustWait o p = false → v.inOrder c o p = some t → t.accepts c o = true → t.isActive = true →
    (∀ x, t.bound o = some x → slotOf p = x) → (t.unbound o = true → c.dom = false) →
    (if c.long then managed o = false ∧ (p.progAddr = 0 ∨ p.progAddr.toNat % 64 ≠ 0) else p.progAddr ≠ 0) →
    s.packet c img o p = t.answer c.opcode o p stBadParam 0 0) ∧
  (∀ (s v t u : State) (c : Cmd) (img : Option Image) (o : Origin) (p : Pkt) (st d r0 r1 : Nat) (l : List Byte),
    s.receivePacket c o p = some v → v.mustWait o p = false → v.inOrder c o p = some t → t.checks c o p = none →
    c.run t o p = (u, .now st d r0 r1 l) → s.packet c img o p = u.reply o (mkReply u o c.opcode p st d r0 r1) l) ∧
  (∀ (v t : State) (f n : Nat) (q : Qp) (c : Cmd) (p : Pkt), v.qp f n = some q → v.inOrder c (.qp f n) p = some t →
    (t.seqOf (.qp f n)).1 = (p.seq.toNat + 1) % 2 ^ 32)

/-- R57: the device writes each reply as one entry of 32 bytes, at the next index of the queue pair's reply ring, 32 bytes an index from its base (R45); PHASE,
bit 0 of RFLAGS, is 1 throughout the first pass and inverts on each wrap. A faulted queue pair gets none (R49, R58), and while all entries but one hold
unreleased replies a reply waits (R48). -/
def Obligations.RepliesTakeTheNextEntry : Prop :=
  (∀ (sq rq size : Nat) (en : Bool) (slot : Option Nat) (x : Nat), (Qp.fresh sq rq size en slot x).phase = true ∧
    (Qp.fresh sq rq size en slot x).nextReply = 0) ∧
  (∀ (q : Qp) (i : Nat), q.rqAddr i = q.rqBase + 32 * i ∧ q.sqAddr i = q.sqBase + 64 * i) ∧
  (∀ (r : Reply) (ph : Bool), (r.bytes ph).length = 32 ∧ (fieldAt (r.bytes ph) 3 1).testBit 0 = ph) ∧
  (∀ (s : State) (f n : Nat) (q : Qp) (r : Reply) (l : List Byte), s.qp f n = some q → q.faulted = false → q.unreleased + 1 < q.size →
    (∃ rest, (s.reply (.qp f n) r l).out = s.out ++ [Out.reply f n (q.rqAddr q.nextReply) (r.bytes q.phase)] ++ rest ∧
      ∀ x ∈ rest, ∀ a b i d, x ≠ Out.reply a b i d) ∧
    ∃ q', (s.reply (.qp f n) r l).qp f n = some q' ∧ q'.nextReply = (q.nextReply + 1) % q.size ∧
      q'.phase = (if q.nextReply + 1 = q.size then !q.phase else q.phase)) ∧
  (∀ (s : State) (f n : Nat) (q : Qp) (r : Reply) (l : List Byte), s.qp f n = some q → q.faulted = true →
    (s.reply (.qp f n) r l).out = s.out) ∧
  (∀ (s : State) (f n : Nat) (q : Qp) (r : Reply) (l : List Byte), s.qp f n = some q → q.faulted = false → q.size ≤ q.unreleased + 1 →
    s.reply (.qp f n) r l = { s with q.replies := s.q.replies ++ [{ o := .qp f n, due := s.str.count + 1, r := r, inline := l }] })

/-- R463: what each syndrome means, and that a read acts on the syndrome its line holds by that table, while no injection is armed; and what follows under
R462: every single-bit error of a line is corrected, every two-bit error is uncorrectable and
none is corrected, and a line read intact from a wrong address of the same stack, or from the same granule of the yoke partner stack, is uncorrectable. -/
def Obligations.SyndromeOutcomes : Prop :=
  (synOut 0 = .good ∧ synOut zSyn = .poison ∧ (∀ j < 512, synOut (hCol j) = .data j) ∧
    (∀ i < 32, synOut (BitVec.ofNat 32 (2 ^ i)) = .check)) ∧
  (∀ x : U32, x ≠ 0 → x ≠ zSyn → (∀ j < 512, x ≠ hCol j) → (∀ i < 32, x ≠ BitVec.ofNat 32 (2 ^ i)) → synOut x = .uncorr) ∧
  (∀ p < 544, synOut (flipSyn [p]) = if p < 512 then .data p else .check) ∧
  (∀ p < 544, ∀ q < 544, p ≠ q → synOut (flipSyn [p, q]) = .uncorr) ∧
  (∀ k < 12, ∀ g < 2 ^ 30, ∀ g' < 2 ^ 30, g ≠ g' →
    synOut (lineAddrTerm (dramLine k g) ^^^ lineAddrTerm (dramLine k g')) = .uncorr) ∧
  (∀ k < 12, ∀ g < 2 ^ 30, synOut (lineAddrTerm (dramLine k g) ^^^ lineAddrTerm (dramLine (partner k) g)) = .uncorr) ∧
  (∀ (l : Nat) (s : State), s.ras.flips = [] →
    (s.readLine l).2 = (match synOut (s.synOf l) with
      | .good => .good (s.rawLine l)
      | .data j => .good (flipBits (s.rawLine l) [j])
      | .check => .good (s.rawLine l)
      | .poison => .poison (s.rawLine l)
      | .uncorr => .uncorr (s.rawLine l) (s.synOf l)))

/-- A line stored with a correct check word reads back good and one stored poisoned reads back poisoned, while no injection is armed on it (R462, R471,
R476); a line with one stored bit inverted is served corrected and keeps its stored error (R464); and a write of a line leaves every other line. -/
def Obligations.LinesReadBackAsWritten : Prop :=
  (∀ (l : Nat) (d : List Byte) (s : State), d.length = 64 → Memory.wf s.mem = true → s.ras.flips = [] →
    ((s.writeLine l d false).readLine l).2 = .good d ∧ ((s.writeLine l d true).readLine l).2 = .poison d) ∧
  (∀ (l j : Nat) (s : State), s.ras.flips = [] → j < 512 → s.synOf l = hCol j →
    (s.readLine l).2 = .good (flipBits (s.rawLine l) [j]) ∧ (s.readLine l).1.mem = s.mem ∧ (s.readLine l).1.syn = s.syn ∧
      (s.readLine l).1.ras.ce = cntAdd s.ras.ce 1) ∧
  (∀ (l k : Nat) (d : List Byte) (poison : Bool) (s : State), d.length = 64 → Memory.wf s.mem = true → k ≠ l →
    (s.writeLine l d poison).rawLine k = s.rawLine k ∧ (s.writeLine l d poison).synOf k = s.synOf k)

/-- R331: a write with fewer than 64 byte enables merges the enabled bytes into the line as it reads and stores the whole line with a new check word; a
poisoned line stays poisoned, and a full-line write clears poison (R471). That a partial write to an uncorrectable line leaves the line is the model's reading (assumption
20). -/
def Obligations.PartialWritesMerge : Prop :=
  (∀ (l be : Nat) (d : List Byte) (poison : Bool) (s : State), be % 2 ^ 64 = allBe → s.writeBe l d be poison = s.writeLine l d poison) ∧
  (∀ (l be : Nat) (d old : List Byte) (poison : Bool) (s u v : State), be % 2 ^ 64 ≠ allBe →
    u = (if isDram l then { s with dram.rmw := cntAdd s.dram.rmw 1 } else s) → u.readLine l = (v, .good old) →
    s.writeBe l d be poison = v.writeLine l (maskBytes old d be) poison) ∧
  (∀ (l be : Nat) (d old : List Byte) (poison : Bool) (s u v : State), be % 2 ^ 64 ≠ allBe →
    u = (if isDram l then { s with dram.rmw := cntAdd s.dram.rmw 1 } else s) → u.readLine l = (v, .poison old) →
    s.writeBe l d be poison = v.writeLine l (maskBytes old d be) true) ∧
  (∀ (old d : List Byte) (be i : Nat), i < old.length →
    (maskBytes old d be)[i]? = some (if be.testBit i then d.getD i 0 else old.getD i 0))

/-- R157: an element is split into its exponent and its sign-and-mantissa value by the table's widths, each fits its width, and the element is rebuilt from
them. -/
def Obligations.ElementsSplitAndRebuild : Prop :=
  (splitOf 1 = some { bytes := 2, e := 8, w := 8 } ∧ splitOf 2 = some { bytes := 2, e := 5, w := 11 } ∧
    splitOf 3 = some { bytes := 4, e := 8, w := 24 }) ∧
  (∀ (elem x : Nat) (sp : Split), splitOf elem = some sp → x < 2 ^ (8 * sp.bytes) →
    expOf sp x = x / 2 ^ (sp.w - 1) % 2 ^ sp.e ∧ smOf sp x = x / 2 ^ (sp.e + sp.w - 1) * 2 ^ (sp.w - 1) + x % 2 ^ (sp.w - 1) ∧
    expOf sp x < 2 ^ sp.e ∧ smOf sp x < 2 ^ sp.w ∧ rebuild sp (smOf sp x) (expOf sp x) = x)

/-- The bit streams of a decode lane (R158): packing puts stream bit j at bit j mod 8 of byte j / 8, so that unpacking gives the bits back followed by the
padding, and a value of n bits written least significant bit first reads back. -/
def Obligations.BitStreamsUnpack : Prop :=
  (∀ bs : List Bool, unpackBits (packStream bs) = bs ++ List.replicate ((8 - bs.length % 8) % 8) false) ∧
  (∀ (bs : List Bool) (j : Nat), j < bs.length → ((packStream bs)[j / 8]?.getD 0).getLsbD (j % 8) = bs.getD j false) ∧
  (∀ n v : Nat, lsbNat (bitsLsb n v) = v % 2 ^ n ∧ (bitsLsb n v).length = n) ∧
  (∀ (w : Nat) (vs : List Nat) (rest : List Bool), (∀ v ∈ vs, v < 2 ^ w) →
    readVals w vs.length (vs.flatMap (bitsLsb w) ++ rest) = vs)

/-- R26: reservations that fit in the capacity are granted in full, the four passes over the spare never hand out more than it, and no domain gets more than
its ceiling, nor more than its demand beyond its reservation. Slots are distinct. -/
def Obligations.BridlesStayWithinCapacity : Prop :=
  (∀ (rot cap : Nat) (xs : List Share), (xs.map Share.slot).Nodup → sumOf (xs.map Share.r) ≤ cap →
    sumOf ((bridles rot cap xs).map Share.grant) ≤ cap) ∧
  (∀ (rot cap : Nat) (xs : List Share), (xs.map Share.slot).Nodup → (bridles rot cap xs).length = xs.length ∧
    ∀ i < xs.length, ∀ x y, xs[i]? = some x → (bridles rot cap xs)[i]? = some y →
      y.slot = x.slot ∧ x.r ≤ y.grant ∧ y.grant ≤ max x.r (min x.c x.d)) ∧
  (∀ (s : State) (next : Bool) (demand : FMap Nat) (cap cls idx : Nat) (slots : List Nat),
    sumOf ((slots.map (s.shareOf next demand cap (sumOf (slots.map (fun y => s.bridleField next y fBridleReserve (cls * 256 + idx)))) cls
      idx)).map Share.r) ≤ cap)

/-- R577: a counter holds the sum modulo 2^63 and OVF becomes and stays 1 once it has passed; a 4-byte read of a low half loads the function's latch with
the high half of the same register, and a read of that high half returns the latch and empties it; other functions leave it. -/
def Obligations.CountersAndHalfLatch : Prop :=
  (∀ (c : U64) (n : Nat), (cntAdd c n).toNat % 2 ^ 63 = (c.toNat % 2 ^ 63 + n) % 2 ^ 63 ∧
    ((cntAdd c n).getLsbD 63 = true ↔ c.getLsbD 63 = true ∨ 2 ^ 63 ≤ c.toNat % 2 ^ 63 + n)) ∧
  (∀ (f off : Nat) (v : U32) (s : State), s.regUp f = true → inDoorbells off = false → regOffset off = true → (s.func f).latch = some (off, v) →
    exec (.highHalfRead f off) s = .next ((s.modFunc f (fun x => { x with latch := none })).emit (.regData f off .high (v.setWidth 64)))) ∧
  (∀ (f off : Nat) (s t : State), s.regUp f = true → inDoorbells off = false → regOffset off = true → off ≠ offLogPop → (s.openWord off).1.hasReg f off = true →
    exec (.lowHalfRead f off) s = .next t →
    (t.func f).latch = some (off, BitVec.ofNat 32 (highHalf ((s.openWord off).1.peekReg f off (s.openWord off).2))) ∧
      ∀ g, g ≠ f → (t.func g).latch = (s.func g).latch)

/-- R483: the log holds up to 65,536 entries of 32 bytes; each gets the next LSEQ, modulo 2^32. A full log drops a new entry of severity 0 or 1 and counts
it; one of severity 2 or 3 replaces the oldest entry of severity 0 or 1, and is dropped and counted only where there is none. LOG_RELEASE frees the entries before an
LSEQ. -/
def Obligations.LogKeepsSevereEntries : Prop :=
  (∀ e : LogEnt, e.bytes.length = 32) ∧
  (∀ (r : Ras) (e : LogEnt), (r.append e).nextLseq = (r.nextLseq + 1) % 2 ^ 32 ∧
    (r.log.length < 65536 → (r.append e).log = r.log ++ [e]) ∧
    (r.log.length ≤ 65536 → (r.append e).log.length ≤ 65536)) ∧
  (∀ (r : Ras) (e : LogEnt), 65536 ≤ r.log.length → e.sev < 2 →
    (r.append e).log = r.log ∧ (r.append e).dropCnt = cntAdd r.dropCnt 1) ∧
  (∀ (r : Ras) (e old : LogEnt), 65536 ≤ r.log.length → 2 ≤ e.sev → r.log.find? (fun x => x.sev < 2) = some old →
    (r.append e).log = r.log.filter (fun x => x.lseq != old.lseq) ++ [e] ∧ (r.append e).dropCnt = r.dropCnt) ∧
  (∀ (r : Ras) (e : LogEnt), 65536 ≤ r.log.length → 2 ≤ e.sev → r.log.find? (fun x => x.sev < 2) = none →
    (r.append e).log = r.log ∧ (r.append e).dropCnt = cntAdd r.dropCnt 1) ∧
  (∀ (o : Origin) (p : Pkt) (q : Nat) (s t : State), s.takes cLogRelease o p = some t → q = fld p.p0.toNat 0 32 →
    ∃ u, exec (.logRelease o p) s = .next u ∧ u.ras.log = t.ras.log.filter (fun e => lseqFrom q e.lseq))

/-- R573: register writes that are ignored leave the register and are logged under code 0x0004, at most one entry per function per stride, whose COUNT
holds the number of writes and whose arguments describe the first. -/
def Obligations.IgnoredWritesAreLoggedOnceAStride : Prop :=
  (∀ (f off val : Nat) (s : State), s.ras.rate.get? f = none →
    s.ignored f off val = { s.logE 0x0004 none off val with ras.rate := s.ras.rate.set f s.ras.nextLseq }) ∧
  (∀ (f off val off' val' : Nat) (s : State), s.ras.log.length < 65536 → (∀ e ∈ s.ras.log, e.lseq ≠ s.ras.nextLseq) →
    s.ras.rate.get? f = none →
    ∃ e, ((s.ignored f off val).ignored f off' val').ras.log = s.ras.log ++ [e] ∧ e.code = 0x0004 ∧ e.count = 2 ∧
      e.argA = off % 2 ^ 32 ∧ e.argB = val % 2 ^ 64) ∧
  (∀ (f off val : Nat) (s : State), s.ignored f off val = { s with ras := (s.ignored f off val).ras })

/-- R82: a locked field that has been written, and one that a running plan holds, keep their current value with the reasons LOCKED and UNDER_PLAN; any other
value, before the field's dependency is applied, lies between MIN and MAX and a whole number of STEPs above MIN, and the reasons say which bound moved it. -/
def Obligations.ClampedValuesAreLegal : Prop :=
  (∀ (s : State) (ov : FMap Nat) (mg : Bool) (slot : Nat) (f : FieldSpec) (e : Entry), f.lock = true →
    s.cfg.locked.contains (fkey slot f.id e.elem) = true → s.clampEntry ov mg slot f e = (s.pend ov slot f.id e.elem, 32)) ∧
  (∀ (s : State) (ov : FMap Nat) (mg : Bool) (slot : Nat) (f : FieldSpec) (e : Entry),
    (f.lock && s.cfg.locked.contains (fkey slot f.id e.elem)) = false → s.underPlan slot f.id e.elem = true →
    s.clampEntry ov mg slot f e = (s.pend ov slot f.id e.elem, 16)) ∧
  (∀ (s : State) (ov : FMap Nat) (mg : Bool) (slot : Nat) (f : FieldSpec) (e : Entry),
    (f.lock && s.cfg.locked.contains (fkey slot f.id e.elem)) = false → s.underPlan slot f.id e.elem = false →
    1 ≤ f.step → f.min ≤ s.fieldMax f e.elem →
    ∃ v, (s.clampEntry ov mg slot f e).1 = (s.depOf ov mg slot f.id e.elem).apply v (s.pend ov slot f.id e.elem) ∧
      f.min ≤ v ∧ v ≤ s.fieldMax f e.elem ∧ (v - f.min) % f.step = 0 ∧
      (f.min ≤ e.val ∧ e.val ≤ s.fieldMax f e.elem ∧ (e.val - f.min) % f.step = 0 → v = e.val) ∧
      ((s.clampEntry ov mg slot f e).2.testBit 0 = true ↔ e.val < f.min) ∧
      ((s.clampEntry ov mg slot f e).2.testBit 1 = true ↔ s.fieldMax f e.elem < e.val))

/-- R121: a read of a plate that has no map entry returns zeros and creates no entry, and it touches neither T0 nor memory. -/
def Obligations.NeverWrittenPlatesReadZero : Prop :=
  ∀ (ld slot plate i : Nat) (s : State), s.ent slot plate = none → s.readPlateLine ld slot plate i = (s, zeros 64, false)

/-- Requests of the FM API, of a function's mailbox and of SPDM that only ask change nothing but what the device has sent. -/
def Obligations.QueriesOnlyAnswer : Prop :=
  ∀ (c : Instr) (s t : State), (∃ a b, c ∈ [.getLdInfo a, .getMhdInfo a, .getQosStatus a, .setLdAllocations a, .getDcRegionConfiguration a,
      .getDcExtentLists a, .identifyMemoryDevice a, .getEventRecords a b, .getEventInterruptPolicy a, .getSupportedLogs a, .getLog a b,
      .getHealthInfo a, .getTimestamp a, .mailboxFirmwareUpdate a, .getDigests a, .getCertificate a b, .getMeasurements a b]) →
    exec c s = .next t → t = { s with out := t.out }

/-- SPDM requests that negotiate or that act on a session change nothing but the negotiation of their own path, what the device has sent and the free
values they take; the mailbox's settings change their own function only. -/
def Obligations.NegotiationsTouchOnlyTheirState : Prop :=
  (∀ (c : Instr) (path : Nat) (s t : State), (∃ a b d, c ∈ [.getVersion path, .getCapabilities path, .negotiateAlgorithms path,
      .challenge path a d, .keyExchange path b, .finish path a, .keyUpdate path a, .heartbeat path a, .endSession path a]) →
    exec c s = .next t → t = { s with out := t.out, tr.spdm := t.tr.spdm, str.free := t.str.free } ∧
      ∀ q, q ≠ path → t.spdmOf q = s.spdmOf q) ∧
  (∀ (c : Instr) (f : Nat) (s t : State), (∃ a b l v, c ∈ [.clearEventRecords f a b, .setEventInterruptPolicy f l, .setTimestamp f v]) →
    exec c s = .next t → t = { s with out := t.out, funcs := t.funcs } ∧ ∀ g, g ≠ f → t.func g = s.func g)

/-- Writes of the selectors and controls change their own register, or the log where they are ignored, and nothing else; doorbells and the registers of
queue pair 0 change queue state, the log and what the device has sent, so that no byte of memory changes. -/
def Obligations.RegisterWritesTouchOnlyTheirRegister : Prop :=
  (∀ (f : Nat) (part : Part) (val : U64) (s t : State), exec (.strBridleSelWrite f part val) s = .next t →
    t = { s with str.bridleSel := t.str.bridleSel, ras := t.ras }) ∧
  (∀ (f : Nat) (part : Part) (val : U64) (s t : State), exec (.drmPcSelWrite f part val) s = .next t →
    t = { s with dram.pcSel := t.dram.pcSel, ras := t.ras }) ∧
  (∀ (f : Nat) (part : Part) (val : U64) (s t : State), exec (.pmuTempSelWrite f part val) s = .next t →
    t = { s with pmu.tempSel := t.pmu.tempSel, ras := t.ras }) ∧
  (∀ (f : Nat) (part : Part) (val : U64) (s t : State), exec (.glbCntClearWrite f part val) s = .next t →
    t = { s with cntClear := t.cntClear, ras := t.ras }) ∧
  (∀ (f : Nat) (part : Part) (val : U64) (s t : State), exec (.tstSemForceWrite f part val) s = .next t → t = { s with ras := t.ras }) ∧
  (∀ (f : Nat) (part : Part) (val : U64) (s t : State), exec (.tstTraceWrite f part val) s = .next t →
    t = { s with tst.trace := t.tst.trace, ras := t.ras }) ∧
  (∀ (c : Instr) (f : Nat) (s t : State), (∃ part v n size b, c ∈ [.sqTailWrite f n size v, .rqHeadWrite f n size v, .qp0Enable f part v,
      .qp0Disable f part v, .qp0IntEnWrite f part v, .qp0BaseWrite f b part v, .ringAccessFailure f n]) →
    exec c s = .next t → t = { s with q := t.q, ras := t.ras, out := t.out })

/-- Query commands, whatever the state and wherever they are turned away, change nothing but the queues, what the device has sent, the charges of the
stride and the counter of denied commands: no byte of memory, no register of another block. -/
def Obligations.QueryPacketsOnlyAnswer : Prop :=
  ∀ (c : Instr) (s t : State), (∃ o p, c ∈ [.nop o p, .opStatusRead o p, .configRead o p, .catalogueRead o p, .domainQuery o p, .fwQuery o p,
      .plateQuery o p, .segmentQuery o p, .tableRead o p, .operQuery o p, .streamQuery o p, .impressionQuery o p, .dmaChanQuery o p,
      .extentList o p, .herdRead o p, .dressageQuery o p, .logRead o p]) →
    exec c s = .next t → s.onlyAnswers t

/-- A domain queue bound to a slot reaches no other (R38, R39): a packet that names another slot changes nothing but the queues, what the device has
sent, the charges of the stride and the counter of denied commands, whatever its command. So does a domain-scope command on a queue pair 0 bound to no slot. -/
def Obligations.ForeignSlotPacketsHaveNoEffect : Prop :=
  (∀ (c : Cmd) (img : Option Image) (f n x : Nat) (p : Pkt) (s : State), s.bound (.qp f n) = some x → slotOf p ≠ x →
    s.onlyAnswers (s.packet c img (.qp f n) p)) ∧
  (∀ (c : Cmd) (img : Option Image) (f n : Nat) (p : Pkt) (s : State), s.unbound (.qp f n) = true → c.dom = true →
    s.onlyAnswers (s.packet c img (.qp f n) p))

/-- R53: the 64 bytes of a command packet hold each field at the table's place, least significant byte first, and zero in the reserved ones; reading
them gives the packet back, and its OPCODE picks the command: the one that the opcode's chapter defines, and none where no chapter defines the opcode (R59). FW_STAGE,
whose image comes beside its packet, is its own clause. -/
def Obligations.PacketsReadBackFromTheirBytes : Prop :=
  (∀ (opcode : Nat) (p : Pkt) (b : List Byte), opcode < 2 ^ 16 → b = pktBytes opcode p →
    b.length = 64 ∧ fieldAt b 0 2 = opcode ∧ fieldAt b 2 2 = p.flags.toNat ∧ fieldAt b 4 4 = p.seq.toNat ∧ fieldAt b 8 2 = p.slot.toNat ∧
      fieldAt b 0x0A 2 = p.tag.toNat ∧ fieldAt b 0x0C 4 = 0 ∧ fieldAt b 0x10 8 = p.progAddr.toNat ∧ fieldAt b 0x18 8 = p.p0.toNat ∧
      fieldAt b 0x20 8 = p.p1.toNat ∧ fieldAt b 0x28 8 = p.p2.toNat ∧ fieldAt b 0x30 8 = p.p3.toNat ∧ fieldAt b 0x38 8 = p.p4.toNat) ∧
  (∀ (opcode : Nat) (p : Pkt) (data : List Byte), opcode < 2 ^ 16 → pktOf (pktBytes opcode p) data = (opcode, { p with data := data })) ∧
  (∀ (c : Cmd) (opcode : Nat) (o : Origin) (p : Pkt) (s : State), cmdOf opcode none = some c →
    exec (receivedCommand (pktBytes opcode p) o p.data none) s = .next (s.packet c none o p)) ∧
  (∀ (img : Image) (o : Origin) (p : Pkt) (s : State),
    exec (receivedCommand (pktBytes opFwStage p) o p.data (some img)) s = .next (s.packet (cFwStage img) (some img) o p)) ∧
  (∀ (opcode : Nat) (o : Origin) (p : Pkt) (img : Option Image) (s : State), opcode < 2 ^ 16 → assigned opcode = false →
    exec (receivedCommand (pktBytes opcode p) o p.data img) s = .next (s.packet (cUnassigned opcode) none o p))
end

