-- ==== Sys2Proof/Laws/Answers.lean ====
section
/-! SUPPORT. What a packet leaves alone that is only answered: one lemma per operation that answers are made of. -/

namespace Sys2Proof.Machine

variable {s t u : State}

theorem State.onlyAnswers_refl : s.onlyAnswers s := rfl

theorem State.onlyAnswers_trans (h : s.onlyAnswers t) (k : t.onlyAnswers u) : s.onlyAnswers u := by
  unfold State.onlyAnswers at *
  rw [h] at k
  exact k

/-- An update of the fields named is no more than an answer. -/
theorem State.onlyAnswers_upd (h : s.onlyAnswers t) (k : t.onlyAnswers u) : s.onlyAnswers u := State.onlyAnswers_trans h k

theorem State.onlyAnswers_ite {b : Prop} [Decidable b] {v : State} (h : s.onlyAnswers t) (k : s.onlyAnswers v) :
    s.onlyAnswers (if b then t else v) := by
  split
  · exact h
  · exact k

theorem State.modQp_answers {f n : Nat} {g : Qp → Qp} (h : s.onlyAnswers t) : s.onlyAnswers (t.modQp f n g) :=
  State.onlyAnswers_trans h rfl

theorem State.emit_answers {o : Out} (h : s.onlyAnswers t) : s.onlyAnswers (t.emit o) := State.onlyAnswers_trans h rfl

theorem State.charge_answers {a b c n : Nat} (h : s.onlyAnswers t) : s.onlyAnswers (t.charge a b c n) := by
  unfold State.charge
  dsimp only
  split
  · exact h
  · exact State.onlyAnswers_trans h rfl

theorem State.updInta_answers {f : Nat} (h : s.onlyAnswers t) : s.onlyAnswers (t.updInta f) := by
  unfold State.updInta
  dsimp only
  split
  · exact h
  · exact State.onlyAnswers_trans h rfl

theorem State.writeReply_answers {o : Origin} {r : Reply} {l : List Byte} (h : s.onlyAnswers t) :
    s.onlyAnswers (t.writeReply o r l) := by
  unfold State.writeReply
  dsimp only
  have h2 : s.onlyAnswers (if r.status = stNotPermitted then { t with tr.denied := cntAdd t.tr.denied 1 } else t) :=
    State.onlyAnswers_ite (State.onlyAnswers_trans h rfl) h
  generalize (if r.status = stNotPermitted then { t with tr.denied := cntAdd t.tr.denied 1 } else t) = v at h2 ⊢
  cases o with
  | qp f n =>
    dsimp only
    split
    · exact h2
    · split
      · exact State.modQp_answers h2
      · refine State.updInta_answers ?_
        split
        · exact State.charge_answers (State.emit_answers (State.modQp_answers h2))
        · exact State.emit_answers (State.modQp_answers h2)
  | mgmt e q => exact State.onlyAnswers_trans h2 rfl

theorem State.reply_answers {o : Origin} {r : Reply} {l : List Byte} (h : s.onlyAnswers t) : s.onlyAnswers (t.reply o r l) := by
  unfold State.reply
  exact State.onlyAnswers_ite (State.onlyAnswers_trans h rfl) (State.writeReply_answers h)

theorem State.fetch_answers {f n e : Nat} {q : Qp} (h : s.onlyAnswers t) : s.onlyAnswers (t.fetch f n e q) := by
  unfold State.fetch
  dsimp only
  split
  · exact State.charge_answers (State.onlyAnswers_trans h rfl)
  · exact State.onlyAnswers_trans h rfl

theorem State.openMgmt_answers {e q : Nat} (h : s.onlyAnswers t) : s.onlyAnswers (t.openMgmt e q) := by
  unfold State.openMgmt
  dsimp only
  split <;> exact State.onlyAnswers_trans h rfl

theorem State.receivePacket_answers {c : Cmd} {o : Origin} {p : Pkt} (h : s.receivePacket c o p = some t) : s.onlyAnswers t := by
  unfold State.receivePacket at h
  cases o with
  | qp f n =>
    dsimp only at h
    split at h
    · cases h
    · split at h
      · cases h
        exact State.fetch_answers State.onlyAnswers_refl
      · cases h
  | mgmt e q =>
    dsimp only at h
    split at h
    · cases h
      exact State.openMgmt_answers State.onlyAnswers_refl
    · cases h

theorem State.setSeq_answers {o : Origin} {x : Nat} {w : List WinEnt} (h : s.onlyAnswers t) : s.onlyAnswers (t.setSeq o x w) := by
  unfold State.setSeq
  cases o <;> exact State.onlyAnswers_trans h rfl

theorem State.inOrder_answers {c : Cmd} {o : Origin} {p : Pkt} (h : s.inOrder c o p = some t) : s.onlyAnswers t := by
  unfold State.inOrder at h
  dsimp only at h
  generalize hb : (if p.seq.toNat = (s.seqOf o).1 then _ else none : Option State) = x at h
  have hx : ∀ v, x = some v → s.onlyAnswers v := by
    intro v hv
    rw [← hb] at hv
    by_cases hq : p.seq.toNat = (s.seqOf o).1
    · rw [if_pos hq] at hv
      cases hv
      exact State.setSeq_answers State.onlyAnswers_refl
    · rw [if_neg hq] at hv
      cases hv
  cases o with
  | qp f n => exact hx t h
  | mgmt e q =>
    dsimp only at h
    by_cases hc : (c.opcode == 2048 && p.seq.toNat == 0) = true
    · rw [if_pos hc] at h
      cases h
      exact State.setSeq_answers State.onlyAnswers_refl
    · rw [if_neg hc] at h
      exact hx t h

theorem State.outOfOrder_answers {c : Cmd} {o : Origin} {p : Pkt} (h : s.onlyAnswers t) : s.onlyAnswers (t.outOfOrder c o p) := by
  unfold State.outOfOrder
  dsimp only
  split <;> exact State.reply_answers h

theorem State.returnData_answers {o : Origin} {b : Nat} {l : List Byte} (h : s.onlyAnswers t) : s.onlyAnswers (t.returnData o b l).1 := by
  unfold State.returnData
  cases o
  · exact State.emit_answers h
  · exact h

/-- A packet whose command, where it runs, only answers. -/
theorem State.packet_answers {c : Cmd} {img : Option Image} {o : Origin} {p : Pkt}
    (k : ∀ v t, s.receivePacket c o p = some v → v.inOrder c o p = some t → t.onlyAnswers (t.execute c o p)) :
    s.onlyAnswers (s.packet c img o p) := by
  unfold State.packet
  split
  · rename_i v hv
    have h := State.receivePacket_answers hv
    unfold State.begin
    split
    · exact State.onlyAnswers_trans h rfl
    · unfold State.sequence
      split
      · rename_i w hw
        exact State.onlyAnswers_trans h (State.onlyAnswers_trans (State.inOrder_answers hw) (k v w hv hw))
      · exact State.outOfOrder_answers h
  · exact State.onlyAnswers_refl

/-- What a command leaves whose run answers in one of the short ways and changes nothing but the queues, the outputs and the charges. -/
theorem State.execute_answers {c : Cmd} {o : Origin} {p : Pkt} (k : s.onlyAnswers (c.run s o p).1)
    (n : ∀ b t r0 r1 st, (c.run s o p).2 ≠ .start b t r0 r1 st) (m : ∀ b t r0 r1 st r l, (c.run s o p).2 ≠ .startReport b t r0 r1 st r l) :
    s.onlyAnswers (s.execute c o p) := by
  unfold State.execute
  split
  · exact State.reply_answers State.onlyAnswers_refl
  · split
    · rename_i e
      rw [e] at k
      exact State.reply_answers k
    · rename_i e
      rw [e] at k
      exact State.onlyAnswers_trans k rfl
    · rename_i e
      rw [e] at k
      exact k
    · rename_i e
      exact absurd (congrArg Prod.snd e) (n _ _ _ _ _)
    · rename_i e
      exact absurd (congrArg Prod.snd e) (m _ _ _ _ _ _ _)

end Sys2Proof.Machine
end

