-- ==== Sys2Proof/Laws/Memory.lean ====
section
/-! SUPPORT. The canonical form of byte memory: what a write changes, what it leaves, and that every memory operation keeps the
form. -/

namespace Sys2Proof.Machine

/-- A canonical list from a bound up is one from any lower bound up. -/
theorem Memory.wfFrom_mono {m : List Host.Cell} {lo lo' : Nat} (h : lo' ≤ lo) (w : Memory.wfFrom lo m = true) :
    Memory.wfFrom lo' m = true := by
  cases m with
  | nil => rfl
  | cons c m =>
    obtain ⟨k, v⟩ := c
    simp only [Memory.wfFrom, Bool.and_eq_true, decide_eq_true_eq] at w ⊢
    exact ⟨⟨by omega, w.1.2⟩, w.2⟩

/-- Writing a byte at or above the bound keeps the canonical form. -/
theorem Memory.wfFrom_put {m : List Host.Cell} {lo a : Nat} (b : Byte) (ha : lo ≤ a) (w : Memory.wfFrom lo m = true) :
    Memory.wfFrom lo (Memory.put m a b) = true := by
  induction m generalizing lo with
  | nil => by_cases hb : b = Memory.unlisted <;> simp [Memory.put, Memory.wfFrom, hb, ha]
  | cons c m ih =>
    obtain ⟨k, v⟩ := c
    simp only [Memory.wfFrom, Bool.and_eq_true, decide_eq_true_eq] at w
    obtain ⟨⟨hk, hv⟩, hm⟩ := w
    by_cases hb : b = Memory.unlisted
    · by_cases h1 : a < k
      · simp [Memory.put, Memory.wfFrom, hb, h1, hk, hv, hm]
      · by_cases h2 : a = k
        · simp only [Memory.put, hb, h2]
          simpa using Memory.wfFrom_mono (by omega) hm
        · simp only [Memory.put, h1, h2, if_false, Memory.wfFrom, Bool.and_eq_true, decide_eq_true_eq]
          exact ⟨⟨hk, hv⟩, ih (by omega) hm⟩
    · by_cases h1 : a < k
      · simp only [Memory.put, h1, hb, if_true, if_false, Memory.wfFrom, Bool.and_eq_true, decide_eq_true_eq]
        exact ⟨⟨ha, hb⟩, ⟨by omega, hv⟩, hm⟩
      · by_cases h2 : a = k
        · subst h2
          simp [Memory.put, hb, Memory.wfFrom, hk, hm]
        · simp only [Memory.put, h1, h2, if_false, Memory.wfFrom, Bool.and_eq_true, decide_eq_true_eq]
          exact ⟨⟨hk, hv⟩, ih (by omega) hm⟩

/-- Writing one byte keeps the canonical form. -/
theorem Memory.wf_put {m : List Host.Cell} (a : Nat) (b : Byte) (w : Memory.wf m = true) : Memory.wf (Memory.put m a b) = true :=
  Memory.wfFrom_put b (Nat.zero_le a) w

/-- Writing bytes keeps the canonical form. -/
theorem Memory.wf_putN {m : List Host.Cell} (a : Nat) (bs : List Byte) (w : Memory.wf m = true) :
    Memory.wf (Memory.putN m a bs) = true := by
  induction bs generalizing m a with
  | nil => exact w
  | cons b bs ih => exact ih (a + 1) (Memory.wf_put a b w)

/-- Empty memory has the canonical form. -/
theorem Memory.wf_nil : Memory.wf [] = true := rfl

/-- A byte below every listed address reads as the unlisted byte. -/
theorem Memory.get_below {m : List Host.Cell} {lo a : Nat} (h : a < lo) (w : Memory.wfFrom lo m = true) :
    Memory.get m a = Memory.unlisted := by
  induction m generalizing lo with
  | nil => rfl
  | cons c m ih =>
    obtain ⟨k, v⟩ := c
    simp only [Memory.wfFrom, Bool.and_eq_true, decide_eq_true_eq] at w
    have : a ≠ k := by omega
    simp only [Memory.get, this, if_false]
    exact ih (by omega) w.2

/-- A read of the byte just written gives the value written, every other byte reads as before. -/
theorem Memory.get_put_from {m : List Host.Cell} {lo : Nat} (a a' : Nat) (b : Byte) (w : Memory.wfFrom lo m = true) :
    Memory.get (Memory.put m a b) a' = if a' = a then b else Memory.get m a' := by
  induction m generalizing lo with
  | nil => by_cases hb : b = Memory.unlisted <;> by_cases h : a' = a <;> simp [Memory.put, Memory.get, hb, h]
  | cons c m ih =>
    obtain ⟨k, v⟩ := c
    simp only [Memory.wfFrom, Bool.and_eq_true, decide_eq_true_eq] at w
    obtain ⟨⟨hk, hv⟩, hm⟩ := w
    have ih := ih hm
    by_cases h1 : a < k
    · by_cases hb : b = Memory.unlisted
      · by_cases h : a' = a
        · subst h
          have hlow := Memory.get_below (a := a') (lo := k + 1) (by omega) hm
          simp [Memory.put, Memory.get, h1, hb, hlow, Nat.ne_of_lt h1]
        · simp [Memory.put, h1, hb, h]
      · by_cases h : a' = a <;> simp [Memory.put, Memory.get, h1, hb, h]
    · by_cases h2 : a = k
      · subst h2
        by_cases hb : b = Memory.unlisted
        · by_cases h : a' = a
          · have hlow := Memory.get_below (a := a') (lo := a + 1) (by omega) hm
            simpa [Memory.put, hb, h] using h ▸ hlow
          · simp [Memory.put, Memory.get, hb, h]
        · by_cases h : a' = a <;> simp [Memory.put, Memory.get, hb, h]
      · by_cases h : a' = k
        · have : a' ≠ a := by omega
          simp [Memory.put, Memory.get, h1, h2, h, Ne.symm h2]
        · simp [Memory.put, Memory.get, h1, h2, h, ih]

/-- Read after write, over canonical memory. -/
theorem Memory.get_put {m : List Host.Cell} (w : Memory.wf m = true) (a a' : Nat) (b : Byte) :
    Memory.get (Memory.put m a b) a' = if a' = a then b else Memory.get m a' :=
  Memory.get_put_from a a' b w

/-- A byte outside a written run reads as before. -/
theorem Memory.get_putN_outside {m : List Host.Cell} (w : Memory.wf m = true) (a a' : Nat) (bs : List Byte)
    (h : a' < a ∨ a + bs.length ≤ a') : Memory.get (Memory.putN m a bs) a' = Memory.get m a' := by
  induction bs generalizing m a with
  | nil => rfl
  | cons b bs ih =>
    simp only [List.length_cons] at h
    rw [Memory.putN, ih (Memory.wf_put a b w) (a + 1) (by omega), Memory.get_put w, if_neg (by omega)]

/-- A byte inside a written run reads as written. -/
theorem Memory.get_putN_inside {m : List Host.Cell} (w : Memory.wf m = true) (a i : Nat) (bs : List Byte) (h : i < bs.length) :
    Memory.get (Memory.putN m a bs) (a + i) = bs[i] := by
  induction bs generalizing m a i with
  | nil => exact absurd h (Nat.not_lt_zero i)
  | cons b bs ih =>
    cases i with
    | zero =>
      rw [Memory.putN, Memory.get_putN_outside (Memory.wf_put a b w) _ _ _ (by omega), Memory.get_put w]
      simp
    | succ i =>
      have := ih (m := Memory.put m a b) (Memory.wf_put a b w) (a + 1) i (by simpa using h)
      simpa [Memory.putN, Nat.add_comm, Nat.add_left_comm] using this

end Sys2Proof.Machine
end

