-- ==== Sys2Proof/Laws/Keeps.lean ====
section
/-! SUPPORT. What every operation of the device keeps, whatever else it does: the queue of waiting commands, the canonical form of
byte memory, what the device has already sent out, and the fuses once blown. `Keeps` is reflexive and composes, so that one lemma per
operation, cited by its callers, says it of every command. -/

namespace Sys2Proof.Machine

/-- `t` keeps of `s`: the waiting commands, canonical memory, the messages sent, and the blown fuses (R457). -/
structure Keeps (s t : State) : Prop where
  pending : t.pending = s.pending
  wf : Memory.wf s.mem = true → Memory.wf t.mem = true
  out : s.out <+: t.out
  revoked : ∀ i, s.tr.revoked.getLsbD i = true → t.tr.revoked.getLsbD i = true
  svn : s.tr.fuseSvn ≤ t.tr.fuseSvn

theorem Keeps.refl (s : State) : Keeps s s := ⟨rfl, id, List.prefix_refl _, fun _ => id, Nat.le_refl _⟩

theorem Keeps.trans {s t u : State} (h : Keeps s t) (g : Keeps t u) : Keeps s u :=
  ⟨g.pending.trans h.pending, fun w => g.wf (h.wf w), h.out.trans g.out, fun i x => g.revoked i (h.revoked i x),
    Nat.le_trans h.svn g.svn⟩

/-- An update of any other field. -/
theorem Keeps.upd {s0 s : State} {syn str cfg q ops ti doms sh cod streams opr dma claims dram fl ras tst herd heads funcs pmu cntClear
    atBoundary} {tr : Trust} (h : Keeps s0 s) (hr : tr.revoked = s.tr.revoked) (hs : tr.fuseSvn = s.tr.fuseSvn) :
    Keeps s0 ⟨s.pending, s.out, s.mem, syn, str, cfg, q, ops, ti, doms, sh, cod, streams, opr, dma, claims, dram, fl, ras, tst, herd,
      tr, heads, funcs, pmu, cntClear, atBoundary⟩ :=
  h.trans ⟨rfl, id, List.prefix_refl _, fun _ x => hr ▸ x, Nat.le_of_eq hs.symm⟩

/-- An update that blows fuses (R457): revocation bits are added, and FUSE_SVN does not fall. -/
theorem Keeps.fuse {s0 s : State} {syn str cfg q ops ti doms sh cod streams opr dma claims dram fl ras tst herd heads funcs pmu cntClear
    atBoundary} {tr : Trust} (h : Keeps s0 s) (hr : ∀ i, s.tr.revoked.getLsbD i = true → tr.revoked.getLsbD i = true)
    (hs : s.tr.fuseSvn ≤ tr.fuseSvn) :
    Keeps s0 ⟨s.pending, s.out, s.mem, syn, str, cfg, q, ops, ti, doms, sh, cod, streams, opr, dma, claims, dram, fl, ras, tst, herd,
      tr, heads, funcs, pmu, cntClear, atBoundary⟩ :=
  h.trans ⟨rfl, id, List.prefix_refl _, hr, hs⟩

/-- An update that clears memory. -/
theorem Keeps.clear {s0 s : State} {mem : List Host.Cell} {syn str cfg q ops ti doms sh cod streams opr dma claims dram fl ras tst herd
    heads funcs pmu cntClear atBoundary} {tr : Trust} (h : Keeps s0 s) (hm : mem = []) (hr : tr.revoked = s.tr.revoked)
    (hs : tr.fuseSvn = s.tr.fuseSvn) :
    Keeps s0 ⟨s.pending, s.out, mem, syn, str, cfg, q, ops, ti, doms, sh, cod, streams, opr, dma, claims, dram, fl, ras, tst, herd,
      tr, heads, funcs, pmu, cntClear, atBoundary⟩ :=
  h.trans ⟨rfl, fun _ => hm ▸ Memory.wf_nil, List.prefix_refl _, fun _ x => hr ▸ x, Nat.le_of_eq hs.symm⟩

/-- A write of bytes to memory, which keeps its form. -/
theorem Keeps.put {s0 s : State} {a : Nat} {bs : List Byte} (h : Keeps s0 s) :
    Keeps s0 { s with mem := Memory.putN s.mem a bs } :=
  h.trans ⟨rfl, fun w => Memory.wf_putN a bs w, List.prefix_refl _, fun _ => id, Nat.le_refl _⟩

theorem Keeps.ofEq {β : Type} {s0 t : State} {p : State × β} {y : β} (e : p = (t, y)) (h : Keeps s0 p.1) : Keeps s0 t := by
  rw [e] at h
  exact h

/-- A mapped answer's state. -/
theorem Keeps.mapE {α β : Type} {s0 t : State} {y : β} {f : State × α → State × β} {o : Option (State × α)} (e : o.map f = some (t, y))
    (h : ∀ u x, o = some (u, x) → Keeps s0 (f (u, x)).1) : Keeps s0 t := by
  obtain ⟨⟨u, x⟩, hr, hg⟩ := Option.map_eq_some_iff.1 e
  have k := h u x hr
  rw [hg] at k
  exact k

/-- An answer, or the state that stands where there is none. -/
theorem Keeps.getD {s0 d : State} {o : Option State} (h : ∀ u, o = some u → Keeps s0 u) (hd : Keeps s0 d) :
    Keeps s0 (o.getD d) := by
  cases o with
  | none => exact hd
  | some u => exact h u rfl

/-- The same of an answer beside a state. -/
theorem Keeps.getD₂ {α : Type} {s0 : State} {d : State × α} {o : Option (State × α)}
    (h : ∀ u x, o = some (u, x) → Keeps s0 u) (hd : Keeps s0 d.1) : Keeps s0 (o.getD d).1 := by
  cases o with
  | none => exact hd
  | some u => exact h u.1 u.2 rfl

/-- A fold that may stop with no answer. -/
theorem Keeps.foldO {α : Type} {s0 t : State} {l : List α} {f : Option State → α → Option State} {a : Option State}
    (hf : ∀ a x u, (∀ v, a = some v → Keeps s0 v) → f a x = some u → Keeps s0 u) (ha : ∀ v, a = some v → Keeps s0 v)
    (e : l.foldl f a = some t) : Keeps s0 t := by
  induction l generalizing a with
  | nil => exact ha t e
  | cons x l ih => exact ih (fun v h => hf a x v ha h) e

/-- What the first answer is bound to. -/
theorem Keeps.bindE {α β : Type} {s0 t : State} {y : β} {o : Option α} {f : α → Option (State × β)} (e : o.bind f = some (t, y))
    (h : ∀ x, f x = some (t, y) → Keeps s0 t) : Keeps s0 t := by
  obtain ⟨x, -, hx⟩ := Option.bind_eq_some_iff.1 e
  exact h x hx

theorem Keeps.bindS {α : Type} {s0 t : State} {o : Option α} {f : α → Option State} (e : o.bind f = some t)
    (h : ∀ x, f x = some t → Keeps s0 t) : Keeps s0 t := by
  obtain ⟨x, -, hx⟩ := Option.bind_eq_some_iff.1 e
  exact h x hx

/-- A run of an operation that may have no answer. -/
theorem Keeps.foldB {α : Type} {s0 s t : State} {l : List α} {f : State → α → Option State}
    (e : l.foldl (fun a x => a.bind (fun s => f s x)) (some s) = some t)
    (hf : ∀ s x u, Keeps s0 s → f s x = some u → Keeps s0 u) (h : Keeps s0 s) : Keeps s0 t := by
  refine Keeps.foldO ?_ ?_ e
  · intro a x u ha hu
    obtain ⟨v, rfl, hv⟩ := Option.bind_eq_some_iff.1 hu
    exact hf v x u (ha v rfl) hv
  · intro v hv
    cases hv
    exact h

/-- The same of an operation that carries something beside the state. -/
theorem Keeps.foldP {α β : Type} {s0 : State} {l : List α} {a b : State × β} {f : State × β → α → Option (State × β)}
    (e : l.foldl (fun a x => a.bind (fun s => f s x)) (some a) = some b)
    (hf : ∀ s x u, Keeps s0 s.1 → f s x = some u → Keeps s0 u.1) (h : Keeps s0 a.1) : Keeps s0 b.1 := by
  induction l generalizing a with
  | nil =>
    cases e
    exact h
  | cons x l ih =>
    simp only [List.foldl_cons, Option.bind_some] at e
    cases hx : f a x with
    | none =>
      rw [hx] at e
      clear ih h hx
      exfalso
      induction l with
      | nil => cases e
      | cons y l ih => exact ih e
    | some c =>
      rw [hx] at e
      exact ih e (hf a x c h hx)

/-- What an answer given only under a condition keeps. -/
theorem Keeps.someIf {β : Type} {s0 t : State} {y : β} {c : Prop} [Decidable c] {p : State × β}
    (e : (if c then some p else none) = some (t, y)) (h : Keeps s0 p.1) : Keeps s0 t := by
  split at e
  · cases e
    exact h
  · cases e

/-- The first answer found. -/
theorem Keeps.findE {α β : Type} {s0 t : State} {x : α} {y : β} {l : List α} {f : α → Option (State × β)}
    (e : l.findSome? (fun a => (f a).map (fun r => (a, r))) = some (x, t, y)) (h : ∀ a u z, f a = some (u, z) → Keeps s0 u) :
    Keeps s0 t := by
  obtain ⟨a, -, ha⟩ := List.exists_of_findSome?_eq_some e
  obtain ⟨⟨u, z⟩, hr, hg⟩ := Option.map_eq_some_iff.1 ha
  cases hg
  exact h _ _ _ hr

theorem Keeps.ite {s0 a b : State} {c : Prop} [Decidable c] (ha : c → Keeps s0 a) (hb : ¬c → Keeps s0 b) :
    Keeps s0 (if c then a else b) := by
  split
  · exact ha ‹_›
  · exact hb ‹_›

/-- A run of an operation over a list. -/
theorem Keeps.over {α : Type} {s0 s : State} {l : List α} {f : State → α → State}
    (hf : ∀ s x, Keeps s0 s → Keeps s0 (f s x)) (h : Keeps s0 s) : Keeps s0 (s.over l f) := by
  unfold State.over
  induction l generalizing s with
  | nil => exact h
  | cons x l ih => exact ih (hf s x h)

/-- A run over a list, for an operation that only its members' is known of. -/
theorem Keeps.overMem {α : Type} {s0 s : State} {l : List α} {f : State → α → State}
    (hf : ∀ s x, x ∈ l → Keeps s0 s → Keeps s0 (f s x)) (h : Keeps s0 s) : Keeps s0 (s.over l f) := by
  unfold State.over
  induction l generalizing s with
  | nil => exact h
  | cons x l ih => exact ih (fun s y hy => hf s y (List.mem_cons_of_mem _ hy)) (hf s x List.mem_cons_self h)

/-- A fold whose state is the device's. -/
theorem Keeps.foldl {α : Type} {s0 s : State} {l : List α} {f : State → α → State}
    (hf : ∀ s x, Keeps s0 s → Keeps s0 (f s x)) (h : Keeps s0 s) : Keeps s0 (l.foldl f s) := by
  induction l generalizing s with
  | nil => exact h
  | cons x l ih => exact ih (hf s x h)

/-- A fold that carries the state beside something else. -/
theorem Keeps.fold {α β : Type} {s0 : State} {l : List α} {f : State × β → α → State × β} {a : State × β}
    (hf : ∀ a x, Keeps s0 a.1 → Keeps s0 (f a x).1) (h : Keeps s0 a.1) : Keeps s0 (l.foldl f a).1 := by
  induction l generalizing a with
  | nil => exact h
  | cons x l ih => exact ih (hf a x h)

theorem Keeps.foldE {α β : Type} {s0 t : State} {y : β} {l : List α} {f : State × β → α → State × β} {a : State × β}
    (e : l.foldl f a = (t, y)) (hf : ∀ a x, Keeps s0 a.1 → Keeps s0 (f a x).1) (h : Keeps s0 a.1) : Keeps s0 t :=
  Keeps.ofEq e (Keeps.fold hf h)

theorem Keeps.emit {s0 s : State} (o : Out) (h : Keeps s0 s) : Keeps s0 (s.emit o) :=
  h.trans ⟨rfl, id, List.prefix_append _ _, fun _ => id, Nat.le_refl _⟩

theorem Keeps.emits {s0 s : State} (os : List Out) (h : Keeps s0 s) : Keeps s0 (s.emits os) :=
  h.trans ⟨rfl, id, List.prefix_append _ _, fun _ => id, Nat.le_refl _⟩

end Sys2Proof.Machine
end

