-- ==== Sys2Proof/Laws/KeepsOps.lean ====
section
/-! SUPPORT. What the operations of Machine/Ops.lean keep (Keeps), one lemma per operation. -/

set_option linter.unusedTactic false
set_option linter.unreachableTactic false

namespace Sys2Proof.Machine

theorem State.logE_keeps {s0 : State} {s : State} {code : Nat} {slot : Option Nat} {a b : Nat} (hK : Keeps s0 s) : Keeps s0 (State.logE s code slot a b) := by
  unfold State.logE
  try dsimp only
  repeat' first
    | with_reducible assumption | fail_if_no_progress (with_reducible refine Keeps.upd ?_ rfl rfl) | intro _ | split | dsimp only

theorem State.logRated_keeps {s0 : State} {s : State} {key code : Nat} {slot : Option Nat} {a b : Nat} (hK : Keeps s0 s) : Keeps s0 (State.logRated s key code slot a b) := by
  unfold State.logRated
  try dsimp only
  repeat' first
    | with_reducible assumption | with_reducible apply State.logE_keeps | with_reducible refine Keeps.mapE (by assumption) ?_
    | with_reducible apply Keeps.ite | fail_if_no_progress (with_reducible refine Keeps.upd ?_ rfl rfl) | intro _ | split
    | dsimp only

theorem State.ignored_keeps {s0 : State} {s : State} {func off val : Nat} (hK : Keeps s0 s) : Keeps s0 (State.ignored s func off val) := by
  unfold State.ignored
  try dsimp only
  repeat' first
    | with_reducible assumption | with_reducible apply State.logRated_keeps | intro _ | split | dsimp only

theorem State.diverge_keeps {s0 : State} {s : State} {bit : Nat} (hK : Keeps s0 s) : Keeps s0 (State.diverge s bit) := by
  unfold State.diverge
  try dsimp only
  repeat' first
    | with_reducible assumption | with_reducible apply Keeps.ite
    | fail_if_no_progress (with_reducible refine Keeps.upd ?_ rfl rfl) | intro _ | split | dsimp only

theorem State.traceRec_keeps {s0 : State} {s : State} {r : Nat} (hK : Keeps s0 s) : Keeps s0 (State.traceRec s r) := by
  unfold State.traceRec
  try dsimp only
  repeat' first
    | with_reducible assumption | fail_if_no_progress (with_reducible refine Keeps.upd ?_ rfl rfl) | intro _ | split | dsimp only

theorem State.traceOrder_keeps {s0 : State} {s : State} {ld line : Nat} (hK : Keeps s0 s) : Keeps s0 (State.traceOrder s ld line) := by
  unfold State.traceOrder
  try dsimp only
  repeat' first
    | with_reducible assumption | with_reducible apply State.traceRec_keeps | with_reducible apply Keeps.ite | intro _ | split
    | dsimp only

theorem State.freeWord_keeps {s0 : State} {s : State} (hK : Keeps s0 s) : Keeps s0 (State.freeWord s).1 := by
  unfold State.freeWord
  try dsimp only
  repeat' first
    | with_reducible assumption | fail_if_no_progress (with_reducible refine Keeps.upd ?_ rfl rfl) | intro _ | split | dsimp only

theorem State.freeWord_keepsE {s0 tK : State} {s : State} {y : U64} (hE : State.freeWord s = (tK, y)) (hK : Keeps s0 s) : Keeps s0 tK := by
  have k := State.freeWord_keeps (s := s) (hK := hK)
  rw [hE] at k
  exact k

theorem State.freeBytes_keeps {s0 : State} {s : State} {n : Nat} (hK : Keeps s0 s) : Keeps s0 (State.freeBytes s n).1 := by
  unfold State.freeBytes
  try dsimp only
  repeat' first
    | with_reducible assumption | with_reducible refine Keeps.mapE (by assumption) ?_
    | fail_if_no_progress (with_reducible refine Keeps.upd ?_ rfl rfl) | intro _ | split | dsimp only

theorem State.freeBytes_keepsE {s0 tK : State} {s : State} {n : Nat} {y : List Byte} (hE : State.freeBytes s n = (tK, y)) (hK : Keeps s0 s) : Keeps s0 tK := by
  have k := State.freeBytes_keeps (s := s) (n := n) (hK := hK)
  rw [hE] at k
  exact k

theorem State.logOpen_keeps {s0 : State} {s : State} (hK : Keeps s0 s) : Keeps s0 (State.logOpen s) := by
  unfold State.logOpen
  try dsimp only
  repeat' first
    | with_reducible assumption | with_reducible apply State.logE_keeps | with_reducible apply State.freeWord_keeps
    | with_reducible refine State.freeWord_keepsE (by assumption) ?_ | intro _ | split | dsimp only

theorem State.pulse_keeps {s0 : State} {s : State} {pin : Option Nat} (hK : Keeps s0 s) : Keeps s0 (State.pulse s pin) := by
  unfold State.pulse
  try dsimp only
  repeat' first
    | with_reducible assumption | with_reducible apply State.logOpen_keeps | with_reducible apply Keeps.emit
    | with_reducible apply Keeps.ite | fail_if_no_progress (with_reducible refine Keeps.upd ?_ rfl rfl) | intro _ | split
    | dsimp only

theorem State.breakDressage_keeps {s0 : State} {s : State} (hK : Keeps s0 s) : Keeps s0 (State.breakDressage s) := by
  unfold State.breakDressage
  try dsimp only
  repeat' first
    | with_reducible assumption | with_reducible apply State.logOpen_keeps | with_reducible apply Keeps.ite
    | fail_if_no_progress (with_reducible refine Keeps.upd ?_ rfl rfl) | intro _ | split | dsimp only

theorem State.charge_keeps {s0 : State} {s : State} {slot cls idx n : Nat} (hK : Keeps s0 s) : Keeps s0 (State.charge s slot cls idx n) := by
  unfold State.charge
  try dsimp only
  repeat' first
    | with_reducible assumption | with_reducible refine Keeps.getD ?_ ?_ | with_reducible refine Keeps.getD₂ ?_ ?_
    | with_reducible apply Keeps.ite | fail_if_no_progress (with_reducible refine Keeps.upd ?_ rfl rfl) | intro _ | split
    | dsimp only

theorem State.modFunc_keeps {s0 : State} {s : State} {f : Nat} {g : Func → Func} (hK : Keeps s0 s) : Keeps s0 (State.modFunc s f g) := by
  unfold State.modFunc
  try dsimp only
  repeat' first
    | with_reducible assumption | fail_if_no_progress (with_reducible refine Keeps.upd ?_ rfl rfl) | intro _ | split | dsimp only

theorem State.modHead_keeps {s0 : State} {s : State} {h : Nat} {g : Head → Head} (hK : Keeps s0 s) : Keeps s0 (State.modHead s h g) := by
  unfold State.modHead
  try dsimp only
  repeat' first
    | with_reducible assumption | fail_if_no_progress (with_reducible refine Keeps.upd ?_ rfl rfl) | intro _ | split | dsimp only

theorem State.takeDue_keepsE {s0 tK : State} {s : State} {kind id : Nat} (hE : State.takeDue s kind id = some tK) (hK : Keeps s0 s) : Keeps s0 tK := by
  revert hE
  unfold State.takeDue
  try dsimp only
  repeat' first
    | with_reducible assumption | (intro hE; cases hE; done) | (intro hE; cases hE) | with_reducible apply Keeps.ite
    | fail_if_no_progress (with_reducible refine Keeps.upd ?_ rfl rfl) | dsimp only | split | intro _

end Sys2Proof.Machine
end

