-- ==== Sys2Proof/Laws/KeepsPacket.lean ====
section
/-! SUPPORT. What the operations of Machine/Packet.lean keep (Keeps), one lemma per operation. -/

set_option linter.unusedTactic false
set_option linter.unreachableTactic false

namespace Sys2Proof.Machine

theorem State.modQp_keeps {s0 : State} {s : State} {func num : Nat} {g : Qp → Qp} (hK : Keeps s0 s) : Keeps s0 (State.modQp s func num g) := by
  unfold State.modQp
  try dsimp only
  repeat' first
    | with_reducible assumption | fail_if_no_progress (with_reducible refine Keeps.upd ?_ rfl rfl) | intro _ | split | dsimp only

theorem State.updInta_keeps {s0 : State} {s : State} {func : Nat} (hK : Keeps s0 s) : Keeps s0 (State.updInta s func) := by
  unfold State.updInta
  try dsimp only
  repeat' first
    | with_reducible assumption | with_reducible apply Keeps.emit | with_reducible apply Keeps.ite
    | fail_if_no_progress (with_reducible refine Keeps.upd ?_ rfl rfl) | intro _ | split | dsimp only

theorem State.faultQp_keeps {s0 : State} {s : State} {func num cause : Nat} (hK : Keeps s0 s) : Keeps s0 (State.faultQp s func num cause) := by
  unfold State.faultQp
  try dsimp only
  repeat' first
    | with_reducible assumption | with_reducible apply State.logE_keeps | with_reducible apply State.modQp_keeps
    | with_reducible refine Keeps.getD ?_ ?_ | with_reducible refine Keeps.getD₂ ?_ ?_ | with_reducible apply Keeps.ite
    | fail_if_no_progress (with_reducible refine Keeps.upd ?_ rfl rfl) | intro _ | split | dsimp only

theorem State.writeReply_keeps {s0 : State} {s : State} {o : Origin} {r : Reply} {inline : List Byte} (hK : Keeps s0 s) : Keeps s0 (State.writeReply s o r inline) := by
  unfold State.writeReply
  try dsimp only
  repeat' first
    | with_reducible assumption | with_reducible apply State.modQp_keeps | with_reducible apply State.unanswered_keeps
    | with_reducible apply State.reply_keeps | with_reducible apply State.charge_keeps
    | with_reducible apply State.updInta_keeps | with_reducible apply Keeps.emit | with_reducible apply Keeps.ite
    | fail_if_no_progress (with_reducible refine Keeps.upd ?_ rfl rfl) | intro _ | split | dsimp only

theorem State.reply_keeps {s0 : State} {s : State} {o : Origin} {r : Reply} {inline : List Byte} (hK : Keeps s0 s) : Keeps s0 (State.reply s o r inline) := by
  unfold State.reply
  try dsimp only
  repeat' first
    | with_reducible assumption | with_reducible apply State.writeReply_keeps | with_reducible apply Keeps.ite
    | fail_if_no_progress (with_reducible refine Keeps.upd ?_ rfl rfl) | intro _ | split | dsimp only

theorem State.writeRecord_keeps {s0 : State} {s : State} {h : Nat} (hK : Keeps s0 s) : Keeps s0 (State.writeRecord s h) := by
  unfold State.writeRecord
  try dsimp only
  repeat' first
    | with_reducible assumption | with_reducible apply State.charge_keeps | with_reducible apply Keeps.emit
    | with_reducible apply Keeps.ite | fail_if_no_progress (with_reducible refine Keeps.upd ?_ rfl rfl) | intro _ | split
    | dsimp only

theorem State.modOp_keeps {s0 : State} {s : State} {h : Nat} {g : Op → Op} (hK : Keeps s0 s) : Keeps s0 (State.modOp s h g) := by
  unfold State.modOp
  try dsimp only
  repeat' first
    | with_reducible assumption | fail_if_no_progress (with_reducible refine Keeps.upd ?_ rfl rfl) | intro _ | split | dsimp only

theorem State.acceptOp_keeps {s0 : State} {s : State} {c : Cmd} {o : Origin} {p : Pkt} {body : OpBody} {total r0 r1 st : Nat} {report : Bool} {inline : List Byte} (hK : Keeps s0 s) : Keeps s0 (State.acceptOp s c o p body total r0 r1 st report inline) := by
  unfold State.acceptOp
  try dsimp only
  repeat' first
    | with_reducible assumption | with_reducible apply State.reply_keeps | with_reducible apply State.writeRecord_keeps
    | fail_if_no_progress (with_reducible refine Keeps.upd ?_ rfl rfl) | intro _ | split | dsimp only

/-- What a command's own run keeps. -/
def Cmd.Safe (c : Cmd) : Prop := ∀ s o p, Keeps s (c.run s o p).1

theorem Cmd.Safe.keepsE {s0 s t : State} {c : Cmd} {o : Origin} {p : Pkt} {y : Ans} (hc : c.Safe) (e : c.run s o p = (t, y))
    (hK : Keeps s0 s) : Keeps s0 t := by
  have k := hc s o p
  rw [e] at k
  exact hK.trans k

theorem State.execute_keeps {s0 : State} {s : State} {c : Cmd} {o : Origin} {p : Pkt} (hc : c.Safe) (hK : Keeps s0 s) : Keeps s0 (State.execute s c o p) := by
  unfold State.execute
  try dsimp only
  repeat' first
    | with_reducible assumption | exact hc | with_reducible refine hc.keepsE (by assumption) ?_
    | with_reducible apply State.reply_keeps | with_reducible apply State.acceptOp_keeps | with_reducible apply State.later_keeps
    | with_reducible apply Keeps.ite | fail_if_no_progress (with_reducible refine Keeps.upd ?_ rfl rfl) | intro _ | split
    | dsimp only

theorem State.setSeq_keeps {s0 : State} {s : State} {o : Origin} {x : Nat} {w : List WinEnt} (hK : Keeps s0 s) : Keeps s0 (State.setSeq s o x w) := by
  unfold State.setSeq
  try dsimp only
  repeat' first
    | with_reducible assumption | with_reducible apply State.modQp_keeps
    | fail_if_no_progress (with_reducible refine Keeps.upd ?_ rfl rfl) | intro _ | split | dsimp only

theorem State.inOrder_keepsE {s0 tK : State} {s : State} {c : Cmd} {o : Origin} {p : Pkt} (hE : State.inOrder s c o p = some tK) (hK : Keeps s0 s) : Keeps s0 tK := by
  revert hE
  unfold State.inOrder
  try dsimp only
  repeat' first
    | with_reducible assumption | (intro hE; cases hE; done) | (intro hE; cases hE) | with_reducible apply State.setSeq_keeps
    | with_reducible refine Keeps.someIf (by assumption) ?_ | with_reducible apply Keeps.ite
    | fail_if_no_progress (with_reducible refine Keeps.upd ?_ rfl rfl) | dsimp only | split | intro _

theorem State.outOfOrder_keeps {s0 : State} {s : State} {c : Cmd} {o : Origin} {p : Pkt} (hK : Keeps s0 s) : Keeps s0 (State.outOfOrder s c o p) := by
  unfold State.outOfOrder
  try dsimp only
  repeat' first
    | with_reducible assumption | with_reducible apply State.reply_keeps | with_reducible refine Keeps.getD ?_ ?_
    | with_reducible refine Keeps.getD₂ ?_ ?_ | fail_if_no_progress (with_reducible refine Keeps.upd ?_ rfl rfl) | intro _
    | split | dsimp only

theorem State.sequence_keeps {s0 : State} {s : State} {c : Cmd} {o : Origin} {p : Pkt} (hc : c.Safe) (hK : Keeps s0 s) : Keeps s0 (State.sequence s c o p) := by
  unfold State.sequence
  try dsimp only
  repeat' first
    | with_reducible assumption | exact hc | with_reducible refine hc.keepsE (by assumption) ?_
    | with_reducible apply State.execute_keeps | with_reducible refine State.inOrder_keepsE (by assumption) ?_
    | with_reducible apply State.outOfOrder_keeps | intro _ | split | dsimp only

theorem State.begin_keeps {s0 : State} {s : State} {c : Cmd} {img : Option Image} {o : Origin} {p : Pkt} (hc : c.Safe) (hK : Keeps s0 s) : Keeps s0 (State.begin s c img o p) := by
  unfold State.begin
  try dsimp only
  repeat' first
    | with_reducible assumption | with_reducible apply State.sequence_keeps | with_reducible apply Keeps.ite
    | fail_if_no_progress (with_reducible refine Keeps.upd ?_ rfl rfl) | intro _ | split | dsimp only

theorem State.openMgmt_keeps {s0 : State} {s : State} {eid seq : Nat} (hK : Keeps s0 s) : Keeps s0 (State.openMgmt s eid seq) := by
  unfold State.openMgmt
  try dsimp only
  repeat' first
    | with_reducible assumption | with_reducible refine Keeps.mapE (by assumption) ?_ | with_reducible apply Keeps.ite
    | fail_if_no_progress (with_reducible refine Keeps.upd ?_ rfl rfl) | intro _ | split | dsimp only

theorem State.fetch_keeps {s0 : State} {s : State} {f n entries : Nat} {q : Qp} (hK : Keeps s0 s) : Keeps s0 (State.fetch s f n entries q) := by
  unfold State.fetch
  try dsimp only
  repeat' first
    | with_reducible assumption | with_reducible apply State.modQp_keeps | with_reducible apply State.unanswered_keeps
    | with_reducible apply State.charge_keeps | with_reducible apply Keeps.emits
    | with_reducible refine Keeps.mapE (by assumption) ?_ | fail_if_no_progress (with_reducible refine Keeps.upd ?_ rfl rfl)
    | intro _ | split | dsimp only

theorem State.receivePacket_keepsE {s0 tK : State} {s : State} {c : Cmd} {o : Origin} {p : Pkt} (hE : State.receivePacket s c o p = some tK) (hK : Keeps s0 s) : Keeps s0 tK := by
  revert hE
  unfold State.receivePacket
  try dsimp only
  repeat' first
    | with_reducible assumption | (intro hE; cases hE; done) | (intro hE; cases hE) | with_reducible apply State.fetch_keeps
    | with_reducible apply State.openMgmt_keeps | with_reducible refine Keeps.someIf (by assumption) ?_
    | with_reducible apply Keeps.ite | dsimp only | split | intro _

theorem State.packet_keeps {s0 : State} {s : State} {c : Cmd} {img : Option Image} {o : Origin} {p : Pkt} (hc : c.Safe) (hK : Keeps s0 s) : Keeps s0 (State.packet s c img o p) := by
  unfold State.packet
  try dsimp only
  repeat' first
    | with_reducible assumption | exact hc | with_reducible refine hc.keepsE (by assumption) ?_
    | with_reducible apply State.begin_keeps | with_reducible refine State.receivePacket_keepsE (by assumption) ?_ | intro _
    | split | dsimp only

theorem done_keeps {s0 : State} {s : State} {st r0 r1 : Nat} (hK : Keeps s0 s) : Keeps s0 (done s st r0 r1).1 := by
  unfold done
  try dsimp only
  repeat' first
    | with_reducible assumption | intro _ | split | dsimp only
theorem done_keepsE {s0 tK : State} {s : State} {st r0 r1 : Nat} {y : Ans} (hE : done s st r0 r1 = (tK, y)) (hK : Keeps s0 s) : Keeps s0 tK := by
  have k := done_keeps (s := s) (st := st) (r0 := r0) (r1 := r1) (hK := hK)
  rw [hE] at k
  exact k

theorem deny_keeps {s0 : State} {s : State} {st : Nat} (hK : Keeps s0 s) : Keeps s0 (deny s st).1 := by
  unfold deny
  try dsimp only
  repeat' first
    | with_reducible assumption | intro _ | split | dsimp only
theorem deny_keepsE {s0 tK : State} {s : State} {st : Nat} {y : Ans} (hE : deny s st = (tK, y)) (hK : Keeps s0 s) : Keeps s0 tK := by
  have k := deny_keeps (s := s) (st := st) (hK := hK)
  rw [hE] at k
  exact k

theorem State.returnData_keeps {s0 : State} {s : State} {o : Origin} {buf : Nat} {bytes : List Byte} (hK : Keeps s0 s) : Keeps s0 (State.returnData s o buf bytes).1 := by
  unfold State.returnData
  try dsimp only
  repeat' first
    | with_reducible assumption | with_reducible apply Keeps.emit | intro _ | split | dsimp only
theorem State.returnData_keepsE {s0 tK : State} {s : State} {o : Origin} {buf : Nat} {bytes : List Byte} {y : List Byte} (hE : State.returnData s o buf bytes = (tK, y)) (hK : Keeps s0 s) : Keeps s0 tK := by
  have k := State.returnData_keeps (s := s) (o := o) (buf := buf) (bytes := bytes) (hK := hK)
  rw [hE] at k
  exact k

theorem doneData_keeps {s0 : State} {s : State} {o : Origin} {buf : Nat} {bytes : List Byte} {st r0 r1 : Nat} (hK : Keeps s0 s) : Keeps s0 (doneData s o buf bytes st r0 r1).1 := by
  unfold doneData
  try dsimp only
  repeat' first
    | with_reducible assumption | with_reducible apply State.returnData_keeps
    | with_reducible refine State.returnData_keepsE (by assumption) ?_ | intro _ | split | dsimp only
theorem doneData_keepsE {s0 tK : State} {s : State} {o : Origin} {buf : Nat} {bytes : List Byte} {st r0 r1 : Nat} {y : Ans} (hE : doneData s o buf bytes st r0 r1 = (tK, y)) (hK : Keeps s0 s) : Keeps s0 tK := by
  have k := doneData_keeps (s := s) (o := o) (buf := buf) (bytes := bytes) (st := st) (r0 := r0) (r1 := r1) (hK := hK)
  rw [hE] at k
  exact k

end Sys2Proof.Machine
end

