-- ==== Sys2Proof/Laws/KeepsStorageCode.lean ====
section
/-! SUPPORT. What the operations of Machine/StorageCode.lean keep (Keeps), one lemma per operation. -/

set_option linter.unusedTactic false
set_option linter.unreachableTactic false

namespace Sys2Proof.Machine

theorem State.setSyn_keeps {s0 : State} {s : State} {l : Nat} {x : U32} (hK : Keeps s0 s) : Keeps s0 (State.setSyn s l x) := by
  unfold State.setSyn
  try dsimp only
  repeat' first
    | with_reducible assumption | with_reducible apply Keeps.ite
    | fail_if_no_progress (with_reducible refine Keeps.upd ?_ rfl rfl) | intro _ | split | dsimp only

theorem State.fire_keeps {s0 : State} {s : State} {l : Nat} {read : Bool} (hK : Keeps s0 s) : Keeps s0 (State.fire s l read).1 := by
  unfold State.fire
  try dsimp only
  repeat' first
    | with_reducible assumption | with_reducible apply State.logE_keeps | with_reducible refine Keeps.mapE (by assumption) ?_
    | with_reducible apply Keeps.over | with_reducible apply Keeps.ite
    | fail_if_no_progress (with_reducible refine Keeps.upd ?_ rfl rfl) | intro _ | split | dsimp only
theorem State.fire_keepsE {s0 tK : State} {s : State} {l : Nat} {read : Bool} {y : List Flip} (hE : State.fire s l read = (tK, y)) (hK : Keeps s0 s) : Keeps s0 tK := by
  have k := State.fire_keeps (s := s) (l := l) (read := read) (hK := hK)
  rw [hE] at k
  exact k

theorem State.deviceFatal_keeps {s0 : State} {s : State} {cause : Nat} (hK : Keeps s0 s) : Keeps s0 (State.deviceFatal s cause) := by
  unfold State.deviceFatal
  try dsimp only
  repeat' first
    | with_reducible assumption | with_reducible apply State.logE_keeps | with_reducible refine Keeps.mapE (by assumption) ?_
    | with_reducible apply Keeps.emits | with_reducible apply Keeps.ite
    | fail_if_no_progress (with_reducible refine Keeps.upd ?_ rfl rfl) | intro _ | split | dsimp only

theorem State.startSpare_keeps {s0 : State} {s : State} {bank : Nat} (hK : Keeps s0 s) : Keeps s0 (State.startSpare s bank) := by
  unfold State.startSpare
  try dsimp only
  repeat' first
    | with_reducible assumption | with_reducible apply State.deviceFatal_keeps | with_reducible apply Keeps.ite
    | fail_if_no_progress (with_reducible refine Keeps.upd ?_ rfl rfl) | intro _ | split | dsimp only

theorem State.modPc_keeps {s0 : State} {s : State} {k p : Nat} {g : Pc → Pc} (hK : Keeps s0 s) : Keeps s0 (State.modPc s k p g) := by
  unfold State.modPc
  try dsimp only
  repeat' first
    | with_reducible assumption | fail_if_no_progress (with_reducible refine Keeps.upd ?_ rfl rfl) | intro _ | split | dsimp only

theorem State.buffer_keeps {s0 : State} {s : State} {l : Nat} (hK : Keeps s0 s) : Keeps s0 (State.buffer s l) := by
  unfold State.buffer
  try dsimp only
  repeat' first
    | with_reducible assumption | with_reducible apply State.modPc_keeps | with_reducible apply Keeps.ite
    | fail_if_no_progress (with_reducible refine Keeps.upd ?_ rfl rfl) | intro _ | split | dsimp only

theorem State.forward_keeps {s0 : State} {s : State} {l : Nat} (hK : Keeps s0 s) : Keeps s0 (State.forward s l) := by
  unfold State.forward
  try dsimp only
  repeat' first
    | with_reducible assumption | with_reducible apply State.modPc_keeps | with_reducible apply Keeps.ite
    | fail_if_no_progress (with_reducible refine Keeps.upd ?_ rfl rfl) | intro _ | split | dsimp only

theorem State.useSlot_keeps {s0 : State} {s : State} {k p n : Nat} (hK : Keeps s0 s) : Keeps s0 (State.useSlot s k p n) := by
  unfold State.useSlot
  try dsimp only
  repeat' first
    | with_reducible assumption | with_reducible apply State.modPc_keeps
    | fail_if_no_progress (with_reducible refine Keeps.upd ?_ rfl rfl) | intro _ | split | dsimp only

theorem State.corrected_keeps {s0 : State} {s : State} {l : Nat} {x : U32} (hK : Keeps s0 s) : Keeps s0 (State.corrected s l x) := by
  unfold State.corrected
  try dsimp only
  repeat' first
    | with_reducible assumption | with_reducible apply State.logRated_keeps
    | fail_if_no_progress (with_reducible refine Keeps.upd ?_ rfl rfl) | intro _ | split | dsimp only

theorem State.uncorrectable_keeps {s0 : State} {s : State} {l : Nat} {x : U32} (hK : Keeps s0 s) : Keeps s0 (State.uncorrectable s l x) := by
  unfold State.uncorrectable
  try dsimp only
  repeat' first
    | with_reducible assumption | with_reducible apply State.logE_keeps | with_reducible apply State.diverge_keeps
    | with_reducible apply State.startSpare_keeps | with_reducible apply Keeps.ite
    | fail_if_no_progress (with_reducible refine Keeps.upd ?_ rfl rfl) | intro _ | split | dsimp only

theorem State.readLine_keeps {s0 : State} {s : State} {l : Nat} (hK : Keeps s0 s) : Keeps s0 (State.readLine s l).1 := by
  unfold State.readLine
  try dsimp only
  repeat' first
    | with_reducible assumption | with_reducible apply State.fire_keeps
    | with_reducible refine State.fire_keepsE (by assumption) ?_ | with_reducible apply State.forward_keeps
    | with_reducible apply State.corrected_keeps | with_reducible apply State.uncorrectable_keeps
    | with_reducible apply Keeps.foldl | with_reducible apply Keeps.fold
    | with_reducible refine Keeps.foldE (by assumption) ?_ ?_ | intro _ | split | dsimp only
theorem State.readLine_keepsE {s0 tK : State} {s : State} {l : Nat} {y : LineRead} (hE : State.readLine s l = (tK, y)) (hK : Keeps s0 s) : Keeps s0 tK := by
  have k := State.readLine_keeps (s := s) (l := l) (hK := hK)
  rw [hE] at k
  exact k

theorem State.writeLine_keeps {s0 : State} {s : State} {l : Nat} {d : List Byte} {poison : Bool} (hK : Keeps s0 s) : Keeps s0 (State.writeLine s l d poison) := by
  unfold State.writeLine
  try dsimp only
  repeat' first
    | with_reducible assumption | with_reducible apply State.setSyn_keeps | with_reducible apply State.fire_keeps
    | with_reducible refine State.fire_keepsE (by assumption) ?_ | with_reducible apply State.buffer_keeps
    | with_reducible apply Keeps.put | with_reducible apply Keeps.foldl | with_reducible apply Keeps.fold
    | with_reducible refine Keeps.foldE (by assumption) ?_ ?_ | with_reducible apply Keeps.ite
    | fail_if_no_progress (with_reducible refine Keeps.upd ?_ rfl rfl) | intro _ | split | dsimp only

theorem State.writeBe_keeps {s0 : State} {s : State} {l : Nat} {d : List Byte} {be : Nat} {poison : Bool} (hK : Keeps s0 s) : Keeps s0 (State.writeBe s l d be poison) := by
  unfold State.writeBe
  try dsimp only
  repeat' first
    | with_reducible assumption | with_reducible apply State.readLine_keeps
    | with_reducible refine State.readLine_keepsE (by assumption) ?_ | with_reducible apply State.writeLine_keeps
    | with_reducible apply Keeps.ite | fail_if_no_progress (with_reducible refine Keeps.upd ?_ rfl rfl) | intro _ | split
    | dsimp only

end Sys2Proof.Machine
end

