-- ==== Sys2Proof/Laws/KeepsTiers.lean ====
section
/-! SUPPORT. What the operations of Machine/Tiers.lean keep (Keeps), one lemma per operation. -/

set_option linter.unusedTactic false
set_option linter.unreachableTactic false

namespace Sys2Proof.Machine

theorem State.touchMap_keeps {s0 : State} {s : State} {pk : Nat} (hK : Keeps s0 s) : Keeps s0 (State.touchMap s pk) := by
  unfold State.touchMap
  try dsimp only
  repeat' first
    | with_reducible assumption | with_reducible apply Keeps.ite
    | fail_if_no_progress (with_reducible refine Keeps.upd ?_ rfl rfl) | intro _ | split | dsimp only

theorem State.setEnt_keeps {s0 : State} {s : State} {slot plate : Nat} {e : MapEnt} (hK : Keeps s0 s) : Keeps s0 (State.setEnt s slot plate e) := by
  unfold State.setEnt
  try dsimp only
  repeat' first
    | with_reducible assumption | with_reducible apply State.touchMap_keeps | with_reducible refine Keeps.mapE (by assumption) ?_
    | fail_if_no_progress (with_reducible refine Keeps.upd ?_ rfl rfl) | intro _ | split | dsimp only

theorem State.modEnt_keeps {s0 : State} {s : State} {slot plate : Nat} {g : MapEnt → MapEnt} (hK : Keeps s0 s) : Keeps s0 (State.modEnt s slot plate g) := by
  unfold State.modEnt
  try dsimp only
  repeat' first
    | with_reducible assumption | with_reducible apply State.setEnt_keeps | intro _ | split | dsimp only

theorem State.sweep_keeps {s0 : State} {s : State} {v0 : List Nat} (hK : Keeps s0 s) : Keeps s0 (State.sweep s v0).1 := by
  induction v0 generalizing s with
  | nil =>
    unfold State.sweep
    all_goals try dsimp only
    repeat' first
      | with_reducible assumption | with_reducible apply Keeps.ite
      | fail_if_no_progress (with_reducible refine Keeps.upd ?_ rfl rfl) | intro _ | split | dsimp only
  | cons _ _ ih =>
    unfold State.sweep
    all_goals try dsimp only
    repeat' first
      | with_reducible assumption | with_reducible apply ih | with_reducible refine Keeps.ofEq (by assumption) (ih ?_)
      | with_reducible apply Keeps.ite | fail_if_no_progress (with_reducible refine Keeps.upd ?_ rfl rfl) | intro _ | split
      | dsimp only
theorem State.sweep_keepsE {s0 tK : State} {s : State} {v0 : List Nat} {y : Option Nat} (hE : State.sweep s v0 = (tK, y)) (hK : Keeps s0 s) : Keeps s0 tK := by
  have k := State.sweep_keeps (s := s) (v0 := v0) (hK := hK)
  rw [hE] at k
  exact k

theorem State.victim_keeps {s0 : State} {s : State} {slot : Nat} (hK : Keeps s0 s) : Keeps s0 (State.victim s slot).1 := by
  unfold State.victim
  try dsimp only
  repeat' first
    | with_reducible assumption | with_reducible apply State.sweep_keeps
    | with_reducible refine State.sweep_keepsE (by assumption) ?_ | with_reducible refine Keeps.mapE (by assumption) ?_
    | with_reducible refine Keeps.getD ?_ ?_ | with_reducible refine Keeps.getD₂ ?_ ?_ | intro _ | split | dsimp only
theorem State.victim_keepsE {s0 tK : State} {s : State} {slot : Nat} {y : Option Nat} (hE : State.victim s slot = (tK, y)) (hK : Keeps s0 s) : Keeps s0 tK := by
  have k := State.victim_keeps (s := s) (slot := slot) (hK := hK)
  rw [hE] at k
  exact k

theorem State.refT0_keeps {s0 : State} {s : State} {t : Nat} (hK : Keeps s0 s) : Keeps s0 (State.refT0 s t) := by
  unfold State.refT0
  try dsimp only
  repeat' first
    | with_reducible assumption | fail_if_no_progress (with_reducible refine Keeps.upd ?_ rfl rfl) | intro _ | split | dsimp only

end Sys2Proof.Machine
end

