-- ==== Sys2Proof/Laws/KeepsFlashOps.lean ====
section
/-! SUPPORT. What the operations of Machine/FlashOps.lean keep (Keeps), one lemma per operation. -/

set_option linter.unusedTactic false
set_option linter.unreachableTactic false

namespace Sys2Proof.Machine

theorem State.modBlock_keeps {s0 : State} {s : State} {g b : Nat} {f : FBlock → FBlock} (hK : Keeps s0 s) : Keeps s0 (State.modBlock s g b f) := by
  unfold State.modBlock
  try dsimp only
  repeat' first
    | with_reducible assumption | fail_if_no_progress (with_reducible refine Keeps.upd ?_ rfl rfl) | intro _ | split | dsimp only

theorem State.setCaps_keeps {s0 : State} {s : State} (hK : Keeps s0 s) : Keeps s0 (State.setCaps s) := by
  unfold State.setCaps
  try dsimp only
  repeat' first
    | with_reducible assumption | fail_if_no_progress (with_reducible refine Keeps.upd ?_ rfl rfl) | intro _ | split | dsimp only

theorem State.openNew_keepsE {s0 tK : State} {s : State} {p : FlashPop} {e mode : Nat} {y : FUnit} (hE : State.openNew s p e mode = some (tK, y)) (hK : Keeps s0 s) : Keeps s0 tK := by
  revert hE
  unfold State.openNew
  try dsimp only
  repeat' first
    | with_reducible assumption | (intro hE; cases hE; done) | (intro hE; cases hE) | with_reducible apply State.modBlock_keeps
    | with_reducible refine Keeps.mapE (by assumption) ?_ | with_reducible apply Keeps.ite
    | fail_if_no_progress (with_reducible refine Keeps.upd ?_ rfl rfl) | dsimp only | split | intro _

theorem State.flashPut_keepsE {s0 t : State} {s : State} {mode : Nat} {c : Nat → Nat → FSlot} {y : Nat}
    (h : State.flashPut s mode c = some (t, y)) (hK : Keeps s0 s) : Keeps s0 t := by
  revert h
  unfold State.flashPut
  split
  · intro h; cases h
  · split
    · intro h; cases h
    · dsimp only
      split
      · intro h; cases h
      · rename_i s1 _ _ got
        have k : Keeps s0 s1 := by
          revert got
          split
          · intro got; cases got; exact hK
          · intro got
            obtain ⟨r, hr, hg⟩ := Option.map_eq_some_iff.1 got
            cases hg
            obtain ⟨r1, r2⟩ := r
            exact State.openNew_keepsE hr hK
        intro h
        cases h
        exact Keeps.upd k rfl rfl

theorem State.suspends_keeps {s0 : State} {s : State} {a n : Nat} (hK : Keeps s0 s) : Keeps s0 (State.suspends s a n) := by
  unfold State.suspends
  try dsimp only
  repeat' first
    | with_reducible assumption | with_reducible apply Keeps.ite
    | fail_if_no_progress (with_reducible refine Keeps.upd ?_ rfl rfl) | intro _ | split | dsimp only

theorem State.takeIssue_keeps {s0 : State} {s : State} {ch : Nat} (hK : Keeps s0 s) : Keeps s0 (State.takeIssue s ch) := by
  unfold State.takeIssue
  try dsimp only
  repeat' first
    | with_reducible assumption | fail_if_no_progress (with_reducible refine Keeps.upd ?_ rfl rfl) | intro _ | split
    | dsimp only

theorem State.beginRead_keeps {s0 : State} {s : State} {a key : Nat} {recon patrol : Bool} {scrub : Option Nat} (hK : Keeps s0 s) : Keeps s0 (State.beginRead s a key recon patrol scrub) := by
  unfold State.beginRead
  try dsimp only
  repeat' first
    | with_reducible assumption | with_reducible apply State.patrol_keeps | with_reducible apply State.takeIssue_keeps
    | with_reducible apply State.suspends_keeps | with_reducible apply Keeps.over | with_reducible apply Keeps.ite
    | fail_if_no_progress (with_reducible refine Keeps.upd ?_ rfl rfl) | intro _ | split | dsimp only

end Sys2Proof.Machine
end

