-- ==== Sys2Proof/Laws/KeepsHerdNet.lean ====
section
/-! SUPPORT. What the operations of Machine/HerdNet.lean keep (Keeps), one lemma per operation. -/

set_option linter.unusedTactic false
set_option linter.unreachableTactic false

namespace Sys2Proof.Machine

theorem State.moveAgain_keeps {s0 : State} {s : State} {slot plate : Nat} (hK : Keeps s0 s) : Keeps s0 (State.moveAgain s slot plate) := by
  unfold State.moveAgain
  try dsimp only
  repeat' first
    | with_reducible assumption | with_reducible refine Keeps.mapE (by assumption) ?_ | with_reducible apply Keeps.ite
    | fail_if_no_progress (with_reducible refine Keeps.upd ?_ rfl rfl) | intro _ | split | dsimp only

theorem State.modLink_keeps {s0 : State} {s : State} {n : Nat} {g : Link → Link} (hK : Keeps s0 s) : Keeps s0 (State.modLink s n g) := by
  unfold State.modLink
  try dsimp only
  repeat' first
    | with_reducible assumption | fail_if_no_progress (with_reducible refine Keeps.upd ?_ rfl rfl) | intro _ | split | dsimp only

theorem State.putLink_keeps {s0 : State} {s : State} {l : Nat} {m : Msg} {forwarded : Bool} (hK : Keeps s0 s) : Keeps s0 (State.putLink s l m forwarded) := by
  unfold State.putLink
  try dsimp only
  repeat' first
    | with_reducible assumption | with_reducible apply State.charge_keeps | with_reducible apply State.modLink_keeps
    | with_reducible apply Keeps.emit | with_reducible refine Keeps.mapE (by assumption) ?_ | with_reducible apply Keeps.ite
    | fail_if_no_progress (with_reducible refine Keeps.upd ?_ rfl rfl) | intro _ | split | dsimp only

theorem State.discardMsg_keeps {s0 : State} {s : State} {m : Msg} (hK : Keeps s0 s) : Keeps s0 (State.discardMsg s m) := by
  unfold State.discardMsg
  try dsimp only
  repeat' first
    | with_reducible assumption | with_reducible apply State.logE_keeps | intro _ | split | dsimp only

theorem State.sendMsg_keeps {s0 : State} {s : State} {m : Msg} {forwarded : Bool} (hK : Keeps s0 s) : Keeps s0 (State.sendMsg s m forwarded) := by
  unfold State.sendMsg
  try dsimp only
  repeat' first
    | with_reducible assumption | with_reducible apply State.discardMsg_keeps | with_reducible apply State.modLink_keeps
    | with_reducible apply State.putLink_keeps | with_reducible refine Keeps.getD ?_ ?_
    | with_reducible refine Keeps.getD₂ ?_ ?_ | with_reducible apply Keeps.ite
    | fail_if_no_progress (with_reducible refine Keeps.upd ?_ rfl rfl) | intro _ | split | dsimp only

theorem State.flushOut_keeps {s0 : State} {s : State} (hK : Keeps s0 s) : Keeps s0 (State.flushOut s) := by
  unfold State.flushOut
  try dsimp only
  repeat' first
    | with_reducible assumption | with_reducible apply State.sendMsg_keeps | with_reducible apply Keeps.foldl
    | with_reducible apply Keeps.fold | with_reducible refine Keeps.foldE (by assumption) ?_ ?_
    | fail_if_no_progress (with_reducible refine Keeps.upd ?_ rfl rfl) | intro _ | split | dsimp only

theorem State.request_keeps {s0 : State} {s : State} {m : Msg} {u : TxnUse} (hK : Keeps s0 s) : Keeps s0 (State.request s m u) := by
  unfold State.request
  try dsimp only
  repeat' first
    | with_reducible assumption | with_reducible apply State.sendMsg_keeps
    | fail_if_no_progress (with_reducible refine Keeps.upd ?_ rfl rfl) | intro _ | split | dsimp only

theorem State.sendCmp_keeps {s0 : State} {s : State} {m : Msg} {status : Nat} {nak : Bool} (hK : Keeps s0 s) : Keeps s0 (State.sendCmp s m status nak) := by
  unfold State.sendCmp
  try dsimp only
  repeat' first
    | with_reducible assumption | with_reducible apply State.sendMsg_keeps | with_reducible refine Keeps.mapE (by assumption) ?_
    | with_reducible refine Keeps.getD ?_ ?_ | with_reducible refine Keeps.getD₂ ?_ ?_
    | fail_if_no_progress (with_reducible refine Keeps.upd ?_ rfl rfl) | intro _ | split | dsimp only

theorem State.sendData_keeps {s0 : State} {s : State} {m : Msg} {d : List Byte} {bad : List Nat} {mv : Nat} (hK : Keeps s0 s) : Keeps s0 (State.sendData s m d bad mv) := by
  unfold State.sendData
  try dsimp only
  repeat' first
    | with_reducible assumption | with_reducible apply State.sendMsg_keeps | with_reducible refine Keeps.mapE (by assumption) ?_
    | with_reducible refine Keeps.getD ?_ ?_ | with_reducible refine Keeps.getD₂ ?_ ?_ | with_reducible apply Keeps.ite
    | fail_if_no_progress (with_reducible refine Keeps.upd ?_ rfl rfl) | intro _ | split | dsimp only

end Sys2Proof.Machine
end

