-- ==== Sys2Proof/Laws/KeepsHome.lean ====
section
/-! SUPPORT. What the operations of Machine/Home.lean keep (Keeps), one lemma per operation. -/

set_option linter.unusedTactic false
set_option linter.unreachableTactic false

namespace Sys2Proof.Machine

theorem State.writeT0_keeps {s0 : State} {s : State} {t : Nat} {d : List Byte} {bad : List Nat} (hK : Keeps s0 s) : Keeps s0 (State.writeT0 s t d bad) := by
  unfold State.writeT0
  try dsimp only
  repeat' first
    | with_reducible assumption | with_reducible apply State.writeLine_keeps | with_reducible apply Keeps.over | intro _ | split
    | dsimp only

theorem State.damage_keeps {s0 : State} {s : State} {slot plate check : Nat} (hK : Keeps s0 s) : Keeps s0 (State.damage s slot plate check) := by
  unfold State.damage
  try dsimp only
  repeat' first
    | with_reducible assumption | with_reducible apply State.logE_keeps | with_reducible apply State.setEnt_keeps
    | with_reducible apply State.writeT0_keeps | with_reducible apply Keeps.ite
    | fail_if_no_progress (with_reducible refine Keeps.upd ?_ rfl rfl) | intro _ | split | dsimp only

theorem State.countEscapes_keeps {s0 : State} {s : State} {slot plate : Nat} {enc : Encoded} (hK : Keeps s0 s) : Keeps s0 (State.countEscapes s slot plate enc) := by
  unfold State.countEscapes
  try dsimp only
  repeat' first
    | with_reducible assumption | with_reducible apply State.logE_keeps | with_reducible apply Keeps.ite
    | fail_if_no_progress (with_reducible refine Keeps.upd ?_ rfl rfl) | intro _ | split | dsimp only

theorem State.mirrorRead_keeps {s0 : State} {s : State} {slot k plate : Nat} (hK : Keeps s0 s) : Keeps s0 (State.mirrorRead s slot k plate) := by
  unfold State.mirrorRead
  try dsimp only
  repeat' first
    | with_reducible assumption | with_reducible apply State.logE_keeps | with_reducible apply State.diverge_keeps
    | fail_if_no_progress (with_reducible refine Keeps.upd ?_ rfl rfl) | intro _ | split | dsimp only

theorem State.readBack_keeps {s0 : State} {s : State} {slot plate k g : Nat} (hK : Keeps s0 s) : Keeps s0 (State.readBack s slot plate k g) := by
  unfold State.readBack
  try dsimp only
  repeat' first
    | with_reducible assumption | with_reducible apply State.readLine_keeps
    | with_reducible refine State.readLine_keepsE (by assumption) ?_ | with_reducible apply Keeps.ite
    | fail_if_no_progress (with_reducible refine Keeps.upd ?_ rfl rfl) | intro _ | split | dsimp only

theorem State.readT1_keeps {s0 : State} {s : State} {slot plate k g : Nat} (hK : Keeps s0 s) : Keeps s0 (State.readT1 s slot plate k g).1 := by
  unfold State.readT1
  try dsimp only
  repeat' first
    | with_reducible assumption | with_reducible apply State.readLine_keeps
    | with_reducible refine State.readLine_keepsE (by assumption) ?_ | with_reducible apply State.writeLine_keeps
    | with_reducible apply State.mirrorRead_keeps | with_reducible apply State.readBack_keeps | with_reducible apply Keeps.ite
    | intro _ | split | dsimp only

theorem State.readT1_keepsE {s0 tK : State} {s : State} {slot plate k g : Nat} {y : LineRead} (hE : State.readT1 s slot plate k g = (tK, y)) (hK : Keeps s0 s) : Keeps s0 tK := by
  have k := State.readT1_keeps (s := s) (slot := slot) (plate := plate) (k := k) (g := g) (hK := hK)
  rw [hE] at k
  exact k

theorem State.readRun_keeps {s0 : State} {s : State} {slot plate k g : Nat} {v0 : Nat} (hK : Keeps s0 s) : Keeps s0 (State.readRun s slot plate k g v0).1 := by
  induction v0 generalizing s slot plate k g with
  | zero =>
    unfold State.readRun
    all_goals try dsimp only
    repeat' first
      | with_reducible assumption | with_reducible apply State.readT1_keeps
      | with_reducible refine State.readT1_keepsE (by assumption) ?_ | intro _ | split | dsimp only
  | succ _ ih =>
    unfold State.readRun
    all_goals try dsimp only
    repeat' first
      | with_reducible assumption | with_reducible apply ih | with_reducible refine Keeps.ofEq (by assumption) (ih ?_)
      | with_reducible apply State.readT1_keeps | with_reducible refine State.readT1_keepsE (by assumption) ?_ | intro _ | split
      | dsimp only

theorem State.readRun_keepsE {s0 tK : State} {s : State} {slot plate k g : Nat} {v0 : Nat} {y : List Byte × List Nat} (hE : State.readRun s slot plate k g v0 = (tK, y)) (hK : Keeps s0 s) : Keeps s0 tK := by
  have k := State.readRun_keeps (s := s) (slot := slot) (plate := plate) (k := k) (g := g) (v0 := v0) (hK := hK)
  rw [hE] at k
  exact k

theorem State.chargeHome_keeps {s0 : State} {s : State} {slot : Nat} {e : MapEnt} (hK : Keeps s0 s) : Keeps s0 (State.chargeHome s slot e) := by
  unfold State.chargeHome
  try dsimp only
  repeat' first
    | with_reducible assumption | with_reducible apply State.charge_keeps | with_reducible apply Keeps.ite | intro _ | split
    | dsimp only

theorem State.modLane_keeps {s0 : State} {s : State} {n : Nat} {g : Lane → Lane} (hK : Keeps s0 s) : Keeps s0 (State.modLane s n g) := by
  unfold State.modLane
  try dsimp only
  repeat' first
    | with_reducible assumption | fail_if_no_progress (with_reducible refine Keeps.upd ?_ rfl rfl) | intro _ | split | dsimp only

theorem State.queueJob_keeps {s0 : State} {s : State} {n : Nat} {j : Job} (hK : Keeps s0 s) : Keeps s0 (State.queueJob s n j) := by
  unfold State.queueJob
  try dsimp only
  repeat' first
    | with_reducible assumption | with_reducible apply State.modLane_keeps
    | fail_if_no_progress (with_reducible refine Keeps.upd ?_ rfl rfl) | intro _ | split | dsimp only

theorem State.dispatchLanes_keeps {s0 : State} {s : State} {e : Nat} (hK : Keeps s0 s) : Keeps s0 (State.dispatchLanes s e) := by
  unfold State.dispatchLanes
  try dsimp only
  repeat' first
    | with_reducible assumption | with_reducible apply State.queueJob_keeps
    | with_reducible refine Keeps.mapE (by assumption) ?_ | with_reducible refine Keeps.findE (by assumption) ?_
    | with_reducible refine Keeps.getD ?_ ?_ | with_reducible refine Keeps.getD₂ ?_ ?_
    | fail_if_no_progress (with_reducible refine Keeps.upd ?_ rfl rfl) | intro _ | split | dsimp only

theorem State.giveJob_keeps {s0 : State} {s : State} {e : Nat} {j : Job} (hK : Keeps s0 s) : Keeps s0 (State.giveJob s e j) := by
  unfold State.giveJob
  try dsimp only
  repeat' first
    | with_reducible assumption | with_reducible apply State.queueJob_keeps
    | with_reducible refine Keeps.someIf (by assumption) ?_ | with_reducible refine Keeps.getD ?_ ?_
    | with_reducible refine Keeps.getD₂ ?_ ?_ | with_reducible apply Keeps.ite
    | fail_if_no_progress (with_reducible refine Keeps.upd ?_ rfl rfl) | intro _ | split | dsimp only

theorem State.newJob_keeps {s0 : State} {s : State} {e kind cls cycles key line extra : Nat} (hK : Keeps s0 s) : Keeps s0 (State.newJob s e kind cls cycles key line extra) := by
  unfold State.newJob
  try dsimp only
  repeat' first
    | with_reducible assumption | with_reducible apply State.giveJob_keeps
    | fail_if_no_progress (with_reducible refine Keeps.upd ?_ rfl rfl) | intro _ | split | dsimp only

theorem State.laneFault_keeps {s0 : State} {s : State} {n : Nat} {counted : Bool} {slot plate : Nat} (hK : Keeps s0 s) : Keeps s0 (State.laneFault s n counted slot plate) := by
  unfold State.laneFault
  try dsimp only
  repeat' first
    | with_reducible assumption | with_reducible apply State.logE_keeps | with_reducible apply State.modLane_keeps
    | with_reducible apply Keeps.ite | fail_if_no_progress (with_reducible refine Keeps.upd ?_ rfl rfl) | intro _ | split
    | dsimp only

theorem State.laneWork_keeps {s0 : State} {s : State} {slot e kind cls nominal key extra : Nat} (hK : Keeps s0 s) : Keeps s0 (State.laneWork s slot e kind cls nominal key extra) := by
  unfold State.laneWork
  try dsimp only
  repeat' first
    | with_reducible assumption | with_reducible apply State.charge_keeps | with_reducible apply State.newJob_keeps | intro _
    | split | dsimp only

theorem State.readHome_keeps {s0 : State} {s : State} {slot plate : Nat} {e : MapEnt} (hK : Keeps s0 s) : Keeps s0 (State.readHome s slot plate e).1 := by
  unfold State.readHome
  try dsimp only
  repeat' first
    | with_reducible assumption | with_reducible apply State.readRun_keeps
    | with_reducible refine State.readRun_keepsE (by assumption) ?_ | with_reducible apply Keeps.ite
    | fail_if_no_progress (with_reducible refine Keeps.upd ?_ rfl rfl) | intro _ | split | dsimp only

theorem State.readHome_keepsE {s0 tK : State} {s : State} {slot plate : Nat} {e : MapEnt} {y : Stored} (hE : State.readHome s slot plate e = (tK, y)) (hK : Keeps s0 s) : Keeps s0 tK := by
  have k := State.readHome_keeps (s := s) (slot := slot) (plate := plate) (e := e) (hK := hK)
  rw [hE] at k
  exact k

theorem State.expandHome_keeps {s0 : State} {s : State} {slot plate : Nat} {e : MapEnt} {cls : Nat} (hK : Keeps s0 s) : Keeps s0 (State.expandHome s slot plate e cls).1 := by
  unfold State.expandHome
  try dsimp only
  repeat' first
    | with_reducible assumption | with_reducible apply State.chargeHome_keeps | with_reducible apply State.readHome_keeps
    | with_reducible refine State.readHome_keepsE (by assumption) ?_ | with_reducible apply State.damage_keeps
    | with_reducible apply State.laneWork_keeps | with_reducible apply State.charge_keeps | with_reducible apply Keeps.ite
    | fail_if_no_progress (with_reducible refine Keeps.upd ?_ rfl rfl) | intro _ | split | dsimp only
theorem State.expandHome_keepsE {s0 tK : State} {s : State} {slot plate : Nat} {e : MapEnt} {cls : Nat} {y : Option (List Byte × List Nat)} (hE : State.expandHome s slot plate e cls = (tK, y)) (hK : Keeps s0 s) : Keeps s0 tK := by
  have k := State.expandHome_keeps (s := s) (slot := slot) (plate := plate) (e := e) (cls := cls) (hK := hK)
  rw [hE] at k
  exact k

theorem State.readT0_keeps {s0 : State} {s : State} {slot plate : Nat} {e : MapEnt} {i : Nat} (hK : Keeps s0 s) : Keeps s0 (State.readT0 s slot plate e i).1 := by
  unfold State.readT0
  try dsimp only
  repeat' first
    | with_reducible assumption | with_reducible apply State.readLine_keeps
    | with_reducible refine State.readLine_keepsE (by assumption) ?_ | with_reducible apply State.writeLine_keeps
    | with_reducible apply State.writeT0_keeps | with_reducible apply State.expandHome_keeps
    | with_reducible refine State.expandHome_keepsE (by assumption) ?_ | with_reducible apply Keeps.ite | intro _ | split
    | dsimp only

theorem State.readT0_keepsE {s0 tK : State} {s : State} {slot plate : Nat} {e : MapEnt} {i : Nat} {y : List Byte × Bool} (hE : State.readT0 s slot plate e i = (tK, y)) (hK : Keeps s0 s) : Keeps s0 tK := by
  have k := State.readT0_keeps (s := s) (slot := slot) (plate := plate) (e := e) (i := i) (hK := hK)
  rw [hE] at k
  exact k

theorem State.readT0Plate_keeps {s0 : State} {s : State} {slot plate : Nat} {e : MapEnt} (hK : Keeps s0 s) : Keeps s0 (State.readT0Plate s slot plate e).1 := by
  unfold State.readT0Plate
  try dsimp only
  repeat' first
    | with_reducible assumption | with_reducible apply State.readT0_keeps
    | with_reducible refine State.readT0_keepsE (by assumption) ?_ | with_reducible apply Keeps.foldl
    | with_reducible apply Keeps.fold | with_reducible refine Keeps.foldE (by assumption) ?_ ?_ | with_reducible apply Keeps.ite
    | intro _ | split | dsimp only

theorem State.readT0Plate_keepsE {s0 tK : State} {s : State} {slot plate : Nat} {e : MapEnt} {y : List Byte × List Nat} (hE : State.readT0Plate s slot plate e = (tK, y)) (hK : Keeps s0 s) : Keeps s0 tK := by
  have k := State.readT0Plate_keeps (s := s) (slot := slot) (plate := plate) (e := e) (hK := hK)
  rw [hE] at k
  exact k

theorem State.storedPlate_keeps {s0 : State} {s : State} {slot plate cls : Nat} (hK : Keeps s0 s) : Keeps s0 (State.storedPlate s slot plate cls).1 := by
  unfold State.storedPlate
  try dsimp only
  repeat' first
    | with_reducible assumption | with_reducible apply State.readT0Plate_keeps
    | with_reducible refine State.readT0Plate_keepsE (by assumption) ?_ | with_reducible apply State.expandHome_keeps
    | with_reducible refine State.expandHome_keepsE (by assumption) ?_ | with_reducible apply Keeps.ite | intro _ | split
    | dsimp only
theorem State.storedPlate_keepsE {s0 tK : State} {s : State} {slot plate cls : Nat} {y : List Byte × List Nat} (hE : State.storedPlate s slot plate cls = (tK, y)) (hK : Keeps s0 s) : Keeps s0 tK := by
  have k := State.storedPlate_keeps (s := s) (slot := slot) (plate := plate) (cls := cls) (hK := hK)
  rw [hE] at k
  exact k

theorem State.writeRun_keeps {s0 : State} {s : State} {k g : Nat} {b : List Byte} {bad : List Nat} (hK : Keeps s0 s) : Keeps s0 (State.writeRun s k g b bad) := by
  unfold State.writeRun
  try dsimp only
  repeat' first
    | with_reducible assumption | with_reducible apply State.writeLine_keeps | with_reducible apply Keeps.over | intro _ | split
    | dsimp only

theorem State.storeTo_keepsE {s0 tK : State} {s : State} {slot plate tier : Nat} {enc : Encoded} {bad : List Nat} {version : Nat} {y : Nat} (hE : State.storeTo s slot plate tier enc bad version = some (tK, y)) (hK : Keeps s0 s) : Keeps s0 tK := by
  revert hE
  unfold State.storeTo
  try dsimp only
  repeat' first
    | with_reducible assumption | (intro hE; cases hE; done) | (intro hE; cases hE)
    | (intro hE; with_reducible refine State.flashPut_keepsE hE ?_) | with_reducible apply State.charge_keeps
    | with_reducible refine State.flashPut_keepsE (by assumption) ?_ | with_reducible apply State.writeRun_keeps
    | with_reducible refine Keeps.mapE (by assumption) ?_ | with_reducible apply Keeps.ite
    | fail_if_no_progress (with_reducible refine Keeps.upd ?_ rfl rfl) | dsimp only | split | intro _

theorem State.sendDelta_keeps {s0 : State} {s : State} {slot plate : Nat} {old new : List Byte} (hK : Keeps s0 s) : Keeps s0 (State.sendDelta s slot plate old new) := by
  unfold State.sendDelta
  try dsimp only
  repeat' first
    | with_reducible assumption | with_reducible apply State.request_keeps | with_reducible apply Keeps.over
    | with_reducible apply Keeps.ite | fail_if_no_progress (with_reducible refine Keeps.upd ?_ rfl rfl) | intro _ | split
    | dsimp only

theorem State.freeAt_keeps {s0 : State} {s : State} {due : Nat} {tier store clen : Nat} (hK : Keeps s0 s) : Keeps s0 (State.freeAt s due tier store clen) := by
  unfold State.freeAt
  try dsimp only
  repeat' first
    | with_reducible assumption | with_reducible apply Keeps.ite
    | fail_if_no_progress (with_reducible refine Keeps.upd ?_ rfl rfl) | intro _ | split | dsimp only

theorem State.pageToT1_keeps {s0 : State} {s : State} {key : Nat} {pg : MapPage} (hK : Keeps s0 s) : Keeps s0 (State.pageToT1 s key pg).1 := by
  unfold State.pageToT1
  try dsimp only
  repeat' first
    | with_reducible assumption | with_reducible apply State.charge_keeps | with_reducible apply State.writeRun_keeps
    | with_reducible apply State.freeAt_keeps | with_reducible apply Keeps.ite
    | fail_if_no_progress (with_reducible refine Keeps.upd ?_ rfl rfl) | intro _ | split | dsimp only
theorem State.pageToT1_keepsE {s0 tK : State} {s : State} {key : Nat} {pg : MapPage} {y : Bool} (hE : State.pageToT1 s key pg = (tK, y)) (hK : Keeps s0 s) : Keeps s0 tK := by
  have k := State.pageToT1_keeps (s := s) (key := key) (pg := pg) (hK := hK)
  rw [hE] at k
  exact k

theorem State.pageUp_keeps {s0 : State} {s : State} {slot plate tier : Nat} (hK : Keeps s0 s) : Keeps s0 (State.pageUp s slot plate tier).1 := by
  unfold State.pageUp
  try dsimp only
  repeat' first
    | with_reducible assumption | with_reducible apply State.pageToT1_keeps
    | with_reducible refine State.pageToT1_keepsE (by assumption) ?_ | with_reducible apply Keeps.ite | intro _ | split
    | dsimp only
theorem State.pageUp_keepsE {s0 tK : State} {s : State} {slot plate tier : Nat} {y : Bool} (hE : State.pageUp s slot plate tier = (tK, y)) (hK : Keeps s0 s) : Keeps s0 tK := by
  have k := State.pageUp_keeps (s := s) (slot := slot) (plate := plate) (tier := tier) (hK := hK)
  rw [hE] at k
  exact k

theorem State.newHome_keepsE {s0 tK : State} {s : State} {slot plate tier : Nat} {enc : Encoded} {bad : List Nat} {leave plan : Bool} (hE : State.newHome s slot plate tier enc bad leave plan = some tK) (hK : Keeps s0 s) : Keeps s0 tK := by
  revert hE
  unfold State.newHome
  try dsimp only
  repeat' first
    | with_reducible assumption | (intro hE; cases hE; done) | (intro hE; cases hE)
    | (intro hE; with_reducible refine State.storeTo_keepsE hE ?_) | with_reducible apply State.pageUp_keeps
    | with_reducible refine State.pageUp_keepsE (by assumption) ?_
    | with_reducible refine State.storeTo_keepsE (by assumption) ?_ | with_reducible apply State.expandHome_keeps
    | with_reducible refine State.expandHome_keepsE (by assumption) ?_ | with_reducible apply State.sendDelta_keeps
    | with_reducible apply State.logE_keeps | with_reducible apply State.modEnt_keeps
    | with_reducible apply State.leaveT0_keeps | with_reducible apply Keeps.ite
    | fail_if_no_progress (with_reducible refine Keeps.upd ?_ rfl rfl) | dsimp only | split | intro _

theorem State.dropT0_keeps {s0 : State} {s : State} {t : Nat} (hK : Keeps s0 s) : Keeps s0 (State.dropT0 s t) := by
  unfold State.dropT0
  try dsimp only
  repeat' first
    | with_reducible assumption | fail_if_no_progress (with_reducible refine Keeps.upd ?_ rfl rfl) | intro _ | split | dsimp only

theorem State.dropCopy_keeps {s0 : State} {s : State} {slot plate : Nat} (hK : Keeps s0 s) : Keeps s0 (State.dropCopy s slot plate) := by
  unfold State.dropCopy
  try dsimp only
  repeat' first
    | with_reducible assumption | with_reducible apply State.dropT0_keeps | with_reducible apply Keeps.ite | intro _ | split
    | dsimp only

theorem State.applySwitch_keeps {s0 : State} {s : State} {x : Switch} (hK : Keeps s0 s) : Keeps s0 (State.applySwitch s x) := by
  unfold State.applySwitch
  try dsimp only
  repeat' first
    | with_reducible assumption | with_reducible apply State.freeAt_keeps | with_reducible apply State.setEnt_keeps
    | with_reducible apply State.leaveT0_keeps | with_reducible apply State.dropT0_keeps
    | with_reducible apply State.writeT0_keeps | with_reducible apply Keeps.ite
    | fail_if_no_progress (with_reducible refine Keeps.upd ?_ rfl rfl) | intro _ | split | dsimp only

theorem State.countEncode_keeps {s0 : State} {s : State} {slot plate die : Nat} {enc : Encoded} {cls : Nat} (hK : Keeps s0 s) : Keeps s0 (State.countEncode s slot plate die enc cls) := by
  unfold State.countEncode
  try dsimp only
  repeat' first
    | with_reducible assumption | with_reducible apply State.laneWork_keeps | with_reducible apply State.countEscapes_keeps
    | with_reducible apply Keeps.ite | fail_if_no_progress (with_reducible refine Keeps.upd ?_ rfl rfl) | intro _ | split
    | dsimp only

theorem State.encodeHome_keepsE {s0 tK : State} {s : State} {slot plate tier : Nat} {enc : Encoded} {bad : List Nat} {leave plan : Bool} {cls : Nat} (hE : State.encodeHome s slot plate tier enc bad leave plan cls = some tK) (hK : Keeps s0 s) : Keeps s0 tK := by
  revert hE
  unfold State.encodeHome
  try dsimp only
  repeat' first
    | with_reducible assumption | (intro hE; cases hE; done) | (intro hE; cases hE)
    | (intro hE; with_reducible refine State.newHome_keepsE hE ?_)
    | with_reducible refine State.newHome_keepsE (by assumption) ?_ | with_reducible apply State.countEncode_keeps
    | with_reducible apply Keeps.ite | dsimp only | split | intro _

theorem State.writeOut_keepsE {s0 tK : State} {s : State} {slot plate : Nat} {e : MapEnt} {plan : Bool} {cls : Nat} (hE : State.writeOut s slot plate e plan cls = some tK) (hK : Keeps s0 s) : Keeps s0 tK := by
  revert hE
  unfold State.writeOut
  rcases h : s.readT0Plate slot plate e with ⟨u, d, bad⟩
  dsimp only
  exact fun hE => State.encodeHome_keepsE hE (State.readT0Plate_keepsE h hK)

theorem State.leaveT0_keeps {s0 : State} {s : State} {t : Nat} {u : T0Use} (hK : Keeps s0 s) : Keeps s0 (State.leaveT0 s t u) := by
  unfold State.leaveT0
  try dsimp only
  repeat' first
    | with_reducible assumption | with_reducible apply State.modEnt_keeps | with_reducible apply State.dropT0_keeps
    | with_reducible apply Keeps.ite | fail_if_no_progress (with_reducible refine Keeps.upd ?_ rfl rfl) | intro _ | split
    | dsimp only

theorem State.evict_keeps {s0 : State} {s : State} {t : Nat} (hK : Keeps s0 s) : Keeps s0 (State.evict s t) := by
  unfold State.evict
  try dsimp only
  repeat' first
    | with_reducible assumption | with_reducible apply State.leaveT0_keeps
    | with_reducible refine State.writeOut_keepsE (by assumption) ?_ | with_reducible refine Keeps.getD ?_ ?_
    | with_reducible refine Keeps.getD₂ ?_ ?_ | with_reducible apply Keeps.ite | intro _ | split | dsimp only

theorem State.makeRoom_keeps {s0 : State} {s : State} {slot : Nat} {v0 : Nat} (hK : Keeps s0 s) : Keeps s0 (State.makeRoom s slot v0) := by
  induction v0 generalizing s slot with
  | zero =>
    unfold State.makeRoom
    all_goals try dsimp only
    repeat' first
      | with_reducible assumption | with_reducible apply State.victim_keeps
      | with_reducible refine State.victim_keepsE (by assumption) ?_ | with_reducible apply State.evict_keeps
      | with_reducible apply Keeps.ite | intro _ | split | dsimp only
  | succ _ ih =>
    unfold State.makeRoom
    all_goals try dsimp only
    repeat' first
      | with_reducible assumption | with_reducible apply ih | with_reducible apply State.victim_keeps
      | with_reducible refine State.victim_keepsE (by assumption) ?_ | with_reducible apply State.evict_keeps
      | with_reducible apply Keeps.ite | intro _ | split | dsimp only

theorem State.takeT0_keeps {s0 : State} {s : State} {slot : Nat} {u : T0Use} (hK : Keeps s0 s) : Keeps s0 (State.takeT0 s slot u).1 := by
  unfold State.takeT0
  try dsimp only
  repeat' first
    | with_reducible assumption | with_reducible apply State.makeRoom_keeps | with_reducible apply Keeps.ite
    | fail_if_no_progress (with_reducible refine Keeps.upd ?_ rfl rfl) | intro _ | split | dsimp only
theorem State.takeT0_keepsE {s0 tK : State} {s : State} {slot : Nat} {u : T0Use} {y : Option Nat} (hE : State.takeT0 s slot u = (tK, y)) (hK : Keeps s0 s) : Keeps s0 tK := by
  have k := State.takeT0_keeps (s := s) (slot := slot) (u := u) (hK := hK)
  rw [hE] at k
  exact k

theorem State.damagePageLine_keeps {s0 : State} {s : State} {pk i : Nat} (hK : Keeps s0 s) : Keeps s0 (State.damagePageLine s pk i) := by
  unfold State.damagePageLine
  try dsimp only
  repeat' first
    | with_reducible assumption | with_reducible apply State.modEnt_keeps | with_reducible apply State.damage_keeps
    | with_reducible apply State.freeAt_keeps | with_reducible apply Keeps.over | with_reducible apply Keeps.ite
    | fail_if_no_progress (with_reducible refine Keeps.upd ?_ rfl rfl) | intro _ | split | dsimp only

theorem State.readPage_keeps {s0 : State} {s : State} {pk : Nat} {pg : MapPage} (hK : Keeps s0 s) : Keeps s0 (State.readPage s pk pg) := by
  unfold State.readPage
  try dsimp only
  repeat' first
    | with_reducible assumption | with_reducible apply State.readT1_keeps
    | with_reducible refine State.readT1_keepsE (by assumption) ?_ | with_reducible apply State.damagePageLine_keeps
    | with_reducible apply Keeps.over | with_reducible apply Keeps.ite
    | fail_if_no_progress (with_reducible refine Keeps.upd ?_ rfl rfl) | intro _ | split | dsimp only

theorem State.chargePage_keeps {s0 : State} {s : State} {slot : Nat} {pg : MapPage} (hK : Keeps s0 s) : Keeps s0 (State.chargePage s slot pg) := by
  unfold State.chargePage
  try dsimp only
  repeat' first
    | with_reducible assumption | with_reducible apply State.charge_keeps | with_reducible apply State.takeIssue_keeps
    | with_reducible apply State.suspends_keeps | with_reducible apply Keeps.over | with_reducible apply Keeps.ite
    | fail_if_no_progress (with_reducible refine Keeps.upd ?_ rfl rfl) | intro _ | split | dsimp only

theorem State.bringPage_keeps {s0 : State} {s : State} {slot plate : Nat} (hK : Keeps s0 s) : Keeps s0 (State.bringPage s slot plate).1 := by
  unfold State.bringPage
  try dsimp only
  repeat' first
    | with_reducible assumption | with_reducible apply State.refT0_keeps | with_reducible apply State.takeT0_keeps
    | with_reducible refine State.takeT0_keepsE (by assumption) ?_ | with_reducible apply State.chargePage_keeps
    | with_reducible apply State.readPage_keeps | with_reducible apply State.writeT0_keeps
    | with_reducible apply State.touchMap_keeps | fail_if_no_progress (with_reducible refine Keeps.upd ?_ rfl rfl) | intro _
    | split | dsimp only
theorem State.bringPage_keepsE {s0 tK : State} {s : State} {slot plate : Nat} {y : Bool} (hE : State.bringPage s slot plate = (tK, y)) (hK : Keeps s0 s) : Keeps s0 tK := by
  have k := State.bringPage_keeps (s := s) (slot := slot) (plate := plate) (hK := hK)
  rw [hE] at k
  exact k

theorem State.markDirty_keeps {s0 : State} {s : State} {slot plate : Nat} (hK : Keeps s0 s) : Keeps s0 (State.markDirty s slot plate) := by
  unfold State.markDirty
  try dsimp only
  repeat' first
    | with_reducible assumption | with_reducible apply State.request_keeps | with_reducible apply Keeps.ite
    | fail_if_no_progress (with_reducible refine Keeps.upd ?_ rfl rfl) | intro _ | split | dsimp only

theorem State.noteWrite_keeps {s0 : State} {s : State} {slot plate : Nat} (hK : Keeps s0 s) : Keeps s0 (State.noteWrite s slot plate) := by
  unfold State.noteWrite
  try dsimp only
  repeat' first
    | with_reducible assumption | with_reducible apply State.modEnt_keeps | with_reducible apply State.moveAgain_keeps
    | with_reducible apply State.markDirty_keeps | with_reducible refine Keeps.mapE (by assumption) ?_
    | with_reducible apply Keeps.ite | fail_if_no_progress (with_reducible refine Keeps.upd ?_ rfl rfl) | intro _ | split
    | dsimp only

theorem State.payOwed_keeps {s0 : State} {s : State} {slot plate t : Nat} (hK : Keeps s0 s) : Keeps s0 (State.payOwed s slot plate t) := by
  unfold State.payOwed
  try dsimp only
  repeat' first
    | with_reducible assumption | with_reducible apply State.writeBe_keeps | with_reducible apply State.noteWrite_keeps
    | with_reducible apply Keeps.over | with_reducible apply Keeps.ite
    | fail_if_no_progress (with_reducible refine Keeps.upd ?_ rfl rfl) | intro _ | split | dsimp only

theorem State.fillT0_keeps {s0 : State} {s : State} {slot plate t : Nat} {d : List Byte} {bad : List Nat} {dirty : Bool} (hK : Keeps s0 s) : Keeps s0 (State.fillT0 s slot plate t d bad dirty) := by
  unfold State.fillT0
  try dsimp only
  repeat' first
    | with_reducible assumption | with_reducible apply State.writeT0_keeps | with_reducible apply State.modEnt_keeps
    | with_reducible apply State.payOwed_keeps | fail_if_no_progress (with_reducible refine Keeps.upd ?_ rfl rfl) | intro _
    | split | dsimp only

theorem State.havePage_keeps {s0 : State} {s : State} {slot plate : Nat} (hK : Keeps s0 s) : Keeps s0 (State.havePage s slot plate).1 := by
  unfold State.havePage
  try dsimp only
  repeat' first
    | with_reducible assumption | with_reducible apply State.bringPage_keeps
    | fail_if_no_progress (with_reducible refine Keeps.upd ?_ rfl rfl) | intro _ | split | dsimp only

theorem State.havePage_keepsE {s0 tK : State} {s : State} {slot plate : Nat} {y : Bool} (hE : State.havePage s slot plate = (tK, y)) (hK : Keeps s0 s) : Keeps s0 tK := by
  have k := State.havePage_keeps (s := s) (slot := slot) (plate := plate) (hK := hK)
  rw [hE] at k
  exact k

theorem State.bringPlate_keeps {s0 : State} {s : State} {slot plate : Nat} {cls : Nat} (hK : Keeps s0 s) : Keeps s0 (State.bringPlate s slot plate cls).1 := by
  unfold State.bringPlate
  try dsimp only
  repeat' first
    | with_reducible assumption | with_reducible apply State.havePage_keeps
    | with_reducible refine State.havePage_keepsE (by assumption) ?_ | with_reducible apply State.refT0_keeps
    | with_reducible apply State.takeT0_keeps | with_reducible refine State.takeT0_keepsE (by assumption) ?_
    | with_reducible apply State.storedPlate_keeps | with_reducible refine State.storedPlate_keepsE (by assumption) ?_
    | with_reducible apply State.fillT0_keeps | with_reducible apply State.pageUp_keeps
    | with_reducible refine State.pageUp_keepsE (by assumption) ?_ | with_reducible apply State.markDirty_keeps
    | with_reducible apply State.setEnt_keeps | with_reducible apply State.writeT0_keeps
    | with_reducible apply State.payOwed_keeps | with_reducible apply State.dropT0_keeps | with_reducible apply Keeps.ite
    | intro _ | split | dsimp only
theorem State.bringPlate_keepsE {s0 tK : State} {s : State} {slot plate : Nat} {cls : Nat} {y : Bool} (hE : State.bringPlate s slot plate cls = (tK, y)) (hK : Keeps s0 s) : Keeps s0 tK := by
  have k := State.bringPlate_keeps (s := s) (slot := slot) (plate := plate) (cls := cls) (hK := hK)
  rw [hE] at k
  exact k

theorem State.bringIn_keeps {s0 : State} {s : State} {slot plate : Nat} {cls : Nat} (hK : Keeps s0 s) : Keeps s0 (State.bringIn s slot plate cls).1 := by
  unfold State.bringIn
  try dsimp only
  repeat' first
    | with_reducible assumption | with_reducible apply State.bringPage_keeps
    | with_reducible refine State.bringPage_keepsE (by assumption) ?_ | with_reducible apply State.bringPlate_keeps
    | with_reducible refine State.bringPlate_keepsE (by assumption) ?_ | intro _ | split | dsimp only
theorem State.bringIn_keepsE {s0 tK : State} {s : State} {slot plate : Nat} {cls : Nat} {y : Bool} (hE : State.bringIn s slot plate cls = (tK, y)) (hK : Keeps s0 s) : Keeps s0 tK := by
  have k := State.bringIn_keeps (s := s) (slot := slot) (plate := plate) (cls := cls) (hK := hK)
  rw [hE] at k
  exact k

theorem State.plateCopy_keeps {s0 : State} {s : State} {slot plate : Nat} {cls : Nat} (hK : Keeps s0 s) : Keeps s0 (State.plateCopy s slot plate cls).1 := by
  unfold State.plateCopy
  try dsimp only
  repeat' first
    | with_reducible assumption | with_reducible apply State.storedPlate_keeps
    | with_reducible refine State.storedPlate_keepsE (by assumption) ?_ | intro _ | split | dsimp only
theorem State.plateCopy_keepsE {s0 tK : State} {s : State} {slot plate : Nat} {cls : Nat} {y : List Byte × List Nat} (hE : State.plateCopy s slot plate cls = (tK, y)) (hK : Keeps s0 s) : Keeps s0 tK := by
  have k := State.plateCopy_keeps (s := s) (slot := slot) (plate := plate) (cls := cls) (hK := hK)
  rw [hE] at k
  exact k

theorem State.mergeLine_keeps {s0 : State} {s : State} {slot plate i : Nat} {d : List Byte} {be : Nat} {poison : Bool} (hK : Keeps s0 s) : Keeps s0 (State.mergeLine s slot plate i d be poison) := by
  unfold State.mergeLine
  try dsimp only
  repeat' first
    | with_reducible assumption | with_reducible apply State.writeBe_keeps | with_reducible apply State.noteWrite_keeps | intro _
    | split | dsimp only

theorem State.oweWrite_keeps {s0 : State} {s : State} {slot line : Nat} {d : List Byte} {be : Nat} {poison : Bool} (hK : Keeps s0 s) : Keeps s0 (State.oweWrite s slot line d be poison) := by
  unfold State.oweWrite
  try dsimp only
  repeat' first
    | with_reducible assumption | with_reducible apply State.bringIn_keeps
    | with_reducible refine State.bringIn_keepsE (by assumption) ?_ | with_reducible apply State.mergeLine_keeps
    | fail_if_no_progress (with_reducible refine Keeps.upd ?_ rfl rfl) | intro _ | split | dsimp only

theorem State.retryOwed_keeps {s0 : State} {s : State} (hK : Keeps s0 s) : Keeps s0 (State.retryOwed s) := by
  unfold State.retryOwed
  try dsimp only
  repeat' first
    | with_reducible assumption | with_reducible apply State.bringIn_keeps
    | with_reducible refine State.bringIn_keepsE (by assumption) ?_ | with_reducible refine Keeps.mapE (by assumption) ?_
    | with_reducible apply Keeps.over | intro _ | split | dsimp only

theorem State.forget_keeps {s0 : State} {s : State} {slot plate : Nat} (hK : Keeps s0 s) : Keeps s0 (State.forget s slot plate) := by
  unfold State.forget
  try dsimp only
  repeat' first
    | with_reducible assumption | with_reducible apply State.dropT0_keeps | with_reducible apply State.freeAt_keeps
    | with_reducible apply State.touchMap_keeps | with_reducible refine Keeps.mapE (by assumption) ?_
    | with_reducible apply Keeps.ite | fail_if_no_progress (with_reducible refine Keeps.upd ?_ rfl rfl) | intro _ | split
    | dsimp only

theorem State.moveHome_keepsE {s0 tK : State} {s : State} {slot plate tier : Nat} {plan : Bool} (hE : State.moveHome s slot plate tier plan = some tK) (hK : Keeps s0 s) : Keeps s0 tK := by
  revert hE
  unfold State.moveHome
  try dsimp only
  repeat' first
    | with_reducible assumption | (intro hE; cases hE; done) | (intro hE; cases hE)
    | (intro hE; with_reducible refine State.encodeHome_keepsE hE ?_)
    | (intro hE; with_reducible refine State.newHome_keepsE hE ?_) | with_reducible apply State.leaveT0_keeps
    | with_reducible apply State.modEnt_keeps | with_reducible apply State.plateCopy_keeps
    | with_reducible refine State.plateCopy_keepsE (by assumption) ?_
    | with_reducible refine State.encodeHome_keepsE (by assumption) ?_ | with_reducible apply State.chargeHome_keeps
    | with_reducible apply State.readHome_keeps | with_reducible refine State.readHome_keepsE (by assumption) ?_
    | with_reducible apply State.damage_keeps | with_reducible refine State.newHome_keepsE (by assumption) ?_
    | with_reducible apply Keeps.ite | fail_if_no_progress (with_reducible refine Keeps.upd ?_ rfl rfl) | dsimp only | split
    | intro _

end Sys2Proof.Machine
end

