-- ==== Sys2Proof/Laws/KeepsHerdBase.lean ====
section
/-! SUPPORT. What the operations of Machine/HerdBase.lean keep (Keeps), one lemma per operation. -/

set_option linter.unusedTactic false
set_option linter.unreachableTactic false

namespace Sys2Proof.Machine

theorem State.needPlates_keeps {s0 : State} {s : State} {slot : Nat} {plates : List Nat} (hK : Keeps s0 s) : Keeps s0 (State.needPlates s slot plates).1 := by
  unfold State.needPlates
  try dsimp only
  repeat' first
    | with_reducible assumption | with_reducible apply State.request_keeps | with_reducible apply Keeps.foldl
    | with_reducible apply Keeps.fold | with_reducible refine Keeps.foldE (by assumption) ?_ ?_ | with_reducible apply Keeps.ite
    | fail_if_no_progress (with_reducible refine Keeps.upd ?_ rfl rfl) | intro _ | split | dsimp only
theorem State.needPlates_keepsE {s0 tK : State} {s : State} {slot : Nat} {plates : List Nat} {y : Bool} (hE : State.needPlates s slot plates = (tK, y)) (hK : Keeps s0 s) : Keeps s0 tK := by
  have k := State.needPlates_keeps (s := s) (slot := slot) (plates := plates) (hK := hK)
  rw [hE] at k
  exact k

theorem State.copyOf_keeps {s0 : State} {s : State} {slot plate : Nat} {cls : Nat} (hK : Keeps s0 s) : Keeps s0 (State.copyOf s slot plate cls).1 := by
  unfold State.copyOf
  try dsimp only
  repeat' first
    | with_reducible assumption | with_reducible apply State.plateCopy_keeps
    | with_reducible refine State.plateCopy_keepsE (by assumption) ?_ | with_reducible apply Keeps.ite
    | fail_if_no_progress (with_reducible refine Keeps.upd ?_ rfl rfl) | intro _ | split | dsimp only
theorem State.copyOf_keepsE {s0 tK : State} {s : State} {slot plate : Nat} {cls : Nat} {y : List Byte × List Nat} (hE : State.copyOf s slot plate cls = (tK, y)) (hK : Keeps s0 s) : Keeps s0 tK := by
  have k := State.copyOf_keeps (s := s) (slot := slot) (plate := plate) (cls := cls) (hK := hK)
  rw [hE] at k
  exact k

theorem State.writeHeld_keeps {s0 : State} {s : State} {slot line : Nat} {d : List Byte} {be : Nat} {poison : Bool} (hK : Keeps s0 s) : Keeps s0 (State.writeHeld s slot line d be poison) := by
  unfold State.writeHeld
  try dsimp only
  repeat' first
    | with_reducible assumption | with_reducible apply State.writeBe_keeps | with_reducible apply Keeps.ite | intro _ | split
    | dsimp only

theorem State.remoteWrite_keeps {s0 : State} {s : State} {dev slot line : Nat} {d : List Byte} {be : U64} {poison : Bool} {arg : Nat} {u : TxnUse} (hK : Keeps s0 s) : Keeps s0 (State.remoteWrite s dev slot line d be poison arg u) := by
  unfold State.remoteWrite
  try dsimp only
  repeat' first
    | with_reducible assumption | with_reducible apply State.dropCopy_keeps | with_reducible apply State.setEnt_keeps
    | with_reducible apply State.writeHeld_keeps | with_reducible apply State.request_keeps | with_reducible apply Keeps.ite
    | fail_if_no_progress (with_reducible refine Keeps.upd ?_ rfl rfl) | intro _ | split | dsimp only

theorem State.ownMark_keeps {s0 : State} {s : State} {slot plate : Nat} {u : TxnUse} (hK : Keeps s0 s) : Keeps s0 (State.ownMark s slot plate u) := by
  unfold State.ownMark
  try dsimp only
  repeat' first
    | with_reducible assumption | with_reducible apply State.request_keeps
    | fail_if_no_progress (with_reducible refine Keeps.upd ?_ rfl rfl) | intro _ | split | dsimp only

theorem State.ownMirror_keeps {s0 : State} {s : State} {slot line : Nat} {d : List Byte} {be : Nat} {poison : Bool} {u : TxnUse} (hK : Keeps s0 s) : Keeps s0 (State.ownMirror s slot line d be poison u) := by
  unfold State.ownMirror
  try dsimp only
  repeat' first
    | with_reducible assumption | with_reducible apply State.request_keeps | with_reducible apply Keeps.ite
    | fail_if_no_progress (with_reducible refine Keeps.upd ?_ rfl rfl) | intro _ | split | dsimp only

theorem State.ownWrite_keeps {s0 : State} {s : State} {slot line : Nat} {d : List Byte} {be : Nat} {poison : Bool} {u : TxnUse} (hK : Keeps s0 s) : Keeps s0 (State.ownWrite s slot line d be poison u) := by
  unfold State.ownWrite
  try dsimp only
  repeat' first
    | with_reducible assumption | with_reducible apply State.ownMark_keeps | with_reducible apply State.oweWrite_keeps
    | with_reducible apply State.ownMirror_keeps | with_reducible apply State.remoteWrite_keeps
    | with_reducible apply Keeps.ite | intro _ | split | dsimp only

end Sys2Proof.Machine
end

