-- ==== Sys2Proof/Laws/KeepsSharing.lean ====
section
/-! SUPPORT. What the operations of Machine/Sharing.lean keep (Keeps), one lemma per operation. -/

set_option linter.unusedTactic false
set_option linter.unreachableTactic false

namespace Sys2Proof.Machine

theorem State.logUnmapped_keeps {s0 : State} {s : State} {ld dpa : Nat} (hK : Keeps s0 s) : Keeps s0 (State.logUnmapped s ld dpa) := by
  unfold State.logUnmapped
  try dsimp only
  repeat' first
    | with_reducible assumption | with_reducible apply State.logRated_keeps | with_reducible apply State.modFunc_keeps
    | fail_if_no_progress (with_reducible refine Keeps.upd ?_ rfl rfl) | intro _ | split | dsimp only

theorem State.addEvent_keeps {s0 : State} {s : State} {func kind addr : Nat} (hK : Keeps s0 s) : Keeps s0 (State.addEvent s func kind addr) := by
  unfold State.addEvent
  try dsimp only
  repeat' first
    | with_reducible assumption | with_reducible apply State.modFunc_keeps | with_reducible refine Keeps.getD ?_ ?_
    | with_reducible refine Keeps.getD₂ ?_ ?_ | with_reducible apply Keeps.ite
    | fail_if_no_progress (with_reducible refine Keeps.upd ?_ rfl rfl) | intro _ | split | dsimp only

theorem State.countPoison_keeps {s0 : State} {s : State} {poison : Bool} (hK : Keeps s0 s) : Keeps s0 (State.countPoison s poison) := by
  unfold State.countPoison
  try dsimp only
  repeat' first
    | with_reducible assumption | with_reducible apply Keeps.ite
    | fail_if_no_progress (with_reducible refine Keeps.upd ?_ rfl rfl) | intro _ | split | dsimp only

theorem State.completeRemote_keeps {s0 : State} {s : State} {a : Access} {dev : Nat} {d : List Byte} {poison : Bool} (hK : Keeps s0 s) : Keeps s0 (State.completeRemote s a dev d poison) := by
  unfold State.completeRemote
  try dsimp only
  repeat' first
    | with_reducible assumption | with_reducible apply State.sendCmp_keeps | with_reducible apply State.sendData_keeps
    | with_reducible apply State.countPoison_keeps | with_reducible apply Keeps.ite | intro _ | split | dsimp only

theorem State.complete_keeps {s0 : State} {s : State} {a : Access} {d : List Byte} {poison : Bool} (hK : Keeps s0 s) : Keeps s0 (State.complete s a d poison) := by
  unfold State.complete
  try dsimp only
  repeat' first
    | with_reducible assumption | with_reducible apply State.countPoison_keeps | with_reducible apply State.completeRemote_keeps
    | with_reducible apply Keeps.emit | with_reducible apply Keeps.ite | intro _ | split | dsimp only

theorem State.answerUnmapped_keeps {s0 : State} {s : State} {a : Access} (hK : Keeps s0 s) : Keeps s0 (State.answerUnmapped s a) := by
  unfold State.answerUnmapped
  try dsimp only
  repeat' first
    | with_reducible assumption | with_reducible apply State.complete_keeps | intro _ | split | dsimp only

theorem State.setDir_keeps {s0 : State} {s : State} {slot line : Nat} {e : Option DirEnt} (hK : Keeps s0 s) : Keeps s0 (State.setDir s slot line e) := by
  unfold State.setDir
  try dsimp only
  repeat' first
    | with_reducible assumption | with_reducible apply Keeps.ite
    | fail_if_no_progress (with_reducible refine Keeps.upd ?_ rfl rfl) | intro _ | split | dsimp only

theorem State.setDirIf_keeps {s0 : State} {s : State} {p : Bool} {slot line : Nat} {e : Option DirEnt} (hK : Keeps s0 s) : Keeps s0 (State.setDirIf s p slot line e) := by
  unfold State.setDirIf
  try dsimp only
  repeat' first
    | with_reducible assumption | with_reducible apply State.setDir_keeps | with_reducible apply Keeps.ite | intro _ | split
    | dsimp only

theorem State.remoteSharer_keeps {s0 : State} {s : State} {slot dev ld : Nat} (hK : Keeps s0 s) : Keeps s0 (State.remoteSharer s slot dev ld).1 := by
  unfold State.remoteSharer
  try dsimp only
  repeat' first
    | with_reducible assumption | with_reducible refine Keeps.mapE (by assumption) ?_
    | fail_if_no_progress (with_reducible refine Keeps.upd ?_ rfl rfl) | intro _ | split | dsimp only
theorem State.remoteSharer_keepsE {s0 tK : State} {s : State} {slot dev ld : Nat} {y : Option Nat} (hE : State.remoteSharer s slot dev ld = (tK, y)) (hK : Keeps s0 s) : Keeps s0 tK := by
  have k := State.remoteSharer_keeps (s := s) (slot := slot) (dev := dev) (ld := ld) (hK := hK)
  rw [hE] at k
  exact k

theorem State.sendSnoopTo_keeps {s0 : State} {s : State} {slot line sharer ld : Nat} {inv : Bool} {owner sealing : Option Nat} (hK : Keeps s0 s) : Keeps s0 (State.sendSnoopTo s slot line sharer ld inv owner sealing) := by
  unfold State.sendSnoopTo
  try dsimp only
  repeat' first
    | with_reducible assumption | with_reducible apply State.charge_keeps | with_reducible apply State.sendMsg_keeps
    | with_reducible apply Keeps.emit | with_reducible apply Keeps.ite
    | fail_if_no_progress (with_reducible refine Keeps.upd ?_ rfl rfl) | intro _ | split | dsimp only

theorem State.sendSnoop_keeps {s0 : State} {s : State} {slot line sharer : Nat} {inv : Bool} {owner sealing : Option Nat} (hK : Keeps s0 s) : Keeps s0 (State.sendSnoop s slot line sharer inv owner sealing) := by
  unfold State.sendSnoop
  try dsimp only
  repeat' first
    | with_reducible assumption | with_reducible apply State.sendSnoopTo_keeps | intro _ | split | dsimp only

theorem State.recallEntry_keeps {s0 : State} {s : State} {slot line : Nat} {e : DirEnt} {owner : Option Nat} (hK : Keeps s0 s) : Keeps s0 (State.recallEntry s slot line e owner) := by
  unfold State.recallEntry
  try dsimp only
  repeat' first
    | with_reducible assumption | with_reducible apply State.sendSnoop_keeps | with_reducible apply Keeps.over | intro _ | split
    | dsimp only

theorem State.loseLine_keeps {s0 : State} {s : State} {slot line sharer ld : Nat} (hK : Keeps s0 s) : Keeps s0 (State.loseLine s slot line sharer ld) := by
  unfold State.loseLine
  try dsimp only
  repeat' first
    | with_reducible assumption | with_reducible apply State.oweWrite_keeps | with_reducible apply State.logE_keeps
    | with_reducible apply State.addEvent_keeps | with_reducible refine Keeps.mapE (by assumption) ?_
    | with_reducible apply Keeps.over | with_reducible apply Keeps.ite
    | fail_if_no_progress (with_reducible refine Keeps.upd ?_ rfl rfl) | intro _ | split | dsimp only

theorem State.dropHolder_keeps {s0 : State} {s : State} {slot line sharer ld : Nat} (hK : Keeps s0 s) : Keeps s0 (State.dropHolder s slot line sharer ld).1 := by
  unfold State.dropHolder
  try dsimp only
  repeat' first
    | with_reducible assumption | with_reducible apply State.setDir_keeps | with_reducible apply State.loseLine_keeps
    | with_reducible apply Keeps.ite | fail_if_no_progress (with_reducible refine Keeps.upd ?_ rfl rfl) | intro _ | split
    | dsimp only
theorem State.dropHolder_keepsE {s0 tK : State} {s : State} {slot line sharer ld : Nat} {y : Bool} (hE : State.dropHolder s slot line sharer ld = (tK, y)) (hK : Keeps s0 s) : Keeps s0 tK := by
  have k := State.dropHolder_keeps (s := s) (slot := slot) (line := line) (sharer := sharer) (ld := ld) (hK := hK)
  rw [hE] at k
  exact k

theorem State.setCopy_keeps {s0 : State} {s : State} {id : Nat} {m : Impr} {i : Nat} {c : CopyEnt} (hK : Keeps s0 s) : Keeps s0 (State.setCopy s id m i c) := by
  unfold State.setCopy
  try dsimp only
  repeat' first
    | with_reducible assumption | with_reducible apply State.oweWrite_keeps
    | with_reducible refine Keeps.mapE (by assumption) ?_ | fail_if_no_progress (with_reducible refine Keeps.upd ?_ rfl rfl)
    | intro _ | split | dsimp only

theorem State.copyFor_keeps {s0 : State} {s : State} {id : Nat} {m : Impr} {plate : Nat} (hK : Keeps s0 s) : Keeps s0 (State.copyFor s id m plate) := by
  unfold State.copyFor
  try dsimp only
  repeat' first
    | with_reducible assumption | with_reducible apply State.setCopy_keeps | with_reducible apply State.logE_keeps
    | with_reducible apply State.plateCopy_keeps | with_reducible refine State.plateCopy_keepsE (by assumption) ?_
    | with_reducible apply State.forget_keeps | with_reducible apply State.oweWrite_keeps
    | with_reducible refine Keeps.mapE (by assumption) ?_ | with_reducible apply Keeps.over | with_reducible apply Keeps.ite
    | fail_if_no_progress (with_reducible refine Keeps.upd ?_ rfl rfl) | intro _ | split | dsimp only

theorem State.preserve_keeps {s0 : State} {s : State} {slot plate : Nat} (hK : Keeps s0 s) : Keeps s0 (State.preserve s slot plate) := by
  unfold State.preserve
  try dsimp only
  repeat' first
    | with_reducible assumption | with_reducible apply State.copyFor_keeps | with_reducible refine Keeps.mapE (by assumption) ?_
    | with_reducible apply Keeps.over | intro _ | split | dsimp only

theorem State.clearLine_keeps {s0 : State} {s : State} {slot line : Nat} {write : Bool} (hK : Keeps s0 s) : Keeps s0 (State.clearLine s slot line write).1 := by
  unfold State.clearLine
  try dsimp only
  repeat' first
    | with_reducible assumption | with_reducible apply State.setDir_keeps | with_reducible apply State.sendSnoop_keeps
    | with_reducible apply Keeps.over | with_reducible apply Keeps.ite | intro _ | split | dsimp only
theorem State.clearLine_keepsE {s0 tK : State} {s : State} {slot line : Nat} {write : Bool} {y : Bool} (hE : State.clearLine s slot line write = (tK, y)) (hK : Keeps s0 s) : Keeps s0 tK := by
  have k := State.clearLine_keeps (s := s) (slot := slot) (line := line) (write := write) (hK := hK)
  rw [hE] at k
  exact k

theorem State.clearLines_keeps {s0 : State} {s : State} {slot : Nat} {lines : List Nat} {write : Bool} (hK : Keeps s0 s) : Keeps s0 (State.clearLines s slot lines write).1 := by
  unfold State.clearLines
  try dsimp only
  repeat' first
    | with_reducible assumption | with_reducible apply State.clearLine_keeps
    | with_reducible refine State.clearLine_keepsE (by assumption) ?_ | with_reducible apply Keeps.foldl
    | with_reducible apply Keeps.fold | with_reducible refine Keeps.foldE (by assumption) ?_ ?_ | intro _ | split | dsimp only
theorem State.clearLines_keepsE {s0 tK : State} {s : State} {slot : Nat} {lines : List Nat} {write : Bool} {y : Bool} (hE : State.clearLines s slot lines write = (tK, y)) (hK : Keeps s0 s) : Keeps s0 tK := by
  have k := State.clearLines_keeps (s := s) (slot := slot) (lines := lines) (write := write) (hK := hK)
  rw [hE] at k
  exact k

end Sys2Proof.Machine
end

