-- ==== Sys2Proof/Laws/KeepsOperators.lean ====
section
/-! SUPPORT. What the operations of Machine/Operators.lean keep (Keeps), one lemma per operation. -/

set_option linter.unusedTactic false
set_option linter.unreachableTactic false

namespace Sys2Proof.Machine

theorem State.readWork_keeps {s0 : State} {s : State} {id l : Nat} (hK : Keeps s0 s) : Keeps s0 (State.readWork s id l).1 := by
  unfold State.readWork
  try dsimp only
  repeat' first
    | with_reducible assumption | with_reducible apply State.readLine_keeps
    | with_reducible refine State.readLine_keepsE (by assumption) ?_ | with_reducible apply Keeps.ite | intro _ | split
    | dsimp only
theorem State.readWork_keepsE {s0 tK : State} {s : State} {id l : Nat} {y : List Byte × Bool} (hE : State.readWork s id l = (tK, y)) (hK : Keeps s0 s) : Keeps s0 tK := by
  have k := State.readWork_keeps (s := s) (id := id) (l := l) (hK := hK)
  rw [hE] at k
  exact k

theorem State.writeWork_keeps {s0 : State} {s : State} {id l : Nat} {d : List Byte} {poison : Bool} (hK : Keeps s0 s) : Keeps s0 (State.writeWork s id l d poison) := by
  unfold State.writeWork
  try dsimp only
  repeat' first
    | with_reducible assumption | with_reducible apply State.charge_keeps | with_reducible apply State.writeLine_keeps
    | with_reducible refine Keeps.bindE (by assumption) ?_ | with_reducible refine Keeps.bindS (by assumption) ?_
    | with_reducible apply Keeps.ite | intro _ | split | dsimp only

theorem State.readWorkN_keeps {s0 : State} {s : State} {id l n : Nat} (hK : Keeps s0 s) : Keeps s0 (State.readWorkN s id l n).1 := by
  unfold State.readWorkN
  try dsimp only
  repeat' first
    | with_reducible assumption | with_reducible apply State.readWork_keeps
    | with_reducible refine State.readWork_keepsE (by assumption) ?_ | with_reducible apply Keeps.foldl
    | with_reducible apply Keeps.fold | with_reducible refine Keeps.foldE (by assumption) ?_ ?_ | intro _ | split | dsimp only
theorem State.readWorkN_keepsE {s0 tK : State} {s : State} {id l n : Nat} {y : List Byte × Bool} (hE : State.readWorkN s id l n = (tK, y)) (hK : Keeps s0 s) : Keeps s0 tK := by
  have k := State.readWorkN_keeps (s := s) (id := id) (l := l) (n := n) (hK := hK)
  rw [hE] at k
  exact k

theorem State.writeWorkN_keeps {s0 : State} {s : State} {id l : Nat} {d : List Byte} {poison : Bool} (hK : Keeps s0 s) : Keeps s0 (State.writeWorkN s id l d poison) := by
  unfold State.writeWorkN
  try dsimp only
  repeat' first
    | with_reducible assumption | with_reducible apply State.writeWork_keeps | with_reducible apply Keeps.over | intro _ | split
    | dsimp only

theorem State.chargeWork_keeps {s0 : State} {s : State} {slot id l n : Nat} (hK : Keeps s0 s) : Keeps s0 (State.chargeWork s slot id l n) := by
  unfold State.chargeWork
  try dsimp only
  repeat' first
    | with_reducible assumption | with_reducible apply State.charge_keeps | intro _ | split | dsimp only

theorem State.chargeHalf_keeps {s0 : State} {s : State} {slot die n : Nat} (hK : Keeps s0 s) : Keeps s0 (State.chargeHalf s slot die n) := by
  unfold State.chargeHalf
  try dsimp only
  repeat' first
    | with_reducible assumption | with_reducible apply State.charge_keeps | with_reducible refine Keeps.getD ?_ ?_
    | with_reducible refine Keeps.getD₂ ?_ ?_ | fail_if_no_progress (with_reducible refine Keeps.upd ?_ rfl rfl) | intro _
    | split | dsimp only

theorem State.modBinding_keeps {s0 : State} {s : State} {id : Nat} {g : Binding → Binding} (hK : Keeps s0 s) : Keeps s0 (State.modBinding s id g) := by
  unfold State.modBinding
  try dsimp only
  repeat' first
    | with_reducible assumption | with_reducible refine Keeps.bindE (by assumption) ?_
    | with_reducible refine Keeps.bindS (by assumption) ?_ | fail_if_no_progress (with_reducible refine Keeps.upd ?_ rfl rfl)
    | intro _ | split | dsimp only

theorem State.foldDigest_keeps {s0 : State} {s : State} {slot line addr be : Nat} {d : List Byte} (hK : Keeps s0 s) : Keeps s0 (State.foldDigest s slot line addr be d) := by
  unfold State.foldDigest
  try dsimp only
  repeat' first
    | with_reducible assumption | with_reducible refine Keeps.mapE (by assumption) ?_ | with_reducible apply Keeps.ite
    | fail_if_no_progress (with_reducible refine Keeps.upd ?_ rfl rfl) | intro _ | split | dsimp only

theorem State.targetWrite_keeps {s0 : State} {s : State} {slot line : Nat} (hK : Keeps s0 s) : Keeps s0 (State.targetWrite s slot line) := by
  unfold State.targetWrite
  try dsimp only
  repeat' first
    | with_reducible assumption | with_reducible apply State.logRated_keeps
    | with_reducible refine Keeps.bindE (by assumption) ?_ | with_reducible refine Keeps.bindS (by assumption) ?_
    | with_reducible apply Keeps.over | fail_if_no_progress (with_reducible refine Keeps.upd ?_ rfl rfl) | intro _ | split
    | dsimp only

theorem State.foldPlain_keeps {s0 : State} {s : State} {slot line : Nat} {d : List Byte} {be : Nat} (hK : Keeps s0 s) : Keeps s0 (State.foldPlain s slot line d be) := by
  unfold State.foldPlain
  try dsimp only
  repeat' first
    | with_reducible assumption | with_reducible apply State.foldDigest_keeps | intro _ | split | dsimp only

theorem State.readPart_keeps {s0 : State} {s : State} {slot plate : Nat} {lines : List Nat} (hK : Keeps s0 s) : Keeps s0 (State.readPart s slot plate lines).1 := by
  unfold State.readPart
  try dsimp only
  repeat' first
    | with_reducible assumption | with_reducible apply State.bringIn_keeps
    | with_reducible refine State.bringIn_keepsE (by assumption) ?_ | with_reducible apply State.readT0_keeps
    | with_reducible refine State.readT0_keepsE (by assumption) ?_ | with_reducible apply State.copyOf_keeps
    | with_reducible refine State.copyOf_keepsE (by assumption) ?_ | with_reducible apply Keeps.foldl
    | with_reducible apply Keeps.fold | with_reducible refine Keeps.foldE (by assumption) ?_ ?_ | intro _ | split | dsimp only
theorem State.readPart_keepsE {s0 tK : State} {s : State} {slot plate : Nat} {lines : List Nat} {y : List Byte × Bool × Bool} (hE : State.readPart s slot plate lines = (tK, y)) (hK : Keeps s0 s) : Keeps s0 tK := by
  have k := State.readPart_keeps (s := s) (slot := slot) (plate := plate) (lines := lines) (hK := hK)
  rw [hE] at k
  exact k

theorem State.readRegion_keeps {s0 : State} {s : State} {slot : Nat} {r : Nat × Nat} (hK : Keeps s0 s) : Keeps s0 (State.readRegion s slot r).1 := by
  unfold State.readRegion
  try dsimp only
  repeat' first
    | with_reducible assumption | with_reducible apply State.readPart_keeps
    | with_reducible refine State.readPart_keepsE (by assumption) ?_ | with_reducible apply Keeps.foldl
    | with_reducible apply Keeps.fold | with_reducible refine Keeps.foldE (by assumption) ?_ ?_ | intro _ | split | dsimp only
theorem State.readRegion_keepsE {s0 tK : State} {s : State} {slot : Nat} {r : Nat × Nat} {y : List Byte × Bool × Bool} (hE : State.readRegion s slot r = (tK, y)) (hK : Keeps s0 s) : Keeps s0 tK := by
  have k := State.readRegion_keeps (s := s) (slot := slot) (r := r) (hK := hK)
  rw [hE] at k
  exact k

theorem State.readRegions_keeps {s0 : State} {s : State} {slot : Nat} {rs : List (Nat × Nat)} (hK : Keeps s0 s) : Keeps s0 (State.readRegions s slot rs).1 := by
  unfold State.readRegions
  try dsimp only
  repeat' first
    | with_reducible assumption | with_reducible apply State.needPlates_keeps
    | with_reducible refine State.needPlates_keepsE (by assumption) ?_ | with_reducible apply State.readRegion_keeps
    | with_reducible refine State.readRegion_keepsE (by assumption) ?_ | with_reducible apply Keeps.foldl
    | with_reducible apply Keeps.fold | with_reducible refine Keeps.foldE (by assumption) ?_ ?_ | intro _ | split | dsimp only
theorem State.readRegions_keepsE {s0 tK : State} {s : State} {slot : Nat} {rs : List (Nat × Nat)} {y : List (List Byte × Bool) × Bool} (hE : State.readRegions s slot rs = (tK, y)) (hK : Keeps s0 s) : Keeps s0 tK := by
  have k := State.readRegions_keeps (s := s) (slot := slot) (rs := rs) (hK := hK)
  rw [hE] at k
  exact k

theorem State.regionsIn_keeps {s0 : State} {s : State} {slot : Nat} {rs : List (Nat × Nat)} (hK : Keeps s0 s) : Keeps s0 (State.regionsIn s slot rs).1 := by
  unfold State.regionsIn
  try dsimp only
  repeat' first
    | with_reducible assumption | with_reducible apply State.bringIn_keeps
    | with_reducible refine State.bringIn_keepsE (by assumption) ?_ | with_reducible apply Keeps.foldl
    | with_reducible apply Keeps.fold | with_reducible refine Keeps.foldE (by assumption) ?_ ?_
    | with_reducible apply Keeps.ite | intro _ | split | dsimp only
theorem State.regionsIn_keepsE {s0 tK : State} {s : State} {slot : Nat} {rs : List (Nat × Nat)} {y : Bool} (hE : State.regionsIn s slot rs = (tK, y)) (hK : Keeps s0 s) : Keeps s0 tK := by
  have k := State.regionsIn_keeps (s := s) (slot := slot) (rs := rs) (hK := hK)
  rw [hE] at k
  exact k

theorem State.writeRegion_keeps {s0 : State} {s : State} {id slot : Nat} {r : Nat × Nat} {d : List Byte} {mask : Nat → Bool} {poison : Bool} (hK : Keeps s0 s) : Keeps s0 (State.writeRegion s id slot r d mask poison) := by
  unfold State.writeRegion
  try dsimp only
  repeat' first
    | with_reducible assumption | with_reducible apply State.preserve_keeps | with_reducible apply State.foldDigest_keeps
    | with_reducible apply State.ownWrite_keeps | with_reducible refine Keeps.mapE (by assumption) ?_
    | with_reducible refine Keeps.getD ?_ ?_ | with_reducible refine Keeps.getD₂ ?_ ?_ | with_reducible apply Keeps.over
    | with_reducible apply Keeps.ite | intro _ | split | dsimp only

theorem State.clearUnit_keeps {s0 : State} {s : State} {b : Binding} {u : Nat} (hK : Keeps s0 s) : Keeps s0 (State.clearUnit s b u).1 := by
  unfold State.clearUnit
  try dsimp only
  repeat' first
    | with_reducible assumption | with_reducible apply State.clearLines_keeps
    | with_reducible refine State.clearLines_keepsE (by assumption) ?_ | intro _ | split | dsimp only
theorem State.clearUnit_keepsE {s0 tK : State} {s : State} {b : Binding} {u : Nat} {y : Bool} (hE : State.clearUnit s b u = (tK, y)) (hK : Keeps s0 s) : Keeps s0 tK := by
  have k := State.clearUnit_keeps (s := s) (b := b) (u := u) (hK := hK)
  rw [hE] at k
  exact k

theorem State.sumOfUnit_keeps {s0 : State} {s : State} {id : Nat} {b : Binding} {u : Nat} {held : List Nat} {t : List U32} (hK : Keeps s0 s) : Keeps s0 (State.sumOfUnit s id b u held t).1 := by
  unfold State.sumOfUnit
  try dsimp only
  repeat' first
    | with_reducible assumption | with_reducible apply State.readWork_keeps
    | with_reducible refine State.readWork_keepsE (by assumption) ?_ | with_reducible apply State.readWorkN_keeps
    | with_reducible refine State.readWorkN_keepsE (by assumption) ?_ | with_reducible apply State.chargeWork_keeps
    | with_reducible refine Keeps.mapE (by assumption) ?_ | with_reducible refine Keeps.getD ?_ ?_
    | with_reducible refine Keeps.getD₂ ?_ ?_ | with_reducible apply Keeps.foldl | with_reducible apply Keeps.fold
    | with_reducible refine Keeps.foldE (by assumption) ?_ ?_ | with_reducible apply Keeps.ite | intro _ | split | dsimp only
theorem State.sumOfUnit_keepsE {s0 tK : State} {s : State} {id : Nat} {b : Binding} {u : Nat} {held : List Nat} {t : List U32} {y : List U32 × Bool} (hE : State.sumOfUnit s id b u held t = (tK, y)) (hK : Keeps s0 s) : Keeps s0 tK := by
  have k := State.sumOfUnit_keeps (s := s) (id := id) (b := b) (u := u) (held := held) (t := t) (hK := hK)
  rw [hE] at k
  exact k

theorem State.unitDone_keeps {s0 : State} {s : State} {id u : Nat} {poison : Bool} (hK : Keeps s0 s) : Keeps s0 (State.unitDone s id u poison) := by
  unfold State.unitDone
  try dsimp only
  repeat' first
    | with_reducible assumption | with_reducible apply State.modBinding_keeps | with_reducible refine Keeps.getD ?_ ?_
    | with_reducible refine Keeps.getD₂ ?_ ?_ | with_reducible apply Keeps.foldl | with_reducible apply Keeps.fold
    | with_reducible refine Keeps.foldE (by assumption) ?_ ?_
    | fail_if_no_progress (with_reducible refine Keeps.upd ?_ rfl rfl) | intro _ | split | dsimp only

theorem State.finishUnit_keeps {s0 : State} {s : State} {id u : Nat} {bad : Bool} (hK : Keeps s0 s) : Keeps s0 (State.finishUnit s id u bad).1 := by
  unfold State.finishUnit
  try dsimp only
  repeat' first
    | with_reducible assumption | with_reducible apply State.clearUnit_keeps
    | with_reducible refine State.clearUnit_keepsE (by assumption) ?_ | with_reducible apply State.readRegions_keeps
    | with_reducible refine State.readRegions_keepsE (by assumption) ?_ | with_reducible apply State.regionsIn_keeps
    | with_reducible refine State.regionsIn_keepsE (by assumption) ?_ | with_reducible apply State.readWorkN_keeps
    | with_reducible refine State.readWorkN_keepsE (by assumption) ?_ | with_reducible apply State.sumOfUnit_keeps
    | with_reducible refine State.sumOfUnit_keepsE (by assumption) ?_ | with_reducible apply State.chargeHalf_keeps
    | with_reducible apply State.writeRegion_keeps | with_reducible apply State.writeWorkN_keeps
    | with_reducible apply State.unitDone_keeps | with_reducible refine Keeps.mapE (by assumption) ?_
    | with_reducible refine Keeps.bindE (by assumption) ?_ | with_reducible refine Keeps.bindS (by assumption) ?_
    | with_reducible refine Keeps.getD ?_ ?_ | with_reducible refine Keeps.getD₂ ?_ ?_ | with_reducible apply Keeps.over
    | with_reducible apply Keeps.ite | fail_if_no_progress (with_reducible refine Keeps.upd ?_ rfl rfl) | intro _ | split
    | dsimp only
theorem State.finishUnit_keepsE {s0 tK : State} {s : State} {id u : Nat} {bad : Bool} {y : Bool} (hE : State.finishUnit s id u bad = (tK, y)) (hK : Keeps s0 s) : Keeps s0 tK := by
  have k := State.finishUnit_keeps (s := s) (id := id) (u := u) (bad := bad) (hK := hK)
  rw [hE] at k
  exact k

theorem State.completeUnit_keeps {s0 : State} {s : State} {id u : Nat} {bad : Bool} (hK : Keeps s0 s) : Keeps s0 (State.completeUnit s id u bad) := by
  unfold State.completeUnit
  try dsimp only
  repeat' first
    | with_reducible assumption | with_reducible apply State.readWorkN_keeps
    | with_reducible refine State.readWorkN_keepsE (by assumption) ?_ | with_reducible apply State.writeWorkN_keeps
    | with_reducible apply State.modBinding_keeps | with_reducible apply State.finishUnit_keeps
    | with_reducible refine State.finishUnit_keepsE (by assumption) ?_ | with_reducible refine Keeps.bindE (by assumption) ?_
    | with_reducible refine Keeps.bindS (by assumption) ?_ | with_reducible apply Keeps.ite
    | fail_if_no_progress (with_reducible refine Keeps.upd ?_ rfl rfl) | intro _ | split | dsimp only

theorem State.retryFinishes_keeps {s0 : State} {s : State} (hK : Keeps s0 s) : Keeps s0 (State.retryFinishes s) := by
  unfold State.retryFinishes
  try dsimp only
  repeat' first
    | with_reducible assumption | with_reducible apply State.finishUnit_keeps
    | with_reducible refine State.finishUnit_keepsE (by assumption) ?_ | with_reducible refine Keeps.bindE (by assumption) ?_
    | with_reducible refine Keeps.bindS (by assumption) ?_ | with_reducible apply Keeps.over | intro _ | split | dsimp only

theorem State.dropContrib_keeps {s0 : State} {s : State} {id : Nat} {b : Binding} {u j step : Nat} (hK : Keeps s0 s) : Keeps s0 (State.dropContrib s id b u j step) := by
  unfold State.dropContrib
  try dsimp only
  repeat' first
    | with_reducible assumption | with_reducible apply State.logRated_keeps | with_reducible apply Keeps.ite
    | fail_if_no_progress (with_reducible refine Keeps.upd ?_ rfl rfl) | intro _ | split | dsimp only

theorem State.snapUnit_keeps {s0 : State} {s : State} {b : Binding} {u : Nat} (hK : Keeps s0 s) : Keeps s0 (State.snapUnit s b u).1 := by
  unfold State.snapUnit
  try dsimp only
  repeat' first
    | with_reducible assumption | with_reducible apply State.readRegions_keeps
    | with_reducible refine State.readRegions_keepsE (by assumption) ?_ | with_reducible apply Keeps.ite | intro _ | split
    | dsimp only
theorem State.snapUnit_keepsE {s0 tK : State} {s : State} {b : Binding} {u : Nat} {y : List (List Byte × Bool)} (hE : State.snapUnit s b u = (tK, y)) (hK : Keeps s0 s) : Keeps s0 tK := by
  have k := State.snapUnit_keeps (s := s) (b := b) (u := u) (hK := hK)
  rw [hE] at k
  exact k

theorem State.contribReady_keeps {s0 : State} {s : State} {id j off be : Nat} (hK : Keeps s0 s) : Keeps s0 (State.contribReady s id j off be).1 := by
  unfold State.contribReady
  try dsimp only
  repeat' first
    | with_reducible assumption | with_reducible apply State.needPlates_keeps
    | with_reducible refine State.needPlates_keepsE (by assumption) ?_ | with_reducible apply State.regionsIn_keeps
    | with_reducible refine State.regionsIn_keepsE (by assumption) ?_ | with_reducible refine Keeps.bindE (by assumption) ?_
    | with_reducible refine Keeps.bindS (by assumption) ?_ | with_reducible apply Keeps.ite | intro _ | split | dsimp only
theorem State.contribReady_keepsE {s0 tK : State} {s : State} {id j off be : Nat} {y : Bool} (hE : State.contribReady s id j off be = (tK, y)) (hK : Keeps s0 s) : Keeps s0 tK := by
  have k := State.contribReady_keeps (s := s) (id := id) (j := j) (off := off) (be := be) (hK := hK)
  rw [hE] at k
  exact k

theorem State.combine_keeps {s0 : State} {s : State} {id : Nat} {b : Binding} {u j : Nat} {first : Bool} {d : List Byte} {poison : Bool} {snap : List (List Byte × Bool)} (hK : Keeps s0 s) : Keeps s0 (State.combine s id b u j first d poison snap) := by
  unfold State.combine
  try dsimp only
  repeat' first
    | with_reducible assumption | with_reducible apply State.writeWork_keeps | with_reducible apply State.readWorkN_keeps
    | with_reducible refine State.readWorkN_keepsE (by assumption) ?_ | with_reducible apply State.writeWorkN_keeps
    | with_reducible refine Keeps.mapE (by assumption) ?_ | with_reducible refine Keeps.getD ?_ ?_
    | with_reducible refine Keeps.getD₂ ?_ ?_ | with_reducible apply Keeps.ite | intro _ | split | dsimp only

theorem State.contribute_keeps {s0 : State} {s : State} {id j off : Nat} {d : List Byte} {be : Nat} {poison : Bool} (hK : Keeps s0 s) : Keeps s0 (State.contribute s id j off d be poison) := by
  unfold State.contribute
  try dsimp only
  repeat' first
    | with_reducible assumption | with_reducible apply State.readWorkN_keeps
    | with_reducible refine State.readWorkN_keepsE (by assumption) ?_ | with_reducible apply State.chargeWork_keeps
    | with_reducible apply State.chargeHalf_keeps | with_reducible apply State.dropContrib_keeps
    | with_reducible apply State.writeWorkN_keeps | with_reducible apply State.completeUnit_keeps
    | with_reducible apply State.snapUnit_keeps | with_reducible refine State.snapUnit_keepsE (by assumption) ?_
    | with_reducible apply State.modBinding_keeps | with_reducible apply State.combine_keeps
    | with_reducible apply State.foldDigest_keeps | with_reducible refine Keeps.bindE (by assumption) ?_
    | with_reducible refine Keeps.bindS (by assumption) ?_ | with_reducible refine Keeps.getD ?_ ?_
    | with_reducible refine Keeps.getD₂ ?_ ?_ | with_reducible apply Keeps.over | with_reducible apply Keeps.ite
    | fail_if_no_progress (with_reducible refine Keeps.upd ?_ rfl rfl) | intro _ | split | dsimp only

theorem State.closeUnit_keeps {s0 : State} {s : State} {id u : Nat} (hK : Keeps s0 s) : Keeps s0 (State.closeUnit s id u).1 := by
  unfold State.closeUnit
  try dsimp only
  repeat' first
    | with_reducible assumption | with_reducible apply State.readWorkN_keeps
    | with_reducible refine State.readWorkN_keepsE (by assumption) ?_ | with_reducible apply State.chargeWork_keeps
    | with_reducible apply State.modBinding_keeps | with_reducible apply State.writeWorkN_keeps
    | with_reducible apply State.unitDone_keeps | with_reducible apply State.completeUnit_keeps
    | with_reducible apply State.clearUnit_keeps | with_reducible refine State.clearUnit_keepsE (by assumption) ?_
    | with_reducible apply State.regionsIn_keeps | with_reducible refine State.regionsIn_keepsE (by assumption) ?_
    | with_reducible apply State.writeRegion_keeps | with_reducible refine Keeps.bindE (by assumption) ?_
    | with_reducible refine Keeps.bindS (by assumption) ?_ | with_reducible apply Keeps.over | with_reducible apply Keeps.ite
    | fail_if_no_progress (with_reducible refine Keeps.upd ?_ rfl rfl) | intro _ | split | dsimp only
theorem State.closeUnit_keepsE {s0 tK : State} {s : State} {id u : Nat} {y : Option Nat} (hE : State.closeUnit s id u = (tK, y)) (hK : Keeps s0 s) : Keeps s0 tK := by
  have k := State.closeUnit_keeps (s := s) (id := id) (u := u) (hK := hK)
  rw [hE] at k
  exact k

theorem State.roundComplete_keeps {s0 : State} {s : State} {id : Nat} (hK : Keeps s0 s) : Keeps s0 (State.roundComplete s id) := by
  unfold State.roundComplete
  try dsimp only
  repeat' first
    | with_reducible assumption | with_reducible apply State.pulse_keeps | with_reducible apply State.modBinding_keeps
    | with_reducible apply Keeps.emit | with_reducible refine Keeps.bindE (by assumption) ?_
    | with_reducible refine Keeps.bindS (by assumption) ?_ | with_reducible apply Keeps.ite
    | fail_if_no_progress (with_reducible refine Keeps.upd ?_ rfl rfl) | intro _ | split | dsimp only

end Sys2Proof.Machine
end

