-- ==== Sys2Proof/Laws/KeepsAccess.lean ====
section
/-! SUPPORT. What the operations of Machine/Access.lean keep (Keeps), one lemma per operation. -/

set_option linter.unusedTactic false
set_option linter.unreachableTactic false

namespace Sys2Proof.Machine

theorem State.startRebuild_keeps {s0 : State} {s : State} {slot plate : Nat} {r : HdomRec} (hK : Keeps s0 s) : Keeps s0 (State.startRebuild s slot plate r) := by
  unfold State.startRebuild
  try dsimp only
  repeat' first
    | with_reducible assumption | with_reducible apply State.setEnt_keeps | with_reducible apply State.request_keeps
    | fail_if_no_progress (with_reducible refine Keeps.upd ?_ rfl rfl) | intro _ | split | dsimp only

theorem State.settle_keeps {s0 : State} {s : State} {slot plate : Nat} (hK : Keeps s0 s) : Keeps s0 (State.settle s slot plate) := by
  unfold State.settle
  try dsimp only
  repeat' first
    | with_reducible assumption | with_reducible apply State.setEnt_keeps | with_reducible apply State.startRebuild_keeps
    | with_reducible apply Keeps.ite | intro _ | split | dsimp only

theorem State.startFill_keeps {s0 : State} {s : State} {slot plate line : Nat} {e : MapEnt} (hK : Keeps s0 s) : Keeps s0 (State.startFill s slot plate line e) := by
  unfold State.startFill
  try dsimp only
  repeat' first
    | with_reducible assumption | with_reducible apply State.havePage_keeps
    | with_reducible refine State.havePage_keepsE (by assumption) ?_ | with_reducible apply State.takeT0_keeps
    | with_reducible refine State.takeT0_keepsE (by assumption) ?_ | with_reducible apply State.expandHome_keeps
    | with_reducible refine State.expandHome_keepsE (by assumption) ?_ | with_reducible apply State.fillT0_keeps
    | with_reducible apply State.dropT0_keeps | with_reducible apply State.chargeHome_keeps
    | with_reducible apply State.charge_keeps | with_reducible apply State.newJob_keeps
    | with_reducible apply State.beginRead_keeps | with_reducible apply Keeps.ite
    | fail_if_no_progress (with_reducible refine Keeps.upd ?_ rfl rfl) | intro _ | split | dsimp only

theorem State.readPlateLine_keeps {s0 : State} {s : State} {ld slot plate i : Nat} (hK : Keeps s0 s) : Keeps s0 (State.readPlateLine s ld slot plate i).1 := by
  unfold State.readPlateLine
  try dsimp only
  repeat' first
    | with_reducible assumption | with_reducible apply State.refT0_keeps | with_reducible apply State.modEnt_keeps
    | with_reducible apply State.readT0_keeps | with_reducible refine State.readT0_keepsE (by assumption) ?_
    | with_reducible apply State.addEvent_keeps | with_reducible refine Keeps.getD ?_ ?_
    | with_reducible refine Keeps.getD₂ ?_ ?_ | with_reducible apply Keeps.ite
    | fail_if_no_progress (with_reducible refine Keeps.upd ?_ rfl rfl) | intro _ | split | dsimp only
theorem State.readPlateLine_keepsE {s0 tK : State} {s : State} {ld slot plate i : Nat} {y : List Byte × Bool} (hE : State.readPlateLine s ld slot plate i = (tK, y)) (hK : Keeps s0 s) : Keeps s0 tK := by
  have k := State.readPlateLine_keeps (s := s) (ld := ld) (slot := slot) (plate := plate) (i := i) (hK := hK)
  rw [hE] at k
  exact k

theorem State.readPinned_keeps {s0 : State} {s : State} {slot ext off : Nat} (hK : Keeps s0 s) : Keeps s0 (State.readPinned s slot ext off).1 := by
  unfold State.readPinned
  try dsimp only
  repeat' first
    | with_reducible assumption | with_reducible apply State.charge_keeps | with_reducible apply State.readLine_keeps
    | with_reducible refine State.readLine_keepsE (by assumption) ?_ | with_reducible apply Keeps.ite
    | fail_if_no_progress (with_reducible refine Keeps.upd ?_ rfl rfl) | intro _ | split | dsimp only
theorem State.readPinned_keepsE {s0 tK : State} {s : State} {slot ext off : Nat} {y : List Byte × Bool} (hE : State.readPinned s slot ext off = (tK, y)) (hK : Keeps s0 s) : Keeps s0 tK := by
  have k := State.readPinned_keeps (s := s) (slot := slot) (ext := ext) (off := off) (hK := hK)
  rw [hE] at k
  exact k

theorem State.writePinned_keeps {s0 : State} {s : State} {slot ext off : Nat} {d : List Byte} {be : Nat} {poison : Bool} (hK : Keeps s0 s) : Keeps s0 (State.writePinned s slot ext off d be poison) := by
  unfold State.writePinned
  try dsimp only
  repeat' first
    | with_reducible assumption | with_reducible apply State.charge_keeps | with_reducible apply State.writeBe_keeps
    | with_reducible apply Keeps.ite | intro _ | split | dsimp only

theorem State.writeAdmitted_keeps {s0 : State} {s : State} {slot line : Nat} {d : List Byte} {be : Nat} {poison : Bool} (hK : Keeps s0 s) : Keeps s0 (State.writeAdmitted s slot line d be poison).1 := by
  unfold State.writeAdmitted
  try dsimp only
  repeat' first
    | with_reducible assumption | with_reducible apply State.preserve_keeps | with_reducible apply State.bringPlate_keeps
    | with_reducible refine State.bringPlate_keepsE (by assumption) ?_ | with_reducible apply State.targetWrite_keeps
    | with_reducible apply State.mergeLine_keeps | intro _ | split | dsimp only
theorem State.writeAdmitted_keepsE {s0 tK : State} {s : State} {slot line : Nat} {d : List Byte} {be : Nat} {poison : Bool} {y : Bool} (hE : State.writeAdmitted s slot line d be poison = (tK, y)) (hK : Keeps s0 s) : Keeps s0 tK := by
  have k := State.writeAdmitted_keeps (s := s) (slot := slot) (line := line) (d := d) (be := be) (poison := poison) (hK := hK)
  rw [hE] at k
  exact k

theorem State.writePlateLine_keeps {s0 : State} {s : State} {slot line : Nat} {d : List Byte} {be : Nat} {poison : Bool} (hK : Keeps s0 s) : Keeps s0 (State.writePlateLine s slot line d be poison).1 := by
  unfold State.writePlateLine
  try dsimp only
  repeat' first
    | with_reducible assumption | with_reducible apply State.writeAdmitted_keeps | with_reducible apply State.bringPage_keeps
theorem State.writePlateLine_keepsE {s0 tK : State} {s : State} {slot line : Nat} {d : List Byte} {be : Nat} {poison : Bool} {y : Bool} (hE : State.writePlateLine s slot line d be poison = (tK, y)) (hK : Keeps s0 s) : Keeps s0 tK := by
  have k := State.writePlateLine_keeps (s := s) (slot := slot) (line := line) (d := d) (be := be) (poison := poison) (hK := hK)
  rw [hE] at k
  exact k

theorem State.doneNote_keeps {s0 : State} {s : State} {a : Access} (hK : Keeps s0 s) : Keeps s0 (State.doneNote s a) := by
  unfold State.doneNote
  try dsimp only
  repeat' first
    | with_reducible assumption | with_reducible apply State.sendMsg_keeps | with_reducible apply Keeps.ite
    | fail_if_no_progress (with_reducible refine Keeps.upd ?_ rfl rfl) | intro _ | split | dsimp only

theorem State.finishAccess_keeps {s0 : State} {s : State} {id : Nat} {a : Access} {d : List Byte} {poison : Bool} (hK : Keeps s0 s) : Keeps s0 (State.finishAccess s id a d poison) := by
  unfold State.finishAccess
  try dsimp only
  repeat' first
    | with_reducible assumption | with_reducible apply State.request_keeps | with_reducible apply State.complete_keeps
    | with_reducible apply State.doneNote_keeps | with_reducible apply Keeps.ite
    | fail_if_no_progress (with_reducible refine Keeps.upd ?_ rfl rfl) | intro _ | split | dsimp only

theorem State.sendContrib_keeps {s0 : State} {s : State} {id dev b j off : Nat} {a : Access} (hK : Keeps s0 s) : Keeps s0 (State.sendContrib s id dev b j off a) := by
  unfold State.sendContrib
  try dsimp only
  repeat' first
    | with_reducible assumption | with_reducible apply State.request_keeps | with_reducible refine Keeps.mapE (by assumption) ?_
    | with_reducible refine Keeps.bindE (by assumption) ?_ | with_reducible refine Keeps.bindS (by assumption) ?_
    | with_reducible refine Keeps.getD ?_ ?_ | with_reducible refine Keeps.getD₂ ?_ ?_
    | fail_if_no_progress (with_reducible refine Keeps.upd ?_ rfl rfl) | intro _ | split | dsimp only

theorem State.act_keeps {s0 : State} {s : State} {id : Nat} {a : Access} (hK : Keeps s0 s) : Keeps s0 (State.act s id a) := by
  unfold State.act
  try dsimp only
  repeat' first
    | with_reducible assumption | with_reducible apply State.traceOrder_keeps | with_reducible apply State.complete_keeps
    | with_reducible apply State.writePinned_keeps | with_reducible apply State.readPinned_keeps
    | with_reducible refine State.readPinned_keepsE (by assumption) ?_ | with_reducible apply State.sendContrib_keeps
    | with_reducible apply State.contribReady_keeps | with_reducible refine State.contribReady_keepsE (by assumption) ?_
    | with_reducible apply State.contribute_keeps | with_reducible apply State.logUnmapped_keeps
    | with_reducible apply State.writeAdmitted_keeps | with_reducible refine State.writeAdmitted_keepsE (by assumption) ?_
    | with_reducible apply State.finishAccess_keeps | with_reducible apply State.preserve_keeps
    | with_reducible apply State.readPlateLine_keeps | with_reducible refine State.readPlateLine_keepsE (by assumption) ?_
    | with_reducible apply Keeps.ite | fail_if_no_progress (with_reducible refine Keeps.upd ?_ rfl rfl) | intro _ | split
    | dsimp only

theorem State.sendAccess_keeps {s0 : State} {s : State} {id dev plate line : Nat} {a : Access} (hK : Keeps s0 s) : Keeps s0 (State.sendAccess s id dev plate line a) := by
  unfold State.sendAccess
  try dsimp only
  repeat' first
    | with_reducible assumption | with_reducible apply State.request_keeps | with_reducible apply State.remoteWrite_keeps
    | with_reducible apply Keeps.ite | fail_if_no_progress (with_reducible refine Keeps.upd ?_ rfl rfl) | intro _ | split
    | dsimp only

theorem State.tryLocal_keeps {s0 : State} {s : State} {id : Nat} {a : Access} {plain : Bool} (hK : Keeps s0 s) : Keeps s0 (State.tryLocal s id a plain) := by
  unfold State.tryLocal
  try dsimp only
  repeat' first
    | with_reducible assumption | with_reducible apply State.sendSnoop_keeps | with_reducible apply State.recallEntry_keeps
    | with_reducible apply State.makeRoom_keeps | with_reducible apply State.startFill_keeps
    | with_reducible apply State.setDirIf_keeps | with_reducible apply State.act_keeps
    | with_reducible apply State.request_keeps | with_reducible refine Keeps.someIf (by assumption) ?_
    | with_reducible apply Keeps.over | with_reducible apply Keeps.ite
    | fail_if_no_progress (with_reducible refine Keeps.upd ?_ rfl rfl) | intro _ | split | dsimp only

theorem State.lostAccess_keeps {s0 : State} {s : State} {id : Nat} {a : Access} {plate i : Nat} (hK : Keeps s0 s) : Keeps s0 (State.lostAccess s id a plate i) := by
  unfold State.lostAccess
  try dsimp only
  repeat' first
    | with_reducible assumption | with_reducible apply State.complete_keeps | with_reducible apply State.startRebuild_keeps
    | with_reducible apply Keeps.ite | fail_if_no_progress (with_reducible refine Keeps.upd ?_ rfl rfl) | intro _ | split
    | dsimp only

theorem State.tryHere_keeps {s0 : State} {s : State} {id : Nat} {a : Access} {plate : Nat} {plain : Bool} (hK : Keeps s0 s) : Keeps s0 (State.tryHere s id a plate plain) := by
  unfold State.tryHere
  try dsimp only
  repeat' first
    | with_reducible assumption | with_reducible apply State.tryLocal_keeps | with_reducible apply State.bringIn_keeps
    | with_reducible refine State.bringIn_keepsE (by assumption) ?_ | with_reducible apply Keeps.ite | intro _ | split
    | dsimp only

theorem State.tryAccess_keeps {s0 : State} {s : State} {id : Nat} (hK : Keeps s0 s) : Keeps s0 (State.tryAccess s id) := by
  unfold State.tryAccess
  try dsimp only
  repeat' first
    | with_reducible assumption | with_reducible apply State.act_keeps | with_reducible apply State.tryLocal_keeps
    | with_reducible apply State.sendAccess_keeps | with_reducible apply State.lostAccess_keeps
    | with_reducible apply State.settle_keeps | with_reducible apply State.tryHere_keeps | with_reducible apply Keeps.ite
    | intro _ | split | dsimp only

theorem State.advance_keeps {s0 : State} {s : State} (hK : Keeps s0 s) : Keeps s0 (State.advance s) := by
  unfold State.advance
  try dsimp only
  repeat' first
    | with_reducible assumption | with_reducible apply State.tryAccess_keeps
    | with_reducible refine Keeps.mapE (by assumption) ?_ | with_reducible apply Keeps.over | intro _ | split | dsimp only

theorem State.lookUp_keeps {s0 : State} {s : State} {a : Access} (hK : Keeps s0 s) : Keeps s0 (State.lookUp s a) := by
  unfold State.lookUp
  try dsimp only
  repeat' first
    | with_reducible assumption | with_reducible apply State.bringPage_keeps | with_reducible apply Keeps.ite | intro _ | split
    | dsimp only

theorem State.creditBack_keeps {s0 : State} {s : State} {c : Option (Nat × Nat)} (hK : Keeps s0 s) : Keeps s0 (State.creditBack s c) := by
  unfold State.creditBack
  try dsimp only
  repeat' first
    | with_reducible assumption | with_reducible apply State.modLink_keeps | with_reducible refine Keeps.getD ?_ ?_
    | with_reducible refine Keeps.getD₂ ?_ ?_ | fail_if_no_progress (with_reducible refine Keeps.upd ?_ rfl rfl) | intro _
    | split | dsimp only

theorem State.admitAccess_keeps {s0 : State} {s : State} {id : Nat} (hK : Keeps s0 s) : Keeps s0 (State.admitAccess s id) := by
  unfold State.admitAccess
  try dsimp only
  repeat' first
    | with_reducible assumption | with_reducible apply State.logUnmapped_keeps
    | with_reducible apply State.answerUnmapped_keeps | with_reducible apply State.makeRoom_keeps
    | with_reducible apply State.charge_keeps | with_reducible apply State.foldPlain_keeps
    | with_reducible apply State.creditBack_keeps | with_reducible apply State.lookUp_keeps
    | with_reducible apply State.tryAccess_keeps | with_reducible apply Keeps.ite
    | fail_if_no_progress (with_reducible refine Keeps.upd ?_ rfl rfl) | intro _ | split | dsimp only

theorem State.arrive_keeps {s0 : State} {s : State} {a : Access} (hK : Keeps s0 s) : Keeps s0 (State.arrive s a) := by
  unfold State.arrive
  try dsimp only
  repeat' first
    | with_reducible assumption | with_reducible apply State.admitAccess_keeps
    | fail_if_no_progress (with_reducible refine Keeps.upd ?_ rfl rfl) | intro _ | split | dsimp only

end Sys2Proof.Machine
end

