-- ==== Sys2Proof/Laws/KeepsQueues.lean ====
section
/-! SUPPORT. What the operations of Machine/Queues.lean keep (Keeps), one lemma per operation. -/

set_option linter.unusedTactic false
set_option linter.unreachableTactic false

namespace Sys2Proof.Machine

theorem State.modCmq_keeps {s0 : State} {s : State} {f : Nat} {g : Cmq → Cmq} (hK : Keeps s0 s) : Keeps s0 (State.modCmq s f g) := by
  unfold State.modCmq
  try dsimp only
  repeat' first
    | with_reducible assumption | fail_if_no_progress (with_reducible refine Keeps.upd ?_ rfl rfl) | intro _ | split | dsimp only

theorem State.writeCtrl_keeps {s0 : State} {s : State} {f : Nat} {part : Part} {val : U64} (hK : Keeps s0 s) : Keeps s0 (State.writeCtrl s f part val) := by
  unfold State.writeCtrl
  try dsimp only
  repeat' first
    | with_reducible assumption | with_reducible apply State.modCmq_keeps | with_reducible apply State.modQp_keeps
    | with_reducible apply State.updInta_keeps | with_reducible apply State.ignored_keeps | with_reducible apply Keeps.ite
    | fail_if_no_progress (with_reducible refine Keeps.upd ?_ rfl rfl) | intro _ | split | dsimp only

theorem State.writeBase_keeps {s0 : State} {s : State} {f : Nat} {reply : Bool} {part : Part} {val : U64} (hK : Keeps s0 s) : Keeps s0 (State.writeBase s f reply part val) := by
  unfold State.writeBase
  try dsimp only
  repeat' first
    | with_reducible assumption | with_reducible apply State.ignored_keeps | with_reducible apply State.modCmq_keeps
    | with_reducible apply Keeps.ite | fail_if_no_progress (with_reducible refine Keeps.upd ?_ rfl rfl) | intro _ | split
    | dsimp only

theorem execQp0Enable_keeps {t : State} {func : Nat} {part : Part} {val : U64} {s : State} (hE : execQp0Enable func part val s = .next t) : Keeps s t := by
  have hK := Keeps.refl s
  unfold execQp0Enable at hE
  cases hE
  try dsimp only
  repeat' first
    | with_reducible assumption | with_reducible apply State.writeCtrl_keeps | with_reducible apply Keeps.ite | intro _ | split
    | dsimp only

theorem execQp0Disable_keeps {t : State} {func : Nat} {part : Part} {val : U64} {s : State} (hE : execQp0Disable func part val s = .next t) : Keeps s t := by
  have hK := Keeps.refl s
  unfold execQp0Disable at hE
  cases hE
  try dsimp only
  repeat' first
    | with_reducible assumption | with_reducible apply State.writeCtrl_keeps | with_reducible apply Keeps.ite | intro _ | split
    | dsimp only

theorem execQp0IntEnWrite_keeps {t : State} {func : Nat} {part : Part} {val : U64} {s : State} (hE : execQp0IntEnWrite func part val s = .next t) : Keeps s t := by
  have hK := Keeps.refl s
  unfold execQp0IntEnWrite at hE
  cases hE
  try dsimp only
  repeat' first
    | with_reducible assumption | with_reducible apply State.writeCtrl_keeps | with_reducible apply Keeps.ite | intro _ | split
    | dsimp only

theorem execQp0BaseWrite_keeps {t : State} {func : Nat} {reply : Bool} {part : Part} {val : U64} {s : State} (hE : execQp0BaseWrite func reply part val s = .next t) : Keeps s t := by
  have hK := Keeps.refl s
  unfold execQp0BaseWrite at hE
  cases hE
  try dsimp only
  repeat' first
    | with_reducible assumption | with_reducible apply State.writeBase_keeps | intro _ | split | dsimp only

theorem State.sqTailWrite_keeps {s0 : State} {s : State} {func qp size : Nat} {val : U64} (hK : Keeps s0 s) : Keeps s0 (State.sqTailWrite s func qp size val) := by
  unfold State.sqTailWrite
  try dsimp only
  repeat' first
    | with_reducible assumption | with_reducible apply State.ignored_keeps | with_reducible apply State.modQp_keeps
    | with_reducible apply State.faultQp_keeps | with_reducible apply Keeps.ite
    | fail_if_no_progress (with_reducible refine Keeps.upd ?_ rfl rfl) | intro _ | split | dsimp only

theorem State.rqHeadWrite_keeps {s0 : State} {s : State} {func qp size : Nat} {val : U64} (hK : Keeps s0 s) : Keeps s0 (State.rqHeadWrite s func qp size val) := by
  unfold State.rqHeadWrite
  try dsimp only
  repeat' first
    | with_reducible assumption | with_reducible apply State.ignored_keeps | with_reducible apply State.modQp_keeps
    | with_reducible apply State.updInta_keeps | with_reducible apply State.faultQp_keeps | with_reducible apply Keeps.ite
    | fail_if_no_progress (with_reducible refine Keeps.upd ?_ rfl rfl) | intro _ | split | dsimp only

theorem execSqTailWrite_keeps {t : State} {func qp size : Nat} {val : U64} {s : State} (hE : execSqTailWrite func qp size val s = .next t) : Keeps s t := by
  have hK := Keeps.refl s
  unfold execSqTailWrite at hE
  cases hE
  try dsimp only
  repeat' first
    | with_reducible assumption | with_reducible apply State.sqTailWrite_keeps | intro _ | split | dsimp only

theorem execRqHeadWrite_keeps {t : State} {func qp size : Nat} {val : U64} {s : State} (hE : execRqHeadWrite func qp size val s = .next t) : Keeps s t := by
  have hK := Keeps.refl s
  unfold execRqHeadWrite at hE
  cases hE
  try dsimp only
  repeat' first
    | with_reducible assumption | with_reducible apply State.rqHeadWrite_keeps | intro _ | split | dsimp only

theorem execRingAccessFailure_keeps {t : State} {func qp : Nat} {s : State} (hE : execRingAccessFailure func qp s = .next t) : Keeps s t := by
  have hK := Keeps.refl s
  unfold execRingAccessFailure at hE
  cases hE
  try dsimp only
  repeat' first
    | with_reducible assumption | with_reducible apply State.faultQp_keeps | with_reducible apply Keeps.ite | intro _ | split
    | dsimp only

theorem shortCmd_safe {opcode : Nat} {dom : Bool} {accept : Accept} {run : State → Origin → Pkt → State × Ans} (hc : ∀ s o p, Keeps s (run s o p).1) : (shortCmd opcode dom accept run).Safe := by
  intro s o p
  have hK := Keeps.refl s
  unfold shortCmd
  try unfold shortCmd
  try unfold longCmd
  try dsimp only
  repeat' first
    | with_reducible assumption | exact hc _ _ _ | fail_if_no_progress (with_reducible refine Keeps.upd ?_ rfl rfl) | intro _
    | split | dsimp only

theorem longCmd_safe {opcode : Nat} {dom : Bool} {accept : Accept} {run : State → Origin → Pkt → State × Ans} (hc : ∀ s o p, Keeps s (run s o p).1) : (longCmd opcode dom accept run).Safe := by
  intro s o p
  have hK := Keeps.refl s
  unfold longCmd
  try unfold shortCmd
  try unfold longCmd
  try dsimp only
  repeat' first
    | with_reducible assumption | exact hc _ _ _ | fail_if_no_progress (with_reducible refine Keeps.upd ?_ rfl rfl) | intro _
    | split | dsimp only

theorem cNop_safe  : (cNop).Safe := by
  intro s o p
  have hK := Keeps.refl s
  unfold cNop
  try unfold shortCmd
  try unfold longCmd
  try dsimp only
  repeat' first
    | with_reducible assumption | with_reducible apply done_keeps | with_reducible refine done_keepsE (by assumption) ?_
    | exact shortCmd_safe | intro _ | split | dsimp only

theorem cQueueCreate_safe  : (cQueueCreate).Safe := by
  intro s o p
  have hK := Keeps.refl s
  unfold cQueueCreate
  try unfold shortCmd
  try unfold longCmd
  try dsimp only
  repeat' first
    | with_reducible assumption | with_reducible apply deny_keeps | with_reducible refine deny_keepsE (by assumption) ?_
    | with_reducible apply State.later_keeps | exact shortCmd_safe | exact shortCmd_safe _ _ _ | with_reducible apply Keeps.ite
    | fail_if_no_progress (with_reducible refine Keeps.upd ?_ rfl rfl) | intro _ | split | dsimp only

theorem cQueueDelete_safe  : (cQueueDelete).Safe := by
  intro s o p
  have hK := Keeps.refl s
  unfold cQueueDelete
  try unfold shortCmd
  try unfold longCmd
  try dsimp only
  repeat' first
    | with_reducible assumption | with_reducible apply State.modQp_keeps | with_reducible apply deny_keeps
    | with_reducible refine deny_keepsE (by assumption) ?_ | exact shortCmd_safe | exact shortCmd_safe _ _ _
    | with_reducible apply Keeps.ite | fail_if_no_progress (with_reducible refine Keeps.upd ?_ rfl rfl) | intro _ | split
    | dsimp only

theorem cOpCancel_safe  : (cOpCancel).Safe := by
  intro s o p
  have hK := Keeps.refl s
  unfold cOpCancel
  try unfold shortCmd
  try unfold longCmd
  try dsimp only
  repeat' first
    | with_reducible assumption | with_reducible apply State.modOp_keeps | with_reducible apply done_keeps
    | with_reducible refine done_keepsE (by assumption) ?_ | with_reducible apply deny_keeps
    | with_reducible refine deny_keepsE (by assumption) ?_ | exact shortCmd_safe | exact shortCmd_safe _ _ _
    | with_reducible apply Keeps.ite | intro _ | split | dsimp only

theorem cOpStatusRead_safe  : (cOpStatusRead).Safe := by
  intro s o p
  have hK := Keeps.refl s
  unfold cOpStatusRead
  try unfold shortCmd
  try unfold longCmd
  try dsimp only
  repeat' first
    | with_reducible assumption | with_reducible apply done_keeps | with_reducible refine done_keepsE (by assumption) ?_
    | with_reducible apply deny_keeps | with_reducible refine deny_keepsE (by assumption) ?_ | exact shortCmd_safe
    | exact shortCmd_safe _ _ _ | with_reducible apply Keeps.ite | intro _ | split | dsimp only

theorem execNop_keeps {t : State} {o : Origin} {p : Pkt} {s : State} (hE : execNop o p s = .next t) : Keeps s t := by
  have hK := Keeps.refl s
  unfold execNop at hE
  cases hE
  try dsimp only
  repeat' first
    | with_reducible assumption | with_reducible apply State.packet_keeps | exact cNop_safe | intro _ | split | dsimp only

theorem execQueueCreate_keeps {t : State} {o : Origin} {p : Pkt} {s : State} (hE : execQueueCreate o p s = .next t) : Keeps s t := by
  have hK := Keeps.refl s
  unfold execQueueCreate at hE
  cases hE
  try dsimp only
  repeat' first
    | with_reducible assumption | with_reducible apply State.packet_keeps | exact cQueueCreate_safe | intro _ | split
    | dsimp only

theorem execQueueDelete_keeps {t : State} {o : Origin} {p : Pkt} {s : State} (hE : execQueueDelete o p s = .next t) : Keeps s t := by
  have hK := Keeps.refl s
  unfold execQueueDelete at hE
  cases hE
  try dsimp only
  repeat' first
    | with_reducible assumption | with_reducible apply State.packet_keeps | exact cQueueDelete_safe | intro _ | split
    | dsimp only

theorem execOpCancel_keeps {t : State} {o : Origin} {p : Pkt} {s : State} (hE : execOpCancel o p s = .next t) : Keeps s t := by
  have hK := Keeps.refl s
  unfold execOpCancel at hE
  cases hE
  try dsimp only
  repeat' first
    | with_reducible assumption | with_reducible apply State.packet_keeps | exact cOpCancel_safe | intro _ | split | dsimp only

theorem execOpStatusRead_keeps {t : State} {o : Origin} {p : Pkt} {s : State} (hE : execOpStatusRead o p s = .next t) : Keeps s t := by
  have hK := Keeps.refl s
  unfold execOpStatusRead at hE
  cases hE
  try dsimp only
  repeat' first
    | with_reducible assumption | with_reducible apply State.packet_keeps | exact cOpStatusRead_safe | intro _ | split
    | dsimp only

theorem State.enableQp0_keeps {s0 : State} {s : State} {f : Nat} (hK : Keeps s0 s) : Keeps s0 (State.enableQp0 s f) := by
  unfold State.enableQp0
  try dsimp only
  repeat' first
    | with_reducible assumption | with_reducible apply Keeps.ite
    | fail_if_no_progress (with_reducible refine Keeps.upd ?_ rfl rfl) | intro _ | split | dsimp only

theorem State.deleteStep_keeps {s0 : State} {s : State} {f n : Nat} {r : PendReply} (hK : Keeps s0 s) : Keeps s0 (State.deleteStep s f n r) := by
  unfold State.deleteStep
  try dsimp only
  repeat' first
    | with_reducible assumption | with_reducible apply State.modOp_keeps | with_reducible apply State.modQp_keeps
    | with_reducible apply State.unanswered_keeps | with_reducible apply State.reply_keeps
    | with_reducible apply State.updInta_keeps | with_reducible apply Keeps.over | with_reducible apply Keeps.ite
    | fail_if_no_progress (with_reducible refine Keeps.upd ?_ rfl rfl) | intro _ | split | dsimp only

theorem State.sampleDoorbells_keeps {s0 : State} {s : State} (hK : Keeps s0 s) : Keeps s0 (State.sampleDoorbells s) := by
  unfold State.sampleDoorbells
  try dsimp only
  repeat' first
    | with_reducible assumption | with_reducible apply State.enableQp0_keeps | with_reducible apply State.updInta_keeps
    | with_reducible refine Keeps.mapE (by assumption) ?_ | with_reducible apply Keeps.over
    | fail_if_no_progress (with_reducible refine Keeps.upd ?_ rfl rfl) | intro _ | split | dsimp only

theorem State.deletesBoundary_keeps {s0 : State} {s : State} (hK : Keeps s0 s) : Keeps s0 (State.deletesBoundary s) := by
  unfold State.deletesBoundary
  try dsimp only
  repeat' first
    | with_reducible assumption | with_reducible apply State.deleteStep_keeps | with_reducible apply Keeps.over | intro _
    | split | dsimp only

end Sys2Proof.Machine
end

