-- ==== Sys2Proof/Laws/KeepsConfigOps.lean ====
section
/-! SUPPORT. What the operations of Machine/ConfigOps.lean keep (Keeps), one lemma per operation. -/

set_option linter.unusedTactic false
set_option linter.unreachableTactic false

namespace Sys2Proof.Machine

theorem State.join_keeps {s0 : State} {s : State} {cs : List Change} (hK : Keeps s0 s) : Keeps s0 (State.join s cs).1 := by
  unfold State.join
  try dsimp only
  repeat' first
    | with_reducible assumption | with_reducible apply Keeps.ite
    | fail_if_no_progress (with_reducible refine Keeps.upd ?_ rfl rfl) | intro _ | split | dsimp only
theorem State.join_keepsE {s0 tK : State} {s : State} {cs : List Change} {y : Nat × Nat} (hE : State.join s cs = (tK, y)) (hK : Keeps s0 s) : Keeps s0 tK := by
  have k := State.join_keeps (s := s) (cs := cs) (hK := hK)
  rw [hE] at k
  exact k

theorem State.report_keeps {s0 : State} {s : State} {o : Origin} {p : Pkt} {bytes : List Byte} (hK : Keeps s0 s) : Keeps s0 (State.report s o p bytes).1 := by
  unfold State.report
  try dsimp only
  repeat' first
    | with_reducible assumption | with_reducible apply Keeps.emit | with_reducible apply Keeps.ite | intro _ | split
    | dsimp only
theorem State.report_keepsE {s0 tK : State} {s : State} {o : Origin} {p : Pkt} {bytes : List Byte} {y : Bool × List Byte} (hE : State.report s o p bytes = (tK, y)) (hK : Keeps s0 s) : Keeps s0 tK := by
  have k := State.report_keeps (s := s) (o := o) (p := p) (bytes := bytes) (hK := hK)
  rw [hE] at k
  exact k

theorem State.logLocked_keeps {s0 : State} {s : State} {dom : Bool} {slot : Nat} {cs : List Clamp} (hK : Keeps s0 s) : Keeps s0 (State.logLocked s dom slot cs) := by
  unfold State.logLocked
  try dsimp only
  repeat' first
    | with_reducible assumption | with_reducible apply State.logE_keeps | with_reducible apply Keeps.over
    | with_reducible apply Keeps.ite | intro _ | split | dsimp only

theorem State.takeWrite_keeps {s0 : State} {s : State} {o : Origin} {p : Pkt} (hK : Keeps s0 s) : Keeps s0 (State.takeWrite s o p) := by
  unfold State.takeWrite
  try dsimp only
  repeat' first
    | with_reducible assumption | with_reducible apply State.reply_keeps | with_reducible apply State.join_keeps
    | with_reducible refine State.join_keepsE (by assumption) ?_ | with_reducible apply State.report_keeps
    | with_reducible refine State.report_keepsE (by assumption) ?_ | with_reducible apply State.logLocked_keeps
    | with_reducible refine Keeps.mapE (by assumption) ?_ | with_reducible apply Keeps.ite
    | fail_if_no_progress (with_reducible refine Keeps.upd ?_ rfl rfl) | intro _ | split | dsimp only

theorem cConfigWrite_safe  : (cConfigWrite).Safe := by
  intro s o p
  have hK := Keeps.refl s
  unfold cConfigWrite
  try unfold shortCmd
  try unfold longCmd
  try dsimp only
  repeat' first
    | with_reducible assumption | with_reducible apply State.takeWrite_keeps | exact shortCmd_safe | exact shortCmd_safe
    | exact shortCmd_safe _ _ _ | with_reducible apply Keeps.ite
    | fail_if_no_progress (with_reducible refine Keeps.upd ?_ rfl rfl) | intro _ | split | dsimp only

theorem cConfigRead_safe  : (cConfigRead).Safe := by
  intro s o p
  have hK := Keeps.refl s
  unfold cConfigRead
  try unfold shortCmd
  try unfold longCmd
  try dsimp only
  repeat' first
    | with_reducible assumption | with_reducible apply deny_keeps | with_reducible refine deny_keepsE (by assumption) ?_
    | with_reducible apply done_keeps | with_reducible refine done_keepsE (by assumption) ?_
    | with_reducible apply doneData_keeps | with_reducible refine doneData_keepsE (by assumption) ?_ | exact shortCmd_safe
    | exact shortCmd_safe | exact shortCmd_safe _ _ _ | with_reducible apply Keeps.ite | intro _ | split | dsimp only

theorem cCatalogueRead_safe  : (cCatalogueRead).Safe := by
  intro s o p
  have hK := Keeps.refl s
  unfold cCatalogueRead
  try unfold shortCmd
  try unfold longCmd
  try dsimp only
  repeat' first
    | with_reducible assumption | with_reducible apply doneData_keeps
    | with_reducible refine doneData_keepsE (by assumption) ?_ | exact shortCmd_safe | exact shortCmd_safe
    | exact shortCmd_safe _ _ _ | intro _ | split | dsimp only

theorem execConfigWrite_keeps {t : State} {o : Origin} {p : Pkt} {s : State} (hE : execConfigWrite o p s = .next t) : Keeps s t := by
  have hK := Keeps.refl s
  unfold execConfigWrite at hE
  cases hE
  try dsimp only
  repeat' first
    | with_reducible assumption | with_reducible apply State.packet_keeps | exact cConfigWrite_safe | intro _ | split
    | dsimp only

theorem execConfigRead_keeps {t : State} {o : Origin} {p : Pkt} {s : State} (hE : execConfigRead o p s = .next t) : Keeps s t := by
  have hK := Keeps.refl s
  unfold execConfigRead at hE
  cases hE
  try dsimp only
  repeat' first
    | with_reducible assumption | with_reducible apply State.packet_keeps | exact cConfigRead_safe | intro _ | split | dsimp only

theorem execCatalogueRead_keeps {t : State} {o : Origin} {p : Pkt} {s : State} (hE : execCatalogueRead o p s = .next t) : Keeps s t := by
  have hK := Keeps.refl s
  unfold execCatalogueRead at hE
  cases hE
  try dsimp only
  repeat' first
    | with_reducible assumption | with_reducible apply State.packet_keeps | exact cCatalogueRead_safe | intro _ | split
    | dsimp only

theorem State.takeHeld_keeps {s0 : State} {s : State} {plan : State → Origin → Pkt → State} (hk_plan : ∀ x0 x1 x2, Keeps s0 x0 → Keeps s0 (plan x0 x1 x2)) (hK : Keeps s0 s) : Keeps s0 (State.takeHeld s plan) := by
  unfold State.takeHeld
  try dsimp only
  repeat' first
    | with_reducible assumption | with_reducible apply hk_plan | with_reducible apply State.takeWrite_keeps
    | with_reducible apply Keeps.ite | fail_if_no_progress (with_reducible refine Keeps.upd ?_ rfl rfl) | intro _ | split
    | dsimp only

end Sys2Proof.Machine
end

