-- ==== Sys2Proof/Laws/KeepsPlans.lean ====
section
/-! SUPPORT. What the operations of Machine/Plans.lean keep (Keeps), one lemma per operation. -/

set_option linter.unusedTactic false
set_option linter.unreachableTactic false

namespace Sys2Proof.Machine

theorem State.planEvict_keeps {s0 : State} {s : State} {slot plate : Nat} (hK : Keeps s0 s) : Keeps s0 (State.planEvict s slot plate) := by
  unfold State.planEvict
  try dsimp only
  repeat' first
    | with_reducible assumption | with_reducible apply State.setEnt_keeps
    | with_reducible refine State.writeOut_keepsE (by assumption) ?_ | with_reducible refine Keeps.getD ?_ ?_
    | with_reducible refine Keeps.getD₂ ?_ ?_ | with_reducible apply Keeps.ite
    | fail_if_no_progress (with_reducible refine Keeps.upd ?_ rfl rfl) | intro _ | split | dsimp only

theorem State.movePage_keeps {s0 : State} {s : State} {key : Nat} (hK : Keeps s0 s) : Keeps s0 (State.movePage s key).1 := by
  unfold State.movePage
  try dsimp only
  repeat' first
    | with_reducible assumption | with_reducible apply State.charge_keeps | with_reducible apply State.readPage_keeps
    | with_reducible apply State.writeRun_keeps | with_reducible refine State.flashPut_keepsE (by assumption) ?_
    | with_reducible apply Keeps.ite | fail_if_no_progress (with_reducible refine Keeps.upd ?_ rfl rfl) | intro _ | split
    | dsimp only
theorem State.movePage_keepsE {s0 tK : State} {s : State} {key : Nat} {y : Bool} (hE : State.movePage s key = (tK, y)) (hK : Keeps s0 s) : Keeps s0 tK := by
  have k := State.movePage_keeps (s := s) (key := key) (hK := hK)
  rw [hE] at k
  exact k

theorem State.switchPages_keeps {s0 : State} {s : State} (hK : Keeps s0 s) : Keeps s0 (State.switchPages s) := by
  unfold State.switchPages
  try dsimp only
  repeat' first
    | with_reducible assumption | with_reducible apply State.freeAt_keeps | with_reducible apply State.touchMap_keeps
    | with_reducible apply Keeps.over | with_reducible apply Keeps.ite
    | fail_if_no_progress (with_reducible refine Keeps.upd ?_ rfl rfl) | intro _ | split | dsimp only

theorem State.copyChunk_keeps {s0 : State} {s : State} {k g : Nat} {back : Option (Nat × Nat)} (hK : Keeps s0 s) : Keeps s0 (State.copyChunk s k g back) := by
  unfold State.copyChunk
  try dsimp only
  repeat' first
    | with_reducible assumption | with_reducible apply State.charge_keeps | with_reducible apply State.writeLine_keeps
    | with_reducible apply State.readLine_keeps | with_reducible refine State.readLine_keepsE (by assumption) ?_
    | with_reducible refine Keeps.mapE (by assumption) ?_ | with_reducible refine Keeps.bindE (by assumption) ?_
    | with_reducible refine Keeps.bindS (by assumption) ?_ | with_reducible refine Keeps.getD ?_ ?_
    | with_reducible refine Keeps.getD₂ ?_ ?_ | with_reducible apply Keeps.over | with_reducible apply Keeps.ite
    | fail_if_no_progress (with_reducible refine Keeps.upd ?_ rfl rfl) | intro _ | split | dsimp only

theorem State.startUnit_keeps {s0 : State} {s : State} {u : Nat × Nat} {back : Bool} (hK : Keeps s0 s) : Keeps s0 (State.startUnit s u back) := by
  unfold State.startUnit
  try dsimp only
  repeat' first
    | with_reducible assumption | with_reducible apply State.movePage_keeps
    | with_reducible refine State.movePage_keepsE (by assumption) ?_ | with_reducible apply State.copyChunk_keeps
    | with_reducible apply State.planEvict_keeps | with_reducible refine State.moveHome_keepsE (by assumption) ?_
    | with_reducible refine Keeps.getD ?_ ?_ | with_reducible refine Keeps.getD₂ ?_ ?_ | with_reducible apply Keeps.ite
    | intro _ | split | dsimp only

theorem State.endUnit_keeps {s0 : State} {s : State} {u : Nat × Nat} {back : Bool} (hK : Keeps s0 s) : Keeps s0 (State.endUnit s u back).1 := by
  unfold State.endUnit
  try dsimp only
  repeat' first
    | with_reducible assumption | with_reducible apply State.setEnt_keeps | with_reducible apply State.leaveT0_keeps
    | with_reducible refine Keeps.mapE (by assumption) ?_ | with_reducible apply Keeps.ite
    | fail_if_no_progress (with_reducible refine Keeps.upd ?_ rfl rfl) | intro _ | split | dsimp only
theorem State.endUnit_keepsE {s0 tK : State} {s : State} {u : Nat × Nat} {back : Bool} {y : UnitEnd} (hE : State.endUnit s u back = (tK, y)) (hK : Keeps s0 s) : Keeps s0 tK := by
  have k := State.endUnit_keeps (s := s) (u := u) (back := back) (hK := hK)
  rw [hE] at k
  exact k

theorem State.partVictims_keeps {s0 : State} {s : State} {slot : Nat} {v0 : Nat} (hK : Keeps s0 s) : Keeps s0 (State.partVictims s slot v0).1 := by
  induction v0 generalizing s slot with
  | zero =>
    unfold State.partVictims
    all_goals try dsimp only
    repeat' first
      | with_reducible assumption | with_reducible apply State.victim_keeps
      | with_reducible refine State.victim_keepsE (by assumption) ?_ | with_reducible apply State.leaveT0_keeps
      | with_reducible apply State.planEvict_keeps | with_reducible apply Keeps.ite | intro _ | split | dsimp only
  | succ _ ih =>
    unfold State.partVictims
    all_goals try dsimp only
    repeat' first
      | with_reducible assumption | with_reducible apply ih | with_reducible refine Keeps.ofEq (by assumption) (ih ?_)
      | with_reducible apply State.victim_keeps | with_reducible refine State.victim_keepsE (by assumption) ?_
      | with_reducible apply State.leaveT0_keeps | with_reducible apply State.planEvict_keeps | with_reducible apply Keeps.ite
      | intro _ | split | dsimp only
theorem State.partVictims_keepsE {s0 tK : State} {s : State} {slot : Nat} {v0 : Nat} {y : List (Nat × Nat)} (hE : State.partVictims s slot v0 = (tK, y)) (hK : Keeps s0 s) : Keeps s0 tK := by
  have k := State.partVictims_keeps (s := s) (slot := slot) (v0 := v0) (hK := hK)
  rw [hE] at k
  exact k

theorem State.recallSome_keeps {s0 : State} {s : State} {slot h : Nat} {v0 : Nat} (hK : Keeps s0 s) : Keeps s0 (State.recallSome s slot h v0) := by
  induction v0 generalizing s slot h with
  | zero =>
    unfold State.recallSome
    all_goals try dsimp only
    repeat' first
      | with_reducible assumption | with_reducible apply State.recallEntry_keeps
      | fail_if_no_progress (with_reducible refine Keeps.upd ?_ rfl rfl) | intro _ | split | dsimp only
  | succ _ ih =>
    unfold State.recallSome
    all_goals try dsimp only
    repeat' first
      | with_reducible assumption | with_reducible apply ih | with_reducible apply State.recallEntry_keeps
      | fail_if_no_progress (with_reducible refine Keeps.upd ?_ rfl rfl) | intro _ | split | dsimp only

theorem State.planSlice_keeps {s0 : State} {s : State} {h : Nat} {p : Plan} {back : Bool} (hK : Keeps s0 s) : Keeps s0 (State.planSlice s h p back).1 := by
  unfold State.planSlice
  try dsimp only
  repeat' first
    | with_reducible assumption | with_reducible apply State.startUnit_keeps | with_reducible apply State.partVictims_keeps
    | with_reducible refine State.partVictims_keepsE (by assumption) ?_ | with_reducible apply State.recallSome_keeps
    | with_reducible apply Keeps.over | with_reducible apply Keeps.ite
    | fail_if_no_progress (with_reducible refine Keeps.upd ?_ rfl rfl) | intro _ | split | dsimp only
theorem State.planSlice_keepsE {s0 tK : State} {s : State} {h : Nat} {p : Plan} {back : Bool} {y : Plan} (hE : State.planSlice s h p back = (tK, y)) (hK : Keeps s0 s) : Keeps s0 tK := by
  have k := State.planSlice_keeps (s := s) (h := h) (p := p) (back := back) (hK := hK)
  rw [hE] at k
  exact k

theorem State.endSlice_keeps {s0 : State} {s : State} {p : Plan} {back : Bool} (hK : Keeps s0 s) : Keeps s0 (State.endSlice s p back).1 := by
  unfold State.endSlice
  try dsimp only
  repeat' first
    | with_reducible assumption | with_reducible apply State.endUnit_keeps
    | with_reducible refine State.endUnit_keepsE (by assumption) ?_ | with_reducible refine Keeps.getD ?_ ?_
    | with_reducible refine Keeps.getD₂ ?_ ?_ | with_reducible apply Keeps.foldl | with_reducible apply Keeps.fold
    | with_reducible refine Keeps.foldE (by assumption) ?_ ?_ | with_reducible apply Keeps.ite
    | fail_if_no_progress (with_reducible refine Keeps.upd ?_ rfl rfl) | intro _ | split | dsimp only
theorem State.endSlice_keepsE {s0 tK : State} {s : State} {p : Plan} {back : Bool} {y : Plan} (hE : State.endSlice s p back = (tK, y)) (hK : Keeps s0 s) : Keeps s0 tK := by
  have k := State.endSlice_keeps (s := s) (p := p) (back := back) (hK := hK)
  rw [hE] at k
  exact k

theorem State.planStep_keeps {s0 : State} {s : State} {h : Nat} (hK : Keeps s0 s) : Keeps s0 (State.planStep s h) := by
  unfold State.planStep
  try dsimp only
  repeat' first
    | with_reducible assumption | with_reducible apply State.endSlice_keeps
    | with_reducible refine State.endSlice_keepsE (by assumption) ?_ | with_reducible apply done_keeps
    | with_reducible refine done_keepsE (by assumption) ?_ | with_reducible apply State.modOp_keeps
    | with_reducible apply Keeps.ite | fail_if_no_progress (with_reducible refine Keeps.upd ?_ rfl rfl) | intro _ | split
    | dsimp only

theorem State.planSlices_keeps {s0 : State} {s : State} {runs : Option Nat → Bool} (hK : Keeps s0 s) : Keeps s0 (State.planSlices s runs) := by
  unfold State.planSlices
  try dsimp only
  repeat' first
    | with_reducible assumption | with_reducible apply State.modOp_keeps | with_reducible apply State.planSlice_keeps
    | with_reducible refine State.planSlice_keepsE (by assumption) ?_ | with_reducible apply Keeps.over
    | with_reducible apply Keeps.ite | fail_if_no_progress (with_reducible refine Keeps.upd ?_ rfl rfl) | intro _ | split
    | dsimp only

theorem State.takePlan_keeps {s0 : State} {s : State} {o : Origin} {p : Pkt} (hK : Keeps s0 s) : Keeps s0 (State.takePlan s o p) := by
  unfold State.takePlan
  try dsimp only
  repeat' first
    | with_reducible assumption | with_reducible apply State.reply_keeps | with_reducible apply State.acceptOp_keeps
    | with_reducible apply State.report_keeps | with_reducible refine State.report_keepsE (by assumption) ?_
    | with_reducible apply State.logLocked_keeps | exact longCmd_safe | exact longCmd_safe _ _ _
    | with_reducible apply Keeps.foldl | with_reducible apply Keeps.fold
    | with_reducible refine Keeps.foldE (by assumption) ?_ ?_ | with_reducible apply Keeps.ite
    | fail_if_no_progress (with_reducible refine Keeps.upd ?_ rfl rfl) | intro _ | split | dsimp only

theorem cConfigPlan_safe  : (cConfigPlan).Safe := by
  intro s o p
  have hK := Keeps.refl s
  unfold cConfigPlan
  try unfold shortCmd
  try unfold longCmd
  try dsimp only
  repeat' first
    | with_reducible assumption | with_reducible apply State.takePlan_keeps | exact longCmd_safe | exact shortCmd_safe
    | exact shortCmd_safe _ _ _ | with_reducible apply Keeps.ite
    | fail_if_no_progress (with_reducible refine Keeps.upd ?_ rfl rfl) | intro _ | split | dsimp only

theorem State.clearPool_keeps {s0 : State} {s : State} {old new : Nat} (hK : Keeps s0 s) : Keeps s0 (State.clearPool s old new) := by
  unfold State.clearPool
  try dsimp only
  repeat' first
    | with_reducible assumption | with_reducible apply State.readLine_keeps
    | with_reducible refine State.readLine_keepsE (by assumption) ?_ | with_reducible apply State.writeLine_keeps
    | with_reducible apply State.dropT0_keeps | with_reducible apply State.modEnt_keeps | with_reducible apply Keeps.over
    | with_reducible apply Keeps.ite | fail_if_no_progress (with_reducible refine Keeps.upd ?_ rfl rfl) | intro _ | split
    | dsimp only

theorem State.plansDue_keeps {s0 : State} {s : State} (hK : Keeps s0 s) : Keeps s0 (State.plansDue s) := by
  unfold State.plansDue
  try dsimp only
  repeat' first
    | with_reducible assumption | with_reducible refine Keeps.mapE (by assumption) ?_ | with_reducible apply Keeps.ite
    | fail_if_no_progress (with_reducible refine Keeps.upd ?_ rfl rfl) | intro _ | split | dsimp only

theorem State.commitPlan_keeps {s0 : State} {s : State} {h : Nat} (hK : Keeps s0 s) : Keeps s0 (State.commitPlan s h) := by
  unfold State.commitPlan
  try dsimp only
  repeat' first
    | with_reducible assumption | with_reducible refine State.takeDue_keepsE (by assumption) ?_
    | with_reducible apply State.clearPool_keeps | with_reducible apply State.modOp_keeps
    | with_reducible apply State.writeRecord_keeps | with_reducible apply State.setCaps_keeps
    | with_reducible apply Keeps.foldl | with_reducible apply Keeps.fold
    | with_reducible refine Keeps.foldE (by assumption) ?_ ?_ | with_reducible apply Keeps.ite
    | fail_if_no_progress (with_reducible refine Keeps.upd ?_ rfl rfl) | intro _ | split | dsimp only

theorem State.abandonPlan_keeps {s0 : State} {s : State} {h : Nat} (hK : Keeps s0 s) : Keeps s0 (State.abandonPlan s h) := by
  unfold State.abandonPlan
  try dsimp only
  repeat' first
    | with_reducible assumption | with_reducible refine State.takeDue_keepsE (by assumption) ?_
    | with_reducible apply State.modOp_keeps | with_reducible apply State.writeRecord_keeps | with_reducible apply Keeps.ite
    | fail_if_no_progress (with_reducible refine Keeps.upd ?_ rfl rfl) | intro _ | split | dsimp only

theorem execConfigPlan_keeps {t : State} {o : Origin} {p : Pkt} {s : State} (hE : execConfigPlan o p s = .next t) : Keeps s t := by
  have hK := Keeps.refl s
  unfold execConfigPlan at hE
  cases hE
  try dsimp only
  repeat' first
    | with_reducible assumption | with_reducible apply State.packet_keeps | exact cConfigPlan_safe | intro _ | split | dsimp only

theorem execClampReportWriteFailure_keeps {t : State} {o : Origin} {plan : Bool} {p : Pkt} {s : State} (hE : execClampReportWriteFailure o plan p s = .next t) : Keeps s t := by
  have hK := Keeps.refl s
  unfold execClampReportWriteFailure at hE
  cases hE
  try dsimp only
  repeat' first
    | with_reducible assumption | with_reducible apply State.packet_keeps | exact cConfigWrite_safe
    | exact cConfigWrite_safe _ _ _ | exact cConfigPlan_safe | exact cConfigPlan_safe _ _ _ | with_reducible apply Keeps.ite
    | fail_if_no_progress (with_reducible refine Keeps.upd ?_ rfl rfl) | intro _ | split | dsimp only

theorem execHeldConfigBlockTake_keeps {t : State} {s : State} (hE : execHeldConfigBlockTake s = .next t) : Keeps s t := by
  have hK := Keeps.refl s
  unfold execHeldConfigBlockTake at hE
  cases hE
  try dsimp only
  repeat' first
    | with_reducible assumption | with_reducible apply State.takeHeld_keeps | with_reducible apply State.takePlan_keeps | intro _
    | split | dsimp only

theorem execPlanCommit_keeps {t : State} {handle : Nat} {s : State} (hE : execPlanCommit handle s = .next t) : Keeps s t := by
  have hK := Keeps.refl s
  unfold execPlanCommit at hE
  cases hE
  try dsimp only
  repeat' first
    | with_reducible assumption | with_reducible apply State.commitPlan_keeps | intro _ | split | dsimp only

theorem execPlanAbandon_keeps {t : State} {handle : Nat} {s : State} (hE : execPlanAbandon handle s = .next t) : Keeps s t := by
  have hK := Keeps.refl s
  unfold execPlanAbandon at hE
  cases hE
  try dsimp only
  repeat' first
    | with_reducible assumption | with_reducible apply State.abandonPlan_keeps | intro _ | split | dsimp only

end Sys2Proof.Machine
end

