-- ==== Sys2Proof/Laws/KeepsExtents.lean ====
section
/-! SUPPORT. What the operations of Machine/Extents.lean keep (Keeps), one lemma per operation. -/

set_option linter.unusedTactic false
set_option linter.unreachableTactic false

namespace Sys2Proof.Machine

theorem State.giveChunks_keepsE {s0 tK : State} {s : State} {isExtent : Bool} {owner first n : Nat}
    (hE : State.giveChunks s isExtent owner first n = some tK) (hK : Keeps s0 s) : Keeps s0 tK := by
  unfold State.giveChunks at hE
  refine Keeps.foldO ?_ ?_ hE
  · intro a x u ha hu
    obtain ⟨v, rfl, hv⟩ := Option.bind_eq_some_iff.1 hu
    obtain ⟨kg, -, rfl⟩ := Option.map_eq_some_iff.1 hv
    exact Keeps.upd (ha v rfl) rfl rfl
  · intro v h
    cases h
    exact hK

theorem cExtentGrant_safe  : (cExtentGrant).Safe := by
  intro s o p
  have hK := Keeps.refl s
  unfold cExtentGrant
  try unfold shortCmd
  try unfold longCmd
  try dsimp only
  repeat' first
    | with_reducible assumption | with_reducible apply deny_keeps | with_reducible refine deny_keepsE (by assumption) ?_
    | with_reducible apply State.join_keeps | with_reducible refine State.join_keepsE (by assumption) ?_
    | with_reducible refine State.giveChunks_keepsE (by assumption) ?_ | with_reducible apply Keeps.ite
    | fail_if_no_progress (with_reducible refine Keeps.upd ?_ rfl rfl) | intro _ | split | dsimp only

theorem State.dcEvent_keeps {s0 : State} {s : State} {idx kind : Nat} (hK : Keeps s0 s) : Keeps s0 (State.dcEvent s idx kind) := by
  unfold State.dcEvent
  try dsimp only
  repeat' first
    | with_reducible assumption | with_reducible apply State.modFunc_keeps | with_reducible apply Keeps.emit
    | with_reducible refine Keeps.getD ?_ ?_ | with_reducible refine Keeps.getD₂ ?_ ?_ | with_reducible apply Keeps.emits
    | with_reducible apply Keeps.over | with_reducible apply Keeps.ite
    | fail_if_no_progress (with_reducible refine Keeps.upd ?_ rfl rfl) | intro _ | split | dsimp only

theorem State.recallExtent_keeps {s0 : State} {s : State} {e : Extent} (hK : Keeps s0 s) : Keeps s0 (State.recallExtent s e) := by
  unfold State.recallExtent
  try dsimp only
  repeat' first
    | with_reducible assumption | with_reducible apply Keeps.ite
    | fail_if_no_progress (with_reducible refine Keeps.upd ?_ rfl rfl) | intro _ | split | dsimp only

theorem State.setExtentState_keeps {s0 : State} {s : State} {idx st : Nat} (hK : Keeps s0 s) : Keeps s0 (State.setExtentState s idx st) := by
  unfold State.setExtentState
  try dsimp only
  repeat' first
    | with_reducible assumption | with_reducible apply State.dcEvent_keeps | with_reducible apply State.recallExtent_keeps
    | with_reducible apply Keeps.ite | fail_if_no_progress (with_reducible refine Keeps.upd ?_ rfl rfl) | intro _ | split
    | dsimp only

theorem cExtentRelease_safe  : (cExtentRelease).Safe := by
  intro s o p
  have hK := Keeps.refl s
  unfold cExtentRelease
  try unfold shortCmd
  try unfold longCmd
  try dsimp only
  repeat' first
    | with_reducible assumption | with_reducible apply deny_keeps | with_reducible refine deny_keepsE (by assumption) ?_
    | with_reducible apply State.dcEvent_keeps | with_reducible apply State.join_keeps
    | with_reducible refine State.join_keepsE (by assumption) ?_ | exact longCmd_safe | exact shortCmd_safe
    | exact shortCmd_safe _ _ _ | with_reducible apply Keeps.ite | intro _ | split | dsimp only

theorem cTetherRenew_safe  : (cTetherRenew).Safe := by
  intro s o p
  have hK := Keeps.refl s
  unfold cTetherRenew
  try unfold shortCmd
  try unfold longCmd
  try dsimp only
  repeat' first
    | with_reducible assumption | with_reducible apply deny_keeps | with_reducible refine deny_keepsE (by assumption) ?_
    | with_reducible apply done_keeps | with_reducible refine done_keepsE (by assumption) ?_ | exact shortCmd_safe
    | exact shortCmd_safe | exact shortCmd_safe _ _ _ | with_reducible apply Keeps.ite
    | fail_if_no_progress (with_reducible refine Keeps.upd ?_ rfl rfl) | intro _ | split | dsimp only

theorem cExtentList_safe  : (cExtentList).Safe := by
  intro s o p
  have hK := Keeps.refl s
  unfold cExtentList
  try unfold shortCmd
  try unfold longCmd
  try dsimp only
  repeat' first
    | with_reducible assumption | with_reducible apply deny_keeps | with_reducible refine deny_keepsE (by assumption) ?_
    | with_reducible apply doneData_keeps | with_reducible refine doneData_keepsE (by assumption) ?_ | exact shortCmd_safe
    | exact shortCmd_safe | exact shortCmd_safe _ _ _ | with_reducible apply Keeps.ite | intro _ | split | dsimp only

theorem cWindowSet_safe  : (cWindowSet).Safe := by
  intro s o p
  have hK := Keeps.refl s
  unfold cWindowSet
  try unfold shortCmd
  try unfold longCmd
  try dsimp only
  repeat' first
    | with_reducible assumption | with_reducible apply deny_keeps | with_reducible refine deny_keepsE (by assumption) ?_
    | with_reducible apply State.join_keeps | with_reducible refine State.join_keepsE (by assumption) ?_
    | with_reducible apply State.later_keeps | exact shortCmd_safe | exact shortCmd_safe _ _ _ | with_reducible apply Keeps.ite
    | intro _ | split | dsimp only

theorem execExtentGrant_keeps {t : State} {o : Origin} {p : Pkt} {s : State} (hE : execExtentGrant o p s = .next t) : Keeps s t := by
  have hK := Keeps.refl s
  unfold execExtentGrant at hE
  cases hE
  try dsimp only
  repeat' first
    | with_reducible assumption | with_reducible apply State.packet_keeps | exact cExtentGrant_safe | intro _ | split
    | dsimp only

theorem execExtentRelease_keeps {t : State} {o : Origin} {p : Pkt} {s : State} (hE : execExtentRelease o p s = .next t) : Keeps s t := by
  have hK := Keeps.refl s
  unfold execExtentRelease at hE
  cases hE
  try dsimp only
  repeat' first
    | with_reducible assumption | with_reducible apply State.packet_keeps | exact cExtentRelease_safe | intro _ | split
    | dsimp only

theorem execTetherRenew_keeps {t : State} {o : Origin} {p : Pkt} {s : State} (hE : execTetherRenew o p s = .next t) : Keeps s t := by
  have hK := Keeps.refl s
  unfold execTetherRenew at hE
  cases hE
  try dsimp only
  repeat' first
    | with_reducible assumption | with_reducible apply State.packet_keeps | exact cTetherRenew_safe | intro _ | split
    | dsimp only

theorem execExtentList_keeps {t : State} {o : Origin} {p : Pkt} {s : State} (hE : execExtentList o p s = .next t) : Keeps s t := by
  have hK := Keeps.refl s
  unfold execExtentList at hE
  cases hE
  try dsimp only
  repeat' first
    | with_reducible assumption | with_reducible apply State.packet_keeps | exact cExtentList_safe | intro _ | split | dsimp only

theorem execWindowSet_keeps {t : State} {o : Origin} {p : Pkt} {s : State} (hE : execWindowSet o p s = .next t) : Keeps s t := by
  have hK := Keeps.refl s
  unfold execWindowSet at hE
  cases hE
  try dsimp only
  repeat' first
    | with_reducible assumption | with_reducible apply State.packet_keeps | exact cWindowSet_safe | intro _ | split | dsimp only

theorem execInitiateDcAdd_keeps {t : State} {eid : Nat} {p : Pkt} {s : State} (hE : execInitiateDcAdd eid p s = .next t) : Keeps s t := by
  have hK := Keeps.refl s
  unfold execInitiateDcAdd at hE
  cases hE
  try dsimp only
  repeat' first
    | with_reducible assumption | with_reducible apply State.packet_keeps | exact cExtentGrant_safe | intro _ | split
    | dsimp only

theorem execInitiateDcRelease_keeps {t : State} {eid : Nat} {p : Pkt} {s : State} (hE : execInitiateDcRelease eid p s = .next t) : Keeps s t := by
  have hK := Keeps.refl s
  unfold execInitiateDcRelease at hE
  cases hE
  try dsimp only
  repeat' first
    | with_reducible assumption | with_reducible apply State.packet_keeps | exact cExtentRelease_safe | intro _ | split
    | dsimp only

theorem execTetherExpiry_keeps {t : State} {extent : Nat} {s : State} (hE : execTetherExpiry extent s = .next t) : Keeps s t := by
  have hK := Keeps.refl s
  unfold execTetherExpiry at hE
  cases hE
  try dsimp only
  repeat' first
    | with_reducible assumption | with_reducible apply State.recallExtent_keeps | with_reducible apply Keeps.ite
    | fail_if_no_progress (with_reducible refine Keeps.upd ?_ rfl rfl) | intro _ | split | dsimp only

theorem execOfferTimeout_keeps {t : State} {extent : Nat} {s : State} (hE : execOfferTimeout extent s = .next t) : Keeps s t := by
  have hK := Keeps.refl s
  unfold execOfferTimeout at hE
  cases hE
  try dsimp only
  repeat' first
    | with_reducible assumption | with_reducible apply State.join_keeps
    | with_reducible refine State.join_keepsE (by assumption) ?_ | with_reducible apply Keeps.ite | intro _ | split
    | dsimp only

theorem execDcAddResponse_keeps {t : State} {ld extent : Nat} {accept part : Bool} {s : State} (hE : execDcAddResponse ld extent accept part s = .next t) : Keeps s t := by
  have hK := Keeps.refl s
  unfold execDcAddResponse at hE
  cases hE
  try dsimp only
  repeat' first
    | with_reducible assumption | with_reducible apply State.join_keeps
    | with_reducible refine State.join_keepsE (by assumption) ?_ | with_reducible apply Keeps.ite | intro _ | split
    | dsimp only

theorem execDcReleaseResponse_keeps {t : State} {ld extent : Nat} {s : State} (hE : execDcReleaseResponse ld extent s = .next t) : Keeps s t := by
  have hK := Keeps.refl s
  unfold execDcReleaseResponse at hE
  cases hE
  try dsimp only
  repeat' first
    | with_reducible assumption | with_reducible apply State.join_keeps
    | with_reducible refine State.join_keepsE (by assumption) ?_ | with_reducible apply Keeps.ite | intro _ | split | dsimp only

theorem execGetDcRegionConfiguration_keeps {t : State} {ld : Nat} {s : State} (hE : execGetDcRegionConfiguration ld s = .next t) : Keeps s t := by
  have hK := Keeps.refl s
  unfold execGetDcRegionConfiguration at hE
  cases hE
  try dsimp only
  repeat' first
    | with_reducible assumption | with_reducible apply Keeps.emit | intro _ | split | dsimp only

theorem execGetDcExtentLists_keeps {t : State} {ld : Nat} {s : State} (hE : execGetDcExtentLists ld s = .next t) : Keeps s t := by
  have hK := Keeps.refl s
  unfold execGetDcExtentLists at hE
  cases hE
  try dsimp only
  repeat' first
    | with_reducible assumption | with_reducible apply Keeps.emit | intro _ | split | dsimp only

theorem execExpansionWindowRead_keeps {t : State} {func off len : Nat} {s : State} (hE : execExpansionWindowRead func off len s = .next t) : Keeps s t := by
  have hK := Keeps.refl s
  unfold execExpansionWindowRead at hE
  cases hE
  try dsimp only
  repeat' first
    | with_reducible assumption | with_reducible apply State.arrive_keeps | with_reducible apply State.logUnmapped_keeps
    | with_reducible apply State.countPoison_keeps | with_reducible apply Keeps.emit | with_reducible apply Keeps.over
    | with_reducible apply Keeps.ite | intro _ | split | dsimp only

theorem execExpansionWindowWrite_keeps {t : State} {func off : Nat} {data : List Byte} {s : State} (hE : execExpansionWindowWrite func off data s = .next t) : Keeps s t := by
  have hK := Keeps.refl s
  unfold execExpansionWindowWrite at hE
  cases hE
  try dsimp only
  repeat' first
    | with_reducible assumption | with_reducible apply State.arrive_keeps | with_reducible apply State.logUnmapped_keeps
    | with_reducible apply Keeps.over | with_reducible apply Keeps.ite | intro _ | split | dsimp only

theorem State.poisonLinesFrom_keeps {s0 : State} {s : State} {idx slot cursor : Nat} {v0 : Nat} (hK : Keeps s0 s) : Keeps s0 (State.poisonLinesFrom s idx slot cursor v0).1 := by
  induction v0 generalizing s idx slot cursor with
  | zero =>
    unfold State.poisonLinesFrom
    all_goals try dsimp only
    repeat' first
      | with_reducible assumption | with_reducible apply State.charge_keeps | with_reducible apply State.writeLine_keeps
      | with_reducible apply Keeps.ite | intro _ | split | dsimp only
  | succ _ ih =>
    unfold State.poisonLinesFrom
    all_goals try dsimp only
    repeat' first
      | with_reducible assumption | with_reducible apply ih | with_reducible refine Keeps.ofEq (by assumption) (ih ?_)
      | with_reducible apply State.charge_keeps | with_reducible apply State.writeLine_keeps | with_reducible apply Keeps.ite
      | intro _ | split | dsimp only
theorem State.poisonLinesFrom_keepsE {s0 tK : State} {s : State} {idx slot cursor : Nat} {v0 : Nat} {y : Nat} (hE : State.poisonLinesFrom s idx slot cursor v0 = (tK, y)) (hK : Keeps s0 s) : Keeps s0 tK := by
  have k := State.poisonLinesFrom_keeps (s := s) (idx := idx) (slot := slot) (cursor := cursor) (v0 := v0) (hK := hK)
  rw [hE] at k
  exact k

end Sys2Proof.Machine
end

