-- ==== Sys2Proof/Laws/KeepsPlacement.lean ====
section
/-! SUPPORT. What the operations of Machine/Placement.lean keep (Keeps), one lemma per operation. -/

set_option linter.unusedTactic false
set_option linter.unreachableTactic false

namespace Sys2Proof.Machine

theorem State.setBody_keeps {s0 : State} {s : State} {h : Nat} {b : OpBody} (hK : Keeps s0 s) : Keeps s0 (State.setBody s h b) := by
  unfold State.setBody
  try dsimp only
  repeat' first
    | with_reducible assumption | with_reducible apply State.modOp_keeps
    | fail_if_no_progress (with_reducible refine Keeps.upd ?_ rfl rfl) | intro _ | split | dsimp only

theorem State.ranTo_keeps {s0 : State} {s : State} {h done : Nat} (hK : Keeps s0 s) : Keeps s0 (State.ranTo s h done) := by
  unfold State.ranTo
  try dsimp only
  repeat' first
    | with_reducible assumption | with_reducible apply State.modOp_keeps
    | fail_if_no_progress (with_reducible refine Keeps.upd ?_ rfl rfl) | intro _ | split | dsimp only

theorem State.endOp_keeps {s0 : State} {s : State} {h status : Nat} (hK : Keeps s0 s) : Keeps s0 (State.endOp s h status) := by
  unfold State.endOp
  try dsimp only
  repeat' first
    | with_reducible assumption | with_reducible apply State.modOp_keeps
    | fail_if_no_progress (with_reducible refine Keeps.upd ?_ rfl rfl) | intro _ | split | dsimp only

theorem State.failOp_keeps {s0 : State} {s : State} {h status : Nat} (hK : Keeps s0 s) : Keeps s0 (State.failOp s h status) := by
  unfold State.failOp
  try dsimp only
  repeat' first
    | with_reducible assumption | with_reducible apply State.modOp_keeps
    | fail_if_no_progress (with_reducible refine Keeps.upd ?_ rfl rfl) | intro _ | split | dsimp only

theorem State.setResults_keeps {s0 : State} {s : State} {h r0 r1 : Nat} (hK : Keeps s0 s) : Keeps s0 (State.setResults s h r0 r1) := by
  unfold State.setResults
  try dsimp only
  repeat' first
    | with_reducible assumption | with_reducible apply State.modOp_keeps
    | fail_if_no_progress (with_reducible refine Keeps.upd ?_ rfl rfl) | intro _ | split | dsimp only

theorem State.placeOne_keeps {s0 : State} {s : State} {slot plate tier : Nat} (hK : Keeps s0 s) : Keeps s0 (State.placeOne s slot plate tier).1 := by
  unfold State.placeOne
  try dsimp only
  repeat' first
    | with_reducible assumption | with_reducible refine State.moveHome_keepsE (by assumption) ?_
    | with_reducible apply Keeps.ite | intro _ | split | dsimp only
theorem State.placeOne_keepsE {s0 tK : State} {s : State} {slot plate tier : Nat} {y : Placed} (hE : State.placeOne s slot plate tier = (tK, y)) (hK : Keeps s0 s) : Keeps s0 tK := by
  have k := State.placeOne_keeps (s := s) (slot := slot) (plate := plate) (tier := tier) (hK := hK)
  rw [hE] at k
  exact k

theorem State.askPlace_keeps {s0 : State} {s : State} {h dev slot plate tier : Nat} (hK : Keeps s0 s) : Keeps s0 (State.askPlace s h dev slot plate tier) := by
  unfold State.askPlace
  try dsimp only
  repeat' first
    | with_reducible assumption | with_reducible apply State.request_keeps
    | fail_if_no_progress (with_reducible refine Keeps.upd ?_ rfl rfl) | intro _ | split | dsimp only

theorem State.placeSome_keeps {s0 : State} {s : State} {h slot first tier cursor l d : Nat} {v0 : Nat} (hK : Keeps s0 s) : Keeps s0 (State.placeSome s h slot first tier cursor l d v0).1 := by
  induction v0 generalizing s h slot first tier cursor l d with
  | zero =>
    unfold State.placeSome
    all_goals try dsimp only
    repeat' first
      | with_reducible assumption | with_reducible apply State.placeOne_keeps
      | with_reducible refine State.placeOne_keepsE (by assumption) ?_ | with_reducible apply State.askPlace_keeps
      | with_reducible apply Keeps.ite | intro _ | split | dsimp only
  | succ _ ih =>
    unfold State.placeSome
    all_goals try dsimp only
    repeat' first
      | with_reducible assumption | with_reducible apply ih | with_reducible refine Keeps.ofEq (by assumption) (ih ?_)
      | with_reducible apply State.placeOne_keeps | with_reducible refine State.placeOne_keepsE (by assumption) ?_
      | with_reducible apply State.askPlace_keeps | with_reducible apply Keeps.ite | intro _ | split | dsimp only
theorem State.placeSome_keepsE {s0 tK : State} {s : State} {h slot first tier cursor l d : Nat} {v0 : Nat} {y : Nat × Nat × Nat} (hE : State.placeSome s h slot first tier cursor l d v0 = (tK, y)) (hK : Keeps s0 s) : Keeps s0 tK := by
  have k := State.placeSome_keeps (s := s) (h := h) (slot := slot) (first := first) (tier := tier) (cursor := cursor) (l := l) (d := d) (v0 := v0) (hK := hK)
  rw [hE] at k
  exact k

theorem State.placeSlice_keeps {s0 : State} {s : State} {h slot first count tier cursor : Nat} (hK : Keeps s0 s) : Keeps s0 (State.placeSlice s h slot first count tier cursor) := by
  unfold State.placeSlice
  try dsimp only
  repeat' first
    | with_reducible assumption | with_reducible apply State.placeSome_keeps
    | with_reducible refine State.placeSome_keepsE (by assumption) ?_ | with_reducible apply State.setBody_keeps
    | with_reducible apply State.setResults_keeps | with_reducible apply State.ranTo_keeps
    | with_reducible apply State.endOp_keeps | with_reducible apply Keeps.ite | intro _ | split | dsimp only

theorem cPlaceMove_safe  : (cPlaceMove).Safe := by
  intro s o p
  have hK := Keeps.refl s
  unfold cPlaceMove
  try unfold shortCmd
  try unfold longCmd
  try dsimp only
  repeat' first
    | with_reducible assumption | with_reducible apply deny_keeps | with_reducible refine deny_keepsE (by assumption) ?_
    | exact longCmd_safe | exact longCmd_safe _ _ _ | with_reducible apply Keeps.ite | intro _ | split | dsimp only

theorem cPlateQuery_safe  : (cPlateQuery).Safe := by
  intro s o p
  have hK := Keeps.refl s
  unfold cPlateQuery
  try unfold shortCmd
  try unfold longCmd
  try dsimp only
  repeat' first
    | with_reducible assumption | with_reducible apply done_keeps | with_reducible refine done_keepsE (by assumption) ?_
    | with_reducible apply deny_keeps | with_reducible refine deny_keepsE (by assumption) ?_ | exact shortCmd_safe
    | exact shortCmd_safe _ _ _ | with_reducible apply Keeps.ite | intro _ | split | dsimp only

theorem State.discardSlice_keeps {s0 : State} {s : State} {h slot first count cursor : Nat} (hK : Keeps s0 s) : Keeps s0 (State.discardSlice s h slot first count cursor) := by
  unfold State.discardSlice
  try dsimp only
  repeat' first
    | with_reducible assumption | with_reducible apply State.preserve_keeps | with_reducible apply State.clearLines_keeps
    | with_reducible refine State.clearLines_keepsE (by assumption) ?_ | with_reducible apply State.ranTo_keeps
    | with_reducible apply Keeps.over | intro _ | split | dsimp only

theorem State.dropWrites_keeps {s0 : State} {s : State} {slot first n : Nat} (hK : Keeps s0 s) : Keeps s0 (State.dropWrites s slot first n) := by
  unfold State.dropWrites
  try dsimp only
  repeat' first
    | with_reducible assumption | with_reducible apply State.complete_keeps | with_reducible apply Keeps.over
    | fail_if_no_progress (with_reducible refine Keeps.upd ?_ rfl rfl) | intro _ | split | dsimp only

theorem State.discardEndSlice_keeps {s0 : State} {s : State} {h slot first count cursor : Nat} (hK : Keeps s0 s) : Keeps s0 (State.discardEndSlice s h slot first count cursor) := by
  unfold State.discardEndSlice
  try dsimp only
  repeat' first
    | with_reducible assumption | with_reducible apply State.forget_keeps | with_reducible apply State.dropWrites_keeps
    | with_reducible apply State.setBody_keeps | with_reducible apply State.ranTo_keeps
    | with_reducible apply State.endOp_keeps | with_reducible apply Keeps.over | with_reducible apply Keeps.ite | intro _
    | split | dsimp only

theorem cPlateDiscard_safe  : (cPlateDiscard).Safe := by
  intro s o p
  have hK := Keeps.refl s
  unfold cPlateDiscard
  try unfold shortCmd
  try unfold longCmd
  try dsimp only
  repeat' first
    | with_reducible assumption | with_reducible apply deny_keeps | with_reducible refine deny_keepsE (by assumption) ?_
    | exact longCmd_safe | intro _ | split | dsimp only

theorem State.demoteSome_keeps {s0 : State} {s : State} {slot : Nat} {v0 : Nat} {v1 : List (Nat × MapEnt)} (hK : Keeps s0 s) : Keeps s0 (State.demoteSome s slot v0 v1) := by
  induction v1 generalizing s slot v0 with
  | nil =>
    cases v0 <;> unfold State.demoteSome
    all_goals try dsimp only
    repeat' first
      | with_reducible assumption | with_reducible refine State.moveHome_keepsE (by assumption) ?_
      | with_reducible refine Keeps.bindE (by assumption) ?_ | with_reducible refine Keeps.bindS (by assumption) ?_
      | with_reducible apply Keeps.ite | fail_if_no_progress (with_reducible refine Keeps.upd ?_ rfl rfl) | intro _ | split
      | dsimp only
  | cons x _ ih =>
    obtain ⟨_, _⟩ := x
    cases v0 <;> unfold State.demoteSome
    all_goals try dsimp only
    repeat' first
      | with_reducible assumption | with_reducible apply ih | with_reducible refine State.moveHome_keepsE (by assumption) ?_
      | with_reducible refine Keeps.bindE (by assumption) ?_ | with_reducible refine Keeps.bindS (by assumption) ?_
      | with_reducible apply Keeps.ite | fail_if_no_progress (with_reducible refine Keeps.upd ?_ rfl rfl) | intro _ | split
      | dsimp only

theorem execDemotionSlice_keeps {t : State} {slot : Nat} {s : State} (hE : execDemotionSlice slot s = .next t) : Keeps s t := by
  have hK := Keeps.refl s
  unfold execDemotionSlice at hE
  cases hE
  try dsimp only
  repeat' first
    | with_reducible assumption | with_reducible apply State.demoteSome_keeps | with_reducible refine Keeps.getD ?_ ?_
    | with_reducible refine Keeps.getD₂ ?_ ?_ | with_reducible apply Keeps.ite
    | fail_if_no_progress (with_reducible refine Keeps.upd ?_ rfl rfl) | intro _ | split | dsimp only

theorem execTouchedSweep_keeps {t : State} {s : State} (hE : execTouchedSweep s = .next t) : Keeps s t := by
  have hK := Keeps.refl s
  unfold execTouchedSweep at hE
  cases hE
  try dsimp only
  repeat' first
    | with_reducible assumption | with_reducible refine Keeps.mapE (by assumption) ?_ | with_reducible apply Keeps.ite
    | fail_if_no_progress (with_reducible refine Keeps.upd ?_ rfl rfl) | intro _ | split | dsimp only

theorem execPlaceMove_keeps {t : State} {o : Origin} {p : Pkt} {s : State} (hE : execPlaceMove o p s = .next t) : Keeps s t := by
  have hK := Keeps.refl s
  unfold execPlaceMove at hE
  cases hE
  try dsimp only
  repeat' first
    | with_reducible assumption | with_reducible apply State.packet_keeps | exact cPlaceMove_safe | intro _ | split | dsimp only

theorem execPlateQuery_keeps {t : State} {o : Origin} {p : Pkt} {s : State} (hE : execPlateQuery o p s = .next t) : Keeps s t := by
  have hK := Keeps.refl s
  unfold execPlateQuery at hE
  cases hE
  try dsimp only
  repeat' first
    | with_reducible assumption | with_reducible apply State.packet_keeps | exact cPlateQuery_safe | intro _ | split | dsimp only

theorem execPlateDiscard_keeps {t : State} {o : Origin} {p : Pkt} {s : State} (hE : execPlateDiscard o p s = .next t) : Keeps s t := by
  have hK := Keeps.refl s
  unfold execPlateDiscard at hE
  cases hE
  try dsimp only
  repeat' first
    | with_reducible assumption | with_reducible apply State.packet_keeps | exact cPlateDiscard_safe | intro _ | split
    | dsimp only

end Sys2Proof.Machine
end

