-- ==== Sys2Proof/Laws/KeepsCodingOps.lean ====
section
/-! SUPPORT. What the operations of Machine/CodingOps.lean keep (Keeps), one lemma per operation. -/

set_option linter.unusedTactic false
set_option linter.unreachableTactic false

namespace Sys2Proof.Machine

theorem State.popJob_keeps {s0 : State} {s : State} {lane : Nat} (hK : Keeps s0 s) : Keeps s0 (State.popJob s lane) := by
  unfold State.popJob
  try dsimp only
  repeat' first
    | with_reducible assumption | with_reducible apply State.modLane_keeps
    | fail_if_no_progress (with_reducible refine Keeps.upd ?_ rfl rfl) | intro _ | split | dsimp only

theorem State.logReleased_keeps {s0 : State} {s : State} {slot mask : Nat} (hK : Keeps s0 s) : Keeps s0 (State.logReleased s slot mask) := by
  unfold State.logReleased
  try dsimp only
  repeat' first
    | with_reducible assumption | with_reducible apply State.logE_keeps | with_reducible apply Keeps.ite | intro _ | split
    | dsimp only

theorem State.releaseLines_keeps {s0 : State} {s : State} {key mask : Nat} {d : List Byte} (hK : Keeps s0 s) : Keeps s0 (State.releaseLines s key mask d) := by
  unfold State.releaseLines
  try dsimp only
  repeat' first
    | with_reducible assumption | with_reducible apply State.advance_keeps | with_reducible apply Keeps.ite
    | fail_if_no_progress (with_reducible refine Keeps.upd ?_ rfl rfl) | intro _ | split | dsimp only

theorem State.decodeFailed_keeps {s0 : State} {s : State} {lane : Nat} {j : Job} {e : MapEnt} {check mask : Nat} {d : List Byte} (hK : Keeps s0 s) : Keeps s0 (State.decodeFailed s lane j e check mask d) := by
  unfold State.decodeFailed
  try dsimp only
  repeat' first
    | with_reducible assumption | with_reducible apply State.releaseLines_keeps | with_reducible apply State.diverge_keeps
    | with_reducible apply State.chargeHome_keeps | with_reducible apply State.charge_keeps
    | with_reducible apply State.giveJob_keeps | with_reducible apply State.damage_keeps
    | with_reducible apply State.logReleased_keeps | with_reducible apply State.advance_keeps
    | fail_if_no_progress (with_reducible refine Keeps.upd ?_ rfl rfl) | intro _ | split | dsimp only

theorem State.decodeDone_keeps {s0 : State} {s : State} {lane : Nat} {j : Job} {d : List Byte} {bad : List Nat} {cycles : Nat} (hK : Keeps s0 s) : Keeps s0 (State.decodeDone s lane j d bad cycles) := by
  unfold State.decodeDone
  try dsimp only
  repeat' first
    | with_reducible assumption | with_reducible apply State.charge_keeps | with_reducible apply State.laneFault_keeps
    | with_reducible apply State.logReleased_keeps | with_reducible apply State.takeT0_keeps
    | with_reducible refine State.takeT0_keepsE (by assumption) ?_ | with_reducible apply State.fillT0_keeps
    | with_reducible apply State.advance_keeps | with_reducible apply State.releaseLines_keeps
    | fail_if_no_progress (with_reducible refine Keeps.upd ?_ rfl rfl) | intro _ | split | dsimp only

theorem State.decodeChecked_keeps {s0 : State} {s : State} {lane : Nat} {j : Job} {fault : Option Nat} (hK : Keeps s0 s) : Keeps s0 (State.decodeChecked s lane j fault) := by
  unfold State.decodeChecked
  try dsimp only
  repeat' first
    | with_reducible assumption | with_reducible apply State.diverge_keeps | with_reducible apply State.chargeHome_keeps
    | with_reducible apply State.charge_keeps | with_reducible apply State.giveJob_keeps
    | with_reducible apply State.damage_keeps | with_reducible apply State.logReleased_keeps
    | with_reducible apply State.advance_keeps | with_reducible apply State.laneFault_keeps
    | fail_if_no_progress (with_reducible refine Keeps.upd ?_ rfl rfl) | intro _ | split | dsimp only

theorem State.decodeEnds_keeps {s0 : State} {s : State} {lane : Nat} {j : Job} {fault : Option (Nat × Nat)} (hK : Keeps s0 s) : Keeps s0 (State.decodeEnds s lane j fault) := by
  unfold State.decodeEnds
  try dsimp only
  repeat' first
    | with_reducible assumption | with_reducible apply State.advance_keeps | with_reducible apply State.readHome_keeps
    | with_reducible refine State.readHome_keepsE (by assumption) ?_ | with_reducible apply State.damage_keeps
    | with_reducible apply State.logReleased_keeps | with_reducible apply State.decodeFailed_keeps
    | with_reducible apply State.decodeDone_keeps | with_reducible apply Keeps.ite | intro _ | split | dsimp only

theorem State.decodeComplete_keeps {s0 : State} {s : State} {lane : Nat} {fault : Option (Nat × Nat)} (hK : Keeps s0 s) : Keeps s0 (State.decodeComplete s lane fault) := by
  unfold State.decodeComplete
  try dsimp only
  repeat' first
    | with_reducible assumption | with_reducible apply State.popJob_keeps | with_reducible apply State.decodeEnds_keeps
    | with_reducible apply State.decodeChecked_keeps | with_reducible refine Keeps.mapE (by assumption) ?_
    | with_reducible apply Keeps.ite | intro _ | split | dsimp only

theorem State.storeRaw_keeps {s0 : State} {s : State} {slot plate : Nat} (hK : Keeps s0 s) : Keeps s0 (State.storeRaw s slot plate) := by
  unfold State.storeRaw
  try dsimp only
  repeat' first
    | with_reducible assumption | with_reducible apply State.freeAt_keeps | with_reducible apply State.plateCopy_keeps
    | with_reducible refine State.plateCopy_keepsE (by assumption) ?_ | with_reducible apply State.leaveT0_keeps
    | with_reducible refine State.newHome_keepsE (by assumption) ?_ | with_reducible apply State.modEnt_keeps
    | with_reducible apply Keeps.ite | fail_if_no_progress (with_reducible refine Keeps.upd ?_ rfl rfl) | intro _ | split
    | dsimp only

theorem State.encodeChecked_keeps {s0 : State} {s : State} {lane : Nat} {j : Job} {fault : Bool} (hK : Keeps s0 s) : Keeps s0 (State.encodeChecked s lane j fault) := by
  unfold State.encodeChecked
  try dsimp only
  repeat' first
    | with_reducible assumption | with_reducible apply done_keeps | with_reducible refine done_keepsE (by assumption) ?_
    | with_reducible apply State.charge_keeps | with_reducible apply State.diverge_keeps
    | with_reducible apply State.giveJob_keeps | with_reducible apply State.storeRaw_keeps
    | with_reducible apply State.laneFault_keeps | with_reducible apply Keeps.ite
    | fail_if_no_progress (with_reducible refine Keeps.upd ?_ rfl rfl) | intro _ | split | dsimp only

theorem State.encodeComplete_keeps {s0 : State} {s : State} {lane : Nat} {fault : Bool} (hK : Keeps s0 s) : Keeps s0 (State.encodeComplete s lane fault) := by
  unfold State.encodeComplete
  try dsimp only
  repeat' first
    | with_reducible assumption | with_reducible apply State.popJob_keeps | with_reducible apply State.encodeChecked_keeps
    | with_reducible apply Keeps.ite | intro _ | split | dsimp only

theorem execDecodeComplete_keeps {t : State} {lane : Nat} {fault : Option (Nat × Nat)} {s : State} (hE : execDecodeComplete lane fault s = .next t) : Keeps s t := by
  have hK := Keeps.refl s
  unfold execDecodeComplete at hE
  cases hE
  try dsimp only
  repeat' first
    | with_reducible assumption | with_reducible apply State.decodeComplete_keeps | intro _ | split | dsimp only

theorem execEncodeComplete_keeps {t : State} {lane : Nat} {fault : Bool} {s : State} (hE : execEncodeComplete lane fault s = .next t) : Keeps s t := by
  have hK := Keeps.refl s
  unfold execEncodeComplete at hE
  cases hE
  try dsimp only
  repeat' first
    | with_reducible assumption | with_reducible apply State.encodeComplete_keeps | intro _ | split | dsimp only

theorem execLaneJobDispatch_keeps {t : State} {die : Nat} {s : State} (hE : execLaneJobDispatch die s = .next t) : Keeps s t := by
  have hK := Keeps.refl s
  unfold execLaneJobDispatch at hE
  cases hE
  try dsimp only
  repeat' first
    | with_reducible assumption | with_reducible apply State.dispatchLanes_keeps | with_reducible apply Keeps.ite | intro _
    | split | dsimp only

theorem State.lanesBoundary_keeps {s0 : State} {s : State} (hK : Keeps s0 s) : Keeps s0 (State.lanesBoundary s) := by
  unfold State.lanesBoundary
  try dsimp only
  repeat' first
    | with_reducible assumption | with_reducible apply State.logE_keeps | with_reducible apply State.modLane_keeps
    | with_reducible apply State.giveJob_keeps | with_reducible apply Keeps.over
    | fail_if_no_progress (with_reducible refine Keeps.upd ?_ rfl rfl) | intro _ | split | dsimp only

theorem State.claim_keeps {s0 : State} {s : State} {kind owner bytes : Nat} (hK : Keeps s0 s) : Keeps s0 (State.claim s kind owner bytes) := by
  unfold State.claim
  try dsimp only
  repeat' first
    | with_reducible assumption | fail_if_no_progress (with_reducible refine Keeps.upd ?_ rfl rfl) | intro _ | split | dsimp only

theorem State.unclaim_keeps {s0 : State} {s : State} {kind owner : Nat} (hK : Keeps s0 s) : Keeps s0 (State.unclaim s kind owner) := by
  unfold State.unclaim
  try dsimp only
  repeat' first
    | with_reducible assumption | fail_if_no_progress (with_reducible refine Keeps.upd ?_ rfl rfl) | intro _ | split | dsimp only

theorem State.grantClaims_keeps {s0 : State} {s : State} (hK : Keeps s0 s) : Keeps s0 (State.grantClaims s) := by
  unfold State.grantClaims
  try dsimp only
  repeat' first
    | with_reducible assumption | with_reducible refine Keeps.mapE (by assumption) ?_ | with_reducible apply Keeps.over
    | with_reducible apply Keeps.ite | fail_if_no_progress (with_reducible refine Keeps.upd ?_ rfl rfl) | intro _ | split
    | dsimp only

theorem cSegmentDefine_safe  : (cSegmentDefine).Safe := by
  intro s o p
  have hK := Keeps.refl s
  unfold cSegmentDefine
  try unfold shortCmd
  try unfold longCmd
  try dsimp only
  repeat' first
    | with_reducible assumption | with_reducible apply done_keeps | with_reducible refine done_keepsE (by assumption) ?_
    | with_reducible apply deny_keeps | with_reducible refine deny_keepsE (by assumption) ?_ | exact shortCmd_safe
    | exact shortCmd_safe _ _ _ | with_reducible apply Keeps.ite
    | fail_if_no_progress (with_reducible refine Keeps.upd ?_ rfl rfl) | intro _ | split | dsimp only

theorem cSegmentDrop_safe  : (cSegmentDrop).Safe := by
  intro s o p
  have hK := Keeps.refl s
  unfold cSegmentDrop
  try unfold shortCmd
  try unfold longCmd
  try dsimp only
  repeat' first
    | with_reducible assumption | with_reducible apply deny_keeps | with_reducible refine deny_keepsE (by assumption) ?_
    | with_reducible apply State.join_keeps | with_reducible refine State.join_keepsE (by assumption) ?_
    | with_reducible apply State.later_keeps | exact shortCmd_safe | exact shortCmd_safe _ _ _ | with_reducible apply Keeps.ite
    | fail_if_no_progress (with_reducible refine Keeps.upd ?_ rfl rfl) | intro _ | split | dsimp only

theorem cSegmentQuery_safe  : (cSegmentQuery).Safe := by
  intro s o p
  have hK := Keeps.refl s
  unfold cSegmentQuery
  try unfold shortCmd
  try unfold longCmd
  try dsimp only
  repeat' first
    | with_reducible assumption | with_reducible apply done_keeps | with_reducible refine done_keepsE (by assumption) ?_
    | with_reducible apply deny_keeps | with_reducible refine deny_keepsE (by assumption) ?_ | exact shortCmd_safe
    | with_reducible refine Keeps.getD ?_ ?_ | with_reducible refine Keeps.getD₂ ?_ ?_ | intro _ | split | dsimp only

theorem cTableRead_safe  : (cTableRead).Safe := by
  intro s o p
  have hK := Keeps.refl s
  unfold cTableRead
  try unfold shortCmd
  try unfold longCmd
  try dsimp only
  repeat' first
    | with_reducible assumption | with_reducible apply deny_keeps | with_reducible refine deny_keepsE (by assumption) ?_
    | with_reducible apply doneData_keeps | with_reducible refine doneData_keepsE (by assumption) ?_ | exact shortCmd_safe
    | exact shortCmd_safe _ _ _ | with_reducible apply Keeps.ite | intro _ | split | dsimp only

theorem State.takeTable_keeps {s0 : State} {s : State} {id : Nat} (hK : Keeps s0 s) : Keeps s0 (State.takeTable s id) := by
  unfold State.takeTable
  try dsimp only
  repeat' first
    | with_reducible assumption | fail_if_no_progress (with_reducible refine Keeps.upd ?_ rfl rfl) | intro _ | split
    | dsimp only

theorem cProofPass_safe  : (cProofPass).Safe := by
  intro s o p
  have hK := Keeps.refl s
  unfold cProofPass
  try unfold shortCmd
  try unfold longCmd
  try dsimp only
  repeat' first
    | with_reducible assumption | with_reducible apply deny_keeps | with_reducible refine deny_keepsE (by assumption) ?_
    | with_reducible apply State.claim_keeps | with_reducible apply State.takeTable_keeps | exact longCmd_safe
    | exact longCmd_safe _ _ _ | with_reducible apply Keeps.ite | intro _ | split | dsimp only

theorem State.histPlate_keeps {s0 : State} {s : State} {slot plate : Nat} {sp : Split} {h : FMap Nat} {z : Nat} (hK : Keeps s0 s) : Keeps s0 (State.histPlate s slot plate sp h z).1 := by
  unfold State.histPlate
  try dsimp only
  repeat' first
    | with_reducible assumption | with_reducible apply State.needPlates_keeps
    | with_reducible refine State.needPlates_keepsE (by assumption) ?_ | with_reducible apply State.laneWork_keeps
    | with_reducible apply State.copyOf_keeps | with_reducible refine State.copyOf_keepsE (by assumption) ?_
    | with_reducible apply Keeps.ite | intro _ | split | dsimp only
theorem State.histPlate_keepsE {s0 tK : State} {s : State} {slot plate : Nat} {sp : Split} {h : FMap Nat} {z : Nat} {y : Bool × Bool × FMap Nat × Nat} (hE : State.histPlate s slot plate sp h z = (tK, y)) (hK : Keeps s0 s) : Keeps s0 tK := by
  have k := State.histPlate_keeps (s := s) (slot := slot) (plate := plate) (sp := sp) (h := h) (z := z) (hK := hK)
  rw [hE] at k
  exact k

theorem State.histSome_keeps {s0 : State} {s : State} {slot first cursor : Nat} {sp : Split} {h : FMap Nat} {z bad : Nat} {v0 : Nat} (hK : Keeps s0 s) : Keeps s0 (State.histSome s slot first cursor sp h z bad v0).1 := by
  induction v0 generalizing s slot first cursor sp h z bad with
  | zero =>
    unfold State.histSome
    all_goals try dsimp only
    repeat' first
      | with_reducible assumption | with_reducible apply State.histPlate_keeps
      | with_reducible refine State.histPlate_keepsE (by assumption) ?_ | with_reducible apply Keeps.ite | intro _ | split
      | dsimp only
  | succ _ ih =>
    unfold State.histSome
    all_goals try dsimp only
    repeat' first
      | with_reducible assumption | with_reducible apply ih | with_reducible refine Keeps.ofEq (by assumption) (ih ?_)
      | with_reducible apply State.histPlate_keeps | with_reducible refine State.histPlate_keepsE (by assumption) ?_
      | with_reducible apply Keeps.ite | intro _ | split | dsimp only
theorem State.histSome_keepsE {s0 tK : State} {s : State} {slot first cursor : Nat} {sp : Split} {h : FMap Nat} {z bad : Nat} {v0 : Nat} {y : Nat × FMap Nat × Nat × Nat} (hE : State.histSome s slot first cursor sp h z bad v0 = (tK, y)) (hK : Keeps s0 s) : Keeps s0 tK := by
  have k := State.histSome_keeps (s := s) (slot := slot) (first := first) (cursor := cursor) (sp := sp) (h := h) (z := z) (bad := bad) (v0 := v0) (hK := hK)
  rw [hE] at k
  exact k

theorem State.recodePlate_keeps {s0 : State} {s : State} {slot table plate : Nat} (hK : Keeps s0 s) : Keeps s0 (State.recodePlate s slot table plate).1 := by
  unfold State.recodePlate
  try dsimp only
  repeat' first
    | with_reducible assumption | with_reducible apply State.plateCopy_keeps
    | with_reducible refine State.plateCopy_keepsE (by assumption) ?_
    | with_reducible refine State.encodeHome_keepsE (by assumption) ?_ | with_reducible apply Keeps.ite | intro _ | split
    | dsimp only
theorem State.recodePlate_keepsE {s0 tK : State} {s : State} {slot table plate : Nat} {y : Bool × Bool} (hE : State.recodePlate s slot table plate = (tK, y)) (hK : Keeps s0 s) : Keeps s0 tK := by
  have k := State.recodePlate_keeps (s := s) (slot := slot) (table := table) (plate := plate) (hK := hK)
  rw [hE] at k
  exact k

theorem State.recodeSome_keeps {s0 : State} {s : State} {slot table bad : Nat} {v0 : Nat} {v1 : List Nat} (hK : Keeps s0 s) : Keeps s0 (State.recodeSome s slot table bad v0 v1).1 := by
  induction v1 generalizing s slot bad v0 with
  | nil =>
    cases v0 <;> unfold State.recodeSome
    all_goals try dsimp only
    repeat' first
      | with_reducible assumption | with_reducible apply State.recodePlate_keeps
      | with_reducible refine State.recodePlate_keepsE (by assumption) ?_ | with_reducible apply Keeps.ite | intro _ | split
      | dsimp only
  | cons _ _ ih =>
    cases v0 <;> unfold State.recodeSome
    all_goals try dsimp only
    repeat' first
      | with_reducible assumption | with_reducible apply ih | with_reducible refine Keeps.ofEq (by assumption) (ih ?_)
      | with_reducible apply State.recodePlate_keeps | with_reducible refine State.recodePlate_keepsE (by assumption) ?_
      | with_reducible apply Keeps.ite | intro _ | split | dsimp only
theorem State.recodeSome_keepsE {s0 tK : State} {s : State} {slot table bad : Nat} {v0 : Nat} {v1 : List Nat} {y : List Nat × Nat} (hE : State.recodeSome s slot table bad v0 v1 = (tK, y)) (hK : Keeps s0 s) : Keeps s0 tK := by
  have k := State.recodeSome_keeps (s := s) (slot := slot) (table := table) (bad := bad) (v0 := v0) (v1 := v1) (hK := hK)
  rw [hE] at k
  exact k

theorem State.proofSlice_keeps {s0 : State} {s : State} {h seg table : Nat} {recode : Bool} {phase cursor : Nat} {hist : FMap Nat} {z : Nat} {todo : List Nat} (hK : Keeps s0 s) : Keeps s0 (State.proofSlice s h seg table recode phase cursor hist z todo) := by
  unfold State.proofSlice
  try dsimp only
  repeat' first
    | with_reducible assumption | with_reducible apply State.histSome_keeps
    | with_reducible refine State.histSome_keepsE (by assumption) ?_ | with_reducible apply State.setBody_keeps
    | with_reducible apply State.setResults_keeps | with_reducible apply State.ranTo_keeps
    | with_reducible apply State.unclaim_keeps | with_reducible apply State.modOp_keeps
    | with_reducible apply State.recodeSome_keeps | with_reducible refine State.recodeSome_keepsE (by assumption) ?_
    | with_reducible apply State.endOp_keeps | with_reducible apply Keeps.ite
    | fail_if_no_progress (with_reducible refine Keeps.upd ?_ rfl rfl) | intro _ | split | dsimp only

theorem State.proofJoin_keeps {s0 : State} {s : State} {h seg table : Nat} {recode : Bool} {cursor : Nat} (hK : Keeps s0 s) : Keeps s0 (State.proofJoin s h seg table recode cursor) := by
  unfold State.proofJoin
  try dsimp only
  repeat' first
    | with_reducible assumption | with_reducible apply State.setBody_keeps | with_reducible apply State.modOp_keeps
    | with_reducible apply State.endOp_keeps | with_reducible refine Keeps.mapE (by assumption) ?_
    | with_reducible apply Keeps.ite | fail_if_no_progress (with_reducible refine Keeps.upd ?_ rfl rfl) | intro _ | split
    | dsimp only

theorem State.proofCancelled_keeps {s0 : State} {s : State} {table : Nat} (hK : Keeps s0 s) : Keeps s0 (State.proofCancelled s table) := by
  unfold State.proofCancelled
  try dsimp only
  repeat' first
    | with_reducible assumption | with_reducible apply State.unclaim_keeps | with_reducible apply Keeps.ite
    | fail_if_no_progress (with_reducible refine Keeps.upd ?_ rfl rfl) | intro _ | split | dsimp only

theorem State.tablesBoundary_keeps {s0 : State} {s : State} (hK : Keeps s0 s) : Keeps s0 (State.tablesBoundary s) := by
  unfold State.tablesBoundary
  try dsimp only
  repeat' first
    | with_reducible assumption | with_reducible refine Keeps.mapE (by assumption) ?_
    | fail_if_no_progress (with_reducible refine Keeps.upd ?_ rfl rfl) | intro _ | split | dsimp only

theorem execSegmentDefine_keeps {t : State} {o : Origin} {p : Pkt} {s : State} (hE : execSegmentDefine o p s = .next t) : Keeps s t := by
  have hK := Keeps.refl s
  unfold execSegmentDefine at hE
  cases hE
  try dsimp only
  repeat' first
    | with_reducible assumption | with_reducible apply State.packet_keeps | exact cSegmentDefine_safe | intro _ | split
    | dsimp only

theorem execProofPass_keeps {t : State} {o : Origin} {p : Pkt} {s : State} (hE : execProofPass o p s = .next t) : Keeps s t := by
  have hK := Keeps.refl s
  unfold execProofPass at hE
  cases hE
  try dsimp only
  repeat' first
    | with_reducible assumption | with_reducible apply State.packet_keeps | exact cProofPass_safe | intro _ | split | dsimp only

theorem execSegmentDrop_keeps {t : State} {o : Origin} {p : Pkt} {s : State} (hE : execSegmentDrop o p s = .next t) : Keeps s t := by
  have hK := Keeps.refl s
  unfold execSegmentDrop at hE
  cases hE
  try dsimp only
  repeat' first
    | with_reducible assumption | with_reducible apply State.packet_keeps | exact cSegmentDrop_safe | intro _ | split
    | dsimp only

theorem execSegmentQuery_keeps {t : State} {o : Origin} {p : Pkt} {s : State} (hE : execSegmentQuery o p s = .next t) : Keeps s t := by
  have hK := Keeps.refl s
  unfold execSegmentQuery at hE
  cases hE
  try dsimp only
  repeat' first
    | with_reducible assumption | with_reducible apply State.packet_keeps | exact cSegmentQuery_safe | intro _ | split
    | dsimp only

theorem execTableRead_keeps {t : State} {o : Origin} {p : Pkt} {s : State} (hE : execTableRead o p s = .next t) : Keeps s t := by
  have hK := Keeps.refl s
  unfold execTableRead at hE
  cases hE
  try dsimp only
  repeat' first
    | with_reducible assumption | with_reducible apply State.packet_keeps | exact cTableRead_safe | intro _ | split | dsimp only

end Sys2Proof.Machine
end

