-- ==== Sys2Proof/Laws/KeepsStreams.lean ====
section
/-! SUPPORT. What the operations of Machine/Streams.lean keep (Keeps), one lemma per operation. -/

set_option linter.unusedTactic false
set_option linter.unreachableTactic false

namespace Sys2Proof.Machine

theorem cStreamLoad_safe  : (cStreamLoad).Safe := by
  intro s o p
  have hK := Keeps.refl s
  unfold cStreamLoad
  try unfold shortCmd
  try unfold longCmd
  try dsimp only
  repeat' first
    | with_reducible assumption | with_reducible apply deny_keeps | with_reducible refine deny_keepsE (by assumption) ?_
    | exact longCmd_safe | exact shortCmd_safe | exact shortCmd_safe _ _ _
    | with_reducible refine Keeps.mapE (by assumption) ?_ | with_reducible apply Keeps.ite
    | fail_if_no_progress (with_reducible refine Keeps.upd ?_ rfl rfl) | intro _ | split | dsimp only

theorem State.hold_keeps {s0 : State} {s : State} {slot plate x : Nat} (hK : Keeps s0 s) : Keeps s0 (State.hold s slot plate x) := by
  unfold State.hold
  try dsimp only
  repeat' first
    | with_reducible assumption | with_reducible apply Keeps.ite
    | fail_if_no_progress (with_reducible refine Keeps.upd ?_ rfl rfl) | intro _ | split | dsimp only

theorem State.unhold_keeps {s0 : State} {s : State} {f : Nat → Bool} (hK : Keeps s0 s) : Keeps s0 (State.unhold s f) := by
  unfold State.unhold
  try dsimp only
  repeat' first
    | with_reducible assumption | with_reducible refine Keeps.mapE (by assumption) ?_
    | fail_if_no_progress (with_reducible refine Keeps.upd ?_ rfl rfl) | intro _ | split | dsimp only

theorem State.holdCtrl_keeps {s0 : State} {s : State} {n : Nat} {st : Stream} (hK : Keeps s0 s) : Keeps s0 (State.holdCtrl s n st) := by
  unfold State.holdCtrl
  try dsimp only
  repeat' first
    | with_reducible assumption | with_reducible apply State.bringIn_keeps
    | with_reducible refine State.bringIn_keepsE (by assumption) ?_ | with_reducible apply State.hold_keeps
    | with_reducible apply Keeps.over | with_reducible apply Keeps.ite | intro _ | split | dsimp only

theorem State.streamLoadSlice_keeps {s0 : State} {s : State} {h n : Nat} (hK : Keeps s0 s) : Keeps s0 (State.streamLoadSlice s h n) := by
  unfold State.streamLoadSlice
  try dsimp only
  repeat' first
    | with_reducible assumption | with_reducible apply State.setBody_keeps | with_reducible apply State.ranTo_keeps
    | with_reducible apply State.endOp_keeps | with_reducible apply State.failOp_keeps
    | with_reducible apply State.holdCtrl_keeps | fail_if_no_progress (with_reducible refine Keeps.upd ?_ rfl rfl) | intro _
    | split | dsimp only

theorem State.modRun_keeps {s0 : State} {s : State} {n : Nat} {f : Run → Run} (hK : Keeps s0 s) : Keeps s0 (State.modRun s n f) := by
  unfold State.modRun
  try dsimp only
  repeat' first
    | with_reducible assumption | with_reducible refine Keeps.mapE (by assumption) ?_
    | fail_if_no_progress (with_reducible refine Keeps.upd ?_ rfl rfl) | intro _ | split | dsimp only

theorem cStreamRun_safe  : (cStreamRun).Safe := by
  intro s o p
  have hK := Keeps.refl s
  unfold cStreamRun
  try unfold shortCmd
  try unfold longCmd
  try dsimp only
  repeat' first
    | with_reducible assumption | with_reducible apply deny_keeps | with_reducible refine deny_keepsE (by assumption) ?_
    | exact longCmd_safe | exact shortCmd_safe | exact shortCmd_safe _ _ _ | with_reducible apply Keeps.ite
    | fail_if_no_progress (with_reducible refine Keeps.upd ?_ rfl rfl) | intro _ | split | dsimp only

theorem cStreamUnload_safe  : (cStreamUnload).Safe := by
  intro s o p
  have hK := Keeps.refl s
  unfold cStreamUnload
  try unfold shortCmd
  try unfold longCmd
  try dsimp only
  repeat' first
    | with_reducible assumption | with_reducible apply done_keeps | with_reducible refine done_keepsE (by assumption) ?_
    | with_reducible apply deny_keeps | with_reducible refine deny_keepsE (by assumption) ?_
    | with_reducible apply State.unhold_keeps | exact shortCmd_safe | exact shortCmd_safe _ _ _ | with_reducible apply Keeps.ite
    | fail_if_no_progress (with_reducible refine Keeps.upd ?_ rfl rfl) | intro _ | split | dsimp only

theorem cStreamQuery_safe  : (cStreamQuery).Safe := by
  intro s o p
  have hK := Keeps.refl s
  unfold cStreamQuery
  try unfold shortCmd
  try unfold longCmd
  try dsimp only
  repeat' first
    | with_reducible assumption | with_reducible apply deny_keeps | with_reducible refine deny_keepsE (by assumption) ?_
    | with_reducible apply done_keeps | with_reducible refine done_keepsE (by assumption) ?_ | exact shortCmd_safe
    | exact shortCmd_safe | exact shortCmd_safe _ _ _ | intro _ | split | dsimp only

theorem State.readCtrl_keeps {s0 : State} {s : State} {slot off : Nat} (hK : Keeps s0 s) : Keeps s0 (State.readCtrl s slot off).1 := by
  unfold State.readCtrl
  try dsimp only
  repeat' first
    | with_reducible assumption | with_reducible apply State.readLine_keeps
    | with_reducible refine State.readLine_keepsE (by assumption) ?_ | with_reducible apply Keeps.ite | intro _ | split
    | dsimp only
theorem State.readCtrl_keepsE {s0 tK : State} {s : State} {slot off : Nat} {y : Option (List Byte)} (hE : State.readCtrl s slot off = (tK, y)) (hK : Keeps s0 s) : Keeps s0 tK := by
  have k := State.readCtrl_keeps (s := s) (slot := slot) (off := off) (hK := hK)
  rw [hE] at k
  exact k

theorem State.ctrlValues_keeps {s0 : State} {s : State} {n : Nat} {st : Stream} {r : Run} (hK : Keeps s0 s) : Keeps s0 (State.ctrlValues s n st r).1 := by
  unfold State.ctrlValues
  try dsimp only
  repeat' first
    | with_reducible assumption | with_reducible apply State.readCtrl_keeps
    | with_reducible refine State.readCtrl_keepsE (by assumption) ?_ | with_reducible apply State.logE_keeps
    | with_reducible apply Keeps.ite | fail_if_no_progress (with_reducible refine Keeps.upd ?_ rfl rfl) | intro _ | split
    | dsimp only
theorem State.ctrlValues_keepsE {s0 tK : State} {s : State} {n : Nat} {st : Stream} {r : Run} {y : Run} (hE : State.ctrlValues s n st r = (tK, y)) (hK : Keeps s0 s) : Keeps s0 tK := by
  have k := State.ctrlValues_keeps (s := s) (n := n) (st := st) (r := r) (hK := hK)
  rw [hE] at k
  exact k

theorem State.streamSnap_keeps {s0 : State} {s : State} {n : Nat} {st : Stream} {r : Run} (hK : Keeps s0 s) : Keeps s0 (State.streamSnap s n st r) := by
  unfold State.streamSnap
  try dsimp only
  repeat' first
    | with_reducible assumption | with_reducible apply State.ctrlValues_keeps
    | with_reducible refine State.ctrlValues_keepsE (by assumption) ?_ | with_reducible apply State.readCtrl_keeps
    | with_reducible refine State.readCtrl_keepsE (by assumption) ?_ | with_reducible apply State.modOp_keeps
    | with_reducible apply Keeps.foldl | with_reducible apply Keeps.fold
    | with_reducible refine Keeps.foldE (by assumption) ?_ ?_ | with_reducible apply Keeps.ite
    | fail_if_no_progress (with_reducible refine Keeps.upd ?_ rfl rfl) | intro _ | split | dsimp only

theorem State.streamsSnapshot_keeps {s0 : State} {s : State} (hK : Keeps s0 s) : Keeps s0 (State.streamsSnapshot s) := by
  unfold State.streamsSnapshot
  try dsimp only
  repeat' first
    | with_reducible assumption | with_reducible apply State.streamSnap_keeps | with_reducible apply Keeps.over
    | with_reducible apply Keeps.ite | intro _ | split | dsimp only

theorem State.sendPlate_keeps {s0 : State} {s : State} {sc : Sched} {slot plate : Nat} (hK : Keeps s0 s) : Keeps s0 (State.sendPlate s sc slot plate).1 := by
  unfold State.sendPlate
  try dsimp only
  repeat' first
    | with_reducible assumption | with_reducible apply State.needPlates_keeps
    | with_reducible refine State.needPlates_keepsE (by assumption) ?_ | with_reducible apply State.copyOf_keeps
    | with_reducible refine State.copyOf_keepsE (by assumption) ?_ | with_reducible apply State.bringPage_keeps
    | with_reducible refine State.bringPage_keepsE (by assumption) ?_ | with_reducible apply State.chargeHome_keeps
    | with_reducible apply State.readHome_keeps | with_reducible refine State.readHome_keepsE (by assumption) ?_
    | with_reducible apply State.damage_keeps | with_reducible apply State.plateCopy_keeps
    | with_reducible refine State.plateCopy_keepsE (by assumption) ?_ | with_reducible apply Keeps.ite | intro _ | split
    | dsimp only
theorem State.sendPlate_keepsE {s0 tK : State} {s : State} {sc : Sched} {slot plate : Nat} {y : Option Sending} (hE : State.sendPlate s sc slot plate = (tK, y)) (hK : Keeps s0 s) : Keeps s0 tK := by
  have k := State.sendPlate_keeps (s := s) (sc := sc) (slot := slot) (plate := plate) (hK := hK)
  rw [hE] at k
  exact k

theorem State.pushWrite_keeps {s0 : State} {s : State} {acc : FMap Nat} {slot func addr : Nat} {d : List Byte} {poison : Bool} (hK : Keeps s0 s) : Keeps s0 (State.pushWrite s acc slot func addr d poison).1 := by
  unfold State.pushWrite
  try dsimp only
  repeat' first
    | with_reducible assumption | with_reducible apply State.charge_keeps | with_reducible apply Keeps.emit
    | with_reducible refine Keeps.getD ?_ ?_ | with_reducible refine Keeps.getD₂ ?_ ?_ | intro _ | split | dsimp only
theorem State.pushWrite_keepsE {s0 tK : State} {s : State} {acc : FMap Nat} {slot func addr : Nat} {d : List Byte} {poison : Bool} {y : FMap Nat} (hE : State.pushWrite s acc slot func addr d poison = (tK, y)) (hK : Keeps s0 s) : Keeps s0 tK := by
  have k := State.pushWrite_keeps (s := s) (acc := acc) (slot := slot) (func := func) (addr := addr) (d := d) (poison := poison) (hK := hK)
  rw [hE] at k
  exact k

theorem State.pushPieces_keeps {s0 : State} {s : State} {acc : FMap Nat} {sc : Sched} {slot func : Nat} {t : TileRun} {v0 : List (List Byte × Bool)} (hK : Keeps s0 s) : Keeps s0 (State.pushPieces s acc sc slot func t v0).1 := by
  induction v0 generalizing s acc sc slot func t with
  | nil =>
    unfold State.pushPieces
    all_goals try dsimp only
    repeat' first
      | with_reducible assumption | with_reducible apply State.pushWrite_keeps
      | with_reducible refine State.pushWrite_keepsE (by assumption) ?_ | with_reducible apply Keeps.ite
      | fail_if_no_progress (with_reducible refine Keeps.upd ?_ rfl rfl) | intro _ | split | dsimp only
  | cons x _ ih =>
    obtain ⟨_, _⟩ := x
    unfold State.pushPieces
    all_goals try dsimp only
    repeat' first
      | with_reducible assumption | with_reducible apply ih | with_reducible refine Keeps.ofEq (by assumption) (ih ?_)
      | with_reducible apply State.pushWrite_keeps | with_reducible refine State.pushWrite_keepsE (by assumption) ?_
      | with_reducible apply Keeps.ite | fail_if_no_progress (with_reducible refine Keeps.upd ?_ rfl rfl) | intro _ | split
      | dsimp only
theorem State.pushPieces_keepsE {s0 tK : State} {s : State} {acc : FMap Nat} {sc : Sched} {slot func : Nat} {t : TileRun} {v0 : List (List Byte × Bool)} {y : FMap Nat × TileRun} (hE : State.pushPieces s acc sc slot func t v0 = (tK, y)) (hK : Keeps s0 s) : Keeps s0 tK := by
  have k := State.pushPieces_keeps (s := s) (acc := acc) (sc := sc) (slot := slot) (func := func) (t := t) (v0 := v0) (hK := hK)
  rw [hE] at k
  exact k

theorem State.pushPlate_keeps {s0 : State} {s : State} {acc : FMap Nat} {n : Nat} {st : Stream} {r : Run} {t : TileRun} {plate : Nat} (hK : Keeps s0 s) : Keeps s0 (State.pushPlate s acc n st r t plate).1 := by
  unfold State.pushPlate
  try dsimp only
  repeat' first
    | with_reducible assumption | with_reducible apply State.sendPlate_keeps
    | with_reducible refine State.sendPlate_keepsE (by assumption) ?_ | with_reducible apply State.pushWrite_keeps
    | with_reducible refine State.pushWrite_keepsE (by assumption) ?_ | with_reducible apply State.modOp_keeps
    | with_reducible refine Keeps.mapE (by assumption) ?_ | with_reducible refine Keeps.getD ?_ ?_
    | with_reducible refine Keeps.getD₂ ?_ ?_ | with_reducible apply Keeps.ite
    | fail_if_no_progress (with_reducible refine Keeps.upd ?_ rfl rfl) | intro _ | split | dsimp only
theorem State.pushPlate_keepsE {s0 tK : State} {s : State} {acc : FMap Nat} {n : Nat} {st : Stream} {r : Run} {t : TileRun} {plate : Nat} {y : FMap Nat × Option TileRun} (hE : State.pushPlate s acc n st r t plate = (tK, y)) (hK : Keeps s0 s) : Keeps s0 tK := by
  have k := State.pushPlate_keeps (s := s) (acc := acc) (n := n) (st := st) (r := r) (t := t) (plate := plate) (hK := hK)
  rw [hE] at k
  exact k

theorem State.pushTile_keeps {s0 : State} {s : State} {acc : FMap Nat} {n : Nat} {st : Stream} {r : Run} {t : TileRun} {d : Tile} {v0 : Nat} (hK : Keeps s0 s) : Keeps s0 (State.pushTile s acc n st r t d v0).1 := by
  induction v0 generalizing s acc n st r t d with
  | zero =>
    unfold State.pushTile
    all_goals try dsimp only
    repeat' first
      | with_reducible assumption | with_reducible apply State.pushPlate_keeps
      | with_reducible refine State.pushPlate_keepsE (by assumption) ?_ | with_reducible apply State.pushPieces_keeps
      | with_reducible refine State.pushPieces_keepsE (by assumption) ?_ | with_reducible apply Keeps.ite
      | fail_if_no_progress (with_reducible refine Keeps.upd ?_ rfl rfl) | intro _ | split | dsimp only
  | succ _ ih =>
    unfold State.pushTile
    dsimp only
    have k : ∀ b : State × FMap Nat × Option TileRun,
        (if t.rest.isEmpty = true then s.pushPlate acc n st r t (d.first + t.doneP * d.step) else (s, acc, some t)) = b →
          Keeps s0 b.1 := by
      intro b hb
      rw [← hb]
      split
      · exact State.pushPlate_keeps hK
      · exact hK
    split
    · rename_i e
      exact k _ e
    · rename_i e
      have k2 := k _ e
      dsimp only at k2
      repeat' first
        | with_reducible assumption | with_reducible apply ih | with_reducible apply State.pushPieces_keeps
        | with_reducible refine State.pushPieces_keepsE (by assumption) ?_ | with_reducible apply Keeps.ite | intro _ | split
        | dsimp only
theorem State.pushTile_keepsE {s0 tK : State} {s : State} {acc : FMap Nat} {n : Nat} {st : Stream} {r : Run} {t : TileRun} {d : Tile} {v0 : Nat} {y : FMap Nat × TileRun × Nat} (hE : State.pushTile s acc n st r t d v0 = (tK, y)) (hK : Keeps s0 s) : Keeps s0 tK := by
  have k := State.pushTile_keeps (s := s) (acc := acc) (n := n) (st := st) (r := r) (t := t) (d := d) (v0 := v0) (hK := hK)
  rw [hE] at k
  exact k

theorem State.pullRemote_keeps {s0 : State} {s : State} {slot plate dev x : Nat} (hK : Keeps s0 s) : Keeps s0 (State.pullRemote s slot plate dev x).1 := by
  unfold State.pullRemote
  try dsimp only
  repeat' first
    | with_reducible assumption | with_reducible apply State.hold_keeps | with_reducible apply State.needPlates_keeps
    | with_reducible refine State.needPlates_keepsE (by assumption) ?_ | with_reducible apply State.bringPage_keeps
    | with_reducible refine State.bringPage_keepsE (by assumption) ?_ | with_reducible apply State.takeT0_keeps
    | with_reducible refine State.takeT0_keepsE (by assumption) ?_ | with_reducible apply State.copyOf_keeps
    | with_reducible refine State.copyOf_keepsE (by assumption) ?_ | with_reducible apply State.setEnt_keeps
    | with_reducible apply State.writeT0_keeps | with_reducible apply Keeps.ite
    | fail_if_no_progress (with_reducible refine Keeps.upd ?_ rfl rfl) | intro _ | split | dsimp only
theorem State.pullRemote_keepsE {s0 tK : State} {s : State} {slot plate dev x : Nat} {y : Option Bool} (hE : State.pullRemote s slot plate dev x = (tK, y)) (hK : Keeps s0 s) : Keeps s0 tK := by
  have k := State.pullRemote_keeps (s := s) (slot := slot) (plate := plate) (dev := dev) (x := x) (hK := hK)
  rw [hE] at k
  exact k

theorem State.pullPlate_keeps {s0 : State} {s : State} {slot plate x : Nat} (hK : Keeps s0 s) : Keeps s0 (State.pullPlate s slot plate x).1 := by
  unfold State.pullPlate
  try dsimp only
  repeat' first
    | with_reducible assumption | with_reducible apply State.pullRemote_keeps
    | with_reducible refine State.pullRemote_keepsE (by assumption) ?_ | with_reducible apply State.hold_keeps
    | with_reducible apply State.bringPage_keeps | with_reducible refine State.bringPage_keepsE (by assumption) ?_
    | with_reducible apply State.bringIn_keeps | with_reducible refine State.bringIn_keepsE (by assumption) ?_
    | with_reducible apply Keeps.ite | intro _ | split | dsimp only
theorem State.pullPlate_keepsE {s0 tK : State} {s : State} {slot plate x : Nat} {y : Option Bool} (hE : State.pullPlate s slot plate x = (tK, y)) (hK : Keeps s0 s) : Keeps s0 tK := by
  have k := State.pullPlate_keeps (s := s) (slot := slot) (plate := plate) (x := x) (hK := hK)
  rw [hE] at k
  exact k

theorem State.pullTile_keeps {s0 : State} {s : State} {n : Nat} {st : Stream} {r : Run} {t : TileRun} {d : Tile} {v0 : Nat} (hK : Keeps s0 s) : Keeps s0 (State.pullTile s n st r t d v0).1 := by
  induction v0 generalizing s n st r t d with
  | zero =>
    unfold State.pullTile
    all_goals try dsimp only
    repeat' first
      | with_reducible assumption | with_reducible apply State.pullPlate_keeps
      | with_reducible refine State.pullPlate_keepsE (by assumption) ?_ | with_reducible apply State.modOp_keeps
      | with_reducible apply Keeps.ite | fail_if_no_progress (with_reducible refine Keeps.upd ?_ rfl rfl) | intro _ | split
      | dsimp only
  | succ _ ih =>
    unfold State.pullTile
    all_goals try dsimp only
    repeat' first
      | with_reducible assumption | with_reducible apply ih | with_reducible refine Keeps.ofEq (by assumption) (ih ?_)
      | with_reducible apply State.pullPlate_keeps | with_reducible refine State.pullPlate_keepsE (by assumption) ?_
      | with_reducible apply State.modOp_keeps | with_reducible apply Keeps.ite
      | fail_if_no_progress (with_reducible refine Keeps.upd ?_ rfl rfl) | intro _ | split | dsimp only
theorem State.pullTile_keepsE {s0 tK : State} {s : State} {n : Nat} {st : Stream} {r : Run} {t : TileRun} {d : Tile} {v0 : Nat} {y : TileRun × Nat} (hE : State.pullTile s n st r t d v0 = (tK, y)) (hK : Keeps s0 s) : Keeps s0 tK := by
  have k := State.pullTile_keeps (s := s) (n := n) (st := st) (r := r) (t := t) (d := d) (v0 := v0) (hK := hK)
  rw [hE] at k
  exact k

theorem State.tileSlice_keeps {s0 : State} {s : State} {acc left : FMap Nat} {n : Nat} {q tile : Nat} (hK : Keeps s0 s) : Keeps s0 (State.tileSlice s acc left n q tile).1 := by
  unfold State.tileSlice
  try dsimp only
  repeat' first
    | with_reducible assumption | with_reducible apply State.modRun_keeps | with_reducible apply State.pushTile_keeps
    | with_reducible refine State.pushTile_keepsE (by assumption) ?_ | with_reducible apply State.modOp_keeps
    | with_reducible apply State.pullTile_keeps | with_reducible refine State.pullTile_keepsE (by assumption) ?_
    | with_reducible refine Keeps.getD ?_ ?_ | with_reducible refine Keeps.getD₂ ?_ ?_ | with_reducible apply Keeps.ite
    | fail_if_no_progress (with_reducible refine Keeps.upd ?_ rfl rfl) | intro _ | split | dsimp only
theorem State.tileSlice_keepsE {s0 tK : State} {s : State} {acc left : FMap Nat} {n : Nat} {q tile : Nat} {y : FMap Nat × FMap Nat} (hE : State.tileSlice s acc left n q tile = (tK, y)) (hK : Keeps s0 s) : Keeps s0 tK := by
  have k := State.tileSlice_keeps (s := s) (acc := acc) (left := left) (n := n) (q := q) (tile := tile) (hK := hK)
  rw [hE] at k
  exact k

theorem State.streamSlices_keeps {s0 : State} {s : State} {runs : Option Nat → Bool} {acc : FMap Nat} (hK : Keeps s0 s) : Keeps s0 (State.streamSlices s runs acc) := by
  unfold State.streamSlices
  try dsimp only
  repeat' first
    | with_reducible assumption | with_reducible apply State.tileSlice_keeps
    | with_reducible refine State.tileSlice_keepsE (by assumption) ?_ | with_reducible apply Keeps.foldl
    | with_reducible apply Keeps.fold | with_reducible refine Keeps.foldE (by assumption) ?_ ?_ | intro _ | split | dsimp only

theorem State.streamEvent_keeps {s0 : State} {s : State} {acc : FMap Nat} {st : Stream} {r : Run} {idx v : Nat} (hK : Keeps s0 s) : Keeps s0 (State.streamEvent s acc st r idx v).1 := by
  unfold State.streamEvent
  try dsimp only
  repeat' first
    | with_reducible assumption | with_reducible apply State.pushWrite_keeps
    | with_reducible refine State.pushWrite_keepsE (by assumption) ?_ | with_reducible apply Keeps.ite | intro _ | split
    | dsimp only
theorem State.streamEvent_keepsE {s0 tK : State} {s : State} {acc : FMap Nat} {st : Stream} {r : Run} {idx v : Nat} {y : FMap Nat} (hE : State.streamEvent s acc st r idx v = (tK, y)) (hK : Keeps s0 s) : Keeps s0 tK := by
  have k := State.streamEvent_keeps (s := s) (acc := acc) (st := st) (r := r) (idx := idx) (v := v) (hK := hK)
  rw [hE] at k
  exact k

theorem State.deliverTile_keeps {s0 : State} {s : State} {acc : FMap Nat} {n : Nat} {st : Stream} {r : Run} {t : TileRun} {d : Tile} (hK : Keeps s0 s) : Keeps s0 (State.deliverTile s acc n st r t d).1 := by
  unfold State.deliverTile
  try dsimp only
  repeat' first
    | with_reducible assumption | with_reducible apply State.pushWrite_keeps
    | with_reducible refine State.pushWrite_keepsE (by assumption) ?_ | with_reducible apply State.streamEvent_keeps
    | with_reducible refine State.streamEvent_keepsE (by assumption) ?_ | with_reducible apply State.pulse_keeps
    | with_reducible apply State.modOp_keeps | with_reducible apply State.logRated_keeps
    | with_reducible apply State.modRun_keeps | with_reducible apply Keeps.ite
    | fail_if_no_progress (with_reducible refine Keeps.upd ?_ rfl rfl) | intro _ | split | dsimp only
theorem State.deliverTile_keepsE {s0 tK : State} {s : State} {acc : FMap Nat} {n : Nat} {st : Stream} {r : Run} {t : TileRun} {d : Tile} {y : FMap Nat} (hE : State.deliverTile s acc n st r t d = (tK, y)) (hK : Keeps s0 s) : Keeps s0 tK := by
  have k := State.deliverTile_keeps (s := s) (acc := acc) (n := n) (st := st) (r := r) (t := t) (d := d) (hK := hK)
  rw [hE] at k
  exact k

theorem State.completeLayer_keeps {s0 : State} {s : State} {acc : FMap Nat} {n q : Nat} (hK : Keeps s0 s) : Keeps s0 (State.completeLayer s acc n q).1 := by
  unfold State.completeLayer
  try dsimp only
  repeat' first
    | with_reducible assumption | with_reducible apply State.streamEvent_keeps
    | with_reducible refine State.streamEvent_keepsE (by assumption) ?_ | with_reducible apply State.pulse_keeps
    | with_reducible apply State.complete_keeps | with_reducible apply State.modRun_keeps
    | with_reducible apply State.modOp_keeps | with_reducible apply done_keeps
    | with_reducible refine done_keepsE (by assumption) ?_ | with_reducible apply Keeps.ite
    | fail_if_no_progress (with_reducible refine Keeps.upd ?_ rfl rfl) | intro _ | split | dsimp only
theorem State.completeLayer_keepsE {s0 tK : State} {s : State} {acc : FMap Nat} {n q : Nat} {y : FMap Nat} (hE : State.completeLayer s acc n q = (tK, y)) (hK : Keeps s0 s) : Keeps s0 tK := by
  have k := State.completeLayer_keeps (s := s) (acc := acc) (n := n) (q := q) (hK := hK)
  rw [hE] at k
  exact k

theorem State.deliverAll_keeps {s0 : State} {s : State} {acc : FMap Nat} {n : Nat} {v0 : Nat} (hK : Keeps s0 s) : Keeps s0 (State.deliverAll s acc n v0).1 := by
  induction v0 generalizing s acc n with
  | zero =>
    unfold State.deliverAll
    all_goals try dsimp only
    repeat' first
      | with_reducible assumption | with_reducible apply State.deliverTile_keeps
      | with_reducible refine State.deliverTile_keepsE (by assumption) ?_ | intro _ | split | dsimp only
  | succ _ ih =>
    unfold State.deliverAll
    all_goals try dsimp only
    repeat' first
      | with_reducible assumption | with_reducible apply ih | with_reducible refine Keeps.ofEq (by assumption) (ih ?_)
      | with_reducible apply State.deliverTile_keeps | with_reducible refine State.deliverTile_keepsE (by assumption) ?_
      | intro _ | split | dsimp only
theorem State.deliverAll_keepsE {s0 tK : State} {s : State} {acc : FMap Nat} {n : Nat} {v0 : Nat} {y : FMap Nat} (hE : State.deliverAll s acc n v0 = (tK, y)) (hK : Keeps s0 s) : Keeps s0 tK := by
  have k := State.deliverAll_keeps (s := s) (acc := acc) (n := n) (v0 := v0) (hK := hK)
  rw [hE] at k
  exact k

theorem State.streamDeliver_keeps {s0 : State} {s : State} {acc : FMap Nat} {n : Nat} (hK : Keeps s0 s) : Keeps s0 (State.streamDeliver s acc n).1 := by
  unfold State.streamDeliver
  try dsimp only
  repeat' first
    | with_reducible assumption | with_reducible apply State.deliverAll_keeps
    | with_reducible refine State.deliverAll_keepsE (by assumption) ?_ | with_reducible apply State.completeLayer_keeps
    | with_reducible refine State.completeLayer_keepsE (by assumption) ?_ | with_reducible apply State.unhold_keeps
    | with_reducible apply State.endOp_keeps | with_reducible refine Keeps.mapE (by assumption) ?_
    | with_reducible refine Keeps.bindE (by assumption) ?_ | with_reducible refine Keeps.bindS (by assumption) ?_
    | with_reducible apply Keeps.foldl | with_reducible apply Keeps.fold
    | with_reducible refine Keeps.foldE (by assumption) ?_ ?_ | with_reducible apply Keeps.ite | intro _ | split | dsimp only
theorem State.streamDeliver_keepsE {s0 tK : State} {s : State} {acc : FMap Nat} {n : Nat} {y : FMap Nat} (hE : State.streamDeliver s acc n = (tK, y)) (hK : Keeps s0 s) : Keeps s0 tK := by
  have k := State.streamDeliver_keeps (s := s) (acc := acc) (n := n) (hK := hK)
  rw [hE] at k
  exact k

theorem State.streamsBoundary_keeps {s0 : State} {s : State} {runs : Option Nat → Bool} (hK : Keeps s0 s) : Keeps s0 (State.streamsBoundary s runs) := by
  unfold State.streamsBoundary
  try dsimp only
  repeat' first
    | with_reducible assumption | with_reducible apply State.holdCtrl_keeps | with_reducible apply State.streamDeliver_keeps
    | with_reducible refine State.streamDeliver_keepsE (by assumption) ?_ | with_reducible apply State.streamSlices_keeps
    | with_reducible refine Keeps.mapE (by assumption) ?_ | with_reducible apply Keeps.over | with_reducible apply Keeps.foldl
    | with_reducible apply Keeps.fold | with_reducible refine Keeps.foldE (by assumption) ?_ ?_ | intro _ | split | dsimp only

theorem State.streamBegin_keeps {s0 : State} {s : State} {h n : Nat} (hK : Keeps s0 s) : Keeps s0 (State.streamBegin s h n) := by
  unfold State.streamBegin
  try dsimp only
  repeat' first
    | with_reducible assumption | with_reducible apply State.modRun_keeps | with_reducible apply Keeps.ite
    | fail_if_no_progress (with_reducible refine Keeps.upd ?_ rfl rfl) | intro _ | split | dsimp only

theorem State.streamEnd_keeps {s0 : State} {s : State} {n : Nat} (hK : Keeps s0 s) : Keeps s0 (State.streamEnd s n) := by
  unfold State.streamEnd
  try dsimp only
  repeat' first
    | with_reducible assumption | with_reducible apply State.unhold_keeps
    | fail_if_no_progress (with_reducible refine Keeps.upd ?_ rfl rfl) | intro _ | split | dsimp only

theorem execStreamWriteFailure_keeps {t : State} {stream q : Nat} {s : State} (hE : execStreamWriteFailure stream q s = .next t) : Keeps s t := by
  have hK := Keeps.refl s
  unfold execStreamWriteFailure at hE
  cases hE
  try dsimp only
  repeat' first
    | with_reducible assumption | with_reducible apply State.modRun_keeps | with_reducible apply State.failOp_keeps
    | with_reducible apply State.logE_keeps | with_reducible apply Keeps.ite
    | fail_if_no_progress (with_reducible refine Keeps.upd ?_ rfl rfl) | intro _ | split | dsimp only

theorem execStreamLoad_keeps {t : State} {o : Origin} {p : Pkt} {s : State} (hE : execStreamLoad o p s = .next t) : Keeps s t := by
  have hK := Keeps.refl s
  unfold execStreamLoad at hE
  cases hE
  try dsimp only
  repeat' first
    | with_reducible assumption | with_reducible apply State.packet_keeps | exact cStreamLoad_safe | intro _ | split | dsimp only

theorem execStreamRun_keeps {t : State} {o : Origin} {p : Pkt} {s : State} (hE : execStreamRun o p s = .next t) : Keeps s t := by
  have hK := Keeps.refl s
  unfold execStreamRun at hE
  cases hE
  try dsimp only
  repeat' first
    | with_reducible assumption | with_reducible apply State.packet_keeps | exact cStreamRun_safe | intro _ | split | dsimp only

theorem execStreamUnload_keeps {t : State} {o : Origin} {p : Pkt} {s : State} (hE : execStreamUnload o p s = .next t) : Keeps s t := by
  have hK := Keeps.refl s
  unfold execStreamUnload at hE
  cases hE
  try dsimp only
  repeat' first
    | with_reducible assumption | with_reducible apply State.packet_keeps | exact cStreamUnload_safe | intro _ | split
    | dsimp only

theorem execStreamQuery_keeps {t : State} {o : Origin} {p : Pkt} {s : State} (hE : execStreamQuery o p s = .next t) : Keeps s t := by
  have hK := Keeps.refl s
  unfold execStreamQuery at hE
  cases hE
  try dsimp only
  repeat' first
    | with_reducible assumption | with_reducible apply State.packet_keeps | exact cStreamQuery_safe | intro _ | split
    | dsimp only

end Sys2Proof.Machine
end

