-- ==== Sys2Proof/Laws/KeepsOperatorOps.lean ====
section
/-! SUPPORT. What the operations of Machine/OperatorOps.lean keep (Keeps), one lemma per operation. -/

set_option linter.unusedTactic false
set_option linter.unreachableTactic false

namespace Sys2Proof.Machine

theorem cOperBind_safe  : (cOperBind).Safe := by
  intro s o p
  have hK := Keeps.refl s
  unfold cOperBind
  try unfold shortCmd
  try unfold longCmd
  try dsimp only
  repeat' first
    | with_reducible assumption | with_reducible apply deny_keeps | with_reducible refine deny_keepsE (by assumption) ?_
    | with_reducible refine State.giveChunks_keepsE (by assumption) ?_ | exact longCmd_safe | exact shortCmd_safe
    | exact shortCmd_safe _ _ _ | with_reducible refine Keeps.bindE (by assumption) ?_
    | with_reducible refine Keeps.bindS (by assumption) ?_ | with_reducible apply Keeps.ite
    | fail_if_no_progress (with_reducible refine Keeps.upd ?_ rfl rfl) | intro _ | split | dsimp only

theorem State.initTally_keeps {s0 : State} {s : State} {id : Nat} {b : Binding} {cursor : Nat} {v0 : Nat} (hK : Keeps s0 s) : Keeps s0 (State.initTally s id b cursor v0).1 := by
  induction v0 generalizing s id b cursor with
  | zero =>
    unfold State.initTally
    all_goals try dsimp only
    repeat' first
      | with_reducible assumption | with_reducible apply State.charge_keeps | with_reducible apply State.writeWork_keeps
      | with_reducible apply Keeps.ite | intro _ | split | dsimp only
  | succ _ ih =>
    unfold State.initTally
    all_goals try dsimp only
    repeat' first
      | with_reducible assumption | with_reducible apply ih | with_reducible refine Keeps.ofEq (by assumption) (ih ?_)
      | with_reducible apply State.charge_keeps | with_reducible apply State.writeWork_keeps | with_reducible apply Keeps.ite
      | intro _ | split | dsimp only
theorem State.initTally_keepsE {s0 tK : State} {s : State} {id : Nat} {b : Binding} {cursor : Nat} {v0 : Nat} {y : Nat} (hE : State.initTally s id b cursor v0 = (tK, y)) (hK : Keeps s0 s) : Keeps s0 tK := by
  have k := State.initTally_keeps (s := s) (id := id) (b := b) (cursor := cursor) (v0 := v0) (hK := hK)
  rw [hE] at k
  exact k

theorem State.bindSlice_keeps {s0 : State} {s : State} {h id cursor : Nat} (hK : Keeps s0 s) : Keeps s0 (State.bindSlice s h id cursor) := by
  unfold State.bindSlice
  try dsimp only
  repeat' first
    | with_reducible assumption | with_reducible apply State.initTally_keeps
    | with_reducible refine State.initTally_keepsE (by assumption) ?_ | with_reducible apply State.setBody_keeps
    | with_reducible apply State.ranTo_keeps | with_reducible apply State.endOp_keeps
    | with_reducible refine Keeps.bindE (by assumption) ?_ | with_reducible refine Keeps.bindS (by assumption) ?_
    | with_reducible apply Keeps.ite | intro _ | split | dsimp only

theorem State.bindActive_keeps {s0 : State} {s : State} {id : Nat} (hK : Keeps s0 s) : Keeps s0 (State.bindActive s id) := by
  unfold State.bindActive
  try dsimp only
  repeat' first
    | with_reducible assumption | with_reducible apply State.modBinding_keeps
    | fail_if_no_progress (with_reducible refine Keeps.upd ?_ rfl rfl) | intro _ | split | dsimp only

theorem State.dropBinding_keeps {s0 : State} {s : State} {id : Nat} (hK : Keeps s0 s) : Keeps s0 (State.dropBinding s id) := by
  unfold State.dropBinding
  try dsimp only
  repeat' first
    | with_reducible assumption | with_reducible refine Keeps.bindE (by assumption) ?_
    | with_reducible refine Keeps.bindS (by assumption) ?_ | fail_if_no_progress (with_reducible refine Keeps.upd ?_ rfl rfl)
    | intro _ | split | dsimp only

theorem cOperUnbind_safe  : (cOperUnbind).Safe := by
  intro s o p
  have hK := Keeps.refl s
  unfold cOperUnbind
  try unfold shortCmd
  try unfold longCmd
  try dsimp only
  repeat' first
    | with_reducible assumption | with_reducible apply done_keeps | with_reducible refine done_keepsE (by assumption) ?_
    | with_reducible apply deny_keeps | with_reducible refine deny_keepsE (by assumption) ?_
    | with_reducible apply State.modBinding_keeps | exact shortCmd_safe | exact shortCmd_safe _ _ _
    | with_reducible refine Keeps.bindE (by assumption) ?_ | with_reducible refine Keeps.bindS (by assumption) ?_
    | with_reducible apply Keeps.ite | fail_if_no_progress (with_reducible refine Keeps.upd ?_ rfl rfl) | intro _ | split
    | dsimp only

theorem cOperStep_safe  : (cOperStep).Safe := by
  intro s o p
  have hK := Keeps.refl s
  unfold cOperStep
  try unfold shortCmd
  try unfold longCmd
  try dsimp only
  repeat' first
    | with_reducible assumption | with_reducible apply done_keeps | with_reducible refine done_keepsE (by assumption) ?_
    | with_reducible apply deny_keeps | with_reducible refine deny_keepsE (by assumption) ?_
    | with_reducible apply State.modBinding_keeps | exact shortCmd_safe | exact shortCmd_safe _ _ _
    | with_reducible refine Keeps.bindE (by assumption) ?_ | with_reducible refine Keeps.bindS (by assumption) ?_
    | with_reducible apply Keeps.ite | fail_if_no_progress (with_reducible refine Keeps.upd ?_ rfl rfl) | intro _ | split
    | dsimp only

theorem cOperRoundClose_safe  : (cOperRoundClose).Safe := by
  intro s o p
  have hK := Keeps.refl s
  unfold cOperRoundClose
  try unfold shortCmd
  try unfold longCmd
  try dsimp only
  repeat' first
    | with_reducible assumption | with_reducible apply deny_keeps | with_reducible refine deny_keepsE (by assumption) ?_
    | exact longCmd_safe | exact longCmd_safe _ _ _ | with_reducible refine Keeps.bindE (by assumption) ?_
    | with_reducible refine Keeps.bindS (by assumption) ?_ | with_reducible apply Keeps.ite | intro _ | split | dsimp only

theorem cOperQuery_safe  : (cOperQuery).Safe := by
  intro s o p
  have hK := Keeps.refl s
  unfold cOperQuery
  try unfold shortCmd
  try unfold longCmd
  try dsimp only
  repeat' first
    | with_reducible assumption | with_reducible apply done_keeps | with_reducible refine done_keepsE (by assumption) ?_
    | with_reducible apply deny_keeps | with_reducible refine deny_keepsE (by assumption) ?_ | exact shortCmd_safe
    | with_reducible refine Keeps.bindE (by assumption) ?_ | with_reducible refine Keeps.bindS (by assumption) ?_ | intro _
    | split | dsimp only

theorem State.closeSome_keeps {s0 : State} {s : State} {id cursor u1 u2 : Nat} {v0 : Nat} (hK : Keeps s0 s) : Keeps s0 (State.closeSome s id cursor u1 u2 v0).1 := by
  induction v0 generalizing s id cursor u1 u2 with
  | zero =>
    unfold State.closeSome
    all_goals try dsimp only
    repeat' first
      | with_reducible assumption | with_reducible apply State.closeUnit_keeps
      | with_reducible refine State.closeUnit_keepsE (by assumption) ?_ | with_reducible apply Keeps.ite | intro _ | split
      | dsimp only
  | succ _ ih =>
    unfold State.closeSome
    all_goals try dsimp only
    repeat' first
      | with_reducible assumption | with_reducible apply ih | with_reducible refine Keeps.ofEq (by assumption) (ih ?_)
      | with_reducible apply State.closeUnit_keeps | with_reducible refine State.closeUnit_keepsE (by assumption) ?_
      | with_reducible apply Keeps.ite | intro _ | split | dsimp only
theorem State.closeSome_keepsE {s0 tK : State} {s : State} {id cursor u1 u2 : Nat} {v0 : Nat} {y : Nat × Nat × Nat} (hE : State.closeSome s id cursor u1 u2 v0 = (tK, y)) (hK : Keeps s0 s) : Keeps s0 tK := by
  have k := State.closeSome_keeps (s := s) (id := id) (cursor := cursor) (u1 := u1) (u2 := u2) (v0 := v0) (hK := hK)
  rw [hE] at k
  exact k

theorem State.closeBegin_keeps {s0 : State} {s : State} {id : Nat} (hK : Keeps s0 s) : Keeps s0 (State.closeBegin s id) := by
  unfold State.closeBegin
  try dsimp only
  repeat' first
    | with_reducible assumption | with_reducible apply State.modBinding_keeps
    | fail_if_no_progress (with_reducible refine Keeps.upd ?_ rfl rfl) | intro _ | split | dsimp only

theorem State.closeStopped_keeps {s0 : State} {s : State} {id : Nat} (hK : Keeps s0 s) : Keeps s0 (State.closeStopped s id) := by
  unfold State.closeStopped
  try dsimp only
  repeat' first
    | with_reducible assumption | with_reducible apply State.modBinding_keeps
    | fail_if_no_progress (with_reducible refine Keeps.upd ?_ rfl rfl) | intro _ | split | dsimp only

theorem State.closeSlice_keeps {s0 : State} {s : State} {h id cursor : Nat} (hK : Keeps s0 s) : Keeps s0 (State.closeSlice s h id cursor) := by
  unfold State.closeSlice
  try dsimp only
  repeat' first
    | with_reducible assumption | with_reducible apply State.setBody_keeps | with_reducible apply State.ranTo_keeps
    | with_reducible apply State.setResults_keeps | with_reducible apply State.closeSome_keeps
    | with_reducible refine State.closeSome_keepsE (by assumption) ?_ | with_reducible refine Keeps.bindE (by assumption) ?_
    | with_reducible refine Keeps.bindS (by assumption) ?_ | with_reducible apply Keeps.ite | intro _ | split | dsimp only

theorem State.endRound_keeps {s0 : State} {s : State} {id : Nat} (hK : Keeps s0 s) : Keeps s0 (State.endRound s id) := by
  unfold State.endRound
  try dsimp only
  repeat' first
    | with_reducible assumption | with_reducible apply State.roundComplete_keeps | with_reducible apply State.endOp_keeps
    | with_reducible apply Keeps.over | with_reducible apply Keeps.ite | intro _ | split | dsimp only

theorem State.finishPending_keeps {s0 : State} {s : State} {id : Nat} (hK : Keeps s0 s) : Keeps s0 (State.finishPending s id) := by
  unfold State.finishPending
  try dsimp only
  repeat' first
    | with_reducible assumption | with_reducible apply State.modBinding_keeps | with_reducible apply State.completeUnit_keeps
    | with_reducible refine Keeps.bindE (by assumption) ?_ | with_reducible refine Keeps.bindS (by assumption) ?_
    | with_reducible apply Keeps.over | with_reducible apply Keeps.ite
    | fail_if_no_progress (with_reducible refine Keeps.upd ?_ rfl rfl) | intro _ | split | dsimp only

theorem State.evictShadows_keeps {s0 : State} {s : State} {id : Nat} (hK : Keeps s0 s) : Keeps s0 (State.evictShadows s id) := by
  unfold State.evictShadows
  try dsimp only
  repeat' first
    | with_reducible assumption | with_reducible apply State.modBinding_keeps | with_reducible apply State.evict_keeps
    | with_reducible refine Keeps.bindE (by assumption) ?_ | with_reducible refine Keeps.bindS (by assumption) ?_
    | with_reducible apply Keeps.over | with_reducible apply Keeps.ite
    | fail_if_no_progress (with_reducible refine Keeps.upd ?_ rfl rfl) | intro _ | split | dsimp only

theorem State.operatorsBoundary_keeps {s0 : State} {s : State} (hK : Keeps s0 s) : Keeps s0 (State.operatorsBoundary s) := by
  unfold State.operatorsBoundary
  try dsimp only
  repeat' first
    | with_reducible assumption | with_reducible apply State.dropBinding_keeps | with_reducible apply State.evictShadows_keeps
    | with_reducible refine Keeps.mapE (by assumption) ?_ | with_reducible refine Keeps.bindE (by assumption) ?_
    | with_reducible refine Keeps.bindS (by assumption) ?_ | with_reducible apply Keeps.over | with_reducible apply Keeps.ite
    | fail_if_no_progress (with_reducible refine Keeps.upd ?_ rfl rfl) | intro _ | split | dsimp only

theorem execRoundComplete_keeps {t : State} {binding : Nat} {s : State} (hE : execRoundComplete binding s = .next t) : Keeps s t := by
  have hK := Keeps.refl s
  unfold execRoundComplete at hE
  cases hE
  try dsimp only
  repeat' first
    | with_reducible assumption | with_reducible apply State.endRound_keeps
    | with_reducible refine State.takeDue_keepsE (by assumption) ?_ | intro _ | split | dsimp only

theorem execRoundEventWriteFailure_keeps {t : State} {binding : Nat} {s : State} (hE : execRoundEventWriteFailure binding s = .next t) : Keeps s t := by
  have hK := Keeps.refl s
  unfold execRoundEventWriteFailure at hE
  cases hE
  try dsimp only
  repeat' first
    | with_reducible assumption | with_reducible apply State.logE_keeps | with_reducible refine Keeps.bindE (by assumption) ?_
    | with_reducible refine Keeps.bindS (by assumption) ?_ | with_reducible apply Keeps.ite | intro _ | split | dsimp only

theorem cDigestOpen_safe  : (cDigestOpen).Safe := by
  intro s o p
  have hK := Keeps.refl s
  unfold cDigestOpen
  try unfold shortCmd
  try unfold longCmd
  try dsimp only
  repeat' first
    | with_reducible assumption | with_reducible apply deny_keeps | with_reducible refine deny_keepsE (by assumption) ?_
    | with_reducible apply State.join_keeps | with_reducible refine State.join_keepsE (by assumption) ?_
    | with_reducible apply State.later_keeps | exact shortCmd_safe | exact shortCmd_safe _ _ _ | with_reducible apply Keeps.ite
    | fail_if_no_progress (with_reducible refine Keeps.upd ?_ rfl rfl) | intro _ | split | dsimp only

theorem cDigestClose_safe  : (cDigestClose).Safe := by
  intro s o p
  have hK := Keeps.refl s
  unfold cDigestClose
  try unfold shortCmd
  try unfold longCmd
  try dsimp only
  repeat' first
    | with_reducible assumption | with_reducible apply deny_keeps | with_reducible refine deny_keepsE (by assumption) ?_
    | with_reducible apply State.join_keeps | with_reducible refine State.join_keepsE (by assumption) ?_
    | with_reducible apply State.later_keeps | exact shortCmd_safe | exact shortCmd_safe _ _ _ | with_reducible apply Keeps.ite
    | fail_if_no_progress (with_reducible refine Keeps.upd ?_ rfl rfl) | intro _ | split | dsimp only

theorem cDigestRead_safe  : (cDigestRead).Safe := by
  intro s o p
  have hK := Keeps.refl s
  unfold cDigestRead
  try unfold shortCmd
  try unfold longCmd
  try dsimp only
  repeat' first
    | with_reducible assumption | with_reducible apply done_keeps | with_reducible refine done_keepsE (by assumption) ?_
    | with_reducible apply deny_keeps | with_reducible refine deny_keepsE (by assumption) ?_ | exact shortCmd_safe
    | exact shortCmd_safe _ _ _ | with_reducible apply Keeps.ite
    | fail_if_no_progress (with_reducible refine Keeps.upd ?_ rfl rfl) | intro _ | split | dsimp only

theorem execOperBind_keeps {t : State} {o : Origin} {p : Pkt} {s : State} (hE : execOperBind o p s = .next t) : Keeps s t := by
  have hK := Keeps.refl s
  unfold execOperBind at hE
  cases hE
  try dsimp only
  repeat' first
    | with_reducible assumption | with_reducible apply State.packet_keeps | exact cOperBind_safe | intro _ | split | dsimp only

theorem execOperUnbind_keeps {t : State} {o : Origin} {p : Pkt} {s : State} (hE : execOperUnbind o p s = .next t) : Keeps s t := by
  have hK := Keeps.refl s
  unfold execOperUnbind at hE
  cases hE
  try dsimp only
  repeat' first
    | with_reducible assumption | with_reducible apply State.packet_keeps | exact cOperUnbind_safe | intro _ | split | dsimp only

theorem execOperStep_keeps {t : State} {o : Origin} {p : Pkt} {s : State} (hE : execOperStep o p s = .next t) : Keeps s t := by
  have hK := Keeps.refl s
  unfold execOperStep at hE
  cases hE
  try dsimp only
  repeat' first
    | with_reducible assumption | with_reducible apply State.packet_keeps | exact cOperStep_safe | intro _ | split | dsimp only

theorem execOperRoundClose_keeps {t : State} {o : Origin} {p : Pkt} {s : State} (hE : execOperRoundClose o p s = .next t) : Keeps s t := by
  have hK := Keeps.refl s
  unfold execOperRoundClose at hE
  cases hE
  try dsimp only
  repeat' first
    | with_reducible assumption | with_reducible apply State.packet_keeps | exact cOperRoundClose_safe | intro _ | split
    | dsimp only

theorem execOperQuery_keeps {t : State} {o : Origin} {p : Pkt} {s : State} (hE : execOperQuery o p s = .next t) : Keeps s t := by
  have hK := Keeps.refl s
  unfold execOperQuery at hE
  cases hE
  try dsimp only
  repeat' first
    | with_reducible assumption | with_reducible apply State.packet_keeps | exact cOperQuery_safe | intro _ | split | dsimp only

theorem execDigestOpen_keeps {t : State} {o : Origin} {p : Pkt} {s : State} (hE : execDigestOpen o p s = .next t) : Keeps s t := by
  have hK := Keeps.refl s
  unfold execDigestOpen at hE
  cases hE
  try dsimp only
  repeat' first
    | with_reducible assumption | with_reducible apply State.packet_keeps | exact cDigestOpen_safe | intro _ | split | dsimp only

theorem execDigestClose_keeps {t : State} {o : Origin} {p : Pkt} {s : State} (hE : execDigestClose o p s = .next t) : Keeps s t := by
  have hK := Keeps.refl s
  unfold execDigestClose at hE
  cases hE
  try dsimp only
  repeat' first
    | with_reducible assumption | with_reducible apply State.packet_keeps | exact cDigestClose_safe | intro _ | split
    | dsimp only

theorem execDigestRead_keeps {t : State} {o : Origin} {p : Pkt} {s : State} (hE : execDigestRead o p s = .next t) : Keeps s t := by
  have hK := Keeps.refl s
  unfold execDigestRead at hE
  cases hE
  try dsimp only
  repeat' first
    | with_reducible assumption | with_reducible apply State.packet_keeps | exact cDigestRead_safe | intro _ | split | dsimp only

end Sys2Proof.Machine
end

