-- ==== Sys2Proof/Laws/KeepsDmaOps.lean ====
section
/-! SUPPORT. What the operations of Machine/DmaOps.lean keep (Keeps), one lemma per operation. -/

set_option linter.unusedTactic false
set_option linter.unreachableTactic false

namespace Sys2Proof.Machine

theorem State.devRead_keeps {s0 : State} {s : State} {slot line : Nat} (hK : Keeps s0 s) : Keeps s0 (State.devRead s slot line).1 := by
  unfold State.devRead
  try dsimp only
  repeat' first
    | with_reducible assumption | with_reducible apply State.readT0_keeps
    | with_reducible refine State.readT0_keepsE (by assumption) ?_ | with_reducible apply State.plateCopy_keeps
    | with_reducible refine State.plateCopy_keepsE (by assumption) ?_ | with_reducible apply Keeps.ite | intro _ | split
    | dsimp only
theorem State.devRead_keepsE {s0 tK : State} {s : State} {slot line : Nat} {y : List Byte × Bool} (hE : State.devRead s slot line = (tK, y)) (hK : Keeps s0 s) : Keeps s0 tK := by
  have k := State.devRead_keeps (s := s) (slot := slot) (line := line) (hK := hK)
  rw [hE] at k
  exact k

theorem State.devReads_keeps {s0 : State} {s : State} {slot : Nat} {lines : List Nat} (hK : Keeps s0 s) : Keeps s0 (State.devReads s slot lines).1 := by
  unfold State.devReads
  try dsimp only
  repeat' first
    | with_reducible assumption | with_reducible apply State.devRead_keeps
    | with_reducible refine State.devRead_keepsE (by assumption) ?_ | with_reducible apply Keeps.foldl
    | with_reducible apply Keeps.fold | with_reducible refine Keeps.foldE (by assumption) ?_ ?_ | intro _ | split | dsimp only
theorem State.devReads_keepsE {s0 tK : State} {s : State} {slot : Nat} {lines : List Nat} {y : FMap (List Byte × Bool)} (hE : State.devReads s slot lines = (tK, y)) (hK : Keeps s0 s) : Keeps s0 tK := by
  have k := State.devReads_keeps (s := s) (slot := slot) (lines := lines) (hK := hK)
  rw [hE] at k
  exact k

theorem State.devWrite_keeps {s0 : State} {s : State} {slot line : Nat} {d : List Byte} {be : Nat} {poison : Bool} {u : TxnUse} (hK : Keeps s0 s) : Keeps s0 (State.devWrite s slot line d be poison u) := by
  unfold State.devWrite
  try dsimp only
  repeat' first
    | with_reducible assumption | with_reducible apply State.preserve_keeps | with_reducible apply State.foldPlain_keeps
    | with_reducible apply State.targetWrite_keeps | with_reducible apply State.ownWrite_keeps | intro _ | split | dsimp only

theorem State.modChan_keeps {s0 : State} {s : State} {n : Nat} {g : Chan → Chan} (hK : Keeps s0 s) : Keeps s0 (State.modChan s n g) := by
  unfold State.modChan
  try dsimp only
  repeat' first
    | with_reducible assumption | fail_if_no_progress (with_reducible refine Keeps.upd ?_ rfl rfl) | intro _ | split | dsimp only

theorem State.burstLines_keeps {s0 : State} {s : State} {slot : Nat} {src dst : List Nat} (hK : Keeps s0 s) : Keeps s0 (State.burstLines s slot src dst).1 := by
  unfold State.burstLines
  try dsimp only
  repeat' first
    | with_reducible assumption | with_reducible apply State.needPlates_keeps
    | with_reducible refine State.needPlates_keepsE (by assumption) ?_ | with_reducible apply State.clearLines_keeps
    | with_reducible refine State.clearLines_keepsE (by assumption) ?_ | with_reducible apply State.bringIn_keeps
    | with_reducible refine State.bringIn_keepsE (by assumption) ?_ | with_reducible refine Keeps.mapE (by assumption) ?_
    | with_reducible apply Keeps.foldl | with_reducible apply Keeps.fold
    | with_reducible refine Keeps.foldE (by assumption) ?_ ?_ | with_reducible apply Keeps.ite | intro _ | split | dsimp only
theorem State.burstLines_keepsE {s0 tK : State} {s : State} {slot : Nat} {src dst : List Nat} {y : Bool} (hE : State.burstLines s slot src dst = (tK, y)) (hK : Keeps s0 s) : Keeps s0 tK := by
  have k := State.burstLines_keeps (s := s) (slot := slot) (src := src) (dst := dst) (hK := hK)
  rw [hE] at k
  exact k

theorem State.putBytes_keeps {s0 : State} {s : State} {n : Nat} {c : Chan} {d : Desc} {moves : List (Nat × Byte × Bool)} (hK : Keeps s0 s) : Keeps s0 (State.putBytes s n c d moves) := by
  unfold State.putBytes
  try dsimp only
  repeat' first
    | with_reducible assumption | with_reducible apply State.devWrite_keeps | with_reducible apply State.countPoison_keeps
    | with_reducible apply Keeps.emit | with_reducible apply Keeps.over | with_reducible apply Keeps.ite
    | fail_if_no_progress (with_reducible refine Keeps.upd ?_ rfl rfl) | intro _ | split | dsimp only

theorem State.finishBurst_keeps {s0 : State} {s : State} {n : Nat} (hK : Keeps s0 s) : Keeps s0 (State.finishBurst s n).1 := by
  unfold State.finishBurst
  try dsimp only
  repeat' first
    | with_reducible assumption | with_reducible apply State.burstLines_keeps
    | with_reducible refine State.burstLines_keepsE (by assumption) ?_ | with_reducible apply State.devReads_keeps
    | with_reducible refine State.devReads_keepsE (by assumption) ?_ | with_reducible apply State.putBytes_keeps
    | with_reducible apply State.modChan_keeps | with_reducible refine Keeps.mapE (by assumption) ?_
    | with_reducible refine Keeps.getD ?_ ?_ | with_reducible refine Keeps.getD₂ ?_ ?_ | with_reducible apply Keeps.ite
    | fail_if_no_progress (with_reducible refine Keeps.upd ?_ rfl rfl) | intro _ | split | dsimp only
theorem State.finishBurst_keepsE {s0 tK : State} {s : State} {n : Nat} {y : Bool} (hE : State.finishBurst s n = (tK, y)) (hK : Keeps s0 s) : Keeps s0 tK := by
  have k := State.finishBurst_keeps (s := s) (n := n) (hK := hK)
  rw [hE] at k
  exact k

theorem State.finishBursts_keeps {s0 : State} {s : State} {n : Nat} {v0 : Nat} (hK : Keeps s0 s) : Keeps s0 (State.finishBursts s n v0) := by
  induction v0 generalizing s n with
  | zero =>
    unfold State.finishBursts
    all_goals try dsimp only
    repeat' first
      | with_reducible assumption | with_reducible apply State.finishBurst_keeps
      | with_reducible refine State.finishBurst_keepsE (by assumption) ?_ | intro _ | split | dsimp only
  | succ _ ih =>
    unfold State.finishBursts
    all_goals try dsimp only
    repeat' first
      | with_reducible assumption | with_reducible apply ih | with_reducible apply State.finishBurst_keeps
      | with_reducible refine State.finishBurst_keepsE (by assumption) ?_ | intro _ | split | dsimp only

theorem State.startBurst_keeps {s0 : State} {s : State} {n : Nat} (hK : Keeps s0 s) : Keeps s0 (State.startBurst s n) := by
  unfold State.startBurst
  try dsimp only
  repeat' first
    | with_reducible assumption | with_reducible apply State.charge_keeps | with_reducible apply State.modChan_keeps
    | with_reducible apply State.finishBursts_keeps | with_reducible refine Keeps.getD ?_ ?_
    | with_reducible refine Keeps.getD₂ ?_ ?_ | fail_if_no_progress (with_reducible refine Keeps.upd ?_ rfl rfl) | intro _
    | split | dsimp only

theorem State.mover_keeps {s0 : State} {s : State} {die : Nat} {v0 : Nat} (hK : Keeps s0 s) : Keeps s0 (State.mover s die v0) := by
  induction v0 generalizing s die with
  | zero =>
    unfold State.mover
    all_goals try dsimp only
    repeat' first
      | with_reducible assumption | with_reducible apply State.startBurst_keeps
      | fail_if_no_progress (with_reducible refine Keeps.upd ?_ rfl rfl) | intro _ | split | dsimp only
  | succ _ ih =>
    unfold State.mover
    all_goals try dsimp only
    repeat' first
      | with_reducible assumption | with_reducible apply ih | with_reducible apply State.startBurst_keeps
      | fail_if_no_progress (with_reducible refine Keeps.upd ?_ rfl rfl) | intro _ | split | dsimp only

theorem State.moveDie_keeps {s0 : State} {s : State} {die : Nat} (hK : Keeps s0 s) : Keeps s0 (State.moveDie s die) := by
  unfold State.moveDie
  try dsimp only
  repeat' first
    | with_reducible assumption | with_reducible apply State.mover_keeps | with_reducible refine Keeps.getD ?_ ?_
    | with_reducible refine Keeps.getD₂ ?_ ?_ | intro _ | split | dsimp only

theorem State.moversBoundary_keeps {s0 : State} {s : State} (hK : Keeps s0 s) : Keeps s0 (State.moversBoundary s) := by
  unfold State.moversBoundary
  try dsimp only
  repeat' first
    | with_reducible assumption | with_reducible apply State.finishBursts_keeps | with_reducible apply State.moveDie_keeps
    | with_reducible refine Keeps.mapE (by assumption) ?_ | with_reducible apply Keeps.over | with_reducible apply Keeps.foldl
    | with_reducible apply Keeps.fold | with_reducible refine Keeps.foldE (by assumption) ?_ ?_
    | with_reducible apply Keeps.ite | fail_if_no_progress (with_reducible refine Keeps.upd ?_ rfl rfl) | intro _ | split
    | dsimp only

theorem State.chanReport_keeps {s0 : State} {s : State} {n : Nat} (hK : Keeps s0 s) : Keeps s0 (State.chanReport s n) := by
  unfold State.chanReport
  try dsimp only
  repeat' first
    | with_reducible assumption | with_reducible apply State.pulse_keeps | with_reducible apply State.charge_keeps
    | with_reducible apply State.modChan_keeps | with_reducible apply Keeps.emit | with_reducible apply Keeps.over
    | with_reducible apply Keeps.ite | fail_if_no_progress (with_reducible refine Keeps.upd ?_ rfl rfl) | intro _ | split
    | dsimp only

theorem State.unclaimOthers_keeps {s0 : State} {s : State} {n : Nat} {keep : Option Desc} (hK : Keeps s0 s) : Keeps s0 (State.unclaimOthers s n keep) := by
  unfold State.unclaimOthers
  try dsimp only
  repeat' first
    | with_reducible assumption | fail_if_no_progress (with_reducible refine Keeps.upd ?_ rfl rfl) | intro _ | split
    | dsimp only

theorem State.chanStep_keeps {s0 : State} {s : State} {links : List (Nat × U64)} {n : Nat} (hK : Keeps s0 s) : Keeps s0 (State.chanStep s links n) := by
  unfold State.chanStep
  try dsimp only
  repeat' first
    | with_reducible assumption | with_reducible apply State.modChan_keeps | with_reducible apply State.unclaimOthers_keeps
    | with_reducible apply State.chanReport_keeps | with_reducible apply Keeps.ite
    | fail_if_no_progress (with_reducible refine Keeps.upd ?_ rfl rfl) | intro _ | split | dsimp only

theorem State.dmaBoundary_keeps {s0 : State} {s : State} {links : List (Nat × U64)} (hK : Keeps s0 s) : Keeps s0 (State.dmaBoundary s links) := by
  unfold State.dmaBoundary
  try dsimp only
  repeat' first
    | with_reducible assumption | with_reducible apply State.chanStep_keeps | with_reducible refine Keeps.mapE (by assumption) ?_
    | with_reducible apply Keeps.over | fail_if_no_progress (with_reducible refine Keeps.upd ?_ rfl rfl) | intro _ | split
    | dsimp only

theorem execStagingClaimGrant_keeps {t : State} {s : State} (hE : execStagingClaimGrant s = .next t) : Keeps s t := by
  have hK := Keeps.refl s
  unfold execStagingClaimGrant at hE
  cases hE
  try dsimp only
  repeat' first
    | with_reducible assumption | with_reducible refine State.takeDue_keepsE (by assumption) ?_
    | with_reducible apply State.grantClaims_keeps | with_reducible apply State.modChan_keeps
    | with_reducible apply State.chanReport_keeps | with_reducible apply State.moveDie_keeps | with_reducible apply Keeps.over
    | with_reducible apply Keeps.ite | fail_if_no_progress (with_reducible refine Keeps.upd ?_ rfl rfl) | intro _ | split
    | dsimp only

theorem State.chanError_keeps {s0 : State} {s : State} {n status : Nat} (hK : Keeps s0 s) : Keeps s0 (State.chanError s n status) := by
  unfold State.chanError
  try dsimp only
  repeat' first
    | with_reducible assumption | with_reducible apply State.modChan_keeps
    | fail_if_no_progress (with_reducible refine Keeps.upd ?_ rfl rfl) | intro _ | split | dsimp only

theorem State.takeDesc_keeps {s0 : State} {s : State} {n : Nat} {d : Desc} (hK : Keeps s0 s) : Keeps s0 (State.takeDesc s n d) := by
  unfold State.takeDesc
  try dsimp only
  repeat' first
    | with_reducible assumption | with_reducible apply State.modChan_keeps | with_reducible apply State.moveDie_keeps
    | fail_if_no_progress (with_reducible refine Keeps.upd ?_ rfl rfl) | intro _ | split | dsimp only

theorem execDescriptorFetch_keeps {t : State} {ch : Nat} {bytes : List Byte} {s : State} (hE : execDescriptorFetch ch bytes s = .next t) : Keeps s t := by
  have hK := Keeps.refl s
  unfold execDescriptorFetch at hE
  cases hE
  try dsimp only
  repeat' first
    | with_reducible assumption | with_reducible apply State.charge_keeps | with_reducible apply State.chanError_keeps
    | with_reducible apply State.claim_keeps | with_reducible apply State.takeDesc_keeps | with_reducible apply Keeps.ite
    | fail_if_no_progress (with_reducible refine Keeps.upd ?_ rfl rfl) | intro _ | split | dsimp only

theorem State.putHost_keeps {s0 : State} {s : State} {n : Nat} {c : Chan} {d : Desc} {src : List Byte} (hK : Keeps s0 s) : Keeps s0 (State.putHost s n c d src).1 := by
  unfold State.putHost
  try dsimp only
  repeat' first
    | with_reducible assumption | with_reducible apply State.burstLines_keeps
    | with_reducible refine State.burstLines_keepsE (by assumption) ?_ | with_reducible apply State.putBytes_keeps
    | with_reducible refine Keeps.mapE (by assumption) ?_ | with_reducible refine Keeps.getD ?_ ?_
    | with_reducible refine Keeps.getD₂ ?_ ?_ | with_reducible apply Keeps.ite | intro _ | split | dsimp only
theorem State.putHost_keepsE {s0 tK : State} {s : State} {n : Nat} {c : Chan} {d : Desc} {src : List Byte} {y : Bool} (hE : State.putHost s n c d src = (tK, y)) (hK : Keeps s0 s) : Keeps s0 tK := by
  have k := State.putHost_keeps (s := s) (n := n) (c := c) (d := d) (src := src) (hK := hK)
  rw [hE] at k
  exact k

theorem State.descDone_keeps {s0 : State} {s : State} {n : Nat} {d : Desc} {link : U64} (hK : Keeps s0 s) : Keeps s0 (State.descDone s n d link) := by
  unfold State.descDone
  try dsimp only
  repeat' first
    | with_reducible assumption | with_reducible apply State.modChan_keeps | with_reducible apply Keeps.ite
    | fail_if_no_progress (with_reducible refine Keeps.upd ?_ rfl rfl) | intro _ | split | dsimp only

theorem State.dropFar_keeps {s0 : State} {s : State} {c : Chan} {d : Desc} (hK : Keeps s0 s) : Keeps s0 (State.dropFar s c d) := by
  unfold State.dropFar
  try dsimp only
  repeat' first
    | with_reducible assumption | with_reducible apply Keeps.ite
    | fail_if_no_progress (with_reducible refine Keeps.upd ?_ rfl rfl) | intro _ | split | dsimp only

theorem execDescriptorComplete_keeps {t : State} {ch : Nat} {src : List Byte} {link : U64} {s : State} (hE : execDescriptorComplete ch src link s = .next t) : Keeps s t := by
  have hK := Keeps.refl s
  unfold execDescriptorComplete at hE
  cases hE
  try dsimp only
  repeat' first
    | with_reducible assumption | with_reducible apply State.moveDie_keeps | with_reducible apply State.finishBursts_keeps
    | with_reducible apply State.putHost_keeps | with_reducible refine State.putHost_keepsE (by assumption) ?_
    | with_reducible apply State.descDone_keeps | with_reducible apply State.dropFar_keeps
    | with_reducible refine Keeps.mapE (by assumption) ?_ | with_reducible refine Keeps.getD ?_ ?_
    | with_reducible refine Keeps.getD₂ ?_ ?_ | with_reducible apply Keeps.ite | intro _ | split | dsimp only

theorem execParkLimitExpiry_keeps {t : State} {ch : Nat} {s : State} (hE : execParkLimitExpiry ch s = .next t) : Keeps s t := by
  have hK := Keeps.refl s
  unfold execParkLimitExpiry at hE
  cases hE
  try dsimp only
  repeat' first
    | with_reducible assumption | with_reducible apply State.modChan_keeps | with_reducible apply Keeps.ite
    | fail_if_no_progress (with_reducible refine Keeps.upd ?_ rfl rfl) | intro _ | split | dsimp only

theorem State.putOpen_keeps {s0 : State} {s : State} {n : Nat} {c : Chan} {d : Desc} {ps : List (Nat × Nat)} (hK : Keeps s0 s) : Keeps s0 (State.putOpen s n c d ps) := by
  unfold State.putOpen
  try dsimp only
  repeat' first
    | with_reducible assumption | with_reducible apply State.freeBytes_keeps
    | with_reducible refine State.freeBytes_keepsE (by assumption) ?_ | with_reducible apply State.clearLine_keeps
    | with_reducible refine State.clearLine_keepsE (by assumption) ?_ | with_reducible apply State.devWrite_keeps
    | with_reducible refine Keeps.mapE (by assumption) ?_ | with_reducible apply Keeps.over | intro _ | split | dsimp only

theorem State.dmaFailure_keeps {s0 : State} {s : State} {ch : Nat} (hK : Keeps s0 s) : Keeps s0 (State.dmaFailure s ch) := by
  unfold State.dmaFailure
  try dsimp only
  repeat' first
    | with_reducible assumption | with_reducible apply State.chanError_keeps | with_reducible apply State.putOpen_keeps
    | with_reducible apply State.modChan_keeps | with_reducible apply Keeps.ite
    | fail_if_no_progress (with_reducible refine Keeps.upd ?_ rfl rfl) | intro _ | split | dsimp only

theorem execDmaAccessFailure_keeps {t : State} {ch : Nat} {s : State} (hE : execDmaAccessFailure ch s = .next t) : Keeps s t := by
  have hK := Keeps.refl s
  unfold execDmaAccessFailure at hE
  cases hE
  try dsimp only
  repeat' first
    | with_reducible assumption | with_reducible apply State.dmaFailure_keeps | intro _ | split | dsimp only

theorem cDmaChanOpen_safe  : (cDmaChanOpen).Safe := by
  intro s o p
  have hK := Keeps.refl s
  unfold cDmaChanOpen
  try unfold shortCmd
  try unfold longCmd
  try dsimp only
  repeat' first
    | with_reducible assumption | with_reducible apply deny_keeps | with_reducible refine deny_keepsE (by assumption) ?_
    | with_reducible apply done_keeps | with_reducible refine done_keepsE (by assumption) ?_ | exact shortCmd_safe
    | exact shortCmd_safe | exact shortCmd_safe _ _ _ | with_reducible apply Keeps.ite
    | fail_if_no_progress (with_reducible refine Keeps.upd ?_ rfl rfl) | intro _ | split | dsimp only

theorem State.stopBursts_keeps {s0 : State} {s : State} {n : Nat} {c : Chan} (hK : Keeps s0 s) : Keeps s0 (State.stopBursts s n c).1 := by
  unfold State.stopBursts
  try dsimp only
  repeat' first
    | with_reducible assumption | with_reducible apply State.finishBursts_keeps | with_reducible apply State.putOpen_keeps
    | with_reducible apply State.modChan_keeps | with_reducible apply State.dropFar_keeps
    | with_reducible refine Keeps.mapE (by assumption) ?_ | with_reducible apply Keeps.ite
    | fail_if_no_progress (with_reducible refine Keeps.upd ?_ rfl rfl) | intro _ | split | dsimp only
theorem State.stopBursts_keepsE {s0 tK : State} {s : State} {n : Nat} {c : Chan} {y : Bool} (hE : State.stopBursts s n c = (tK, y)) (hK : Keeps s0 s) : Keeps s0 tK := by
  have k := State.stopBursts_keeps (s := s) (n := n) (c := c) (hK := hK)
  rw [hE] at k
  exact k

theorem cDmaChanStop_safe  : (cDmaChanStop).Safe := by
  intro s o p
  have hK := Keeps.refl s
  unfold cDmaChanStop
  try unfold shortCmd
  try unfold longCmd
  try dsimp only
  repeat' first
    | with_reducible assumption | with_reducible apply deny_keeps | with_reducible refine deny_keepsE (by assumption) ?_
    | with_reducible apply done_keeps | with_reducible refine done_keepsE (by assumption) ?_
    | with_reducible apply State.stopBursts_keeps | with_reducible refine State.stopBursts_keepsE (by assumption) ?_
    | with_reducible apply State.modChan_keeps | with_reducible apply State.unclaimOthers_keeps | exact shortCmd_safe
    | exact shortCmd_safe | exact shortCmd_safe _ _ _ | with_reducible apply Keeps.ite
    | fail_if_no_progress (with_reducible refine Keeps.upd ?_ rfl rfl) | intro _ | split | dsimp only

theorem cDmaChanClose_safe  : (cDmaChanClose).Safe := by
  intro s o p
  have hK := Keeps.refl s
  unfold cDmaChanClose
  try unfold shortCmd
  try unfold longCmd
  try dsimp only
  repeat' first
    | with_reducible assumption | with_reducible apply done_keeps | with_reducible refine done_keepsE (by assumption) ?_
    | with_reducible apply deny_keeps | with_reducible refine deny_keepsE (by assumption) ?_
    | with_reducible apply State.modChan_keeps | exact shortCmd_safe | exact shortCmd_safe _ _ _ | with_reducible apply Keeps.ite
    | fail_if_no_progress (with_reducible refine Keeps.upd ?_ rfl rfl) | intro _ | split | dsimp only

theorem cDmaKick_safe  : (cDmaKick).Safe := by
  intro s o p
  have hK := Keeps.refl s
  unfold cDmaKick
  try unfold shortCmd
  try unfold longCmd
  try dsimp only
  repeat' first
    | with_reducible assumption | with_reducible apply done_keeps | with_reducible refine done_keepsE (by assumption) ?_
    | with_reducible apply deny_keeps | with_reducible refine deny_keepsE (by assumption) ?_
    | with_reducible apply State.modChan_keeps | exact shortCmd_safe | exact shortCmd_safe _ _ _ | with_reducible apply Keeps.ite
    | fail_if_no_progress (with_reducible refine Keeps.upd ?_ rfl rfl) | intro _ | split | dsimp only

theorem cDmaChanQuery_safe  : (cDmaChanQuery).Safe := by
  intro s o p
  have hK := Keeps.refl s
  unfold cDmaChanQuery
  try unfold shortCmd
  try unfold longCmd
  try dsimp only
  repeat' first
    | with_reducible assumption | with_reducible apply done_keeps | with_reducible refine done_keepsE (by assumption) ?_
    | with_reducible apply deny_keeps | with_reducible refine deny_keepsE (by assumption) ?_ | exact shortCmd_safe | intro _
    | split | dsimp only

theorem execDmaChanOpen_keeps {t : State} {o : Origin} {p : Pkt} {s : State} (hE : execDmaChanOpen o p s = .next t) : Keeps s t := by
  have hK := Keeps.refl s
  unfold execDmaChanOpen at hE
  cases hE
  try dsimp only
  repeat' first
    | with_reducible assumption | with_reducible apply State.packet_keeps | exact cDmaChanOpen_safe | intro _ | split
    | dsimp only

theorem execDmaChanStop_keeps {t : State} {o : Origin} {p : Pkt} {s : State} (hE : execDmaChanStop o p s = .next t) : Keeps s t := by
  have hK := Keeps.refl s
  unfold execDmaChanStop at hE
  cases hE
  try dsimp only
  repeat' first
    | with_reducible assumption | with_reducible apply State.packet_keeps | exact cDmaChanStop_safe | intro _ | split
    | dsimp only

theorem execDmaChanClose_keeps {t : State} {o : Origin} {p : Pkt} {s : State} (hE : execDmaChanClose o p s = .next t) : Keeps s t := by
  have hK := Keeps.refl s
  unfold execDmaChanClose at hE
  cases hE
  try dsimp only
  repeat' first
    | with_reducible assumption | with_reducible apply State.packet_keeps | exact cDmaChanClose_safe | intro _ | split
    | dsimp only

theorem execDmaKick_keeps {t : State} {o : Origin} {p : Pkt} {s : State} (hE : execDmaKick o p s = .next t) : Keeps s t := by
  have hK := Keeps.refl s
  unfold execDmaKick at hE
  cases hE
  try dsimp only
  repeat' first
    | with_reducible assumption | with_reducible apply State.packet_keeps | exact cDmaKick_safe | intro _ | split | dsimp only

theorem execDmaChanQuery_keeps {t : State} {o : Origin} {p : Pkt} {s : State} (hE : execDmaChanQuery o p s = .next t) : Keeps s t := by
  have hK := Keeps.refl s
  unfold execDmaChanQuery at hE
  cases hE
  try dsimp only
  repeat' first
    | with_reducible assumption | with_reducible apply State.packet_keeps | exact cDmaChanQuery_safe | intro _ | split
    | dsimp only

theorem State.closeChans_keeps {s0 : State} {s : State} {func : Nat} (hK : Keeps s0 s) : Keeps s0 (State.closeChans s func) := by
  unfold State.closeChans
  try dsimp only
  repeat' first
    | with_reducible assumption | with_reducible apply State.finishBursts_keeps
    | with_reducible apply State.unclaimOthers_keeps | with_reducible apply Keeps.over | with_reducible apply Keeps.ite
    | fail_if_no_progress (with_reducible refine Keeps.upd ?_ rfl rfl) | intro _ | split | dsimp only

end Sys2Proof.Machine
end

