-- ==== Sys2Proof/Laws/KeepsHostMem.lean ====
section
/-! SUPPORT. What the operations of Machine/HostMem.lean keep (Keeps), one lemma per operation. -/

set_option linter.unusedTactic false
set_option linter.unreachableTactic false

namespace Sys2Proof.Machine

theorem State.unmappedMem_keeps {s0 : State} {s : State} {r : MemReq} {kind : AccKind} {dpa : Nat} (hK : Keeps s0 s) : Keeps s0 (State.unmappedMem s r kind dpa) := by
  unfold State.unmappedMem
  try dsimp only
  repeat' first
    | with_reducible assumption | with_reducible apply State.logUnmapped_keeps
    | with_reducible apply State.answerUnmapped_keeps | intro _ | split | dsimp only

theorem State.takeCrossing_keeps {s0 : State} {s : State} {a : Access} (hK : Keeps s0 s) : Keeps s0 (State.takeCrossing s a).1 := by
  unfold State.takeCrossing
  try dsimp only
  repeat' first
    | with_reducible assumption | with_reducible apply State.writePlateLine_keeps
    | with_reducible refine State.writePlateLine_keepsE (by assumption) ?_ | with_reducible apply State.foldPlain_keeps
    | with_reducible apply State.setDir_keeps | with_reducible apply State.charge_keeps
    | with_reducible apply State.complete_keeps | intro _ | split | dsimp only
theorem State.takeCrossing_keepsE {s0 tK : State} {s : State} {a : Access} {y : Bool} (hE : State.takeCrossing s a = (tK, y)) (hK : Keeps s0 s) : Keeps s0 tK := by
  have k := State.takeCrossing_keeps (s := s) (a := a) (hK := hK)
  rw [hE] at k
  exact k

theorem State.memRequest_keeps {s0 : State} {s : State} {r : MemReq} {kind : Bool → AccKind} (hK : Keeps s0 s) : Keeps s0 (State.memRequest s r kind) := by
  unfold State.memRequest
  try dsimp only
  repeat' first
    | with_reducible assumption | with_reducible apply State.unmappedMem_keeps | with_reducible apply State.takeCrossing_keeps
    | with_reducible refine State.takeCrossing_keepsE (by assumption) ?_ | with_reducible apply State.advance_keeps
    | with_reducible apply State.arrive_keeps | with_reducible apply Keeps.ite
    | fail_if_no_progress (with_reducible refine Keeps.upd ?_ rfl rfl) | intro _ | split | dsimp only

theorem execMemRd_keeps {t : State} {r : MemReq} {s : State} (hE : execMemRd r s = .next t) : Keeps s t := by
  have hK := Keeps.refl s
  unfold execMemRd at hE
  cases hE
  try dsimp only
  repeat' first
    | with_reducible assumption | with_reducible apply State.memRequest_keeps | intro _ | split | dsimp only

theorem execMemRdData_keeps {t : State} {r : MemReq} {s : State} (hE : execMemRdData r s = .next t) : Keeps s t := by
  have hK := Keeps.refl s
  unfold execMemRdData at hE
  cases hE
  try dsimp only
  repeat' first
    | with_reducible assumption | with_reducible apply State.memRequest_keeps | with_reducible apply Keeps.ite | intro _ | split
    | dsimp only

theorem execMemInv_keeps {t : State} {r : MemReq} {s : State} (hE : execMemInv r s = .next t) : Keeps s t := by
  have hK := Keeps.refl s
  unfold execMemInv at hE
  cases hE
  try dsimp only
  repeat' first
    | with_reducible assumption | with_reducible apply State.memRequest_keeps | intro _ | split | dsimp only

theorem execMemInvNt_keeps {t : State} {r : MemReq} {s : State} (hE : execMemInvNt r s = .next t) : Keeps s t := by
  have hK := Keeps.refl s
  unfold execMemInvNt at hE
  cases hE
  try dsimp only
  repeat' first
    | with_reducible assumption | with_reducible apply State.memRequest_keeps | intro _ | split | dsimp only

theorem execMemWr_keeps {t : State} {r : MemReq} {s : State} (hE : execMemWr r s = .next t) : Keeps s t := by
  have hK := Keeps.refl s
  unfold execMemWr at hE
  cases hE
  try dsimp only
  repeat' first
    | with_reducible assumption | with_reducible apply State.memRequest_keeps
    | fail_if_no_progress (with_reducible refine Keeps.upd ?_ rfl rfl) | intro _ | split | dsimp only

theorem execMemWrPtl_keeps {t : State} {r : MemReq} {s : State} (hE : execMemWrPtl r s = .next t) : Keeps s t := by
  have hK := Keeps.refl s
  unfold execMemWrPtl at hE
  cases hE
  try dsimp only
  repeat' first
    | with_reducible assumption | with_reducible apply State.memRequest_keeps | intro _ | split | dsimp only

theorem State.cleanEvict_keeps {s0 : State} {s : State} {a : Access} (hK : Keeps s0 s) : Keeps s0 (State.cleanEvict s a) := by
  unfold State.cleanEvict
  try dsimp only
  repeat' first
    | with_reducible assumption | with_reducible apply State.setDir_keeps | with_reducible apply Keeps.ite
    | fail_if_no_progress (with_reducible refine Keeps.upd ?_ rfl rfl) | intro _ | split | dsimp only

theorem execMemClnEvct_keeps {t : State} {r : MemReq} {s : State} (hE : execMemClnEvct r s = .next t) : Keeps s t := by
  have hK := Keeps.refl s
  unfold execMemClnEvct at hE
  cases hE
  try dsimp only
  repeat' first
    | with_reducible assumption | with_reducible apply State.unmappedMem_keeps | with_reducible apply State.charge_keeps
    | with_reducible apply State.cleanEvict_keeps | with_reducible apply State.request_keeps
    | with_reducible apply State.complete_keeps | with_reducible apply State.advance_keeps | with_reducible apply Keeps.ite
    | fail_if_no_progress (with_reducible refine Keeps.upd ?_ rfl rfl) | intro _ | split | dsimp only

theorem execMemSpecRd_keeps {t : State} {r : MemReq} {s : State} (hE : execMemSpecRd r s = .next t) : Keeps s t := by
  have hK := Keeps.refl s
  unfold execMemSpecRd at hE
  cases hE
  try dsimp only
  repeat' first
    | with_reducible assumption | with_reducible apply State.startFill_keeps | with_reducible apply Keeps.ite | intro _ | split
    | dsimp only

theorem execMemFwdDrop_keeps {t : State} {r : MemReq} {s : State} (hE : execMemFwdDrop r s = .next t) : Keeps s t := by
  have hK := Keeps.refl s
  unfold execMemFwdDrop at hE
  cases hE
  try dsimp only
  repeat' first
    | with_reducible assumption | with_reducible apply State.logRated_keeps | with_reducible refine Keeps.getD ?_ ?_
    | with_reducible refine Keeps.getD₂ ?_ ?_ | with_reducible apply Keeps.ite | intro _ | split | dsimp only

theorem State.dropSnoop_keeps {s0 : State} {s : State} {id : Nat} (hK : Keeps s0 s) : Keeps s0 (State.dropSnoop s id) := by
  unfold State.dropSnoop
  try dsimp only
  repeat' first
    | with_reducible assumption | fail_if_no_progress (with_reducible refine Keeps.upd ?_ rfl rfl) | intro _ | split | dsimp only

theorem State.answerSnoop_keeps {s0 : State} {s : State} {sn : Snoop} {shared : Bool} (hK : Keeps s0 s) : Keeps s0 (State.answerSnoop s sn shared) := by
  unfold State.answerSnoop
  try dsimp only
  repeat' first
    | with_reducible assumption | with_reducible apply State.setDir_keeps | with_reducible apply Keeps.ite
    | fail_if_no_progress (with_reducible refine Keeps.upd ?_ rfl rfl) | intro _ | split | dsimp only

theorem State.birsp_keeps {s0 : State} {s : State} {ld id : Nat} {shared : Bool} (hK : Keeps s0 s) : Keeps s0 (State.birsp s ld id shared) := by
  unfold State.birsp
  try dsimp only
  repeat' first
    | with_reducible assumption | with_reducible apply State.logE_keeps | with_reducible apply State.charge_keeps
    | with_reducible apply State.sendMsg_keeps | with_reducible apply State.advance_keeps
    | with_reducible apply State.dropSnoop_keeps | with_reducible apply State.answerSnoop_keeps | with_reducible apply Keeps.ite
    | fail_if_no_progress (with_reducible refine Keeps.upd ?_ rfl rfl) | intro _ | split | dsimp only

theorem execBiRsp_keeps {t : State} {ld : Nat} {snoop : Nat} {shared : Bool} {s : State} (hE : execBiRsp ld snoop shared s = .next t) : Keeps s t := by
  have hK := Keeps.refl s
  unfold execBiRsp at hE
  cases hE
  try dsimp only
  repeat' first
    | with_reducible assumption | with_reducible apply State.birsp_keeps | intro _ | split | dsimp only

theorem execBiRspE_keeps {t : State} {ld : Nat} {snoop : Nat} {s : State} (hE : execBiRspE ld snoop s = .next t) : Keeps s t := by
  have hK := Keeps.refl s
  unfold execBiRspE at hE
  cases hE
  try dsimp only
  repeat' first
    | with_reducible assumption | with_reducible apply State.logE_keeps | with_reducible apply State.birsp_keeps
    | with_reducible apply Keeps.ite | intro _ | split | dsimp only

theorem execBiConflict_keeps {t : State} {ld : Nat} {snoop : Nat} {s : State} (hE : execBiConflict ld snoop s = .next t) : Keeps s t := by
  have hK := Keeps.refl s
  unfold execBiConflict at hE
  cases hE
  try dsimp only
  repeat' first
    | with_reducible assumption | with_reducible apply Keeps.emit | with_reducible apply Keeps.ite
    | fail_if_no_progress (with_reducible refine Keeps.upd ?_ rfl rfl) | intro _ | split | dsimp only

theorem State.sendAcks_keeps {s0 : State} {s : State} (hK : Keeps s0 s) : Keeps s0 (State.sendAcks s) := by
  unfold State.sendAcks
  try dsimp only
  repeat' first
    | with_reducible assumption | with_reducible apply Keeps.emit | with_reducible apply Keeps.over
    | with_reducible apply Keeps.ite | fail_if_no_progress (with_reducible refine Keeps.upd ?_ rfl rfl) | intro _ | split
    | dsimp only

theorem State.unanswered_keeps {s0 : State} {s : State} {id : Nat} {sn : Snoop} {late : Bool} (hK : Keeps s0 s) : Keeps s0 (State.unanswered s id sn late) := by
  unfold State.unanswered
  try dsimp only
  repeat' first
    | with_reducible assumption | with_reducible apply State.modOp_keeps | with_reducible apply State.dropHolder_keeps
    | with_reducible refine State.dropHolder_keepsE (by assumption) ?_ | with_reducible apply State.dropSnoop_keeps
    | with_reducible apply Keeps.ite | fail_if_no_progress (with_reducible refine Keeps.upd ?_ rfl rfl) | intro _ | split
    | dsimp only

theorem execSnoopTimeout_keeps {t : State} {snoop : Nat} {s : State} (hE : execSnoopTimeout snoop s = .next t) : Keeps s t := by
  have hK := Keeps.refl s
  unfold execSnoopTimeout at hE
  cases hE
  try dsimp only
  repeat' first
    | with_reducible assumption | with_reducible apply State.advance_keeps | with_reducible apply State.unanswered_keeps
    | with_reducible apply Keeps.ite | fail_if_no_progress (with_reducible refine Keeps.upd ?_ rfl rfl) | intro _ | split
    | dsimp only

theorem execAccessAdmission_keeps {t : State} {id : Nat} {s : State} (hE : execAccessAdmission id s = .next t) : Keeps s t := by
  have hK := Keeps.refl s
  unfold execAccessAdmission at hE
  cases hE
  try dsimp only
  repeat' first
    | with_reducible assumption | with_reducible apply State.admitAccess_keeps | with_reducible apply Keeps.ite | intro _ | split
    | dsimp only

end Sys2Proof.Machine
end

