-- ==== Sys2Proof/Laws/KeepsImpressions.lean ====
section
/-! SUPPORT. What the operations of Machine/Impressions.lean keep (Keeps), one lemma per operation. -/

set_option linter.unusedTactic false
set_option linter.unreachableTactic false

namespace Sys2Proof.Machine

theorem cImpressionOpen_safe  : (cImpressionOpen).Safe := by
  intro s o p
  have hK := Keeps.refl s
  unfold cImpressionOpen
  try unfold shortCmd
  try unfold longCmd
  try dsimp only
  repeat' first
    | with_reducible assumption | with_reducible apply deny_keeps | with_reducible refine deny_keepsE (by assumption) ?_
    | exact longCmd_safe | exact longCmd_safe _ _ _ | with_reducible apply Keeps.ite
    | fail_if_no_progress (with_reducible refine Keeps.upd ?_ rfl rfl) | intro _ | split | dsimp only

theorem cImpressionClose_safe  : (cImpressionClose).Safe := by
  intro s o p
  have hK := Keeps.refl s
  unfold cImpressionClose
  try unfold shortCmd
  try unfold longCmd
  try dsimp only
  repeat' first
    | with_reducible assumption | with_reducible apply deny_keeps | with_reducible refine deny_keepsE (by assumption) ?_
    | exact longCmd_safe | exact longCmd_safe _ _ _ | with_reducible apply Keeps.ite
    | fail_if_no_progress (with_reducible refine Keeps.upd ?_ rfl rfl) | intro _ | split | dsimp only

theorem cImpressionQuery_safe  : (cImpressionQuery).Safe := by
  intro s o p
  have hK := Keeps.refl s
  unfold cImpressionQuery
  try unfold shortCmd
  try unfold longCmd
  try dsimp only
  repeat' first
    | with_reducible assumption | with_reducible apply done_keeps | with_reducible refine done_keepsE (by assumption) ?_
    | with_reducible apply deny_keeps | with_reducible refine deny_keepsE (by assumption) ?_ | exact shortCmd_safe | intro _
    | split | dsimp only

theorem State.modImpr_keeps {s0 : State} {s : State} {id : Nat} {f : Impr → Impr} (hK : Keeps s0 s) : Keeps s0 (State.modImpr s id f) := by
  unfold State.modImpr
  try dsimp only
  repeat' first
    | with_reducible assumption | fail_if_no_progress (with_reducible refine Keeps.upd ?_ rfl rfl) | intro _ | split | dsimp only

theorem State.imprSlice_keeps {s0 : State} {s : State} {h id cursor mapCursor : Nat} (hK : Keeps s0 s) : Keeps s0 (State.imprSlice s h id cursor mapCursor) := by
  unfold State.imprSlice
  try dsimp only
  repeat' first
    | with_reducible assumption | with_reducible apply State.forget_keeps | with_reducible apply State.sendSnoop_keeps
    | with_reducible apply State.setBody_keeps | with_reducible apply State.ranTo_keeps
    | with_reducible apply State.modImpr_keeps | with_reducible apply Keeps.over | with_reducible apply Keeps.ite
    | fail_if_no_progress (with_reducible refine Keeps.upd ?_ rfl rfl) | intro _ | split | dsimp only

theorem State.imprsBoundary_keeps {s0 : State} {s : State} (hK : Keeps s0 s) : Keeps s0 (State.imprsBoundary s) := by
  unfold State.imprsBoundary
  try dsimp only
  repeat' first
    | with_reducible assumption | with_reducible refine Keeps.mapE (by assumption) ?_ | with_reducible apply Keeps.ite
    | fail_if_no_progress (with_reducible refine Keeps.upd ?_ rfl rfl) | intro _ | split | dsimp only

theorem execImpressionCapture_keeps {t : State} {id : Nat} {s : State} (hE : execImpressionCapture id s = .next t) : Keeps s t := by
  have hK := Keeps.refl s
  unfold execImpressionCapture at hE
  cases hE
  try dsimp only
  repeat' first
    | with_reducible assumption | with_reducible apply State.writeRecord_keeps | with_reducible apply State.modOp_keeps
    | with_reducible refine State.takeDue_keepsE (by assumption) ?_ | with_reducible apply State.modImpr_keeps
    | fail_if_no_progress (with_reducible refine Keeps.upd ?_ rfl rfl) | intro _ | split | dsimp only

theorem State.imprCancelled_keeps {s0 : State} {s : State} {id : Nat} (hK : Keeps s0 s) : Keeps s0 (State.imprCancelled s id) := by
  unfold State.imprCancelled
  try dsimp only
  repeat' first
    | with_reducible assumption | fail_if_no_progress (with_reducible refine Keeps.upd ?_ rfl rfl) | intro _ | split | dsimp only

theorem State.closeImprSlice_keeps {s0 : State} {s : State} {h id cursor : Nat} {draining : Bool} (hK : Keeps s0 s) : Keeps s0 (State.closeImprSlice s h id cursor draining) := by
  unfold State.closeImprSlice
  try dsimp only
  repeat' first
    | with_reducible assumption | with_reducible apply State.modOp_keeps | with_reducible apply State.forget_keeps
    | with_reducible apply State.setBody_keeps | with_reducible apply State.ranTo_keeps | with_reducible apply State.endOp_keeps
    | with_reducible apply State.modImpr_keeps | with_reducible apply Keeps.over | with_reducible apply Keeps.ite
    | fail_if_no_progress (with_reducible refine Keeps.upd ?_ rfl rfl) | intro _ | split | dsimp only

theorem State.recallStep_keeps {s0 : State} {s : State} {r : Recall} (hK : Keeps s0 s) : Keeps s0 (State.recallStep s r).1 := by
  unfold State.recallStep
  try dsimp only
  repeat' first
    | with_reducible assumption | with_reducible apply State.sendSnoopTo_keeps | with_reducible apply State.dropHolder_keeps
    | with_reducible refine State.dropHolder_keepsE (by assumption) ?_ | with_reducible apply Keeps.over
    | with_reducible apply Keeps.ite | fail_if_no_progress (with_reducible refine Keeps.upd ?_ rfl rfl) | intro _ | split
    | dsimp only
theorem State.recallStep_keepsE {s0 tK : State} {s : State} {r : Recall} {y : Option Recall} (hE : State.recallStep s r = (tK, y)) (hK : Keeps s0 s) : Keeps s0 tK := by
  have k := State.recallStep_keeps (s := s) (r := r) (hK := hK)
  rw [hE] at k
  exact k

theorem State.recallsBoundary_keeps {s0 : State} {s : State} (hK : Keeps s0 s) : Keeps s0 (State.recallsBoundary s) := by
  unfold State.recallsBoundary
  try dsimp only
  repeat' first
    | with_reducible assumption | with_reducible apply State.unanswered_keeps | with_reducible apply State.recallStep_keeps
    | with_reducible refine State.recallStep_keepsE (by assumption) ?_ | with_reducible apply Keeps.over
    | with_reducible apply Keeps.foldl | with_reducible apply Keeps.fold
    | with_reducible refine Keeps.foldE (by assumption) ?_ ?_ | with_reducible apply Keeps.ite
    | fail_if_no_progress (with_reducible refine Keeps.upd ?_ rfl rfl) | intro _ | split | dsimp only

theorem cDirRecall_safe  : (cDirRecall).Safe := by
  intro s o p
  have hK := Keeps.refl s
  unfold cDirRecall
  try unfold shortCmd
  try unfold longCmd
  try dsimp only
  repeat' first
    | with_reducible assumption | with_reducible apply deny_keeps | with_reducible refine deny_keepsE (by assumption) ?_
    | exact longCmd_safe | intro _ | split | dsimp only

theorem State.dirRecallSlice_keeps {s0 : State} {s : State} {h slot first count cursor : Nat} (hK : Keeps s0 s) : Keeps s0 (State.dirRecallSlice s h slot first count cursor) := by
  unfold State.dirRecallSlice
  try dsimp only
  repeat' first
    | with_reducible assumption | with_reducible apply State.modOp_keeps | with_reducible apply State.recallEntry_keeps
    | with_reducible apply State.setBody_keeps | with_reducible apply State.ranTo_keeps | with_reducible apply Keeps.over
    | with_reducible apply Keeps.ite | fail_if_no_progress (with_reducible refine Keeps.upd ?_ rfl rfl) | intro _ | split
    | dsimp only

theorem execImpressionOpen_keeps {t : State} {o : Origin} {p : Pkt} {s : State} (hE : execImpressionOpen o p s = .next t) : Keeps s t := by
  have hK := Keeps.refl s
  unfold execImpressionOpen at hE
  cases hE
  try dsimp only
  repeat' first
    | with_reducible assumption | with_reducible apply State.packet_keeps | exact cImpressionOpen_safe | intro _ | split
    | dsimp only

theorem execImpressionClose_keeps {t : State} {o : Origin} {p : Pkt} {s : State} (hE : execImpressionClose o p s = .next t) : Keeps s t := by
  have hK := Keeps.refl s
  unfold execImpressionClose at hE
  cases hE
  try dsimp only
  repeat' first
    | with_reducible assumption | with_reducible apply State.packet_keeps | exact cImpressionClose_safe | intro _ | split
    | dsimp only

theorem execImpressionQuery_keeps {t : State} {o : Origin} {p : Pkt} {s : State} (hE : execImpressionQuery o p s = .next t) : Keeps s t := by
  have hK := Keeps.refl s
  unfold execImpressionQuery at hE
  cases hE
  try dsimp only
  repeat' first
    | with_reducible assumption | with_reducible apply State.packet_keeps | exact cImpressionQuery_safe | intro _ | split
    | dsimp only

theorem execDirRecall_keeps {t : State} {o : Origin} {p : Pkt} {s : State} (hE : execDirRecall o p s = .next t) : Keeps s t := by
  have hK := Keeps.refl s
  unfold execDirRecall at hE
  cases hE
  try dsimp only
  repeat' first
    | with_reducible assumption | with_reducible apply State.packet_keeps | exact cDirRecall_safe | intro _ | split | dsimp only

end Sys2Proof.Machine
end

