-- ==== Sys2Proof/Laws/KeepsBridles.lean ====
section
/-! SUPPORT. What the operations of Machine/Bridles.lean keep (Keeps), one lemma per operation. -/

set_option linter.unusedTactic false
set_option linter.unreachableTactic false

namespace Sys2Proof.Machine

theorem State.capFalls_keeps {s0 : State} {s : State} {old : State} (hK : Keeps s0 s) : Keeps s0 (State.capFalls s old) := by
  unfold State.capFalls
  try dsimp only
  repeat' first
    | with_reducible assumption | with_reducible apply State.diverge_keeps | with_reducible apply Keeps.over
    | with_reducible apply Keeps.ite | intro _ | split | dsimp only

theorem State.logScaled_keeps {s0 : State} {s : State} {old : State} (hK : Keeps s0 s) : Keeps s0 (State.logScaled s old) := by
  unfold State.logScaled
  try dsimp only
  repeat' first
    | with_reducible assumption | with_reducible apply State.logE_keeps | with_reducible apply Keeps.over
    | with_reducible apply Keeps.ite | intro _ | split | dsimp only

theorem execDemandSnapshot_keeps {t : State} {s : State} (hE : execDemandSnapshot s = .next t) : Keeps s t := by
  have hK := Keeps.refl s
  unfold execDemandSnapshot at hE
  cases hE
  try dsimp only
  repeat' first
    | with_reducible assumption | with_reducible apply State.streamsSnapshot_keeps | with_reducible apply Keeps.ite
    | fail_if_no_progress (with_reducible refine Keeps.upd ?_ rfl rfl) | intro _ | split | dsimp only

theorem execPlannerLate_keeps {t : State} {s : State} (hE : execPlannerLate s = .next t) : Keeps s t := by
  have hK := Keeps.refl s
  unfold execPlannerLate at hE
  cases hE
  try dsimp only
  repeat' first
    | with_reducible assumption | with_reducible apply State.logE_keeps
    | fail_if_no_progress (with_reducible refine Keeps.upd ?_ rfl rfl) | intro _ | split | dsimp only

theorem execSliceOverrun_keeps {t : State} {handle cls idx units : Nat} {s : State} (hE : execSliceOverrun handle cls idx units s = .next t) : Keeps s t := by
  have hK := Keeps.refl s
  unfold execSliceOverrun at hE
  cases hE
  try dsimp only
  repeat' first
    | with_reducible assumption | with_reducible apply State.diverge_keeps | with_reducible apply State.logE_keeps
    | with_reducible refine Keeps.getD ?_ ?_ | with_reducible refine Keeps.getD₂ ?_ ?_ | with_reducible apply Keeps.ite
    | fail_if_no_progress (with_reducible refine Keeps.upd ?_ rfl rfl) | intro _ | split | dsimp only

end Sys2Proof.Machine
end

