-- ==== Sys2Proof/Laws/KeepsLineFaults.lean ====
section
/-! SUPPORT. What the operations of Machine/LineFaults.lean keep (Keeps), one lemma per operation. -/

set_option linter.unusedTactic false
set_option linter.unreachableTactic false

namespace Sys2Proof.Machine

theorem State.workFault_keeps {s0 : State} {s : State} {id l : Nat} (hK : Keeps s0 s) : Keeps s0 (State.workFault s id l) := by
  unfold State.workFault
  try dsimp only
  repeat' first
    | with_reducible assumption | with_reducible apply State.readWorkN_keeps
    | with_reducible refine State.readWorkN_keepsE (by assumption) ?_ | with_reducible apply State.writeWorkN_keeps
    | with_reducible apply State.completeUnit_keeps | with_reducible refine Keeps.bindE (by assumption) ?_
    | with_reducible refine Keeps.bindS (by assumption) ?_ | with_reducible apply Keeps.ite | intro _ | split | dsimp only

theorem State.rawFault_keeps {s0 : State} {s : State} {slot plate i l : Nat} (hK : Keeps s0 s) : Keeps s0 (State.rawFault s slot plate i l) := by
  unfold State.rawFault
  try dsimp only
  repeat' first
    | with_reducible assumption | with_reducible apply State.setSyn_keeps | with_reducible apply State.writeLine_keeps
    | with_reducible apply State.modEnt_keeps | with_reducible apply State.bringIn_keeps
    | with_reducible refine State.bringIn_keepsE (by assumption) ?_ | with_reducible apply Keeps.ite
    | fail_if_no_progress (with_reducible refine Keeps.upd ?_ rfl rfl) | intro _ | split | dsimp only

theorem State.dramFault_keeps {s0 : State} {s : State} {k g : Nat} (hK : Keeps s0 s) : Keeps s0 (State.dramFault s k g).1 := by
  unfold State.dramFault
  try dsimp only
  repeat' first
    | with_reducible assumption | with_reducible apply State.readLine_keeps
    | with_reducible refine State.readLine_keepsE (by assumption) ?_ | with_reducible apply State.writeLine_keeps
    | with_reducible apply State.damage_keeps | with_reducible apply State.mirrorRead_keeps
    | with_reducible apply State.readBack_keeps | with_reducible apply State.damagePageLine_keeps
    | with_reducible apply State.workFault_keeps | with_reducible apply State.rawFault_keeps
    | with_reducible refine Keeps.someIf (by assumption) ?_ | with_reducible apply Keeps.ite | intro _ | split | dsimp only
theorem State.dramFault_keepsE {s0 tK : State} {s : State} {k g : Nat} {y : Nat} (hE : State.dramFault s k g = (tK, y)) (hK : Keeps s0 s) : Keeps s0 tK := by
  have k := State.dramFault_keeps (s := s) (k := k) (g := g) (hK := hK)
  rw [hE] at k
  exact k

theorem State.storeFault_keeps {s0 : State} {s : State} {i : Nat} (hK : Keeps s0 s) : Keeps s0 (State.storeFault s i) := by
  unfold State.storeFault
  try dsimp only
  repeat' first
    | with_reducible assumption | with_reducible apply State.writeLine_keeps | with_reducible apply State.writeT0_keeps
    | with_reducible apply State.expandHome_keeps | with_reducible refine State.expandHome_keepsE (by assumption) ?_
    | with_reducible apply Keeps.ite | intro _ | split | dsimp only

theorem State.rewriteLine_keeps {s0 : State} {s : State} {l : Nat} {d : List Byte} (hK : Keeps s0 s) : Keeps s0 (State.rewriteLine s l d) := by
  unfold State.rewriteLine
  try dsimp only
  repeat' first
    | with_reducible assumption | with_reducible apply State.writeLine_keeps | with_reducible apply State.useSlot_keeps
    | with_reducible apply Keeps.ite | intro _ | split | dsimp only

theorem State.readFor_keeps {s0 : State} {s : State} {l : Nat} (hK : Keeps s0 s) : Keeps s0 (State.readFor s l).1 := by
  unfold State.readFor
  try dsimp only
  repeat' first
    | with_reducible assumption | with_reducible apply State.readLine_keeps
    | with_reducible refine State.readLine_keepsE (by assumption) ?_ | with_reducible apply State.modPc_keeps
    | with_reducible apply Keeps.ite | fail_if_no_progress (with_reducible refine Keeps.upd ?_ rfl rfl) | intro _ | split
    | dsimp only
theorem State.readFor_keepsE {s0 tK : State} {s : State} {l : Nat} {y : LineRead} (hE : State.readFor s l = (tK, y)) (hK : Keeps s0 s) : Keeps s0 tK := by
  have k := State.readFor_keeps (s := s) (l := l) (hK := hK)
  rw [hE] at k
  exact k

theorem State.scrubLine_keeps {s0 : State} {s : State} {l : Nat} (hK : Keeps s0 s) : Keeps s0 (State.scrubLine s l).1 := by
  unfold State.scrubLine
  try dsimp only
  repeat' first
    | with_reducible assumption | with_reducible apply State.readFor_keeps
    | with_reducible refine State.readFor_keepsE (by assumption) ?_ | with_reducible apply State.rewriteLine_keeps
    | with_reducible apply State.dramFault_keeps | with_reducible refine State.dramFault_keepsE (by assumption) ?_
    | with_reducible apply State.storeFault_keeps | with_reducible apply Keeps.ite | intro _ | split | dsimp only
theorem State.scrubLine_keepsE {s0 tK : State} {s : State} {l : Nat} {y : Scrubbed} (hE : State.scrubLine s l = (tK, y)) (hK : Keeps s0 s) : Keeps s0 tK := by
  have k := State.scrubLine_keeps (s := s) (l := l) (hK := hK)
  rw [hE] at k
  exact k

theorem State.track_keeps {s0 : State} {s : State} {l pass : Nat} (hK : Keeps s0 s) : Keeps s0 (State.track s l pass) := by
  unfold State.track
  try dsimp only
  repeat' first
    | with_reducible assumption | with_reducible apply State.logE_keeps | with_reducible apply Keeps.ite
    | fail_if_no_progress (with_reducible refine Keeps.upd ?_ rfl rfl) | intro _ | split | dsimp only

theorem State.patrolLine_keeps {s0 : State} {s : State} {l pass : Nat} (hK : Keeps s0 s) : Keeps s0 (State.patrolLine s l pass) := by
  unfold State.patrolLine
  try dsimp only
  repeat' first
    | with_reducible assumption | with_reducible apply State.scrubLine_keeps
    | with_reducible refine State.scrubLine_keepsE (by assumption) ?_ | with_reducible apply State.track_keeps | intro _ | split
    | dsimp only

theorem State.patrol_keeps {s0 : State} {s : State} (hK : Keeps s0 s) : Keeps s0 (State.patrol s) := by
  unfold State.patrol
  try dsimp only
  repeat' first
    | with_reducible assumption | with_reducible apply State.modPc_keeps | with_reducible apply State.patrolLine_keeps
    | with_reducible refine Keeps.mapE (by assumption) ?_ | with_reducible refine Keeps.someIf (by assumption) ?_
    | with_reducible apply Keeps.over | with_reducible apply Keeps.ite
    | fail_if_no_progress (with_reducible refine Keeps.upd ?_ rfl rfl) | intro _ | split | dsimp only

end Sys2Proof.Machine
end

