-- ==== Sys2Proof/Laws/KeepsDramRows.lean ====
section
/-! SUPPORT. What the operations of Machine/DramRows.lean keep (Keeps), one lemma per operation. -/

set_option linter.unusedTactic false
set_option linter.unreachableTactic false

namespace Sys2Proof.Machine

theorem State.controllers_keeps {s0 : State} {s : State} (hK : Keeps s0 s) : Keeps s0 (State.controllers s) := by
  unfold State.controllers
  try dsimp only
  repeat' first
    | with_reducible assumption | with_reducible apply State.modPc_keeps | with_reducible apply State.act_keeps
    | with_reducible apply State.logE_keeps | with_reducible refine Keeps.mapE (by assumption) ?_
    | with_reducible refine Keeps.getD ?_ ?_ | with_reducible refine Keeps.getD₂ ?_ ?_ | with_reducible apply Keeps.over
    | with_reducible apply Keeps.foldl | with_reducible apply Keeps.fold
    | with_reducible refine Keeps.foldE (by assumption) ?_ ?_
    | fail_if_no_progress (with_reducible refine Keeps.upd ?_ rfl rfl) | intro _ | split | dsimp only

theorem State.dramRead_keeps {s0 : State} {s : State} {k g : Nat} {flips : List Nat} (hK : Keeps s0 s) : Keeps s0 (State.dramRead s k g flips) := by
  unfold State.dramRead
  try dsimp only
  repeat' first
    | with_reducible assumption | with_reducible apply State.setSyn_keeps | with_reducible apply State.readLine_keeps
    | with_reducible refine State.readLine_keepsE (by assumption) ?_ | with_reducible apply State.dramFault_keeps
    | with_reducible refine State.dramFault_keepsE (by assumption) ?_ | with_reducible apply Keeps.put
    | with_reducible apply Keeps.ite | fail_if_no_progress (with_reducible refine Keeps.upd ?_ rfl rfl) | intro _ | split
    | dsimp only

theorem execDramReadComplete_keeps {t : State} {stack granule : Nat} {flips : List Nat} {s : State} (hE : execDramReadComplete stack granule flips s = .next t) : Keeps s t := by
  have hK := Keeps.refl s
  unfold execDramReadComplete at hE
  cases hE
  try dsimp only
  repeat' first
    | with_reducible assumption | with_reducible apply State.dramRead_keeps | intro _ | split | dsimp only

theorem execCaParityAlert_keeps {t : State} {stack pc replayed : Nat} {s : State} (hE : execCaParityAlert stack pc replayed s = .next t) : Keeps s t := by
  have hK := Keeps.refl s
  unfold execCaParityAlert at hE
  cases hE
  try dsimp only
  repeat' first
    | with_reducible assumption | with_reducible apply State.freeWord_keeps
    | with_reducible refine State.freeWord_keepsE (by assumption) ?_ | with_reducible apply State.modPc_keeps
    | with_reducible apply State.act_keeps | with_reducible apply State.logE_keeps | with_reducible apply State.diverge_keeps
    | with_reducible apply Keeps.ite | fail_if_no_progress (with_reducible refine Keeps.upd ?_ rfl rfl) | intro _ | split
    | dsimp only

theorem execRetrainingComplete_keeps {t : State} {stack pc : Nat} {pass : Bool} {s : State} (hE : execRetrainingComplete stack pc pass s = .next t) : Keeps s t := by
  have hK := Keeps.refl s
  unfold execRetrainingComplete at hE
  cases hE
  try dsimp only
  repeat' first
    | with_reducible assumption | with_reducible apply State.modPc_keeps | with_reducible apply Keeps.ite
    | fail_if_no_progress (with_reducible refine Keeps.upd ?_ rfl rfl) | intro _ | split | dsimp only

theorem execTrainPeriodExpiry_keeps {t : State} {s : State} (hE : execTrainPeriodExpiry s = .next t) : Keeps s t := by
  have hK := Keeps.refl s
  unfold execTrainPeriodExpiry at hE
  cases hE
  try dsimp only
  repeat' first
    | with_reducible assumption | with_reducible apply Keeps.ite
    | fail_if_no_progress (with_reducible refine Keeps.upd ?_ rfl rfl) | intro _ | split | dsimp only

theorem execSelfRefreshEntry_keeps {t : State} {stack pc : Nat} {s : State} (hE : execSelfRefreshEntry stack pc s = .next t) : Keeps s t := by
  have hK := Keeps.refl s
  unfold execSelfRefreshEntry at hE
  cases hE
  try dsimp only
  repeat' first
    | with_reducible assumption | with_reducible apply State.modPc_keeps | with_reducible refine Keeps.getD ?_ ?_
    | with_reducible refine Keeps.getD₂ ?_ ?_ | with_reducible apply Keeps.ite
    | fail_if_no_progress (with_reducible refine Keeps.upd ?_ rfl rfl) | intro _ | split | dsimp only

theorem execSelfRefreshExit_keeps {t : State} {stack pc : Nat} {s : State} (hE : execSelfRefreshExit stack pc s = .next t) : Keeps s t := by
  have hK := Keeps.refl s
  unfold execSelfRefreshExit at hE
  cases hE
  try dsimp only
  repeat' first
    | with_reducible assumption | with_reducible apply State.modPc_keeps | with_reducible apply Keeps.ite
    | fail_if_no_progress (with_reducible refine Keeps.upd ?_ rfl rfl) | intro _ | split | dsimp only

theorem State.copySpare_keeps {s0 : State} {s : State} {l : Nat} (hK : Keeps s0 s) : Keeps s0 (State.copySpare s l) := by
  unfold State.copySpare
  try dsimp only
  repeat' first
    | with_reducible assumption | with_reducible apply State.readLine_keeps
    | with_reducible refine State.readLine_keepsE (by assumption) ?_ | with_reducible apply State.writeLine_keeps
    | with_reducible apply State.storeFault_keeps | intro _ | split | dsimp only

theorem execBankSpareCopyDone_keeps {t : State} {bank : Nat} {s : State} (hE : execBankSpareCopyDone bank s = .next t) : Keeps s t := by
  have hK := Keeps.refl s
  unfold execBankSpareCopyDone at hE
  cases hE
  try dsimp only
  repeat' first
    | with_reducible assumption | with_reducible apply State.logE_keeps | with_reducible apply State.endOp_keeps
    | with_reducible apply State.copySpare_keeps | with_reducible refine Keeps.mapE (by assumption) ?_
    | with_reducible apply Keeps.over | with_reducible apply Keeps.ite
    | fail_if_no_progress (with_reducible refine Keeps.upd ?_ rfl rfl) | intro _ | split | dsimp only

theorem State.reportLoss_keeps {s0 : State} {s : State} {slot addr : Nat} (hK : Keeps s0 s) : Keeps s0 (State.reportLoss s slot addr) := by
  unfold State.reportLoss
  try dsimp only
  repeat' first
    | with_reducible assumption | with_reducible apply State.addEvent_keeps | with_reducible refine Keeps.mapE (by assumption) ?_
    | with_reducible apply Keeps.over | intro _ | split | dsimp only

theorem State.losePc_keeps {s0 : State} {s : State} {k p : Nat} (hK : Keeps s0 s) : Keeps s0 (State.losePc s k p) := by
  unfold State.losePc
  try dsimp only
  repeat' first
    | with_reducible assumption | with_reducible apply State.damage_keeps | with_reducible apply State.damagePageLine_keeps
    | with_reducible apply State.reportLoss_keeps | with_reducible refine Keeps.mapE (by assumption) ?_
    | with_reducible apply Keeps.over | with_reducible apply Keeps.ite | intro _ | split | dsimp only

theorem State.switchStack_keeps {s0 : State} {s : State} {k : Nat} (hK : Keeps s0 s) : Keeps s0 (State.switchStack s k) := by
  unfold State.switchStack
  try dsimp only
  repeat' first
    | with_reducible assumption | with_reducible apply State.modEnt_keeps | with_reducible apply Keeps.over
    | with_reducible apply Keeps.ite | fail_if_no_progress (with_reducible refine Keeps.upd ?_ rfl rfl) | intro _ | split
    | dsimp only

theorem State.moveYoked_keeps {s0 : State} {s : State} {key : Nat} (hK : Keeps s0 s) : Keeps s0 (State.moveYoked s key) := by
  unfold State.moveYoked
  try dsimp only
  repeat' first
    | with_reducible assumption | with_reducible refine State.moveHome_keepsE (by assumption) ?_
    | with_reducible refine Keeps.getD ?_ ?_ | with_reducible refine Keeps.getD₂ ?_ ?_ | with_reducible apply Keeps.ite | intro _
    | split | dsimp only

theorem State.yokeSlices_keeps {s0 : State} {s : State} (hK : Keeps s0 s) : Keeps s0 (State.yokeSlices s) := by
  unfold State.yokeSlices
  try dsimp only
  repeat' first
    | with_reducible assumption | with_reducible apply State.switchStack_keeps | with_reducible apply State.moveYoked_keeps
    | with_reducible apply Keeps.over | with_reducible apply Keeps.ite
    | fail_if_no_progress (with_reducible refine Keeps.upd ?_ rfl rfl) | intro _ | split | dsimp only

theorem State.rescueOne_keeps {s0 : State} {s : State} {c : Chunk} (hK : Keeps s0 s) : Keeps s0 (State.rescueOne s c) := by
  unfold State.rescueOne
  try dsimp only
  repeat' first
    | with_reducible assumption | with_reducible apply State.copyChunk_keeps | with_reducible apply State.endUnit_keeps
    | with_reducible refine State.endUnit_keepsE (by assumption) ?_ | intro _ | split | dsimp only

theorem State.rescueChunks_keeps {s0 : State} {s : State} (hK : Keeps s0 s) : Keeps s0 (State.rescueChunks s) := by
  unfold State.rescueChunks
  try dsimp only
  repeat' first
    | with_reducible assumption | with_reducible apply State.rescueOne_keeps | intro _ | split | dsimp only

theorem State.dramBoundary_keeps {s0 : State} {s : State} (hK : Keeps s0 s) : Keeps s0 (State.dramBoundary s) := by
  unfold State.dramBoundary
  try dsimp only
  repeat' first
    | with_reducible assumption | with_reducible apply State.modPc_keeps | with_reducible apply State.losePc_keeps
    | with_reducible apply State.controllers_keeps | with_reducible refine Keeps.mapE (by assumption) ?_
    | with_reducible apply Keeps.over | fail_if_no_progress (with_reducible refine Keeps.upd ?_ rfl rfl) | intro _ | split
    | dsimp only

end Sys2Proof.Machine
end

