-- ==== Sys2Proof/Laws/KeepsFlashRows.lean ====
section
/-! SUPPORT. What the operations of Machine/FlashRows.lean keep (Keeps), one lemma per operation. -/

set_option linter.unusedTactic false
set_option linter.unreachableTactic false

namespace Sys2Proof.Machine

theorem State.relocate_keeps {s0 : State} {s : State} {a : Nat} (hK : Keeps s0 s) : Keeps s0 (State.relocate s a).1 := by
  unfold State.relocate
  try dsimp only
  repeat' first
    | with_reducible assumption | with_reducible apply State.movePage_keeps
    | with_reducible refine State.movePage_keepsE (by assumption) ?_
    | with_reducible refine State.moveHome_keepsE (by assumption) ?_ | with_reducible refine Keeps.mapE (by assumption) ?_
    | with_reducible apply Keeps.ite | fail_if_no_progress (with_reducible refine Keeps.upd ?_ rfl rfl) | intro _ | split
    | dsimp only
theorem State.relocate_keepsE {s0 tK : State} {s : State} {a : Nat} {y : Bool} (hE : State.relocate s a = (tK, y)) (hK : Keeps s0 s) : Keeps s0 tK := by
  have k := State.relocate_keeps (s := s) (a := a) (hK := hK)
  rw [hE] at k
  exact k

theorem State.padUnit_keeps {s0 : State} {s : State} {die mode : Nat} (hK : Keeps s0 s) : Keeps s0 (State.padUnit s die mode) := by
  unfold State.padUnit
  try dsimp only
  repeat' first
    | with_reducible assumption | with_reducible refine Keeps.getD ?_ ?_ | with_reducible refine Keeps.getD₂ ?_ ?_
    | fail_if_no_progress (with_reducible refine Keeps.upd ?_ rfl rfl) | intro _ | split | dsimp only

theorem State.setBad_keeps {s0 : State} {s : State} {a : Nat} {b : Bool} (hK : Keeps s0 s) : Keeps s0 (State.setBad s a b) := by
  unfold State.setBad
  try dsimp only
  repeat' first
    | with_reducible assumption | fail_if_no_progress (with_reducible refine Keeps.upd ?_ rfl rfl) | intro _ | split | dsimp only

theorem State.failDie_keeps {s0 : State} {s : State} {ch die : Nat} (hK : Keeps s0 s) : Keeps s0 (State.failDie s ch die) := by
  unfold State.failDie
  try dsimp only
  repeat' first
    | with_reducible assumption | with_reducible apply State.logE_keeps | with_reducible apply State.reportLoss_keeps
    | with_reducible apply State.setBad_keeps | with_reducible apply State.padUnit_keeps
    | with_reducible refine Keeps.mapE (by assumption) ?_ | with_reducible apply Keeps.over | with_reducible apply Keeps.foldl
    | with_reducible apply Keeps.fold | with_reducible refine Keeps.foldE (by assumption) ?_ ?_ | with_reducible apply Keeps.ite
    | fail_if_no_progress (with_reducible refine Keeps.upd ?_ rfl rfl) | intro _ | split | dsimp only

theorem State.dieOpFailed_keeps {s0 : State} {s : State} {ch die : Nat} (hK : Keeps s0 s) : Keeps s0 (State.dieOpFailed s ch die) := by
  unfold State.dieOpFailed
  try dsimp only
  repeat' first
    | with_reducible assumption | with_reducible apply State.failDie_keeps | with_reducible refine Keeps.getD ?_ ?_
    | with_reducible refine Keeps.getD₂ ?_ ?_ | with_reducible apply Keeps.ite
    | fail_if_no_progress (with_reducible refine Keeps.upd ?_ rfl rfl) | intro _ | split | dsimp only

theorem State.endRead_keeps {s0 : State} {s : State} {a : Nat} (hK : Keeps s0 s) : Keeps s0 (State.endRead s a) := by
  unfold State.endRead
  try dsimp only
  repeat' first
    | with_reducible assumption | fail_if_no_progress (with_reducible refine Keeps.upd ?_ rfl rfl) | intro _ | split | dsimp only

theorem State.deliver_keeps {s0 : State} {s : State} {a key : Nat} (hK : Keeps s0 s) : Keeps s0 (State.deliver s a key) := by
  unfold State.deliver
  try dsimp only
  repeat' first
    | with_reducible assumption | with_reducible apply State.advance_keeps | with_reducible apply State.takeT0_keeps
    | with_reducible refine State.takeT0_keepsE (by assumption) ?_ | with_reducible apply State.fillT0_keeps
    | with_reducible apply State.newJob_keeps | with_reducible apply Keeps.ite | intro _ | split | dsimp only

theorem State.scrubNote_keeps {s0 : State} {s : State} {h : Nat} {a corrected : Nat} {rewritten failed damaged : Bool} (hK : Keeps s0 s) : Keeps s0 (State.scrubNote s h a corrected rewritten failed damaged) := by
  unfold State.scrubNote
  try dsimp only
  repeat' first
    | with_reducible assumption | with_reducible apply State.setBody_keeps | with_reducible apply State.ranTo_keeps
    | with_reducible apply State.setResults_keeps | with_reducible apply Keeps.ite | intro _ | split | dsimp only

theorem State.loseSlot_keeps {s0 : State} {s : State} {a : Nat} (hK : Keeps s0 s) : Keeps s0 (State.loseSlot s a) := by
  unfold State.loseSlot
  try dsimp only
  repeat' first
    | with_reducible assumption | with_reducible apply State.damage_keeps | with_reducible apply State.damagePageLine_keeps
    | with_reducible apply Keeps.over | intro _ | split | dsimp only

theorem State.readPassed_keeps {s0 : State} {s : State} {a : Nat} {r : FRead} {failed : Bool} {corrected : Nat} (hK : Keeps s0 s) : Keeps s0 (State.readPassed s a r failed corrected) := by
  unfold State.readPassed
  try dsimp only
  repeat' first
    | with_reducible assumption | with_reducible apply State.patrol_keeps | with_reducible apply State.relocate_keeps
    | with_reducible refine State.relocate_keepsE (by assumption) ?_ | with_reducible apply State.setBad_keeps
    | with_reducible apply State.endRead_keeps | with_reducible apply State.deliver_keeps
    | with_reducible apply State.scrubNote_keeps | with_reducible apply Keeps.ite | intro _ | split | dsimp only

theorem State.readLost_keeps {s0 : State} {s : State} {a : Nat} {r : FRead} (hK : Keeps s0 s) : Keeps s0 (State.readLost s a r) := by
  unfold State.readLost
  try dsimp only
  repeat' first
    | with_reducible assumption | with_reducible apply State.advance_keeps | with_reducible apply State.endRead_keeps
    | with_reducible apply State.scrubNote_keeps | with_reducible apply State.loseSlot_keeps | intro _ | split | dsimp only

theorem State.lateRead_keeps {s0 : State} {s : State} {a key : Nat} (hK : Keeps s0 s) : Keeps s0 (State.lateRead s a key) := by
  unfold State.lateRead
  try dsimp only
  repeat' first
    | with_reducible assumption | with_reducible apply State.logE_keeps
    | fail_if_no_progress (with_reducible refine Keeps.upd ?_ rfl rfl) | intro _ | split | dsimp only

theorem State.flashRead_keeps {s0 : State} {s : State} {a : Nat} {ok : Bool} {corrected : Nat} (hK : Keeps s0 s) : Keeps s0 (State.flashRead s a ok corrected) := by
  unfold State.flashRead
  try dsimp only
  repeat' first
    | with_reducible assumption | with_reducible apply State.patrol_keeps | with_reducible apply State.readPassed_keeps
    | with_reducible apply State.corrected_keeps | with_reducible apply State.setBad_keeps
    | with_reducible apply State.diverge_keeps | with_reducible apply State.takeIssue_keeps
    | with_reducible apply State.charge_keeps | with_reducible apply State.suspends_keeps
    | with_reducible apply State.dieOpFailed_keeps | with_reducible apply State.readLost_keeps
    | with_reducible apply State.lateRead_keeps | with_reducible apply Keeps.over | with_reducible apply Keeps.ite
    | fail_if_no_progress (with_reducible refine Keeps.upd ?_ rfl rfl) | intro _ | split | dsimp only

theorem execFlashReadComplete_keeps {t : State} {addr : Nat} {ok : Bool} {corrected : Nat} {s : State} (hE : execFlashReadComplete addr ok corrected s = .next t) : Keeps s t := by
  have hK := Keeps.refl s
  unfold execFlashReadComplete at hE
  cases hE
  try dsimp only
  repeat' first
    | with_reducible assumption | with_reducible apply State.flashRead_keeps | intro _ | split | dsimp only

theorem execSoftRetryComplete_keeps {t : State} {addr : Nat} {ok : Bool} {s : State} (hE : execSoftRetryComplete addr ok s = .next t) : Keeps s t := by
  have hK := Keeps.refl s
  unfold execSoftRetryComplete at hE
  cases hE
  try dsimp only
  repeat' first
    | with_reducible assumption | with_reducible apply State.patrol_keeps | with_reducible apply State.readPassed_keeps
    | with_reducible apply State.readLost_keeps | with_reducible apply Keeps.ite
    | fail_if_no_progress (with_reducible refine Keeps.upd ?_ rfl rfl) | intro _ | split | dsimp only

theorem execFlashPatrolRead_keeps {t : State} {addr : Nat} {ok : Bool} {corrected : Nat} {s : State} (hE : execFlashPatrolRead addr ok corrected s = .next t) : Keeps s t := by
  have hK := Keeps.refl s
  unfold execFlashPatrolRead at hE
  cases hE
  try dsimp only
  repeat' first
    | with_reducible assumption | with_reducible apply State.beginRead_keeps | with_reducible apply State.flashRead_keeps
    | with_reducible apply Keeps.ite | intro _ | split | dsimp only

theorem State.takeUnit_keepsE {s0 tK : State} {s : State} {die mode : Nat} {y : FUnit} (hE : State.takeUnit s die mode = some (tK, y)) (hK : Keeps s0 s) : Keeps s0 tK := by
  revert hE
  unfold State.takeUnit
  try dsimp only
  repeat' first
    | with_reducible assumption | (intro hE; cases hE; done) | (intro hE; cases hE) | with_reducible refine Keeps.getD ?_ ?_
    | with_reducible refine Keeps.getD₂ ?_ ?_ | fail_if_no_progress (with_reducible refine Keeps.upd ?_ rfl rfl) | dsimp only
    | split | intro _

theorem execFlashProgramComplete_keeps {t : State} {die mode : Nat} {s : State} (hE : execFlashProgramComplete die mode s = .next t) : Keeps s t := by
  have hK := Keeps.refl s
  unfold execFlashProgramComplete at hE
  cases hE
  try dsimp only
  repeat' first
    | with_reducible assumption | with_reducible refine State.takeUnit_keepsE (by assumption) ?_ | intro _ | split | dsimp only

theorem State.rewriteSlot_keeps {s0 : State} {s : State} {mode a : Nat} (hK : Keeps s0 s) : Keeps s0 (State.rewriteSlot s mode a) := by
  unfold State.rewriteSlot
  try dsimp only
  repeat' first
    | with_reducible assumption | with_reducible refine State.flashPut_keepsE (by assumption) ?_
    | with_reducible apply State.leaveT0_keeps | with_reducible refine Keeps.mapE (by assumption) ?_
    | with_reducible apply Keeps.ite | fail_if_no_progress (with_reducible refine Keeps.upd ?_ rfl rfl) | intro _ | split
    | dsimp only

theorem execFlashProgramFailure_keeps {t : State} {die mode ch : Nat} {s : State} (hE : execFlashProgramFailure die mode ch s = .next t) : Keeps s t := by
  have hK := Keeps.refl s
  unfold execFlashProgramFailure at hE
  cases hE
  try dsimp only
  repeat' first
    | with_reducible assumption | with_reducible refine State.takeUnit_keepsE (by assumption) ?_
    | with_reducible apply State.modBlock_keeps | with_reducible apply State.rewriteSlot_keeps
    | with_reducible apply State.dieOpFailed_keeps | with_reducible apply Keeps.over
    | fail_if_no_progress (with_reducible refine Keeps.upd ?_ rfl rfl) | intro _ | split | dsimp only

theorem execFlashEraseComplete_keeps {t : State} {group block : Nat} {failed : Option Nat} {s : State} (hE : execFlashEraseComplete group block failed s = .next t) : Keeps s t := by
  have hK := Keeps.refl s
  unfold execFlashEraseComplete at hE
  cases hE
  try dsimp only
  repeat' first
    | with_reducible assumption | with_reducible apply State.modBlock_keeps | with_reducible apply State.dieOpFailed_keeps
    | with_reducible apply Keeps.ite | fail_if_no_progress (with_reducible refine Keeps.upd ?_ rfl rfl) | intro _ | split
    | dsimp only

theorem execPadTimeout_keeps {t : State} {die mode : Nat} {s : State} (hE : execPadTimeout die mode s = .next t) : Keeps s t := by
  have hK := Keeps.refl s
  unfold execPadTimeout at hE
  cases hE
  try dsimp only
  repeat' first
    | with_reducible assumption | with_reducible apply State.padUnit_keeps | with_reducible apply Keeps.ite | intro _ | split
    | dsimp only

theorem execReclaimStart_keeps {t : State} {die mode : Nat} {s : State} (hE : execReclaimStart die mode s = .next t) : Keeps s t := by
  have hK := Keeps.refl s
  unfold execReclaimStart at hE
  cases hE
  try dsimp only
  repeat' first
    | with_reducible assumption | with_reducible apply State.modBlock_keeps | with_reducible refine Keeps.mapE (by assumption) ?_
    | with_reducible apply Keeps.ite | fail_if_no_progress (with_reducible refine Keeps.upd ?_ rfl rfl) | intro _ | split
    | dsimp only

theorem execWearLevel_keeps {t : State} {die mode : Nat} {s : State} (hE : execWearLevel die mode s = .next t) : Keeps s t := by
  have hK := Keeps.refl s
  unfold execWearLevel at hE
  cases hE
  try dsimp only
  repeat' first
    | with_reducible assumption | with_reducible apply State.modBlock_keeps | with_reducible apply Keeps.foldl
    | with_reducible apply Keeps.fold | with_reducible refine Keeps.foldE (by assumption) ?_ ?_ | with_reducible apply Keeps.ite
    | fail_if_no_progress (with_reducible refine Keeps.upd ?_ rfl rfl) | intro _ | split | dsimp only

theorem execFlashDieFailure_keeps {t : State} {channel die : Nat} {s : State} (hE : execFlashDieFailure channel die s = .next t) : Keeps s t := by
  have hK := Keeps.refl s
  unfold execFlashDieFailure at hE
  cases hE
  try dsimp only
  repeat' first
    | with_reducible assumption | with_reducible apply State.failDie_keeps | with_reducible apply Keeps.ite | intro _ | split
    | dsimp only

theorem State.flashBoundary_keeps {s0 : State} {s : State} (hK : Keeps s0 s) : Keeps s0 (State.flashBoundary s) := by
  unfold State.flashBoundary
  try dsimp only
  repeat' first
    | with_reducible assumption | with_reducible apply done_keeps | with_reducible refine done_keepsE (by assumption) ?_
    | with_reducible apply State.modBlock_keeps | with_reducible apply State.relocate_keeps
    | with_reducible refine State.relocate_keepsE (by assumption) ?_ | with_reducible apply Keeps.over
    | with_reducible apply Keeps.ite | fail_if_no_progress (with_reducible refine Keeps.upd ?_ rfl rfl) | intro _ | split
    | dsimp only

end Sys2Proof.Machine
end

