-- ==== Sys2Proof/Laws/KeepsIntegrity.lean ====
section
/-! SUPPORT. What the operations of Machine/Integrity.lean keep (Keeps), one lemma per operation. -/

set_option linter.unusedTactic false
set_option linter.unreachableTactic false

namespace Sys2Proof.Machine

theorem cLogRead_safe  : (cLogRead).Safe := by
  intro s o p
  have hK := Keeps.refl s
  unfold cLogRead
  try unfold shortCmd
  try unfold longCmd
  try dsimp only
  repeat' first
    | with_reducible assumption | with_reducible apply deny_keeps | with_reducible refine deny_keepsE (by assumption) ?_
    | with_reducible apply doneData_keeps | with_reducible refine doneData_keepsE (by assumption) ?_ | exact shortCmd_safe
    | exact shortCmd_safe | exact shortCmd_safe _ _ _ | with_reducible apply Keeps.ite | intro _ | split | dsimp only

theorem cLogRelease_safe  : (cLogRelease).Safe := by
  intro s o p
  have hK := Keeps.refl s
  unfold cLogRelease
  try unfold shortCmd
  try unfold longCmd
  try dsimp only
  repeat' first
    | with_reducible assumption | with_reducible apply done_keeps | with_reducible refine done_keepsE (by assumption) ?_
    | exact shortCmd_safe | with_reducible refine Keeps.mapE (by assumption) ?_
    | fail_if_no_progress (with_reducible refine Keeps.upd ?_ rfl rfl) | intro _ | split | dsimp only

theorem cFlipArm_safe  : (cFlipArm).Safe := by
  intro s o p
  have hK := Keeps.refl s
  unfold cFlipArm
  try unfold shortCmd
  try unfold longCmd
  try dsimp only
  repeat' first
    | with_reducible assumption | with_reducible apply done_keeps | with_reducible refine done_keepsE (by assumption) ?_
    | with_reducible apply deny_keeps | with_reducible refine deny_keepsE (by assumption) ?_ | exact shortCmd_safe
    | fail_if_no_progress (with_reducible refine Keeps.upd ?_ rfl rfl) | intro _ | split | dsimp only

theorem cFlipDisarm_safe  : (cFlipDisarm).Safe := by
  intro s o p
  have hK := Keeps.refl s
  unfold cFlipDisarm
  try unfold shortCmd
  try unfold longCmd
  try dsimp only
  repeat' first
    | with_reducible assumption | with_reducible apply done_keeps | with_reducible refine done_keepsE (by assumption) ?_
    | exact shortCmd_safe | fail_if_no_progress (with_reducible refine Keeps.upd ?_ rfl rfl) | intro _ | split | dsimp only

theorem cScrub_safe  : (cScrub).Safe := by
  intro s o p
  have hK := Keeps.refl s
  unfold cScrub
  try unfold shortCmd
  try unfold longCmd
  try dsimp only
  repeat' first
    | with_reducible assumption | with_reducible apply deny_keeps | with_reducible refine deny_keepsE (by assumption) ?_
    | exact longCmd_safe | exact longCmd_safe _ _ _ | with_reducible apply Keeps.ite | intro _ | split | dsimp only

theorem State.scrubAt_keepsE {s0 tK : State} {s : State} {l : Nat} {c : ScrubSum} {y : ScrubSum} (hE : State.scrubAt s l c = some (tK, y)) (hK : Keeps s0 s) : Keeps s0 tK := by
  revert hE
  unfold State.scrubAt
  try dsimp only
  repeat' first
    | with_reducible assumption | (intro hE; cases hE; done) | (intro hE; cases hE) | with_reducible apply State.modPc_keeps
    | with_reducible apply State.scrubLine_keeps | with_reducible refine State.scrubLine_keepsE (by assumption) ?_
    | with_reducible apply Keeps.ite | fail_if_no_progress (with_reducible refine Keeps.upd ?_ rfl rfl) | dsimp only | split
    | intro _

theorem State.scrubFrom_keeps {s0 : State} {s : State} {line : Nat → Nat} {i : Nat} {c : ScrubSum} {v0 : Nat} (hK : Keeps s0 s) : Keeps s0 (State.scrubFrom s line i c v0).1 := by
  induction v0 generalizing s line i c with
  | zero =>
    unfold State.scrubFrom
    all_goals try dsimp only
    repeat' first
      | with_reducible assumption | with_reducible refine State.scrubAt_keepsE (by assumption) ?_ | intro _ | split
      | dsimp only
  | succ _ ih =>
    unfold State.scrubFrom
    all_goals try dsimp only
    repeat' first
      | with_reducible assumption | with_reducible apply ih | with_reducible refine Keeps.ofEq (by assumption) (ih ?_)
      | with_reducible refine State.scrubAt_keepsE (by assumption) ?_ | intro _ | split | dsimp only
theorem State.scrubFrom_keepsE {s0 tK : State} {s : State} {line : Nat → Nat} {i : Nat} {c : ScrubSum} {v0 : Nat} {y : ScrubSum × Nat} (hE : State.scrubFrom s line i c v0 = (tK, y)) (hK : Keeps s0 s) : Keeps s0 tK := by
  have k := State.scrubFrom_keeps (s := s) (line := line) (i := i) (c := c) (v0 := v0) (hK := hK)
  rw [hE] at k
  exact k

theorem State.scrubSlice_keeps {s0 : State} {s : State} {h : Nat} {op : Op} (hK : Keeps s0 s) : Keeps s0 (State.scrubSlice s h op) := by
  unfold State.scrubSlice
  try dsimp only
  repeat' first
    | with_reducible assumption | with_reducible apply State.beginRead_keeps | with_reducible apply State.setBody_keeps
    | with_reducible apply State.endOp_keeps | with_reducible apply State.corrected_keeps
    | with_reducible apply State.scrubFrom_keeps | with_reducible refine State.scrubFrom_keepsE (by assumption) ?_
    | with_reducible apply State.setResults_keeps | with_reducible apply State.ranTo_keeps | with_reducible apply Keeps.ite
    | intro _ | split | dsimp only

theorem State.scrubFinal_keeps {s0 : State} {s : State} {op : Op} (hK : Keeps s0 s) : Keeps s0 (State.scrubFinal s op) := by
  unfold State.scrubFinal
  try dsimp only
  repeat' first
    | with_reducible assumption | with_reducible apply Keeps.emit | with_reducible apply Keeps.ite | intro _ | split | dsimp only

theorem cRetire_safe  : (cRetire).Safe := by
  intro s o p
  have hK := Keeps.refl s
  unfold cRetire
  try unfold shortCmd
  try unfold longCmd
  try dsimp only
  repeat' first
    | with_reducible assumption | with_reducible apply deny_keeps | with_reducible refine deny_keepsE (by assumption) ?_
    | exact longCmd_safe | exact longCmd_safe _ _ _ | with_reducible apply Keeps.ite | intro _ | split | dsimp only

theorem State.retirePart_keeps {s0 : State} {s : State} {kind part : Nat} (hK : Keeps s0 s) : Keeps s0 (State.retirePart s kind part) := by
  unfold State.retirePart
  try dsimp only
  repeat' first
    | with_reducible assumption | with_reducible apply State.logE_keeps | with_reducible apply State.modPc_keeps
    | with_reducible apply Keeps.over | with_reducible apply Keeps.ite
    | fail_if_no_progress (with_reducible refine Keeps.upd ?_ rfl rfl) | intro _ | split | dsimp only

theorem State.retireSlice_keeps {s0 : State} {s : State} {h kind part : Nat} {imm : Bool} {todo : List (Nat × Nat)} {started : Bool} (hK : Keeps s0 s) : Keeps s0 (State.retireSlice s h kind part imm todo started) := by
  unfold State.retireSlice
  try dsimp only
  repeat' first
    | with_reducible assumption | with_reducible apply State.logE_keeps | with_reducible apply State.modOp_keeps
    | with_reducible apply State.startSpare_keeps | with_reducible apply State.modPc_keeps
    | with_reducible apply State.startUnit_keeps | with_reducible apply State.setBody_keeps
    | with_reducible apply State.endOp_keeps | with_reducible apply State.failOp_keeps
    | with_reducible apply State.relocate_keeps | with_reducible refine State.relocate_keepsE (by assumption) ?_
    | with_reducible apply State.failDie_keeps | with_reducible refine Keeps.mapE (by assumption) ?_
    | with_reducible apply Keeps.over | with_reducible apply Keeps.foldl | with_reducible apply Keeps.fold
    | with_reducible refine Keeps.foldE (by assumption) ?_ ?_ | with_reducible apply Keeps.ite
    | fail_if_no_progress (with_reducible refine Keeps.upd ?_ rfl rfl) | intro _ | split | dsimp only

theorem State.retireEnd_keeps {s0 : State} {s : State} {h : Nat} {op : Op} (hK : Keeps s0 s) : Keeps s0 (State.retireEnd s h op) := by
  unfold State.retireEnd
  try dsimp only
  repeat' first
    | with_reducible assumption | with_reducible apply State.retirePart_keeps | with_reducible apply State.endOp_keeps
    | with_reducible apply State.endUnit_keeps | with_reducible refine State.endUnit_keepsE (by assumption) ?_
    | with_reducible apply State.setBody_keeps | with_reducible apply State.ranTo_keeps | with_reducible apply done_keeps
    | with_reducible refine done_keepsE (by assumption) ?_ | with_reducible apply Keeps.foldl | with_reducible apply Keeps.fold
    | with_reducible refine Keeps.foldE (by assumption) ?_ ?_ | with_reducible apply Keeps.ite | intro _ | split | dsimp only

theorem State.preempt_keeps {s0 : State} {s : State} {core : Nat} (hK : Keeps s0 s) : Keeps s0 (State.preempt s core).1 := by
  unfold State.preempt
  try dsimp only
  repeat' first
    | with_reducible assumption | with_reducible refine Keeps.mapE (by assumption) ?_ | with_reducible apply Keeps.ite
    | fail_if_no_progress (with_reducible refine Keeps.upd ?_ rfl rfl) | intro _ | split | dsimp only
theorem State.preempt_keepsE {s0 tK : State} {s : State} {core : Nat} {y : Nat} (hE : State.preempt s core = (tK, y)) (hK : Keeps s0 s) : Keeps s0 tK := by
  have k := State.preempt_keeps (s := s) (core := core) (hK := hK)
  rw [hE] at k
  exact k

theorem State.abortHeld_keeps {s0 : State} {s : State} {cmd : Option Nat} (hK : Keeps s0 s) : Keeps s0 (State.abortHeld s cmd) := by
  unfold State.abortHeld
  try dsimp only
  repeat' first
    | with_reducible assumption | with_reducible apply State.reply_keeps | with_reducible refine Keeps.mapE (by assumption) ?_
    | with_reducible refine Keeps.bindE (by assumption) ?_ | with_reducible refine Keeps.bindS (by assumption) ?_
    | with_reducible apply Keeps.ite | fail_if_no_progress (with_reducible refine Keeps.upd ?_ rfl rfl) | intro _ | split
    | dsimp only

theorem execWatchdogExpiry_keeps {t : State} {core : Nat} {cmd : Option Nat} {s : State} (hE : execWatchdogExpiry core cmd s = .next t) : Keeps s t := by
  have hK := Keeps.refl s
  unfold execWatchdogExpiry at hE
  cases hE
  try dsimp only
  repeat' first
    | with_reducible assumption | with_reducible apply State.preempt_keeps
    | with_reducible refine State.preempt_keepsE (by assumption) ?_ | with_reducible apply State.logE_keeps
    | with_reducible apply State.diverge_keeps | with_reducible apply State.abortHeld_keeps
    | with_reducible apply State.deviceFatal_keeps | with_reducible apply Keeps.ite
    | fail_if_no_progress (with_reducible refine Keeps.upd ?_ rfl rfl) | intro _ | split | dsimp only

theorem State.restartMgmt_keeps {s0 : State} {s : State} (hK : Keeps s0 s) : Keeps s0 (State.restartMgmt s) := by
  unfold State.restartMgmt
  try dsimp only
  repeat' first
    | with_reducible assumption | with_reducible apply State.spdm_keeps
    | fail_if_no_progress (with_reducible refine Keeps.upd ?_ rfl rfl) | intro _ | split | dsimp only

theorem execMgmtWatchdogExpiry_keeps {t : State} {s : State} (hE : execMgmtWatchdogExpiry s = .next t) : Keeps s t := by
  have hK := Keeps.refl s
  unfold execMgmtWatchdogExpiry at hE
  cases hE
  try dsimp only
  repeat' first
    | with_reducible assumption | with_reducible apply State.logE_keeps | with_reducible apply State.diverge_keeps
    | with_reducible apply State.restartMgmt_keeps | intro _ | split | dsimp only

theorem execManagementCoreRestartDone_keeps {t : State} {s : State} (hE : execManagementCoreRestartDone s = .next t) : Keeps s t := by
  have hK := Keeps.refl s
  unfold execManagementCoreRestartDone at hE
  cases hE
  try dsimp only
  repeat' first
    | with_reducible assumption | fail_if_no_progress (with_reducible refine Keeps.upd ?_ rfl rfl) | intro _ | split | dsimp only

theorem execScrub_keeps {t : State} {o : Origin} {p : Pkt} {s : State} (hE : execScrub o p s = .next t) : Keeps s t := by
  have hK := Keeps.refl s
  unfold execScrub at hE
  cases hE
  try dsimp only
  repeat' first
    | with_reducible assumption | with_reducible apply State.packet_keeps | exact cScrub_safe | intro _ | split | dsimp only

theorem execRetire_keeps {t : State} {o : Origin} {p : Pkt} {s : State} (hE : execRetire o p s = .next t) : Keeps s t := by
  have hK := Keeps.refl s
  unfold execRetire at hE
  cases hE
  try dsimp only
  repeat' first
    | with_reducible assumption | with_reducible apply State.packet_keeps | exact cRetire_safe | intro _ | split | dsimp only

theorem execFlipArm_keeps {t : State} {o : Origin} {p : Pkt} {s : State} (hE : execFlipArm o p s = .next t) : Keeps s t := by
  have hK := Keeps.refl s
  unfold execFlipArm at hE
  cases hE
  try dsimp only
  repeat' first
    | with_reducible assumption | with_reducible apply State.packet_keeps | exact cFlipArm_safe | intro _ | split | dsimp only

theorem execFlipDisarm_keeps {t : State} {o : Origin} {p : Pkt} {s : State} (hE : execFlipDisarm o p s = .next t) : Keeps s t := by
  have hK := Keeps.refl s
  unfold execFlipDisarm at hE
  cases hE
  try dsimp only
  repeat' first
    | with_reducible assumption | with_reducible apply State.packet_keeps | exact cFlipDisarm_safe | intro _ | split | dsimp only

theorem execLogRead_keeps {t : State} {o : Origin} {p : Pkt} {s : State} (hE : execLogRead o p s = .next t) : Keeps s t := by
  have hK := Keeps.refl s
  unfold execLogRead at hE
  cases hE
  try dsimp only
  repeat' first
    | with_reducible assumption | with_reducible apply State.packet_keeps | exact cLogRead_safe | intro _ | split | dsimp only

theorem execLogRelease_keeps {t : State} {o : Origin} {p : Pkt} {s : State} (hE : execLogRelease o p s = .next t) : Keeps s t := by
  have hK := Keeps.refl s
  unfold execLogRelease at hE
  cases hE
  try dsimp only
  repeat' first
    | with_reducible assumption | with_reducible apply State.packet_keeps | exact cLogRelease_safe | intro _ | split | dsimp only

end Sys2Proof.Machine
end

