-- ==== Sys2Proof/Laws/KeepsHerdState.lean ====
section
/-! SUPPORT. What the operations of Machine/HerdState.lean keep (Keeps), one lemma per operation. -/

set_option linter.unusedTactic false
set_option linter.unreachableTactic false

namespace Sys2Proof.Machine

theorem State.control_keeps {s0 : State} {s : State} {mop dst arg slots : Nat} {p : Pay} (hK : Keeps s0 s) : Keeps s0 (State.control s mop dst arg slots p) := by
  unfold State.control
  try dsimp only
  repeat' first
    | with_reducible assumption | with_reducible apply State.sendMsg_keeps
    | fail_if_no_progress (with_reducible refine Keeps.upd ?_ rfl rfl) | intro _ | split | dsimp only

theorem State.askRecords_keeps {s0 : State} {s : State} {notice : Nat} (hK : Keeps s0 s) : Keeps s0 (State.askRecords s notice) := by
  unfold State.askRecords
  try dsimp only
  repeat' first
    | with_reducible assumption | with_reducible apply State.control_keeps | with_reducible apply Keeps.ite | intro _ | split
    | dsimp only

theorem State.setCause_keeps {s0 : State} {s : State} {bit : Nat} {on : Bool} (hK : Keeps s0 s) : Keeps s0 (State.setCause s bit on) := by
  unfold State.setCause
  try dsimp only
  repeat' first
    | with_reducible assumption | with_reducible apply State.askRecords_keeps | with_reducible apply Keeps.ite
    | fail_if_no_progress (with_reducible refine Keeps.upd ?_ rfl rfl) | intro _ | split | dsimp only

end Sys2Proof.Machine
end

