-- ==== Sys2Proof/Laws/KeepsHerdLinks.lean ====
section
/-! SUPPORT. What the operations of Machine/HerdLinks.lean keep (Keeps), one lemma per operation. -/

set_option linter.unusedTactic false
set_option linter.unreachableTactic false

namespace Sys2Proof.Machine

theorem State.linkDown_keeps {s0 : State} {s : State} {n : Nat} (hK : Keeps s0 s) : Keeps s0 (State.linkDown s n) := by
  unfold State.linkDown
  try dsimp only
  repeat' first
    | with_reducible assumption | with_reducible apply State.modLink_keeps | with_reducible apply State.control_keeps
    | with_reducible apply State.logScaled_keeps | with_reducible apply Keeps.ite
    | fail_if_no_progress (with_reducible refine Keeps.upd ?_ rfl rfl) | intro _ | split | dsimp only

theorem State.resendFrom_keeps {s0 : State} {s : State} {n seq : Nat} (hK : Keeps s0 s) : Keeps s0 (State.resendFrom s n seq) := by
  unfold State.resendFrom
  try dsimp only
  repeat' first
    | with_reducible assumption | with_reducible apply State.modLink_keeps | with_reducible apply Keeps.emit
    | with_reducible apply Keeps.ite | fail_if_no_progress (with_reducible refine Keeps.upd ?_ rfl rfl) | intro _ | split
    | dsimp only

theorem State.linkActive_keeps {s0 : State} {s : State} {n : Nat} {x : Exchange} (hK : Keeps s0 s) : Keeps s0 (State.linkActive s n x) := by
  unfold State.linkActive
  try dsimp only
  repeat' first
    | with_reducible assumption | with_reducible apply State.modLink_keeps | with_reducible apply State.flushOut_keeps
    | with_reducible apply State.resendFrom_keeps | with_reducible apply Keeps.ite
    | fail_if_no_progress (with_reducible refine Keeps.upd ?_ rfl rfl) | intro _ | split | dsimp only

theorem State.trainStep_keeps {s0 : State} {s : State} {n : Nat} {x : Exchange} (hK : Keeps s0 s) : Keeps s0 (State.trainStep s n x) := by
  unfold State.trainStep
  try dsimp only
  repeat' first
    | with_reducible assumption | with_reducible apply State.modLink_keeps | with_reducible apply State.linkDown_keeps
    | with_reducible apply State.setCause_keeps | with_reducible apply State.logE_keeps
    | with_reducible apply State.linkActive_keeps | with_reducible apply State.logScaled_keeps
    | with_reducible apply Keeps.emit | with_reducible apply Keeps.ite
    | fail_if_no_progress (with_reducible refine Keeps.upd ?_ rfl rfl) | intro _ | split | dsimp only

theorem State.raiseReq_keeps {s0 : State} {s : State} {n req lanes : Nat} (hK : Keeps s0 s) : Keeps s0 (State.raiseReq s n req lanes) := by
  unfold State.raiseReq
  try dsimp only
  repeat' first
    | with_reducible assumption | with_reducible apply State.modLink_keeps | with_reducible apply Keeps.ite
    | fail_if_no_progress (with_reducible refine Keeps.upd ?_ rfl rfl) | intro _ | split | dsimp only

theorem State.peerReq_keeps {s0 : State} {s : State} {n : Nat} {b : SyncBlock} (hK : Keeps s0 s) : Keeps s0 (State.peerReq s n b) := by
  unfold State.peerReq
  try dsimp only
  repeat' first
    | with_reducible assumption | with_reducible apply State.modLink_keeps | with_reducible apply Keeps.ite
    | fail_if_no_progress (with_reducible refine Keeps.upd ?_ rfl rfl) | intro _ | split | dsimp only

theorem State.linksBoundary_keeps {s0 : State} {s : State} (hK : Keeps s0 s) : Keeps s0 (State.linksBoundary s) := by
  unfold State.linksBoundary
  try dsimp only
  repeat' first
    | with_reducible assumption | with_reducible apply State.modLink_keeps
    | with_reducible refine Keeps.mapE (by assumption) ?_ | with_reducible apply Keeps.over | with_reducible apply Keeps.ite
    | fail_if_no_progress (with_reducible refine Keeps.upd ?_ rfl rfl) | intro _ | split | dsimp only

theorem State.askReplay_keeps {s0 : State} {s : State} {n : Nat} (hK : Keeps s0 s) : Keeps s0 (State.askReplay s n) := by
  unfold State.askReplay
  try dsimp only
  repeat' first
    | with_reducible assumption | with_reducible apply State.modLink_keeps | with_reducible apply Keeps.emit
    | with_reducible apply Keeps.ite | fail_if_no_progress (with_reducible refine Keeps.upd ?_ rfl rfl) | intro _ | split
    | dsimp only

theorem State.flit_keeps {s0 : State} {s : State} {n : Nat} {f : Flit} (hK : Keeps s0 s) : Keeps s0 (State.flit s n f) := by
  unfold State.flit
  try dsimp only
  repeat' first
    | with_reducible assumption | with_reducible apply State.modLink_keeps | with_reducible apply State.askReplay_keeps
    | with_reducible apply State.flushOut_keeps | with_reducible apply Keeps.ite
    | fail_if_no_progress (with_reducible refine Keeps.upd ?_ rfl rfl) | intro _ | split | dsimp only

theorem State.strideLost_keeps {s0 : State} {s : State} {n dev : Nat} (hK : Keeps s0 s) : Keeps s0 (State.strideLost s n dev) := by
  unfold State.strideLost
  try dsimp only
  repeat' first
    | with_reducible assumption | with_reducible apply State.modLink_keeps | with_reducible apply State.control_keeps
    | with_reducible apply State.linkDown_keeps | fail_if_no_progress (with_reducible refine Keeps.upd ?_ rfl rfl) | intro _
    | split | dsimp only

theorem State.syncFwver_keeps {s0 : State} {s : State} {n : Nat} {b : SyncBlock} (hK : Keeps s0 s) : Keeps s0 (State.syncFwver s n b) := by
  unfold State.syncFwver
  try dsimp only
  repeat' first
    | with_reducible assumption | with_reducible apply State.modLink_keeps | with_reducible apply State.logOpen_keeps
    | with_reducible apply Keeps.ite | fail_if_no_progress (with_reducible refine Keeps.upd ?_ rfl rfl) | intro _ | split
    | dsimp only

theorem State.syncCompare_keeps {s0 : State} {s : State} {n : Nat} {b : SyncBlock} (hK : Keeps s0 s) : Keeps s0 (State.syncCompare s n b) := by
  unfold State.syncCompare
  try dsimp only
  repeat' first
    | with_reducible assumption | with_reducible apply State.strideLost_keeps | with_reducible apply State.syncFwver_keeps
    | with_reducible apply State.setCause_keeps | with_reducible apply State.askRecords_keeps | with_reducible apply Keeps.ite
    | fail_if_no_progress (with_reducible refine Keeps.upd ?_ rfl rfl) | intro _ | split | dsimp only

theorem State.syncReceive_keeps {s0 : State} {s : State} {n : Nat} {b : SyncBlock} (hK : Keeps s0 s) : Keeps s0 (State.syncReceive s n b) := by
  unfold State.syncReceive
  try dsimp only
  repeat' first
    | with_reducible assumption | with_reducible apply State.modLink_keeps | with_reducible apply State.askRecords_keeps
    | with_reducible apply State.peerReq_keeps | with_reducible apply State.syncCompare_keeps
    | with_reducible refine Keeps.mapE (by assumption) ?_ | with_reducible apply Keeps.ite
    | fail_if_no_progress (with_reducible refine Keeps.upd ?_ rfl rfl) | intro _ | split | dsimp only

theorem State.timeBoundary_keeps {s0 : State} {s : State} (hK : Keeps s0 s) : Keeps s0 (State.timeBoundary s) := by
  unfold State.timeBoundary
  try dsimp only
  repeat' first
    | with_reducible assumption | with_reducible apply State.freeWord_keeps
    | with_reducible refine State.freeWord_keepsE (by assumption) ?_ | with_reducible apply State.setCause_keeps
    | with_reducible apply Keeps.foldl | with_reducible apply Keeps.fold
    | with_reducible refine Keeps.foldE (by assumption) ?_ ?_ | with_reducible apply Keeps.ite
    | fail_if_no_progress (with_reducible refine Keeps.upd ?_ rfl rfl) | intro _ | split | dsimp only

theorem State.sendSyncs_keeps {s0 : State} {s : State} (hK : Keeps s0 s) : Keeps s0 (State.sendSyncs s) := by
  unfold State.sendSyncs
  try dsimp only
  repeat' first
    | with_reducible assumption | with_reducible apply State.modLink_keeps | with_reducible apply Keeps.emit
    | with_reducible apply Keeps.over | with_reducible apply Keeps.ite
    | fail_if_no_progress (with_reducible refine Keeps.upd ?_ rfl rfl) | intro _ | split | dsimp only

theorem State.linkLastMsg_keeps {s0 : State} {s : State} {m : Msg} (hK : Keeps s0 s) : Keeps s0 (State.linkLastMsg s m) := by
  unfold State.linkLastMsg
  try dsimp only
  repeat' first
    | with_reducible assumption | with_reducible apply State.modLink_keeps | with_reducible apply State.flushOut_keeps
    | with_reducible refine Keeps.mapE (by assumption) ?_ | fail_if_no_progress (with_reducible refine Keeps.upd ?_ rfl rfl)
    | intro _ | split | dsimp only

theorem execSyncBlockReceive_keeps {t : State} {link : Nat} {bytes : List Byte} {arrival : Int} {s : State} (hE : execSyncBlockReceive link bytes arrival s = .next t) : Keeps s t := by
  have hK := Keeps.refl s
  unfold execSyncBlockReceive at hE
  cases hE
  try dsimp only
  repeat' first
    | with_reducible assumption | with_reducible apply State.syncReceive_keeps | intro _ | split | dsimp only

theorem execFlitReceive_keeps {t : State} {link : Nat} {f : Flit} {s : State} (hE : execFlitReceive link f s = .next t) : Keeps s t := by
  have hK := Keeps.refl s
  unfold execFlitReceive at hE
  cases hE
  try dsimp only
  repeat' first
    | with_reducible assumption | with_reducible apply State.flit_keeps | intro _ | split | dsimp only

theorem execRetryReqReceive_keeps {t : State} {link fseq : Nat} {s : State} (hE : execRetryReqReceive link fseq s = .next t) : Keeps s t := by
  have hK := Keeps.refl s
  unfold execRetryReqReceive at hE
  cases hE
  try dsimp only
  repeat' first
    | with_reducible assumption | with_reducible apply State.resendFrom_keeps | with_reducible apply Keeps.ite | intro _ | split
    | dsimp only

theorem execLinkStateTimeout_keeps {t : State} {link : Nat} {s : State} (hE : execLinkStateTimeout link s = .next t) : Keeps s t := by
  have hK := Keeps.refl s
  unfold execLinkStateTimeout at hE
  cases hE
  try dsimp only
  repeat' first
    | with_reducible assumption | with_reducible apply State.linkDown_keeps | with_reducible apply Keeps.ite | intro _ | split
    | dsimp only

theorem execLinkTrainStepComplete_keeps {t : State} {link : Nat} {x : Exchange} {s : State} (hE : execLinkTrainStepComplete link x s = .next t) : Keeps s t := by
  have hK := Keeps.refl s
  unfold execLinkTrainStepComplete at hE
  cases hE
  try dsimp only
  repeat' first
    | with_reducible assumption | with_reducible apply State.trainStep_keeps | with_reducible apply Keeps.ite | intro _ | split
    | dsimp only

theorem execLinkRecoverEntry_keeps {t : State} {link : Nat} {width : Bool} {lanes : Nat} {s : State} (hE : execLinkRecoverEntry link width lanes s = .next t) : Keeps s t := by
  have hK := Keeps.refl s
  unfold execLinkRecoverEntry at hE
  cases hE
  try dsimp only
  repeat' first
    | with_reducible assumption | with_reducible apply State.raiseReq_keeps | with_reducible apply Keeps.ite | intro _ | split
    | dsimp only

theorem execLinkDown_keeps {t : State} {link : Nat} {s : State} (hE : execLinkDown link s = .next t) : Keeps s t := by
  have hK := Keeps.refl s
  unfold execLinkDown at hE
  cases hE
  try dsimp only
  repeat' first
    | with_reducible assumption | with_reducible apply State.linkDown_keeps | with_reducible apply Keeps.ite | intro _ | split
    | dsimp only

theorem cLinkCtrl_safe  : (cLinkCtrl).Safe := by
  intro s o p
  have hK := Keeps.refl s
  unfold cLinkCtrl
  try unfold shortCmd
  try unfold longCmd
  try dsimp only
  repeat' first
    | with_reducible assumption | with_reducible apply done_keeps | with_reducible refine done_keepsE (by assumption) ?_
    | with_reducible apply deny_keeps | with_reducible refine deny_keepsE (by assumption) ?_
    | with_reducible apply State.modLink_keeps | with_reducible apply State.linkDown_keeps
    | with_reducible apply State.raiseReq_keeps | exact shortCmd_safe | exact shortCmd_safe _ _ _
    | with_reducible apply Keeps.ite | fail_if_no_progress (with_reducible refine Keeps.upd ?_ rfl rfl) | intro _ | split
    | dsimp only

theorem execLinkCtrl_keeps {t : State} {o : Origin} {p : Pkt} {s : State} (hE : execLinkCtrl o p s = .next t) : Keeps s t := by
  have hK := Keeps.refl s
  unfold execLinkCtrl at hE
  cases hE
  try dsimp only
  repeat' first
    | with_reducible assumption | with_reducible apply State.packet_keeps | exact cLinkCtrl_safe | intro _ | split | dsimp only

end Sys2Proof.Machine
end

