-- ==== Sys2Proof/Laws/KeepsHerdMsgs.lean ====
section
/-! SUPPORT. What the operations of Machine/HerdMsgs.lean keep (Keeps), one lemma per operation. -/

set_option linter.unusedTactic false
set_option linter.unreachableTactic false

namespace Sys2Proof.Machine

theorem State.later_keeps {s0 : State} {s : State} {m : Msg} (hK : Keeps s0 s) : Keeps s0 (State.later s m) := by
  unfold State.later
  try dsimp only
  repeat' first
    | with_reducible assumption | fail_if_no_progress (with_reducible refine Keeps.upd ?_ rfl rfl) | intro _ | split | dsimp only

theorem State.farAccess_keeps {s0 : State} {s : State} {m : Msg} {slot line : Nat} {kind : AccKind} {t : Target} (hK : Keeps s0 s) : Keeps s0 (State.farAccess s m slot line kind t) := by
  unfold State.farAccess
  try dsimp only
  repeat' first
    | with_reducible assumption | with_reducible apply State.remoteSharer_keeps
    | with_reducible refine State.remoteSharer_keepsE (by assumption) ?_ | with_reducible apply State.arrive_keeps
    | with_reducible apply Keeps.ite | intro _ | split | dsimp only

theorem State.takeRdLine_keeps {s0 : State} {s : State} {slot : Nat} {m : Msg} (hK : Keeps s0 s) : Keeps s0 (State.takeRdLine s slot m) := by
  unfold State.takeRdLine
  try dsimp only
  repeat' first
    | with_reducible assumption | with_reducible apply State.sendCmp_keeps | with_reducible apply State.setDir_keeps
    | with_reducible apply State.remoteSharer_keeps | with_reducible refine State.remoteSharer_keepsE (by assumption) ?_
    | with_reducible apply State.advance_keeps | with_reducible apply State.farAccess_keeps
    | fail_if_no_progress (with_reducible refine Keeps.upd ?_ rfl rfl) | intro _ | split | dsimp only

theorem State.homeCopy_keeps {s0 : State} {s : State} {slot plate : Nat} (hK : Keeps s0 s) : Keeps s0 (State.homeCopy s slot plate).1 := by
  unfold State.homeCopy
  try dsimp only
  repeat' first
    | with_reducible assumption | with_reducible apply State.expandHome_keeps
    | with_reducible refine State.expandHome_keepsE (by assumption) ?_ | with_reducible apply Keeps.ite | intro _ | split
    | dsimp only
theorem State.homeCopy_keepsE {s0 tK : State} {s : State} {slot plate : Nat} {y : List Byte × List Nat} (hE : State.homeCopy s slot plate = (tK, y)) (hK : Keeps s0 s) : Keeps s0 tK := by
  have k := State.homeCopy_keeps (s := s) (slot := slot) (plate := plate) (hK := hK)
  rw [hE] at k
  exact k

theorem State.takeRdPlate_keeps {s0 : State} {s : State} {slot : Nat} {m : Msg} (hK : Keeps s0 s) : Keeps s0 (State.takeRdPlate s slot m) := by
  unfold State.takeRdPlate
  try dsimp only
  repeat' first
    | with_reducible assumption | with_reducible apply State.sendData_keeps | with_reducible apply State.copyOf_keeps
    | with_reducible refine State.copyOf_keepsE (by assumption) ?_ | with_reducible apply State.clearLines_keeps
    | with_reducible refine State.clearLines_keepsE (by assumption) ?_ | with_reducible apply State.later_keeps
    | with_reducible apply State.homeCopy_keeps | with_reducible refine State.homeCopy_keepsE (by assumption) ?_
    | with_reducible apply Keeps.ite | intro _ | split | dsimp only

theorem State.takeWrLine_keeps {s0 : State} {s : State} {slot : Nat} {m : Msg} (hK : Keeps s0 s) : Keeps s0 (State.takeWrLine s slot m) := by
  unfold State.takeWrLine
  try dsimp only
  repeat' first
    | with_reducible assumption | with_reducible apply State.farAccess_keeps | intro _ | split | dsimp only

theorem State.takeContrib_keeps {s0 : State} {s : State} {slot : Nat} {m : Msg} (hK : Keeps s0 s) : Keeps s0 (State.takeContrib s slot m) := by
  unfold State.takeContrib
  try dsimp only
  repeat' first
    | with_reducible assumption | with_reducible apply State.sendCmp_keeps | with_reducible apply State.arrive_keeps
    | with_reducible refine Keeps.bindE (by assumption) ?_ | with_reducible refine Keeps.bindS (by assumption) ?_
    | with_reducible apply Keeps.ite | intro _ | split | dsimp only

theorem State.takeMirror_keeps {s0 : State} {s : State} {slot : Nat} {m : Msg} (hK : Keeps s0 s) : Keeps s0 (State.takeMirror s slot m) := by
  unfold State.takeMirror
  try dsimp only
  repeat' first
    | with_reducible assumption | with_reducible apply State.sendCmp_keeps | with_reducible apply State.writePlateLine_keeps
    | with_reducible refine State.writePlateLine_keepsE (by assumption) ?_ | with_reducible apply State.later_keeps
    | with_reducible refine Keeps.someIf (by assumption) ?_ | with_reducible apply Keeps.ite
    | fail_if_no_progress (with_reducible refine Keeps.upd ?_ rfl rfl) | intro _ | split | dsimp only

theorem State.takeDoneNote_keeps {s0 : State} {s : State} {slot : Nat} {m : Msg} (hK : Keeps s0 s) : Keeps s0 (State.takeDoneNote s slot m) := by
  unfold State.takeDoneNote
  try dsimp only
  repeat' first
    | with_reducible assumption | with_reducible refine Keeps.mapE (by assumption) ?_
    | fail_if_no_progress (with_reducible refine Keeps.upd ?_ rfl rfl) | intro _ | split | dsimp only

theorem State.takeDirtyMark_keeps {s0 : State} {s : State} {slot : Nat} {m : Msg} (hK : Keeps s0 s) : Keeps s0 (State.takeDirtyMark s slot m) := by
  unfold State.takeDirtyMark
  try dsimp only
  repeat' first
    | with_reducible assumption | with_reducible apply State.sendCmp_keeps | with_reducible apply Keeps.ite
    | fail_if_no_progress (with_reducible refine Keeps.upd ?_ rfl rfl) | intro _ | split | dsimp only

theorem State.addParity_keeps {s0 : State} {s : State} {slot pplate j i : Nat} {delta : List Byte} (hK : Keeps s0 s) : Keeps s0 (State.addParity s slot pplate j i delta).1 := by
  unfold State.addParity
  try dsimp only
  repeat' first
    | with_reducible assumption | with_reducible apply State.writeT0_keeps | with_reducible apply State.readT0Plate_keeps
    | with_reducible refine State.readT0Plate_keepsE (by assumption) ?_ | with_reducible apply State.bringIn_keeps
    | with_reducible refine State.bringIn_keepsE (by assumption) ?_ | with_reducible apply State.noteWrite_keeps | intro _
    | split | dsimp only
theorem State.addParity_keepsE {s0 tK : State} {s : State} {slot pplate j i : Nat} {delta : List Byte} {y : Bool} (hE : State.addParity s slot pplate j i delta = (tK, y)) (hK : Keeps s0 s) : Keeps s0 tK := by
  have k := State.addParity_keeps (s := s) (slot := slot) (pplate := pplate) (j := j) (i := i) (delta := delta) (hK := hK)
  rw [hE] at k
  exact k

theorem State.takeParityDelta_keeps {s0 : State} {s : State} {slot : Nat} {m : Msg} (hK : Keeps s0 s) : Keeps s0 (State.takeParityDelta s slot m) := by
  unfold State.takeParityDelta
  try dsimp only
  repeat' first
    | with_reducible assumption | with_reducible apply State.sendCmp_keeps | with_reducible apply State.later_keeps
    | with_reducible apply State.addParity_keeps | with_reducible refine State.addParity_keepsE (by assumption) ?_
    | with_reducible apply Keeps.foldl | with_reducible apply Keeps.fold
    | with_reducible refine Keeps.foldE (by assumption) ?_ ?_ | with_reducible apply Keeps.ite
    | fail_if_no_progress (with_reducible refine Keeps.upd ?_ rfl rfl) | intro _ | split | dsimp only

theorem State.takeTableRec_keeps {s0 : State} {s : State} {m : Msg} (hK : Keeps s0 s) : Keeps s0 (State.takeTableRec s m) := by
  unfold State.takeTableRec
  try dsimp only
  repeat' first
    | with_reducible assumption | with_reducible apply State.sendCmp_keeps
    | fail_if_no_progress (with_reducible refine Keeps.upd ?_ rfl rfl) | intro _ | split | dsimp only

theorem State.localTable_keeps {s0 : State} {s : State} {key : Nat} (hK : Keeps s0 s) : Keeps s0 (State.localTable s key).1 := by
  unfold State.localTable
  try dsimp only
  repeat' first
    | with_reducible assumption | with_reducible apply Keeps.ite
    | fail_if_no_progress (with_reducible refine Keeps.upd ?_ rfl rfl) | intro _ | split | dsimp only
theorem State.localTable_keepsE {s0 tK : State} {s : State} {key : Nat} {y : Option Nat} (hE : State.localTable s key = (tK, y)) (hK : Keeps s0 s) : Keeps s0 tK := by
  have k := State.localTable_keeps (s := s) (key := key) (hK := hK)
  rw [hE] at k
  exact k

theorem State.registerTable_keeps {s0 : State} {s : State} {key : Nat} {rec' : List Byte} (hK : Keeps s0 s) : Keeps s0 (State.registerTable s key rec').1 := by
  unfold State.registerTable
  try dsimp only
  repeat' first
    | with_reducible assumption | with_reducible apply State.takeTable_keeps
    | fail_if_no_progress (with_reducible refine Keeps.upd ?_ rfl rfl) | intro _ | split | dsimp only
theorem State.registerTable_keepsE {s0 tK : State} {s : State} {key : Nat} {rec' : List Byte} {y : Option Nat} (hE : State.registerTable s key rec' = (tK, y)) (hK : Keeps s0 s) : Keeps s0 tK := by
  have k := State.registerTable_keeps (s := s) (key := key) (rec' := rec') (hK := hK)
  rw [hE] at k
  exact k

theorem State.adoptPlate_keeps {s0 : State} {s : State} {slot : Nat} {m : Msg} (hK : Keeps s0 s) : Keeps s0 (State.adoptPlate s slot m).1 := by
  unfold State.adoptPlate
  try dsimp only
  repeat' first
    | with_reducible assumption | with_reducible apply State.localTable_keeps
    | with_reducible refine State.localTable_keepsE (by assumption) ?_ | with_reducible apply State.registerTable_keeps
    | with_reducible refine State.registerTable_keepsE (by assumption) ?_ | with_reducible refine Keeps.mapE (by assumption) ?_
    | with_reducible refine Keeps.bindE (by assumption) ?_ | with_reducible refine Keeps.bindS (by assumption) ?_
    | with_reducible apply Keeps.ite | intro _ | split | dsimp only
theorem State.adoptPlate_keepsE {s0 tK : State} {s : State} {slot : Nat} {m : Msg} {y : Encoded × List Nat} (hE : State.adoptPlate s slot m = (tK, y)) (hK : Keeps s0 s) : Keeps s0 tK := by
  have k := State.adoptPlate_keeps (s := s) (slot := slot) (m := m) (hK := hK)
  rw [hE] at k
  exact k

theorem State.takePlaceMove_keeps {s0 : State} {s : State} {slot : Nat} {m : Msg} (hK : Keeps s0 s) : Keeps s0 (State.takePlaceMove s slot m) := by
  unfold State.takePlaceMove
  try dsimp only
  repeat' first
    | with_reducible assumption | with_reducible apply State.placeOne_keeps
    | with_reducible refine State.placeOne_keepsE (by assumption) ?_ | with_reducible apply State.later_keeps
    | with_reducible apply State.sendCmp_keeps | with_reducible apply Keeps.ite | intro _ | split | dsimp only

theorem State.storeMoved_keeps {s0 : State} {s : State} {slot : Nat} {m : Msg} (hK : Keeps s0 s) : Keeps s0 (State.storeMoved s slot m) := by
  unfold State.storeMoved
  try dsimp only
  repeat' first
    | with_reducible assumption | with_reducible apply State.dropCopy_keeps | with_reducible apply State.forget_keeps
    | with_reducible apply State.adoptPlate_keeps | with_reducible refine State.adoptPlate_keepsE (by assumption) ?_
    | with_reducible refine State.storeTo_keepsE (by assumption) ?_ | with_reducible apply State.sendCmp_keeps
    | with_reducible apply State.setEnt_keeps | with_reducible refine Keeps.mapE (by assumption) ?_
    | with_reducible refine Keeps.findE (by assumption) ?_ | with_reducible apply Keeps.ite | intro _ | split | dsimp only

theorem State.takePlateMove_keeps {s0 : State} {s : State} {slot : Nat} {m : Msg} (hK : Keeps s0 s) : Keeps s0 (State.takePlateMove s slot m) := by
  unfold State.takePlateMove
  try dsimp only
  repeat' first
    | with_reducible assumption | with_reducible apply State.takePlaceMove_keeps | with_reducible apply State.storeMoved_keeps
    | with_reducible apply Keeps.ite | intro _ | split | dsimp only

theorem State.movePlate_keeps {s0 : State} {s : State} {slot plate dev : Nat} {had : List (Nat × Nat)} (hK : Keeps s0 s) : Keeps s0 (State.movePlate s slot plate dev had).1 := by
  unfold State.movePlate
  try dsimp only
  repeat' first
    | with_reducible assumption | with_reducible apply State.plateCopy_keeps
    | with_reducible refine State.plateCopy_keepsE (by assumption) ?_ | with_reducible apply State.countEncode_keeps
    | with_reducible apply State.chargeHome_keeps | with_reducible apply State.readHome_keeps
    | with_reducible refine State.readHome_keepsE (by assumption) ?_ | with_reducible apply State.damage_keeps
    | with_reducible apply State.request_keeps | with_reducible refine Keeps.mapE (by assumption) ?_
    | with_reducible refine Keeps.someIf (by assumption) ?_ | with_reducible refine Keeps.getD ?_ ?_
    | with_reducible refine Keeps.getD₂ ?_ ?_ | with_reducible apply Keeps.ite
    | fail_if_no_progress (with_reducible refine Keeps.upd ?_ rfl rfl) | intro _ | split | dsimp only
theorem State.movePlate_keepsE {s0 tK : State} {s : State} {slot plate dev : Nat} {had : List (Nat × Nat)} {y : Option (Nat × Nat)} (hE : State.movePlate s slot plate dev had = (tK, y)) (hK : Keeps s0 s) : Keeps s0 tK := by
  have k := State.movePlate_keeps (s := s) (slot := slot) (plate := plate) (dev := dev) (had := had) (hK := hK)
  rw [hE] at k
  exact k

theorem State.tellRow_keeps {s0 : State} {s : State} {slot : Nat} {r : HdomRec} {plate mop : Nat} (hK : Keeps s0 s) : Keeps s0 (State.tellRow s slot r plate mop) := by
  unfold State.tellRow
  try dsimp only
  repeat' first
    | with_reducible assumption | with_reducible apply State.sendMsg_keeps | with_reducible apply Keeps.over
    | fail_if_no_progress (with_reducible refine Keeps.upd ?_ rfl rfl) | intro _ | split | dsimp only

theorem State.grantLock_keeps {s0 : State} {s : State} {l : StripeLock} (hK : Keeps s0 s) : Keeps s0 (State.grantLock s l) := by
  unfold State.grantLock
  try dsimp only
  repeat' first
    | with_reducible assumption | with_reducible apply State.sendMsg_keeps | with_reducible apply State.tellRow_keeps
    | fail_if_no_progress (with_reducible refine Keeps.upd ?_ rfl rfl) | intro _ | split | dsimp only

theorem State.putLock_keeps {s0 : State} {s : State} {l : StripeLock} (hK : Keeps s0 s) : Keeps s0 (State.putLock s l) := by
  unfold State.putLock
  try dsimp only
  repeat' first
    | with_reducible assumption | with_reducible apply Keeps.ite
    | fail_if_no_progress (with_reducible refine Keeps.upd ?_ rfl rfl) | intro _ | split | dsimp only

theorem State.takeLockReq_keeps {s0 : State} {s : State} {slot : Nat} {m : Msg} (hK : Keeps s0 s) : Keeps s0 (State.takeLockReq s slot m) := by
  unfold State.takeLockReq
  try dsimp only
  repeat' first
    | with_reducible assumption | with_reducible apply State.grantLock_keeps | with_reducible apply State.putLock_keeps
    | fail_if_no_progress (with_reducible refine Keeps.upd ?_ rfl rfl) | intro _ | split | dsimp only

theorem State.dropLock_keeps {s0 : State} {s : State} {l : StripeLock} (hK : Keeps s0 s) : Keeps s0 (State.dropLock s l) := by
  unfold State.dropLock
  try dsimp only
  repeat' first
    | with_reducible assumption | with_reducible apply State.tellRow_keeps | with_reducible apply State.grantLock_keeps
    | with_reducible apply State.putLock_keeps | fail_if_no_progress (with_reducible refine Keeps.upd ?_ rfl rfl) | intro _
    | split | dsimp only

theorem State.takeLockRel_keeps {s0 : State} {s : State} {slot : Nat} {m : Msg} (hK : Keeps s0 s) : Keeps s0 (State.takeLockRel s slot m) := by
  unfold State.takeLockRel
  try dsimp only
  repeat' first
    | with_reducible assumption | with_reducible apply State.dropLock_keeps | with_reducible apply Keeps.ite
    | fail_if_no_progress (with_reducible refine Keeps.upd ?_ rfl rfl) | intro _ | split | dsimp only

theorem State.sendRel_keeps {s0 : State} {s : State} {slot plate keeper : Nat} (hK : Keeps s0 s) : Keeps s0 (State.sendRel s slot plate keeper) := by
  unfold State.sendRel
  try dsimp only
  repeat' first
    | with_reducible assumption | with_reducible apply State.sendMsg_keeps
    | fail_if_no_progress (with_reducible refine Keeps.upd ?_ rfl rfl) | intro _ | split | dsimp only

theorem State.finishRebuild_keeps {s0 : State} {s : State} {key : Nat} {rb : Rebuild} (hK : Keeps s0 s) : Keeps s0 (State.finishRebuild s key rb) := by
  unfold State.finishRebuild
  try dsimp only
  repeat' first
    | with_reducible assumption | with_reducible apply State.advance_keeps
    | with_reducible refine State.storeTo_keepsE (by assumption) ?_ | with_reducible apply State.setEnt_keeps
    | with_reducible refine Keeps.mapE (by assumption) ?_ | with_reducible refine Keeps.findE (by assumption) ?_
    | with_reducible refine Keeps.getD ?_ ?_ | with_reducible refine Keeps.getD₂ ?_ ?_ | with_reducible apply Keeps.ite
    | fail_if_no_progress (with_reducible refine Keeps.upd ?_ rfl rfl) | intro _ | split | dsimp only

theorem State.addPart_keeps {s0 : State} {s : State} {key x : Nat} {d : List Byte} {bad : List Nat} (hK : Keeps s0 s) : Keeps s0 (State.addPart s key x d bad) := by
  unfold State.addPart
  try dsimp only
  repeat' first
    | with_reducible assumption | with_reducible apply State.sendRel_keeps | with_reducible apply State.finishRebuild_keeps
    | with_reducible apply Keeps.ite | fail_if_no_progress (with_reducible refine Keeps.upd ?_ rfl rfl) | intro _ | split
    | dsimp only

theorem State.readRow_keeps {s0 : State} {s : State} {key : Nat} {rb : Rebuild} {marked : Bool} (hK : Keeps s0 s) : Keeps s0 (State.readRow s key rb marked) := by
  unfold State.readRow
  try dsimp only
  repeat' first
    | with_reducible assumption | with_reducible apply State.setEnt_keeps | with_reducible apply State.request_keeps
    | with_reducible apply State.plateCopy_keeps | with_reducible refine State.plateCopy_keepsE (by assumption) ?_
    | with_reducible apply State.advance_keeps | with_reducible apply State.homeCopy_keeps
    | with_reducible refine State.homeCopy_keepsE (by assumption) ?_ | with_reducible apply State.sendRel_keeps
    | with_reducible apply State.addPart_keeps | with_reducible refine Keeps.mapE (by assumption) ?_
    | with_reducible apply Keeps.over | with_reducible apply Keeps.ite
    | fail_if_no_progress (with_reducible refine Keeps.upd ?_ rfl rfl) | intro _ | split | dsimp only

theorem State.takeLockGrant_keeps {s0 : State} {s : State} {slot : Nat} {m : Msg} (hK : Keeps s0 s) : Keeps s0 (State.takeLockGrant s slot m) := by
  unfold State.takeLockGrant
  try dsimp only
  repeat' first
    | with_reducible assumption | with_reducible apply State.readRow_keeps | with_reducible apply Keeps.ite
    | fail_if_no_progress (with_reducible refine Keeps.upd ?_ rfl rfl) | intro _ | split | dsimp only

theorem State.reissue_keeps {s0 : State} {s : State} {id : Nat} (hK : Keeps s0 s) : Keeps s0 (State.reissue s id) := by
  unfold State.reissue
  try dsimp only
  repeat' first
    | with_reducible assumption | with_reducible apply State.tryAccess_keeps
    | fail_if_no_progress (with_reducible refine Keeps.upd ?_ rfl rfl) | intro _ | split | dsimp only

theorem State.farDone_keeps {s0 : State} {s : State} {id : Nat} {d : List Byte} {poison : Bool} (hK : Keeps s0 s) : Keeps s0 (State.farDone s id d poison) := by
  unfold State.farDone
  try dsimp only
  repeat' first
    | with_reducible assumption | with_reducible apply State.complete_keeps | with_reducible apply State.sendAcks_keeps
    | with_reducible apply State.advance_keeps | fail_if_no_progress (with_reducible refine Keeps.upd ?_ rfl rfl) | intro _
    | split | dsimp only

theorem State.mirrored_keeps {s0 : State} {s : State} {id : Nat} (hK : Keeps s0 s) : Keeps s0 (State.mirrored s id) := by
  unfold State.mirrored
  try dsimp only
  repeat' first
    | with_reducible assumption | with_reducible apply State.complete_keeps | with_reducible apply State.doneNote_keeps
    | with_reducible apply State.sendAcks_keeps | with_reducible apply State.advance_keeps
    | fail_if_no_progress (with_reducible refine Keeps.upd ?_ rfl rfl) | intro _ | split | dsimp only

theorem State.standbyStep_keeps {s0 : State} {s : State} {h status : Nat} (hK : Keeps s0 s) : Keeps s0 (State.standbyStep s h status) := by
  unfold State.standbyStep
  try dsimp only
  repeat' first
    | with_reducible assumption | with_reducible apply State.modOp_keeps | with_reducible apply Keeps.ite
    | fail_if_no_progress (with_reducible refine Keeps.upd ?_ rfl rfl) | intro _ | split | dsimp only

theorem State.moveFailed_keeps {s0 : State} {s : State} {key dev : Nat} (hK : Keeps s0 s) : Keeps s0 (State.moveFailed s key dev) := by
  unfold State.moveFailed
  try dsimp only
  repeat' first
    | with_reducible assumption | with_reducible refine Keeps.mapE (by assumption) ?_ | with_reducible apply Keeps.ite
    | fail_if_no_progress (with_reducible refine Keeps.upd ?_ rfl rfl) | intro _ | split | dsimp only

theorem State.againOwn_keeps {s0 : State} {s : State} {t : Txn} (hK : Keeps s0 s) : Keeps s0 (State.againOwn s t) := by
  unfold State.againOwn
  try dsimp only
  repeat' first
    | with_reducible assumption | with_reducible apply State.preserve_keeps | with_reducible apply State.ownWrite_keeps
    | with_reducible refine Keeps.someIf (by assumption) ?_ | with_reducible apply Keeps.ite | intro _ | split | dsimp only

theorem State.endTxn_keeps {s0 : State} {s : State} {t : Txn} {status : Nat} (hK : Keeps s0 s) : Keeps s0 (State.endTxn s t status) := by
  unfold State.endTxn
  try dsimp only
  repeat' first
    | with_reducible assumption | with_reducible apply State.reissue_keeps | with_reducible apply State.farDone_keeps
    | with_reducible apply State.againOwn_keeps | with_reducible apply State.advance_keeps
    | with_reducible apply State.mirrored_keeps | with_reducible apply State.sendRel_keeps
    | with_reducible apply State.moveFailed_keeps | with_reducible apply State.standbyStep_keeps
    | with_reducible apply State.setResults_keeps | with_reducible apply State.modFunc_keeps | with_reducible apply Keeps.ite
    | fail_if_no_progress (with_reducible refine Keeps.upd ?_ rfl rfl) | intro _ | split | dsimp only

theorem State.takeCmp_keeps {s0 : State} {s : State} {m : Msg} (hK : Keeps s0 s) : Keeps s0 (State.takeCmp s m) := by
  unfold State.takeCmp
  try dsimp only
  repeat' first
    | with_reducible assumption | with_reducible apply State.askRecords_keeps | with_reducible apply State.endTxn_keeps
    | with_reducible apply Keeps.ite | fail_if_no_progress (with_reducible refine Keeps.upd ?_ rfl rfl) | intro _ | split
    | dsimp only

theorem State.takeData_keeps {s0 : State} {s : State} {m : Msg} (hK : Keeps s0 s) : Keeps s0 (State.takeData s m) := by
  unfold State.takeData
  try dsimp only
  repeat' first
    | with_reducible assumption | with_reducible apply State.addPart_keeps | with_reducible apply State.farDone_keeps
    | with_reducible apply Keeps.ite | fail_if_no_progress (with_reducible refine Keeps.upd ?_ rfl rfl) | intro _ | split
    | dsimp only

theorem State.takeBisnp_keeps {s0 : State} {s : State} {slot : Nat} {m : Msg} (hK : Keeps s0 s) : Keeps s0 (State.takeBisnp s slot m) := by
  unfold State.takeBisnp
  try dsimp only
  repeat' first
    | with_reducible assumption | with_reducible apply State.charge_keeps | with_reducible apply State.sendMsg_keeps
    | with_reducible apply Keeps.emit | with_reducible apply Keeps.ite
    | fail_if_no_progress (with_reducible refine Keeps.upd ?_ rfl rfl) | intro _ | split | dsimp only

theorem State.takeBirsp_keeps {s0 : State} {s : State} {m : Msg} (hK : Keeps s0 s) : Keeps s0 (State.takeBirsp s m) := by
  unfold State.takeBirsp
  try dsimp only
  repeat' first
    | with_reducible assumption | with_reducible apply State.logE_keeps | with_reducible apply State.advance_keeps
    | with_reducible apply State.dropSnoop_keeps | with_reducible apply State.answerSnoop_keeps | with_reducible apply Keeps.ite
    | intro _ | split | dsimp only

theorem State.takeStandby_keeps {s0 : State} {s : State} {slot : Nat} {m : Msg} (hK : Keeps s0 s) : Keeps s0 (State.takeStandby s slot m) := by
  unfold State.takeStandby
  try dsimp only
  repeat' first
    | with_reducible assumption | with_reducible apply State.modFunc_keeps | with_reducible apply State.sendCmp_keeps
    | with_reducible apply Keeps.ite | fail_if_no_progress (with_reducible refine Keeps.upd ?_ rfl rfl) | intro _ | split
    | dsimp only

end Sys2Proof.Machine
end

