-- ==== Sys2Proof/Laws/KeepsHerdAgree.lean ====
section
/-! SUPPORT. What the operations of Machine/HerdAgree.lean keep (Keeps), one lemma per operation. -/

set_option linter.unusedTactic false
set_option linter.unreachableTactic false

namespace Sys2Proof.Machine

theorem State.recordCommit_keeps {s0 : State} {s : State} {a : Agreement} {key : Nat} {source : Option Nat} (hK : Keeps s0 s) : Keeps s0 (State.recordCommit s a key source) := by
  unfold State.recordCommit
  try dsimp only
  repeat' first
    | with_reducible assumption | with_reducible apply State.control_keeps | with_reducible apply Keeps.over
    | fail_if_no_progress (with_reducible refine Keeps.upd ?_ rfl rfl) | intro _ | split | dsimp only

theorem State.tryCommit_keeps {s0 : State} {s : State} (hK : Keeps s0 s) : Keeps s0 (State.tryCommit s) := by
  unfold State.tryCommit
  try dsimp only
  repeat' first
    | with_reducible assumption | with_reducible apply State.recordCommit_keeps | with_reducible apply Keeps.ite
    | fail_if_no_progress (with_reducible refine Keeps.upd ?_ rfl rfl) | intro _ | split | dsimp only

theorem State.propose_keeps {s0 : State} {s : State} {c : HerdChange} (hK : Keeps s0 s) : Keeps s0 (State.propose s c) := by
  unfold State.propose
  try dsimp only
  repeat' first
    | with_reducible assumption | with_reducible apply State.control_keeps | with_reducible apply State.tryCommit_keeps
    | with_reducible apply Keeps.over | with_reducible apply Keeps.ite
    | fail_if_no_progress (with_reducible refine Keeps.upd ?_ rfl rfl) | intro _ | split | dsimp only

theorem State.tryRemove_keeps {s0 : State} {s : State} {d : Nat} (hK : Keeps s0 s) : Keeps s0 (State.tryRemove s d) := by
  unfold State.tryRemove
  try dsimp only
  repeat' first
    | with_reducible assumption | with_reducible apply State.propose_keeps | with_reducible apply Keeps.ite | intro _ | split
    | dsimp only

theorem State.acceptProposal_keeps {s0 : State} {s : State} {a : Agreement} {key : Nat} (hK : Keeps s0 s) : Keeps s0 (State.acceptProposal s a key) := by
  unfold State.acceptProposal
  try dsimp only
  repeat' first
    | with_reducible assumption | with_reducible apply State.control_keeps
    | fail_if_no_progress (with_reducible refine Keeps.upd ?_ rfl rfl) | intro _ | split | dsimp only

theorem State.takePropose_keeps {s0 : State} {s : State} {m : Msg} (hK : Keeps s0 s) : Keeps s0 (State.takePropose s m) := by
  unfold State.takePropose
  try dsimp only
  repeat' first
    | with_reducible assumption | with_reducible apply State.acceptProposal_keeps | with_reducible apply Keeps.ite
    | fail_if_no_progress (with_reducible refine Keeps.upd ?_ rfl rfl) | intro _ | split | dsimp only

theorem State.lockoutEnds_keeps {s0 : State} {s : State} (hK : Keeps s0 s) : Keeps s0 (State.lockoutEnds s) := by
  unfold State.lockoutEnds
  try dsimp only
  repeat' first
    | with_reducible assumption | with_reducible apply State.acceptProposal_keeps
    | with_reducible refine Keeps.mapE (by assumption) ?_ | with_reducible apply Keeps.over | with_reducible apply Keeps.ite
    | fail_if_no_progress (with_reducible refine Keeps.upd ?_ rfl rfl) | intro _ | split | dsimp only

theorem State.takeAccept_keeps {s0 : State} {s : State} {m : Msg} (hK : Keeps s0 s) : Keeps s0 (State.takeAccept s m) := by
  unfold State.takeAccept
  try dsimp only
  repeat' first
    | with_reducible assumption | with_reducible apply State.tryCommit_keeps | with_reducible apply Keeps.ite
    | fail_if_no_progress (with_reducible refine Keeps.upd ?_ rfl rfl) | intro _ | split | dsimp only

theorem State.takeCommit_keeps {s0 : State} {s : State} {m : Msg} (hK : Keeps s0 s) : Keeps s0 (State.takeCommit s m) := by
  unfold State.takeCommit
  try dsimp only
  repeat' first
    | with_reducible assumption | with_reducible apply State.recordCommit_keeps | with_reducible apply Keeps.ite | intro _
    | split | dsimp only

theorem State.takeRecordsReq_keeps {s0 : State} {s : State} {m : Msg} (hK : Keeps s0 s) : Keeps s0 (State.takeRecordsReq s m) := by
  unfold State.takeRecordsReq
  try dsimp only
  repeat' first
    | with_reducible assumption | with_reducible apply State.sendMsg_keeps | with_reducible apply State.control_keeps
    | with_reducible apply State.propose_keeps | with_reducible refine Keeps.mapE (by assumption) ?_
    | with_reducible refine Keeps.getD ?_ ?_ | with_reducible refine Keeps.getD₂ ?_ ?_ | with_reducible apply Keeps.ite
    | fail_if_no_progress (with_reducible refine Keeps.upd ?_ rfl rfl) | intro _ | split | dsimp only

theorem State.takeRecords_keeps {s0 : State} {s : State} {m : Msg} (hK : Keeps s0 s) : Keeps s0 (State.takeRecords s m) := by
  unfold State.takeRecords
  try dsimp only
  repeat' first
    | with_reducible assumption | with_reducible apply Keeps.ite
    | fail_if_no_progress (with_reducible refine Keeps.upd ?_ rfl rfl) | intro _ | split | dsimp only

theorem State.probe_keeps {s0 : State} {s : State} {d : Nat} (hK : Keeps s0 s) : Keeps s0 (State.probe s d) := by
  unfold State.probe
  try dsimp only
  repeat' first
    | with_reducible assumption | with_reducible apply State.putLink_keeps | with_reducible apply Keeps.over
    | fail_if_no_progress (with_reducible refine Keeps.upd ?_ rfl rfl) | intro _ | split | dsimp only

theorem State.suspect_keeps {s0 : State} {s : State} {d : Nat} {badStride : Bool} (hK : Keeps s0 s) : Keeps s0 (State.suspect s d badStride) := by
  unfold State.suspect
  try dsimp only
  repeat' first
    | with_reducible assumption | with_reducible apply State.tryRemove_keeps | with_reducible apply State.probe_keeps
    | with_reducible apply Keeps.ite | fail_if_no_progress (with_reducible refine Keeps.upd ?_ rfl rfl) | intro _ | split
    | dsimp only

theorem State.abortWaiting_keeps {s0 : State} {s : State} {d : Nat} (hK : Keeps s0 s) : Keeps s0 (State.abortWaiting s d) := by
  unfold State.abortWaiting
  try dsimp only
  repeat' first
    | with_reducible assumption | with_reducible apply State.sendCmp_keeps | with_reducible apply Keeps.over
    | fail_if_no_progress (with_reducible refine Keeps.upd ?_ rfl rfl) | intro _ | split | dsimp only

theorem State.abortTxns_keeps {s0 : State} {s : State} {d : Nat} (hK : Keeps s0 s) : Keeps s0 (State.abortTxns s d) := by
  unfold State.abortTxns
  try dsimp only
  repeat' first
    | with_reducible assumption | with_reducible apply State.endTxn_keeps | with_reducible apply Keeps.over
    | fail_if_no_progress (with_reducible refine Keeps.upd ?_ rfl rfl) | intro _ | split | dsimp only

theorem State.dropLocksOf_keeps {s0 : State} {s : State} {d : Nat} {old : List HdomRec} (hK : Keeps s0 s) : Keeps s0 (State.dropLocksOf s d old) := by
  unfold State.dropLocksOf
  try dsimp only
  repeat' first
    | with_reducible assumption | with_reducible apply State.putLock_keeps | with_reducible apply State.dropLock_keeps
    | with_reducible apply Keeps.over | with_reducible apply Keeps.ite
    | fail_if_no_progress (with_reducible refine Keeps.upd ?_ rfl rfl) | intro _ | split | dsimp only

theorem State.dropFarHolders_keeps {s0 : State} {s : State} {d : Nat} (hK : Keeps s0 s) : Keeps s0 (State.dropFarHolders s d) := by
  unfold State.dropFarHolders
  try dsimp only
  repeat' first
    | with_reducible assumption | with_reducible apply State.dropHolder_keeps
    | with_reducible refine State.dropHolder_keepsE (by assumption) ?_ | with_reducible apply State.unanswered_keeps
    | with_reducible apply Keeps.over | fail_if_no_progress (with_reducible refine Keeps.upd ?_ rfl rfl) | intro _ | split
    | dsimp only

theorem State.answerMirrors_keeps {s0 : State} {s : State} {d : Nat} (hK : Keeps s0 s) : Keeps s0 (State.answerMirrors s d) := by
  unfold State.answerMirrors
  try dsimp only
  repeat' first
    | with_reducible assumption | with_reducible apply State.copyOf_keeps
    | with_reducible refine State.copyOf_keepsE (by assumption) ?_ | with_reducible apply State.countPoison_keeps
    | with_reducible apply Keeps.emit | with_reducible apply Keeps.over | with_reducible apply Keeps.ite
    | fail_if_no_progress (with_reducible refine Keeps.upd ?_ rfl rfl) | intro _ | split | dsimp only

theorem State.memberGone_keeps {s0 : State} {s : State} {d : Nat} {old : List HdomRec} (hK : Keeps s0 s) : Keeps s0 (State.memberGone s d old) := by
  unfold State.memberGone
  try dsimp only
  repeat' first
    | with_reducible assumption | with_reducible apply State.dropLocksOf_keeps
    | with_reducible apply State.dropFarHolders_keeps | with_reducible apply State.abortWaiting_keeps
    | with_reducible apply State.abortTxns_keeps | with_reducible apply State.answerMirrors_keeps
    | with_reducible refine Keeps.mapE (by assumption) ?_ | with_reducible apply Keeps.ite
    | fail_if_no_progress (with_reducible refine Keeps.upd ?_ rfl rfl) | intro _ | split | dsimp only

theorem State.beginMoves_keeps {s0 : State} {s : State} {r : HdomRec} (hK : Keeps s0 s) : Keeps s0 (State.beginMoves s r) := by
  unfold State.beginMoves
  try dsimp only
  repeat' first
    | with_reducible assumption | with_reducible refine Keeps.mapE (by assumption) ?_
    | fail_if_no_progress (with_reducible refine Keeps.upd ?_ rfl rfl) | intro _ | split | dsimp only

theorem State.moveSlice_keeps {s0 : State} {s : State} {h : Nat} (hK : Keeps s0 s) : Keeps s0 (State.moveSlice s h) := by
  unfold State.moveSlice
  try dsimp only
  repeat' first
    | with_reducible assumption | with_reducible apply State.movePlate_keeps
    | with_reducible refine State.movePlate_keepsE (by assumption) ?_ | with_reducible refine Keeps.mapE (by assumption) ?_
    | with_reducible apply Keeps.foldl | with_reducible apply Keeps.fold
    | with_reducible refine Keeps.foldE (by assumption) ?_ ?_ | with_reducible apply Keeps.ite
    | fail_if_no_progress (with_reducible refine Keeps.upd ?_ rfl rfl) | intro _ | split | dsimp only

theorem State.endMoves_keeps {s0 : State} {s : State} {r : HdomRec} {old : Option HdomRec} (hK : Keeps s0 s) : Keeps s0 (State.endMoves s r old) := by
  unfold State.endMoves
  try dsimp only
  repeat' first
    | with_reducible assumption | with_reducible apply State.sendDelta_keeps | with_reducible apply State.forget_keeps
    | with_reducible apply State.homeCopy_keeps | with_reducible refine State.homeCopy_keepsE (by assumption) ?_
    | with_reducible refine Keeps.mapE (by assumption) ?_ | with_reducible apply Keeps.over | with_reducible apply Keeps.ite
    | fail_if_no_progress (with_reducible refine Keeps.upd ?_ rfl rfl) | intro _ | split | dsimp only

theorem State.enterActive_keeps {s0 : State} {s : State} {ms : Nat} (hK : Keeps s0 s) : Keeps s0 (State.enterActive s ms) := by
  unfold State.enterActive
  try dsimp only
  repeat' first
    | with_reducible assumption | fail_if_no_progress (with_reducible refine Keeps.upd ?_ rfl rfl) | intro _ | split | dsimp only

theorem State.endOps_keeps {s0 : State} {s : State} {f : OpBody → Bool} {st status r0 : Nat} (hK : Keeps s0 s) : Keeps s0 (State.endOps s f st status r0) := by
  unfold State.endOps
  try dsimp only
  repeat' first
    | with_reducible assumption | with_reducible apply State.modOp_keeps | with_reducible apply Keeps.over
    | with_reducible apply Keeps.ite | fail_if_no_progress (with_reducible refine Keeps.upd ?_ rfl rfl) | intro _ | split
    | dsimp only

theorem State.herdDone_keeps {s0 : State} {s : State} (hK : Keeps s0 s) : Keeps s0 (State.herdDone s) := by
  unfold State.herdDone
  try dsimp only
  repeat' first
    | with_reducible assumption | with_reducible apply State.enterActive_keeps | with_reducible apply Keeps.ite | intro _ | split
    | dsimp only

theorem State.install_keeps {s0 : State} {s : State} {r : HerdRecords} (hK : Keeps s0 s) : Keeps s0 (State.install s r) := by
  unfold State.install
  try dsimp only
  repeat' first
    | with_reducible assumption | with_reducible apply State.breakDressage_keeps | with_reducible apply State.sendMsg_keeps
    | with_reducible apply State.advance_keeps | with_reducible apply State.memberGone_keeps
    | with_reducible apply State.endOps_keeps | with_reducible refine Keeps.mapE (by assumption) ?_
    | with_reducible apply Keeps.over | with_reducible apply Keeps.ite
    | fail_if_no_progress (with_reducible refine Keeps.upd ?_ rfl rfl) | intro _ | split | dsimp only

theorem State.adoptRecords_keeps {s0 : State} {s : State} (hK : Keeps s0 s) : Keeps s0 (State.adoptRecords s) := by
  unfold State.adoptRecords
  try dsimp only
  repeat' first
    | with_reducible assumption | with_reducible apply State.setCause_keeps | with_reducible apply State.install_keeps
    | fail_if_no_progress (with_reducible refine Keeps.upd ?_ rfl rfl) | intro _ | split | dsimp only

theorem State.afterChange_keeps {s0 : State} {s : State} {a : Agreement} {old : List HdomRec} (hK : Keeps s0 s) : Keeps s0 (State.afterChange s a old) := by
  unfold State.afterChange
  try dsimp only
  repeat' first
    | with_reducible assumption | with_reducible apply State.modOp_keeps | with_reducible apply State.admitAccess_keeps
    | with_reducible apply State.beginMoves_keeps | with_reducible apply State.endMoves_keeps
    | with_reducible apply State.endOps_keeps | with_reducible refine Keeps.mapE (by assumption) ?_
    | with_reducible apply Keeps.over | fail_if_no_progress (with_reducible refine Keeps.upd ?_ rfl rfl) | intro _ | split
    | dsimp only

theorem State.applyCommit_keeps {s0 : State} {s : State} {a : Agreement} (hK : Keeps s0 s) : Keeps s0 (State.applyCommit s a) := by
  unfold State.applyCommit
  try dsimp only
  repeat' first
    | with_reducible assumption | with_reducible apply State.askRecords_keeps | with_reducible apply State.install_keeps
    | with_reducible apply State.afterChange_keeps | with_reducible apply Keeps.ite
    | fail_if_no_progress (with_reducible refine Keeps.upd ?_ rfl rfl) | intro _ | split | dsimp only

end Sys2Proof.Machine
end

