-- ==== Sys2Proof/Laws/KeepsHerdTake.lean ====
section
/-! SUPPORT. What the operations of Machine/HerdTake.lean keep (Keeps), one lemma per operation. -/

set_option linter.unusedTactic false
set_option linter.unreachableTactic false

namespace Sys2Proof.Machine

theorem State.slotMsg_keeps {s0 : State} {s : State} {slot : Nat} {m : Msg} (hK : Keeps s0 s) : Keeps s0 (State.slotMsg s slot m) := by
  unfold State.slotMsg
  try dsimp only
  repeat' first
    | with_reducible assumption | with_reducible apply State.takeRdLine_keeps | with_reducible apply State.takeRdPlate_keeps
    | with_reducible apply State.takeWrLine_keeps | with_reducible apply State.takeContrib_keeps
    | with_reducible apply State.takeMirror_keeps | with_reducible apply State.takeDoneNote_keeps
    | with_reducible apply State.takeDirtyMark_keeps | with_reducible apply State.takeParityDelta_keeps
    | with_reducible apply State.takeTableRec_keeps | with_reducible apply State.takePlateMove_keeps
    | with_reducible apply State.takeLockReq_keeps | with_reducible apply State.takeLockRel_keeps
    | with_reducible apply State.takeLockGrant_keeps | with_reducible apply State.takeBisnp_keeps
    | with_reducible apply State.takeStandby_keeps | intro _ | split | dsimp only

theorem State.memberMsg_keeps {s0 : State} {s : State} {m : Msg} (hK : Keeps s0 s) : Keeps s0 (State.memberMsg s m) := by
  unfold State.memberMsg
  try dsimp only
  repeat' first
    | with_reducible assumption | with_reducible apply State.control_keeps | with_reducible apply State.linkLastMsg_keeps
    | with_reducible apply State.takeCmp_keeps | with_reducible apply State.takeData_keeps
    | with_reducible apply State.takeBirsp_keeps | with_reducible apply State.takePropose_keeps
    | with_reducible apply State.takeAccept_keeps | with_reducible apply State.takeCommit_keeps
    | with_reducible apply State.takeRecordsReq_keeps | with_reducible apply State.takeRecords_keeps
    | with_reducible apply State.suspect_keeps | fail_if_no_progress (with_reducible refine Keeps.upd ?_ rfl rfl) | intro _
    | split | dsimp only

theorem State.takeUp_keeps {s0 : State} {s : State} {m : Msg} (hK : Keeps s0 s) : Keeps s0 (State.takeUp s m) := by
  unfold State.takeUp
  try dsimp only
  repeat' first
    | with_reducible assumption | with_reducible apply State.logE_keeps | with_reducible apply State.sendCmp_keeps
    | with_reducible apply State.slotMsg_keeps | with_reducible apply State.memberMsg_keeps | with_reducible apply Keeps.ite
    | intro _ | split | dsimp only

theorem State.giveCredit_keeps {s0 : State} {s : State} {n : Nat} {m : Msg} (hK : Keeps s0 s) : Keeps s0 (State.giveCredit s n m) := by
  unfold State.giveCredit
  try dsimp only
  repeat' first
    | with_reducible assumption | with_reducible apply State.modLink_keeps | with_reducible refine Keeps.getD ?_ ?_
    | with_reducible refine Keeps.getD₂ ?_ ?_ | fail_if_no_progress (with_reducible refine Keeps.upd ?_ rfl rfl) | intro _
    | split | dsimp only

theorem State.takeRequest_keeps {s0 : State} {s : State} {n : Nat} {m : Msg} (hK : Keeps s0 s) : Keeps s0 (State.takeRequest s n m) := by
  unfold State.takeRequest
  try dsimp only
  repeat' first
    | with_reducible assumption | with_reducible apply State.takeUp_keeps | with_reducible apply State.giveCredit_keeps
    | with_reducible apply Keeps.ite | fail_if_no_progress (with_reducible refine Keeps.upd ?_ rfl rfl) | intro _ | split
    | dsimp only

theorem State.receive_keeps {s0 : State} {s : State} {n : Nat} {m : Msg} (hK : Keeps s0 s) : Keeps s0 (State.receive s n m) := by
  unfold State.receive
  try dsimp only
  repeat' first
    | with_reducible assumption | with_reducible apply State.giveCredit_keeps | with_reducible apply State.takeUp_keeps
    | with_reducible apply State.takeRequest_keeps | with_reducible apply State.sendCmp_keeps | with_reducible apply Keeps.ite
    | fail_if_no_progress (with_reducible refine Keeps.upd ?_ rfl rfl) | intro _ | split | dsimp only

theorem State.passOn_keeps {s0 : State} {s : State} {m : Msg} (hK : Keeps s0 s) : Keeps s0 (State.passOn s m) := by
  unfold State.passOn
  try dsimp only
  repeat' first
    | with_reducible assumption | with_reducible apply State.discardMsg_keeps | with_reducible apply State.sendMsg_keeps
    | with_reducible apply Keeps.ite | fail_if_no_progress (with_reducible refine Keeps.upd ?_ rfl rfl) | intro _ | split
    | dsimp only

theorem State.pump_keeps {s0 : State} {s : State} (hK : Keeps s0 s) : Keeps s0 (State.pump s) := by
  unfold State.pump
  try dsimp only
  repeat' first
    | with_reducible assumption | with_reducible apply State.takeUp_keeps | with_reducible apply Keeps.over
    | fail_if_no_progress (with_reducible refine Keeps.upd ?_ rfl rfl) | intro _ | split | dsimp only

theorem State.releaseHeld_keeps {s0 : State} {s : State} (hK : Keeps s0 s) : Keeps s0 (State.releaseHeld s) := by
  unfold State.releaseHeld
  try dsimp only
  repeat' first
    | with_reducible assumption | with_reducible apply State.receive_keeps | with_reducible apply Keeps.over
    | fail_if_no_progress (with_reducible refine Keeps.upd ?_ rfl rfl) | intro _ | split | dsimp only

theorem State.admitMsg_keeps {s0 : State} {s : State} {n : Nat} {m : Msg} (hK : Keeps s0 s) : Keeps s0 (State.admitMsg s n m) := by
  unfold State.admitMsg
  try dsimp only
  repeat' first
    | with_reducible assumption | with_reducible apply State.charge_keeps | with_reducible apply State.giveCredit_keeps
    | with_reducible apply State.discardMsg_keeps | with_reducible apply State.receive_keeps
    | with_reducible apply State.pump_keeps | with_reducible apply State.passOn_keeps | with_reducible apply Keeps.ite
    | intro _ | split | dsimp only

theorem State.takeMsg_keeps {s0 : State} {s : State} {n : Nat} {m : Msg} (hK : Keeps s0 s) : Keeps s0 (State.takeMsg s n m) := by
  unfold State.takeMsg
  try dsimp only
  repeat' first
    | with_reducible assumption | with_reducible apply State.admitMsg_keeps | with_reducible apply Keeps.ite
    | fail_if_no_progress (with_reducible refine Keeps.upd ?_ rfl rfl) | intro _ | split | dsimp only

theorem State.drainIngress_keeps {s0 : State} {s : State} (hK : Keeps s0 s) : Keeps s0 (State.drainIngress s) := by
  unfold State.drainIngress
  try dsimp only
  repeat' first
    | with_reducible assumption | with_reducible apply State.admitMsg_keeps | with_reducible apply Keeps.over
    | with_reducible apply Keeps.ite | fail_if_no_progress (with_reducible refine Keeps.upd ?_ rfl rfl) | intro _ | split
    | dsimp only

theorem execUnknownMessage_keeps {t : State} {link : Nat} {m : Msg} {s : State} (hE : execUnknownMessage link m s = .next t) : Keeps s t := by
  have hK := Keeps.refl s
  unfold execUnknownMessage at hE
  cases hE
  try dsimp only
  repeat' first
    | with_reducible assumption | with_reducible apply State.takeMsg_keeps | intro _ | split | dsimp only

theorem execRdLine_keeps {t : State} {link : Nat} {m : Msg} {s : State} (hE : execRdLine link m s = .next t) : Keeps s t := by
  have hK := Keeps.refl s
  unfold execRdLine at hE
  cases hE
  try dsimp only
  repeat' first
    | with_reducible assumption | with_reducible apply State.takeMsg_keeps
    | fail_if_no_progress (with_reducible refine Keeps.upd ?_ rfl rfl) | intro _ | split | dsimp only

theorem execRdPlate_keeps {t : State} {link : Nat} {m : Msg} {s : State} (hE : execRdPlate link m s = .next t) : Keeps s t := by
  have hK := Keeps.refl s
  unfold execRdPlate at hE
  cases hE
  try dsimp only
  repeat' first
    | with_reducible assumption | with_reducible apply State.takeMsg_keeps
    | fail_if_no_progress (with_reducible refine Keeps.upd ?_ rfl rfl) | intro _ | split | dsimp only

theorem execWrLine_keeps {t : State} {link : Nat} {m : Msg} {s : State} (hE : execWrLine link m s = .next t) : Keeps s t := by
  have hK := Keeps.refl s
  unfold execWrLine at hE
  cases hE
  try dsimp only
  repeat' first
    | with_reducible assumption | with_reducible apply State.takeMsg_keeps
    | fail_if_no_progress (with_reducible refine Keeps.upd ?_ rfl rfl) | intro _ | split | dsimp only

theorem execContrib_keeps {t : State} {link : Nat} {m : Msg} {s : State} (hE : execContrib link m s = .next t) : Keeps s t := by
  have hK := Keeps.refl s
  unfold execContrib at hE
  cases hE
  try dsimp only
  repeat' first
    | with_reducible assumption | with_reducible apply State.takeMsg_keeps
    | fail_if_no_progress (with_reducible refine Keeps.upd ?_ rfl rfl) | intro _ | split | dsimp only

theorem execMirror_keeps {t : State} {link : Nat} {m : Msg} {s : State} (hE : execMirror link m s = .next t) : Keeps s t := by
  have hK := Keeps.refl s
  unfold execMirror at hE
  cases hE
  try dsimp only
  repeat' first
    | with_reducible assumption | with_reducible apply State.takeMsg_keeps
    | fail_if_no_progress (with_reducible refine Keeps.upd ?_ rfl rfl) | intro _ | split | dsimp only

theorem execDirtyMark_keeps {t : State} {link : Nat} {m : Msg} {s : State} (hE : execDirtyMark link m s = .next t) : Keeps s t := by
  have hK := Keeps.refl s
  unfold execDirtyMark at hE
  cases hE
  try dsimp only
  repeat' first
    | with_reducible assumption | with_reducible apply State.takeMsg_keeps
    | fail_if_no_progress (with_reducible refine Keeps.upd ?_ rfl rfl) | intro _ | split | dsimp only

theorem execParityDelta_keeps {t : State} {link : Nat} {m : Msg} {s : State} (hE : execParityDelta link m s = .next t) : Keeps s t := by
  have hK := Keeps.refl s
  unfold execParityDelta at hE
  cases hE
  try dsimp only
  repeat' first
    | with_reducible assumption | with_reducible apply State.takeMsg_keeps
    | fail_if_no_progress (with_reducible refine Keeps.upd ?_ rfl rfl) | intro _ | split | dsimp only

theorem execPlateMove_keeps {t : State} {link : Nat} {m : Msg} {s : State} (hE : execPlateMove link m s = .next t) : Keeps s t := by
  have hK := Keeps.refl s
  unfold execPlateMove at hE
  cases hE
  try dsimp only
  repeat' first
    | with_reducible assumption | with_reducible apply State.takeMsg_keeps
    | fail_if_no_progress (with_reducible refine Keeps.upd ?_ rfl rfl) | intro _ | split | dsimp only

theorem execTableRec_keeps {t : State} {link : Nat} {m : Msg} {s : State} (hE : execTableRec link m s = .next t) : Keeps s t := by
  have hK := Keeps.refl s
  unfold execTableRec at hE
  cases hE
  try dsimp only
  repeat' first
    | with_reducible assumption | with_reducible apply State.takeMsg_keeps
    | fail_if_no_progress (with_reducible refine Keeps.upd ?_ rfl rfl) | intro _ | split | dsimp only

theorem execCmp_keeps {t : State} {link : Nat} {m : Msg} {s : State} (hE : execCmp link m s = .next t) : Keeps s t := by
  have hK := Keeps.refl s
  unfold execCmp at hE
  cases hE
  try dsimp only
  repeat' first
    | with_reducible assumption | with_reducible apply State.takeMsg_keeps
    | fail_if_no_progress (with_reducible refine Keeps.upd ?_ rfl rfl) | intro _ | split | dsimp only

theorem execDataMsg_keeps {t : State} {link : Nat} {m : Msg} {s : State} (hE : execDataMsg link m s = .next t) : Keeps s t := by
  have hK := Keeps.refl s
  unfold execDataMsg at hE
  cases hE
  try dsimp only
  repeat' first
    | with_reducible assumption | with_reducible apply State.takeMsg_keeps
    | fail_if_no_progress (with_reducible refine Keeps.upd ?_ rfl rfl) | intro _ | split | dsimp only

theorem execBirspMsg_keeps {t : State} {link : Nat} {m : Msg} {s : State} (hE : execBirspMsg link m s = .next t) : Keeps s t := by
  have hK := Keeps.refl s
  unfold execBirspMsg at hE
  cases hE
  try dsimp only
  repeat' first
    | with_reducible assumption | with_reducible apply State.takeMsg_keeps
    | fail_if_no_progress (with_reducible refine Keeps.upd ?_ rfl rfl) | intro _ | split | dsimp only

theorem execBisnpMsg_keeps {t : State} {link : Nat} {m : Msg} {s : State} (hE : execBisnpMsg link m s = .next t) : Keeps s t := by
  have hK := Keeps.refl s
  unfold execBisnpMsg at hE
  cases hE
  try dsimp only
  repeat' first
    | with_reducible assumption | with_reducible apply State.takeMsg_keeps
    | fail_if_no_progress (with_reducible refine Keeps.upd ?_ rfl rfl) | intro _ | split | dsimp only

theorem execLockReq_keeps {t : State} {link : Nat} {m : Msg} {s : State} (hE : execLockReq link m s = .next t) : Keeps s t := by
  have hK := Keeps.refl s
  unfold execLockReq at hE
  cases hE
  try dsimp only
  repeat' first
    | with_reducible assumption | with_reducible apply State.takeMsg_keeps
    | fail_if_no_progress (with_reducible refine Keeps.upd ?_ rfl rfl) | intro _ | split | dsimp only

theorem execLockGrant_keeps {t : State} {link : Nat} {m : Msg} {s : State} (hE : execLockGrant link m s = .next t) : Keeps s t := by
  have hK := Keeps.refl s
  unfold execLockGrant at hE
  cases hE
  try dsimp only
  repeat' first
    | with_reducible assumption | with_reducible apply State.takeMsg_keeps
    | fail_if_no_progress (with_reducible refine Keeps.upd ?_ rfl rfl) | intro _ | split | dsimp only

theorem execLockRel_keeps {t : State} {link : Nat} {m : Msg} {s : State} (hE : execLockRel link m s = .next t) : Keeps s t := by
  have hK := Keeps.refl s
  unfold execLockRel at hE
  cases hE
  try dsimp only
  repeat' first
    | with_reducible assumption | with_reducible apply State.takeMsg_keeps
    | fail_if_no_progress (with_reducible refine Keeps.upd ?_ rfl rfl) | intro _ | split | dsimp only

theorem execSuspect_keeps {t : State} {link : Nat} {m : Msg} {s : State} (hE : execSuspect link m s = .next t) : Keeps s t := by
  have hK := Keeps.refl s
  unfold execSuspect at hE
  cases hE
  try dsimp only
  repeat' first
    | with_reducible assumption | with_reducible apply State.takeMsg_keeps
    | fail_if_no_progress (with_reducible refine Keeps.upd ?_ rfl rfl) | intro _ | split | dsimp only

theorem execProbe_keeps {t : State} {link : Nat} {m : Msg} {s : State} (hE : execProbe link m s = .next t) : Keeps s t := by
  have hK := Keeps.refl s
  unfold execProbe at hE
  cases hE
  try dsimp only
  repeat' first
    | with_reducible assumption | with_reducible apply State.takeMsg_keeps
    | fail_if_no_progress (with_reducible refine Keeps.upd ?_ rfl rfl) | intro _ | split | dsimp only

theorem execProbeAck_keeps {t : State} {link : Nat} {m : Msg} {s : State} (hE : execProbeAck link m s = .next t) : Keeps s t := by
  have hK := Keeps.refl s
  unfold execProbeAck at hE
  cases hE
  try dsimp only
  repeat' first
    | with_reducible assumption | with_reducible apply State.takeMsg_keeps
    | fail_if_no_progress (with_reducible refine Keeps.upd ?_ rfl rfl) | intro _ | split | dsimp only

theorem execPropose_keeps {t : State} {link : Nat} {m : Msg} {s : State} (hE : execPropose link m s = .next t) : Keeps s t := by
  have hK := Keeps.refl s
  unfold execPropose at hE
  cases hE
  try dsimp only
  repeat' first
    | with_reducible assumption | with_reducible apply State.takeMsg_keeps
    | fail_if_no_progress (with_reducible refine Keeps.upd ?_ rfl rfl) | intro _ | split | dsimp only

theorem execAccept_keeps {t : State} {link : Nat} {m : Msg} {s : State} (hE : execAccept link m s = .next t) : Keeps s t := by
  have hK := Keeps.refl s
  unfold execAccept at hE
  cases hE
  try dsimp only
  repeat' first
    | with_reducible assumption | with_reducible apply State.takeMsg_keeps
    | fail_if_no_progress (with_reducible refine Keeps.upd ?_ rfl rfl) | intro _ | split | dsimp only

theorem execCommit_keeps {t : State} {link : Nat} {m : Msg} {s : State} (hE : execCommit link m s = .next t) : Keeps s t := by
  have hK := Keeps.refl s
  unfold execCommit at hE
  cases hE
  try dsimp only
  repeat' first
    | with_reducible assumption | with_reducible apply State.takeMsg_keeps
    | fail_if_no_progress (with_reducible refine Keeps.upd ?_ rfl rfl) | intro _ | split | dsimp only

theorem execRecordsReq_keeps {t : State} {link : Nat} {m : Msg} {s : State} (hE : execRecordsReq link m s = .next t) : Keeps s t := by
  have hK := Keeps.refl s
  unfold execRecordsReq at hE
  cases hE
  try dsimp only
  repeat' first
    | with_reducible assumption | with_reducible apply State.takeMsg_keeps
    | fail_if_no_progress (with_reducible refine Keeps.upd ?_ rfl rfl) | intro _ | split | dsimp only

theorem execRecords_keeps {t : State} {link : Nat} {m : Msg} {s : State} (hE : execRecords link m s = .next t) : Keeps s t := by
  have hK := Keeps.refl s
  unfold execRecords at hE
  cases hE
  try dsimp only
  repeat' first
    | with_reducible assumption | with_reducible apply State.takeMsg_keeps
    | fail_if_no_progress (with_reducible refine Keeps.upd ?_ rfl rfl) | intro _ | split | dsimp only

theorem execLinkLast_keeps {t : State} {link : Nat} {m : Msg} {s : State} (hE : execLinkLast link m s = .next t) : Keeps s t := by
  have hK := Keeps.refl s
  unfold execLinkLast at hE
  cases hE
  try dsimp only
  repeat' first
    | with_reducible assumption | with_reducible apply State.takeMsg_keeps
    | fail_if_no_progress (with_reducible refine Keeps.upd ?_ rfl rfl) | intro _ | split | dsimp only

theorem execDoneNote_keeps {t : State} {link : Nat} {m : Msg} {s : State} (hE : execDoneNote link m s = .next t) : Keeps s t := by
  have hK := Keeps.refl s
  unfold execDoneNote at hE
  cases hE
  try dsimp only
  repeat' first
    | with_reducible assumption | with_reducible apply State.takeMsg_keeps
    | fail_if_no_progress (with_reducible refine Keeps.upd ?_ rfl rfl) | intro _ | split | dsimp only

theorem execStandbySync_keeps {t : State} {link : Nat} {m : Msg} {s : State} (hE : execStandbySync link m s = .next t) : Keeps s t := by
  have hK := Keeps.refl s
  unfold execStandbySync at hE
  cases hE
  try dsimp only
  repeat' first
    | with_reducible assumption | with_reducible apply State.takeMsg_keeps
    | fail_if_no_progress (with_reducible refine Keeps.upd ?_ rfl rfl) | intro _ | split | dsimp only

theorem execProbeTimeout_keeps {t : State} {device : Nat} {s : State} (hE : execProbeTimeout device s = .next t) : Keeps s t := by
  have hK := Keeps.refl s
  unfold execProbeTimeout at hE
  cases hE
  try dsimp only
  repeat' first
    | with_reducible assumption | with_reducible apply State.tryRemove_keeps | with_reducible apply Keeps.ite | intro _ | split
    | dsimp only

theorem execSyncLossTimeout_keeps {t : State} {device : Nat} {s : State} (hE : execSyncLossTimeout device s = .next t) : Keeps s t := by
  have hK := Keeps.refl s
  unfold execSyncLossTimeout at hE
  cases hE
  try dsimp only
  repeat' first
    | with_reducible assumption | with_reducible apply State.control_keeps | with_reducible apply State.suspect_keeps
    | with_reducible apply Keeps.ite | intro _ | split | dsimp only

theorem execProposalLockoutExpiry_keeps {t : State} {s : State} (hE : execProposalLockoutExpiry s = .next t) : Keeps s t := by
  have hK := Keeps.refl s
  unfold execProposalLockoutExpiry at hE
  cases hE
  try dsimp only
  repeat' first
    | with_reducible assumption | with_reducible apply State.lockoutEnds_keeps | with_reducible apply Keeps.ite | intro _ | split
    | dsimp only

theorem execCommitStrideReached_keeps {t : State} {s : State} (hE : execCommitStrideReached s = .next t) : Keeps s t := by
  have hK := Keeps.refl s
  unfold execCommitStrideReached at hE
  cases hE
  try dsimp only
  repeat' first
    | with_reducible assumption | with_reducible apply State.applyCommit_keeps | with_reducible apply State.releaseHeld_keeps
    | with_reducible apply Keeps.over | intro _ | split | dsimp only

theorem execProbationTimeout_keeps {t : State} {device : Nat} {s : State} (hE : execProbationTimeout device s = .next t) : Keeps s t := by
  have hK := Keeps.refl s
  unfold execProbationTimeout at hE
  cases hE
  try dsimp only
  repeat' first
    | with_reducible assumption | with_reducible apply State.tryRemove_keeps | with_reducible apply Keeps.ite | intro _ | split
    | dsimp only

end Sys2Proof.Machine
end

