-- ==== Sys2Proof/Laws/KeepsHerdOps.lean ====
section
/-! SUPPORT. What the operations of Machine/HerdOps.lean keep (Keeps), one lemma per operation. -/

set_option linter.unusedTactic false
set_option linter.unreachableTactic false

namespace Sys2Proof.Machine

theorem cHerdForm_safe  : (cHerdForm).Safe := by
  intro s o p
  have hK := Keeps.refl s
  unfold cHerdForm
  try unfold shortCmd
  try unfold longCmd
  try dsimp only
  repeat' first
    | with_reducible assumption | with_reducible apply deny_keeps | with_reducible refine deny_keepsE (by assumption) ?_
    | exact longCmd_safe | exact longCmd_safe _ _ _ | with_reducible apply Keeps.ite | intro _ | split | dsimp only

theorem cHerdJoin_safe  : (cHerdJoin).Safe := by
  intro s o p
  have hK := Keeps.refl s
  unfold cHerdJoin
  try unfold shortCmd
  try unfold longCmd
  try dsimp only
  repeat' first
    | with_reducible assumption | with_reducible apply deny_keeps | with_reducible refine deny_keepsE (by assumption) ?_
    | exact longCmd_safe | exact longCmd_safe _ _ _ | with_reducible apply Keeps.ite | intro _ | split | dsimp only

theorem cHerdAdmit_safe  : (cHerdAdmit).Safe := by
  intro s o p
  have hK := Keeps.refl s
  unfold cHerdAdmit
  try unfold shortCmd
  try unfold longCmd
  try dsimp only
  repeat' first
    | with_reducible assumption | with_reducible apply deny_keeps | with_reducible refine deny_keepsE (by assumption) ?_
    | exact longCmd_safe | exact longCmd_safe _ _ _ | with_reducible apply Keeps.ite | intro _ | split | dsimp only

theorem cHerdRemove_safe  : (cHerdRemove).Safe := by
  intro s o p
  have hK := Keeps.refl s
  unfold cHerdRemove
  try unfold shortCmd
  try unfold longCmd
  try dsimp only
  repeat' first
    | with_reducible assumption | with_reducible apply deny_keeps | with_reducible refine deny_keepsE (by assumption) ?_
    | exact longCmd_safe | exact longCmd_safe _ _ _ | with_reducible apply Keeps.ite | intro _ | split | dsimp only

theorem cHerdVoters_safe  : (cHerdVoters).Safe := by
  intro s o p
  have hK := Keeps.refl s
  unfold cHerdVoters
  try unfold shortCmd
  try unfold longCmd
  try dsimp only
  repeat' first
    | with_reducible assumption | with_reducible apply deny_keeps | with_reducible refine deny_keepsE (by assumption) ?_
    | exact longCmd_safe | exact longCmd_safe _ _ _ | with_reducible apply Keeps.ite | intro _ | split | dsimp only

theorem cHerdDomainSet_safe  : (cHerdDomainSet).Safe := by
  intro s o p
  have hK := Keeps.refl s
  unfold cHerdDomainSet
  try unfold shortCmd
  try unfold longCmd
  try dsimp only
  repeat' first
    | with_reducible assumption | with_reducible apply deny_keeps | with_reducible refine deny_keepsE (by assumption) ?_
    | exact longCmd_safe | exact longCmd_safe _ _ _ | with_reducible apply Keeps.ite | intro _ | split | dsimp only

theorem cRouteWrite_safe  : (cRouteWrite).Safe := by
  intro s o p
  have hK := Keeps.refl s
  unfold cRouteWrite
  try unfold shortCmd
  try unfold longCmd
  try dsimp only
  repeat' first
    | with_reducible assumption | with_reducible apply deny_keeps | with_reducible refine deny_keepsE (by assumption) ?_
    | with_reducible apply State.join_keeps | with_reducible refine State.join_keepsE (by assumption) ?_
    | with_reducible apply State.later_keeps | exact shortCmd_safe | exact shortCmd_safe _ _ _
    | with_reducible refine Keeps.mapE (by assumption) ?_ | with_reducible apply Keeps.ite | intro _ | split | dsimp only

theorem cHerdRead_safe  : (cHerdRead).Safe := by
  intro s o p
  have hK := Keeps.refl s
  unfold cHerdRead
  try unfold shortCmd
  try unfold longCmd
  try dsimp only
  repeat' first
    | with_reducible assumption | with_reducible apply deny_keeps | with_reducible refine deny_keepsE (by assumption) ?_
    | with_reducible apply doneData_keeps | with_reducible refine doneData_keepsE (by assumption) ?_ | exact shortCmd_safe
    | exact shortCmd_safe | exact shortCmd_safe _ _ _ | with_reducible apply Keeps.ite | intro _ | split | dsimp only

theorem cHerdStandby_safe  : (cHerdStandby).Safe := by
  intro s o p
  have hK := Keeps.refl s
  unfold cHerdStandby
  try unfold shortCmd
  try unfold longCmd
  try dsimp only
  repeat' first
    | with_reducible assumption | with_reducible apply deny_keeps | with_reducible refine deny_keepsE (by assumption) ?_
    | exact longCmd_safe | exact longCmd_safe _ _ _ | with_reducible apply Keeps.ite | intro _ | split | dsimp only

theorem State.formHerd_keeps {s0 : State} {s : State} {herd dev : Nat} (hK : Keeps s0 s) : Keeps s0 (State.formHerd s herd dev) := by
  unfold State.formHerd
  try dsimp only
  repeat' first
    | with_reducible assumption | fail_if_no_progress (with_reducible refine Keeps.upd ?_ rfl rfl) | intro _ | split | dsimp only

theorem State.startJoin_keeps {s0 : State} {s : State} {herd dev : Nat} (hK : Keeps s0 s) : Keeps s0 (State.startJoin s herd dev) := by
  unfold State.startJoin
  try dsimp only
  repeat' first
    | with_reducible assumption | fail_if_no_progress (with_reducible refine Keeps.upd ?_ rfl rfl) | intro _ | split | dsimp only

theorem State.opPropose_keeps {s0 : State} {s : State} {h : Nat} {c : HerdChange} {body : OpBody} (hK : Keeps s0 s) : Keeps s0 (State.opPropose s h c body) := by
  unfold State.opPropose
  try dsimp only
  repeat' first
    | with_reducible assumption | with_reducible apply State.modOp_keeps | with_reducible apply State.propose_keeps
    | with_reducible apply Keeps.ite | fail_if_no_progress (with_reducible refine Keeps.upd ?_ rfl rfl) | intro _ | split
    | dsimp only

theorem State.forceVoters_keeps {s0 : State} {s : State} {ds : List Nat} (hK : Keeps s0 s) : Keeps s0 (State.forceVoters s ds) := by
  unfold State.forceVoters
  try dsimp only
  repeat' first
    | with_reducible assumption | with_reducible apply State.recordCommit_keeps
    | fail_if_no_progress (with_reducible refine Keeps.upd ?_ rfl rfl) | intro _ | split | dsimp only

theorem State.pairStandby_keeps {s0 : State} {s : State} {h hd f pf : Nat} {clear : Bool} (hK : Keeps s0 s) : Keeps s0 (State.pairStandby s h hd f pf clear) := by
  unfold State.pairStandby
  try dsimp only
  repeat' first
    | with_reducible assumption | with_reducible apply State.modOp_keeps | with_reducible apply State.request_keeps
    | with_reducible refine Keeps.getD ?_ ?_ | with_reducible refine Keeps.getD₂ ?_ ?_ | with_reducible apply Keeps.over
    | with_reducible apply Keeps.ite | fail_if_no_progress (with_reducible refine Keeps.upd ?_ rfl rfl) | intro _ | split
    | dsimp only

theorem State.domainStep_keeps {s0 : State} {s : State} {h : Nat} {op : Op} {r : HdomRec} {phase : Nat} (hK : Keeps s0 s) : Keeps s0 (State.domainStep s h op r phase) := by
  unfold State.domainStep
  try dsimp only
  repeat' first
    | with_reducible assumption | with_reducible apply State.modOp_keeps | with_reducible apply State.propose_keeps
    | with_reducible refine Keeps.mapE (by assumption) ?_ | with_reducible apply Keeps.ite
    | fail_if_no_progress (with_reducible refine Keeps.upd ?_ rfl rfl) | intro _ | split | dsimp only

theorem State.herdWork_keeps {s0 : State} {s : State} (hK : Keeps s0 s) : Keeps s0 (State.herdWork s) := by
  unfold State.herdWork
  try dsimp only
  repeat' first
    | with_reducible assumption | with_reducible apply State.modOp_keeps | with_reducible apply State.admitAccess_keeps
    | with_reducible apply State.formHerd_keeps | with_reducible apply State.startJoin_keeps
    | with_reducible apply State.opPropose_keeps | with_reducible apply State.forceVoters_keeps
    | with_reducible apply State.pairStandby_keeps | with_reducible apply State.domainStep_keeps
    | with_reducible apply Keeps.over | with_reducible apply Keeps.ite
    | fail_if_no_progress (with_reducible refine Keeps.upd ?_ rfl rfl) | intro _ | split | dsimp only

theorem State.tellReady_keeps {s0 : State} {s : State} (hK : Keeps s0 s) : Keeps s0 (State.tellReady s) := by
  unfold State.tellReady
  try dsimp only
  repeat' first
    | with_reducible assumption | with_reducible apply State.askRecords_keeps | with_reducible apply Keeps.ite
    | fail_if_no_progress (with_reducible refine Keeps.upd ?_ rfl rfl) | intro _ | split | dsimp only

theorem State.retryRebuilds_keeps {s0 : State} {s : State} (hK : Keeps s0 s) : Keeps s0 (State.retryRebuilds s) := by
  unfold State.retryRebuilds
  try dsimp only
  repeat' first
    | with_reducible assumption | with_reducible apply State.finishRebuild_keeps | with_reducible apply Keeps.over | intro _
    | split | dsimp only

theorem State.herdBoundary_keeps {s0 : State} {s : State} (hK : Keeps s0 s) : Keeps s0 (State.herdBoundary s) := by
  unfold State.herdBoundary
  try dsimp only
  repeat' first
    | with_reducible assumption | with_reducible apply State.linksBoundary_keeps
    | with_reducible apply State.adoptRecords_keeps | with_reducible apply State.releaseHeld_keeps
    | with_reducible apply State.timeBoundary_keeps | with_reducible apply State.herdWork_keeps
    | with_reducible apply State.tellReady_keeps | with_reducible apply State.moveSlice_keeps
    | with_reducible apply State.sendSyncs_keeps | with_reducible apply State.retryRebuilds_keeps
    | with_reducible apply State.drainIngress_keeps | with_reducible apply State.pump_keeps
    | with_reducible apply State.flushOut_keeps | with_reducible refine Keeps.mapE (by assumption) ?_
    | with_reducible apply Keeps.over | fail_if_no_progress (with_reducible refine Keeps.upd ?_ rfl rfl) | intro _ | split
    | dsimp only

theorem execHerdForm_keeps {t : State} {o : Origin} {p : Pkt} {s : State} (hE : execHerdForm o p s = .next t) : Keeps s t := by
  have hK := Keeps.refl s
  unfold execHerdForm at hE
  cases hE
  try dsimp only
  repeat' first
    | with_reducible assumption | with_reducible apply State.packet_keeps | exact cHerdForm_safe | intro _ | split | dsimp only

theorem execHerdAdmit_keeps {t : State} {o : Origin} {p : Pkt} {s : State} (hE : execHerdAdmit o p s = .next t) : Keeps s t := by
  have hK := Keeps.refl s
  unfold execHerdAdmit at hE
  cases hE
  try dsimp only
  repeat' first
    | with_reducible assumption | with_reducible apply State.packet_keeps | exact cHerdAdmit_safe | intro _ | split | dsimp only

theorem execHerdJoin_keeps {t : State} {o : Origin} {p : Pkt} {s : State} (hE : execHerdJoin o p s = .next t) : Keeps s t := by
  have hK := Keeps.refl s
  unfold execHerdJoin at hE
  cases hE
  try dsimp only
  repeat' first
    | with_reducible assumption | with_reducible apply State.packet_keeps | exact cHerdJoin_safe | intro _ | split | dsimp only

theorem execHerdRemove_keeps {t : State} {o : Origin} {p : Pkt} {s : State} (hE : execHerdRemove o p s = .next t) : Keeps s t := by
  have hK := Keeps.refl s
  unfold execHerdRemove at hE
  cases hE
  try dsimp only
  repeat' first
    | with_reducible assumption | with_reducible apply State.packet_keeps | exact cHerdRemove_safe | intro _ | split | dsimp only

theorem execHerdVoters_keeps {t : State} {o : Origin} {p : Pkt} {s : State} (hE : execHerdVoters o p s = .next t) : Keeps s t := by
  have hK := Keeps.refl s
  unfold execHerdVoters at hE
  cases hE
  try dsimp only
  repeat' first
    | with_reducible assumption | with_reducible apply State.packet_keeps | exact cHerdVoters_safe | intro _ | split | dsimp only

theorem execHerdDomainSet_keeps {t : State} {o : Origin} {p : Pkt} {s : State} (hE : execHerdDomainSet o p s = .next t) : Keeps s t := by
  have hK := Keeps.refl s
  unfold execHerdDomainSet at hE
  cases hE
  try dsimp only
  repeat' first
    | with_reducible assumption | with_reducible apply State.packet_keeps | exact cHerdDomainSet_safe | intro _ | split
    | dsimp only

theorem execRouteWrite_keeps {t : State} {o : Origin} {p : Pkt} {s : State} (hE : execRouteWrite o p s = .next t) : Keeps s t := by
  have hK := Keeps.refl s
  unfold execRouteWrite at hE
  cases hE
  try dsimp only
  repeat' first
    | with_reducible assumption | with_reducible apply State.packet_keeps | exact cRouteWrite_safe | intro _ | split | dsimp only

theorem execHerdRead_keeps {t : State} {o : Origin} {p : Pkt} {s : State} (hE : execHerdRead o p s = .next t) : Keeps s t := by
  have hK := Keeps.refl s
  unfold execHerdRead at hE
  cases hE
  try dsimp only
  repeat' first
    | with_reducible assumption | with_reducible apply State.packet_keeps | exact cHerdRead_safe | intro _ | split | dsimp only

theorem execHerdStandby_keeps {t : State} {o : Origin} {p : Pkt} {s : State} (hE : execHerdStandby o p s = .next t) : Keeps s t := by
  have hK := Keeps.refl s
  unfold execHerdStandby at hE
  cases hE
  try dsimp only
  repeat' first
    | with_reducible assumption | with_reducible apply State.packet_keeps | exact cHerdStandby_safe | intro _ | split
    | dsimp only

end Sys2Proof.Machine
end

