-- ==== Sys2Proof/Laws/KeepsDomains.lean ====
section
/-! SUPPORT. What the operations of Machine/Domains.lean keep (Keeps), one lemma per operation. -/

set_option linter.unusedTactic false
set_option linter.unreachableTactic false

namespace Sys2Proof.Machine

theorem State.modDom_keeps {s0 : State} {s : State} {slot : Nat} {g : Dom → Dom} (hK : Keeps s0 s) : Keeps s0 (State.modDom s slot g) := by
  unfold State.modDom
  try dsimp only
  repeat' first
    | with_reducible assumption | fail_if_no_progress (with_reducible refine Keeps.upd ?_ rfl rfl) | intro _ | split | dsimp only

theorem State.dropFields_keeps {s0 : State} {s : State} {slot : Nat} (hK : Keeps s0 s) : Keeps s0 (State.dropFields s slot) := by
  unfold State.dropFields
  try dsimp only
  repeat' first
    | with_reducible assumption | fail_if_no_progress (with_reducible refine Keeps.upd ?_ rfl rfl) | intro _ | split | dsimp only

theorem State.setSlotState_keeps {s0 : State} {s : State} {slot st : Nat} (hK : Keeps s0 s) : Keeps s0 (State.setSlotState s slot st) := by
  unfold State.setSlotState
  try dsimp only
  repeat' first
    | with_reducible assumption | with_reducible apply State.modDom_keeps | with_reducible apply State.dropFields_keeps
    | with_reducible apply Keeps.ite | fail_if_no_progress (with_reducible refine Keeps.upd ?_ rfl rfl) | intro _ | split
    | dsimp only

theorem cDomainActivate_safe  : (cDomainActivate).Safe := by
  intro s o p
  have hK := Keeps.refl s
  unfold cDomainActivate
  try unfold shortCmd
  try unfold longCmd
  try dsimp only
  repeat' first
    | with_reducible assumption | with_reducible apply deny_keeps | with_reducible refine deny_keepsE (by assumption) ?_
    | with_reducible apply State.modDom_keeps | with_reducible apply State.join_keeps
    | with_reducible refine State.join_keepsE (by assumption) ?_ | with_reducible apply State.later_keeps | exact shortCmd_safe
    | exact shortCmd_safe | exact shortCmd_safe _ _ _ | with_reducible apply Keeps.ite
    | fail_if_no_progress (with_reducible refine Keeps.upd ?_ rfl rfl) | intro _ | split | dsimp only

theorem cDomainUnpark_safe  : (cDomainUnpark).Safe := by
  intro s o p
  have hK := Keeps.refl s
  unfold cDomainUnpark
  try unfold shortCmd
  try unfold longCmd
  try dsimp only
  repeat' first
    | with_reducible assumption | with_reducible apply deny_keeps | with_reducible refine deny_keepsE (by assumption) ?_
    | with_reducible apply State.join_keeps | with_reducible refine State.join_keepsE (by assumption) ?_
    | with_reducible apply State.later_keeps | exact shortCmd_safe | exact shortCmd_safe _ _ _ | with_reducible apply Keeps.ite
    | intro _ | split | dsimp only

theorem cDomainQuery_safe  : (cDomainQuery).Safe := by
  intro s o p
  have hK := Keeps.refl s
  unfold cDomainQuery
  try unfold shortCmd
  try unfold longCmd
  try dsimp only
  repeat' first
    | with_reducible assumption | with_reducible apply done_keeps | with_reducible refine done_keepsE (by assumption) ?_
    | exact shortCmd_safe | intro _ | split | dsimp only

theorem cKeyLoad_safe  : (cKeyLoad).Safe := by
  intro s o p
  have hK := Keeps.refl s
  unfold cKeyLoad
  try unfold shortCmd
  try unfold longCmd
  try dsimp only
  repeat' first
    | with_reducible assumption | with_reducible apply deny_keeps | with_reducible refine deny_keepsE (by assumption) ?_
    | with_reducible apply done_keeps | with_reducible refine done_keepsE (by assumption) ?_
    | with_reducible apply State.modDom_keeps | exact shortCmd_safe | exact shortCmd_safe | exact shortCmd_safe _ _ _
    | with_reducible refine Keeps.bindE (by assumption) ?_ | with_reducible refine Keeps.bindS (by assumption) ?_
    | with_reducible apply Keeps.ite | fail_if_no_progress (with_reducible refine Keeps.upd ?_ rfl rfl) | intro _ | split
    | dsimp only

theorem cKeyDestroy_safe  : (cKeyDestroy).Safe := by
  intro s o p
  have hK := Keeps.refl s
  unfold cKeyDestroy
  try unfold shortCmd
  try unfold longCmd
  try dsimp only
  repeat' first
    | with_reducible assumption | with_reducible apply deny_keeps | with_reducible refine deny_keepsE (by assumption) ?_
    | with_reducible apply done_keeps | with_reducible refine done_keepsE (by assumption) ?_
    | with_reducible apply State.modDom_keeps | exact shortCmd_safe | exact shortCmd_safe | exact shortCmd_safe _ _ _
    | with_reducible apply Keeps.ite | fail_if_no_progress (with_reducible refine Keeps.upd ?_ rfl rfl) | intro _ | split
    | dsimp only

theorem State.keysBoundary_keeps {s0 : State} {s : State} (hK : Keeps s0 s) : Keeps s0 (State.keysBoundary s) := by
  unfold State.keysBoundary
  try dsimp only
  repeat' first
    | with_reducible assumption | with_reducible refine Keeps.mapE (by assumption) ?_ | with_reducible refine Keeps.getD ?_ ?_
    | with_reducible refine Keeps.getD₂ ?_ ?_ | fail_if_no_progress (with_reducible refine Keeps.upd ?_ rfl rfl) | intro _
    | split | dsimp only

theorem cDomainPark_safe  : (cDomainPark).Safe := by
  intro s o p
  have hK := Keeps.refl s
  unfold cDomainPark
  try unfold shortCmd
  try unfold longCmd
  try dsimp only
  repeat' first
    | with_reducible assumption | with_reducible apply deny_keeps | with_reducible refine deny_keepsE (by assumption) ?_
    | with_reducible apply State.join_keeps | with_reducible refine State.join_keepsE (by assumption) ?_ | exact longCmd_safe
    | exact shortCmd_safe | exact shortCmd_safe _ _ _ | with_reducible apply Keeps.ite | intro _ | split | dsimp only

theorem State.parkSlice_keeps {s0 : State} {s : State} {h slot phase : Nat} (hK : Keeps s0 s) : Keeps s0 (State.parkSlice s h slot phase) := by
  unfold State.parkSlice
  try dsimp only
  repeat' first
    | with_reducible assumption | with_reducible apply State.recallEntry_keeps | with_reducible apply State.modOp_keeps
    | with_reducible apply State.setBody_keeps | with_reducible apply State.evict_keeps | with_reducible apply done_keeps
    | with_reducible refine done_keepsE (by assumption) ?_ | with_reducible apply State.join_keeps
    | with_reducible refine State.join_keepsE (by assumption) ?_ | with_reducible apply Keeps.over
    | with_reducible apply Keeps.ite | fail_if_no_progress (with_reducible refine Keeps.upd ?_ rfl rfl) | intro _ | split
    | dsimp only

theorem cDomainErase_safe  : (cDomainErase).Safe := by
  intro s o p
  have hK := Keeps.refl s
  unfold cDomainErase
  try unfold shortCmd
  try unfold longCmd
  try dsimp only
  repeat' first
    | with_reducible assumption | with_reducible apply deny_keeps | with_reducible refine deny_keepsE (by assumption) ?_
    | with_reducible apply State.join_keeps | with_reducible refine State.join_keepsE (by assumption) ?_ | exact longCmd_safe
    | exact shortCmd_safe | exact shortCmd_safe _ _ _ | with_reducible apply Keeps.ite | intro _ | split | dsimp only

theorem State.erasePage_keeps {s0 : State} {s : State} {pk : Nat} (hK : Keeps s0 s) : Keeps s0 (State.erasePage s pk) := by
  unfold State.erasePage
  try dsimp only
  repeat' first
    | with_reducible assumption | with_reducible apply State.dropT0_keeps | with_reducible apply State.freeAt_keeps
    | with_reducible apply State.forget_keeps | with_reducible apply Keeps.over
    | fail_if_no_progress (with_reducible refine Keeps.upd ?_ rfl rfl) | intro _ | split | dsimp only

theorem State.eraseBegin_keeps {s0 : State} {s : State} {h slot : Nat} (hK : Keeps s0 s) : Keeps s0 (State.eraseBegin s h slot) := by
  unfold State.eraseBegin
  try dsimp only
  repeat' first
    | with_reducible assumption | with_reducible apply State.modDom_keeps | with_reducible apply State.modOp_keeps
    | with_reducible apply State.setBody_keeps | with_reducible refine Keeps.mapE (by assumption) ?_
    | with_reducible apply Keeps.over | fail_if_no_progress (with_reducible refine Keeps.upd ?_ rfl rfl) | intro _ | split
    | dsimp only

theorem State.eraseSlice_keeps {s0 : State} {s : State} {h slot phase : Nat} {todo : List Nat} (hK : Keeps s0 s) : Keeps s0 (State.eraseSlice s h slot phase todo) := by
  unfold State.eraseSlice
  try dsimp only
  repeat' first
    | with_reducible assumption | with_reducible apply State.modOp_keeps | with_reducible apply State.join_keeps
    | with_reducible refine State.join_keepsE (by assumption) ?_ | with_reducible apply State.setBody_keeps
    | with_reducible apply State.erasePage_keeps | with_reducible apply State.eraseBegin_keeps | with_reducible apply Keeps.over
    | with_reducible apply Keeps.ite | fail_if_no_progress (with_reducible refine Keeps.upd ?_ rfl rfl) | intro _ | split
    | dsimp only

theorem execDomainActivate_keeps {t : State} {o : Origin} {p : Pkt} {s : State} (hE : execDomainActivate o p s = .next t) : Keeps s t := by
  have hK := Keeps.refl s
  unfold execDomainActivate at hE
  cases hE
  try dsimp only
  repeat' first
    | with_reducible assumption | with_reducible apply State.packet_keeps | exact cDomainActivate_safe | intro _ | split
    | dsimp only

theorem execDomainPark_keeps {t : State} {o : Origin} {p : Pkt} {s : State} (hE : execDomainPark o p s = .next t) : Keeps s t := by
  have hK := Keeps.refl s
  unfold execDomainPark at hE
  cases hE
  try dsimp only
  repeat' first
    | with_reducible assumption | with_reducible apply State.packet_keeps | exact cDomainPark_safe | intro _ | split | dsimp only

theorem execDomainUnpark_keeps {t : State} {o : Origin} {p : Pkt} {s : State} (hE : execDomainUnpark o p s = .next t) : Keeps s t := by
  have hK := Keeps.refl s
  unfold execDomainUnpark at hE
  cases hE
  try dsimp only
  repeat' first
    | with_reducible assumption | with_reducible apply State.packet_keeps | exact cDomainUnpark_safe | intro _ | split
    | dsimp only

theorem execDomainErase_keeps {t : State} {o : Origin} {p : Pkt} {s : State} (hE : execDomainErase o p s = .next t) : Keeps s t := by
  have hK := Keeps.refl s
  unfold execDomainErase at hE
  cases hE
  try dsimp only
  repeat' first
    | with_reducible assumption | with_reducible apply State.packet_keeps | exact cDomainErase_safe | intro _ | split
    | dsimp only

theorem execDomainQuery_keeps {t : State} {o : Origin} {p : Pkt} {s : State} (hE : execDomainQuery o p s = .next t) : Keeps s t := by
  have hK := Keeps.refl s
  unfold execDomainQuery at hE
  cases hE
  try dsimp only
  repeat' first
    | with_reducible assumption | with_reducible apply State.packet_keeps | exact cDomainQuery_safe | intro _ | split
    | dsimp only

theorem execKeyLoad_keeps {t : State} {o : Origin} {p : Pkt} {s : State} (hE : execKeyLoad o p s = .next t) : Keeps s t := by
  have hK := Keeps.refl s
  unfold execKeyLoad at hE
  cases hE
  try dsimp only
  repeat' first
    | with_reducible assumption | with_reducible apply State.packet_keeps | exact cKeyLoad_safe | intro _ | split | dsimp only

theorem execKeyDestroy_keeps {t : State} {o : Origin} {p : Pkt} {s : State} (hE : execKeyDestroy o p s = .next t) : Keeps s t := by
  have hK := Keeps.refl s
  unfold execKeyDestroy at hE
  cases hE
  try dsimp only
  repeat' first
    | with_reducible assumption | with_reducible apply State.packet_keeps | exact cKeyDestroy_safe | intro _ | split | dsimp only

end Sys2Proof.Machine
end

