-- ==== Sys2Proof/Laws/KeepsFirmware.lean ====
section
/-! SUPPORT. What the operations of Machine/Firmware.lean keep (Keeps), one lemma per operation. -/

set_option linter.unusedTactic false
set_option linter.unreachableTactic false

namespace Sys2Proof.Machine

theorem State.setStandby_keeps {s0 : State} {s : State} {i : Option Image} {st : Nat} (hK : Keeps s0 s) : Keeps s0 (State.setStandby s i st) := by
  unfold State.setStandby
  try dsimp only
  repeat' first
    | with_reducible assumption | with_reducible apply Keeps.ite
    | fail_if_no_progress (with_reducible refine Keeps.upd ?_ rfl rfl) | intro _ | split | dsimp only

theorem cFwStage_safe {i : Image} : (cFwStage i).Safe := by
  intro s o p
  have hK := Keeps.refl s
  unfold cFwStage
  try unfold shortCmd
  try unfold longCmd
  try dsimp only
  repeat' first
    | with_reducible assumption | with_reducible apply deny_keeps | with_reducible refine deny_keepsE (by assumption) ?_
    | exact longCmd_safe | exact longCmd_safe _ _ _ | with_reducible apply Keeps.ite | intro _ | split | dsimp only

theorem State.fwStageSlice_keeps {s0 : State} {s : State} {h : Nat} {i : Image} {n cursor : Nat} (hK : Keeps s0 s) : Keeps s0 (State.fwStageSlice s h i n cursor) := by
  unfold State.fwStageSlice
  try dsimp only
  repeat' first
    | with_reducible assumption | with_reducible apply State.setStandby_keeps | with_reducible apply State.setBody_keeps
    | with_reducible apply State.ranTo_keeps | with_reducible apply State.setResults_keeps
    | with_reducible apply State.endOp_keeps | with_reducible apply Keeps.emit | with_reducible apply Keeps.ite | intro _
    | split | dsimp only

theorem cFwPrepare_safe  : (cFwPrepare).Safe := by
  intro s o p
  have hK := Keeps.refl s
  unfold cFwPrepare
  try unfold shortCmd
  try unfold longCmd
  try dsimp only
  repeat' first
    | with_reducible assumption | with_reducible apply deny_keeps | with_reducible refine deny_keepsE (by assumption) ?_
    | exact longCmd_safe | exact longCmd_safe _ _ _ | with_reducible apply Keeps.ite
    | fail_if_no_progress (with_reducible refine Keeps.upd ?_ rfl rfl) | intro _ | split | dsimp only

theorem State.fwPrepareSlice_keeps {s0 : State} {s : State} {h : Nat} (hK : Keeps s0 s) : Keeps s0 (State.fwPrepareSlice s h) := by
  unfold State.fwPrepareSlice
  try dsimp only
  repeat' first
    | with_reducible assumption | with_reducible apply State.endOp_keeps
    | fail_if_no_progress (with_reducible refine Keeps.upd ?_ rfl rfl) | intro _ | split | dsimp only

theorem cFwActivate_safe  : (cFwActivate).Safe := by
  intro s o p
  have hK := Keeps.refl s
  unfold cFwActivate
  try unfold shortCmd
  try unfold longCmd
  try dsimp only
  repeat' first
    | with_reducible assumption | with_reducible apply deny_keeps | with_reducible refine deny_keepsE (by assumption) ?_
    | exact longCmd_safe | exact longCmd_safe _ _ _ | with_reducible apply Keeps.ite
    | fail_if_no_progress (with_reducible refine Keeps.upd ?_ rfl rfl) | intro _ | split | dsimp only

theorem cFwCommit_safe  : (cFwCommit).Safe := by
  intro s o p
  have hK := Keeps.refl s
  unfold cFwCommit
  try unfold shortCmd
  try unfold longCmd
  try dsimp only
  repeat' first
    | with_reducible assumption | with_reducible apply done_keeps | with_reducible refine done_keepsE (by assumption) ?_
    | with_reducible apply deny_keeps | with_reducible refine deny_keepsE (by assumption) ?_ | exact shortCmd_safe
    | exact shortCmd_safe _ _ _ | refine Keeps.fuse ?_ (fun i x => by simp [BitVec.getLsbD_or, x]) (Nat.le_max_left _ _)
    | with_reducible apply Keeps.ite | fail_if_no_progress (with_reducible refine Keeps.upd ?_ rfl rfl) | intro _ | split
    | dsimp only

theorem cFwQuery_safe  : (cFwQuery).Safe := by
  intro s o p
  have hK := Keeps.refl s
  unfold cFwQuery
  try unfold shortCmd
  try unfold longCmd
  try dsimp only
  repeat' first
    | with_reducible assumption | with_reducible apply done_keeps | with_reducible refine done_keepsE (by assumption) ?_
    | exact shortCmd_safe | intro _ | split | dsimp only

theorem State.endActivation_keeps {s0 : State} {s : State} {h st status r0 : Nat} (hK : Keeps s0 s) : Keeps s0 (State.endActivation s h st status r0) := by
  unfold State.endActivation
  try dsimp only
  repeat' first
    | with_reducible assumption | with_reducible apply State.writeRecord_keeps | with_reducible apply State.modOp_keeps
    | fail_if_no_progress (with_reducible refine Keeps.upd ?_ rfl rfl) | intro _ | split | dsimp only

theorem execFirmwareHandover_keeps {t : State} {s : State} (hE : execFirmwareHandover s = .next t) : Keeps s t := by
  have hK := Keeps.refl s
  unfold execFirmwareHandover at hE
  cases hE
  try dsimp only
  repeat' first
    | with_reducible assumption | with_reducible apply State.restartMgmt_keeps | with_reducible apply State.endActivation_keeps
    | with_reducible apply Keeps.emit | with_reducible apply Keeps.ite
    | fail_if_no_progress (with_reducible refine Keeps.upd ?_ rfl rfl) | intro _ | split | dsimp only

theorem execFwActivateTimeout_keeps {t : State} {s : State} (hE : execFwActivateTimeout s = .next t) : Keeps s t := by
  have hK := Keeps.refl s
  unfold execFwActivateTimeout at hE
  cases hE
  try dsimp only
  repeat' first
    | with_reducible assumption | with_reducible apply State.endActivation_keeps | with_reducible apply Keeps.ite
    | fail_if_no_progress (with_reducible refine Keeps.upd ?_ rfl rfl) | intro _ | split | dsimp only

theorem execStandbySetReloaded_keeps {t : State} {s : State} (hE : execStandbySetReloaded s = .next t) : Keeps s t := by
  have hK := Keeps.refl s
  unfold execStandbySetReloaded at hE
  cases hE
  try dsimp only
  repeat' first
    | with_reducible assumption | with_reducible apply Keeps.ite
    | fail_if_no_progress (with_reducible refine Keeps.upd ?_ rfl rfl) | intro _ | split | dsimp only

theorem execPldmFirmwareUpdate_keeps {t : State} {image : Image} {s : State} (hE : execPldmFirmwareUpdate image s = .next t) : Keeps s t := by
  have hK := Keeps.refl s
  unfold execPldmFirmwareUpdate at hE
  cases hE
  try dsimp only
  repeat' first
    | with_reducible assumption | with_reducible apply State.setStandby_keeps | with_reducible apply Keeps.emit
    | with_reducible apply Keeps.ite | intro _ | split | dsimp only

theorem execFwStage_keeps {t : State} {o : Origin} {p : Pkt} {image : Image} {s : State} (hE : execFwStage o p image s = .next t) : Keeps s t := by
  have hK := Keeps.refl s
  unfold execFwStage at hE
  cases hE
  try dsimp only
  repeat' first
    | with_reducible assumption | with_reducible apply State.packet_keeps | exact cFwStage_safe | intro _ | split | dsimp only

theorem execFwPrepare_keeps {t : State} {o : Origin} {p : Pkt} {s : State} (hE : execFwPrepare o p s = .next t) : Keeps s t := by
  have hK := Keeps.refl s
  unfold execFwPrepare at hE
  cases hE
  try dsimp only
  repeat' first
    | with_reducible assumption | with_reducible apply State.packet_keeps | exact cFwPrepare_safe | intro _ | split | dsimp only

theorem execFwActivate_keeps {t : State} {o : Origin} {p : Pkt} {s : State} (hE : execFwActivate o p s = .next t) : Keeps s t := by
  have hK := Keeps.refl s
  unfold execFwActivate at hE
  cases hE
  try dsimp only
  repeat' first
    | with_reducible assumption | with_reducible apply State.packet_keeps | exact cFwActivate_safe | intro _ | split | dsimp only

theorem execFwCommit_keeps {t : State} {o : Origin} {p : Pkt} {s : State} (hE : execFwCommit o p s = .next t) : Keeps s t := by
  have hK := Keeps.refl s
  unfold execFwCommit at hE
  cases hE
  try dsimp only
  repeat' first
    | with_reducible assumption | with_reducible apply State.packet_keeps | exact cFwCommit_safe | intro _ | split | dsimp only

theorem execFwQuery_keeps {t : State} {o : Origin} {p : Pkt} {s : State} (hE : execFwQuery o p s = .next t) : Keeps s t := by
  have hK := Keeps.refl s
  unfold execFwQuery at hE
  cases hE
  try dsimp only
  repeat' first
    | with_reducible assumption | with_reducible apply State.packet_keeps | exact cFwQuery_safe | intro _ | split | dsimp only

theorem State.spdm_keeps {s0 : State} {s : State} {path : Nat} {f : State → Spdm → State} (hk_f : ∀ x0 x1, Keeps s0 x0 → Keeps s0 (f x0 x1)) (hK : Keeps s0 s) : Keeps s0 (State.spdm s path f) := by
  unfold State.spdm
  try dsimp only
  repeat' first
    | with_reducible assumption | with_reducible apply hk_f | with_reducible apply Keeps.ite | intro _ | split | dsimp only

theorem State.spdmFail_keeps {s0 : State} {s : State} {path err : Nat} (hK : Keeps s0 s) : Keeps s0 (State.spdmFail s path err) := by
  unfold State.spdmFail
  try dsimp only
  repeat' first
    | with_reducible assumption | with_reducible apply State.spdm_keeps | with_reducible apply Keeps.emit | intro _ | split
    | dsimp only

theorem State.setSpdm_keeps {s0 : State} {s : State} {path : Nat} {x : Spdm} (hK : Keeps s0 s) : Keeps s0 (State.setSpdm s path x) := by
  unfold State.setSpdm
  try dsimp only
  repeat' first
    | with_reducible assumption | with_reducible apply State.spdm_keeps
    | fail_if_no_progress (with_reducible refine Keeps.upd ?_ rfl rfl) | intro _ | split | dsimp only

theorem State.spdmReady_keeps {s0 : State} {s : State} {path : Nat} {f : State → Spdm → State} (hk_f : ∀ x0 x1, Keeps s0 x0 → Keeps s0 (f x0 x1)) (hK : Keeps s0 s) : Keeps s0 (State.spdmReady s path f) := by
  unfold State.spdmReady
  try dsimp only
  repeat' first
    | with_reducible assumption | with_reducible apply hk_f | with_reducible apply State.spdm_keeps
    | with_reducible apply State.spdmFail_keeps | with_reducible apply Keeps.ite | intro _ | split | dsimp only

theorem execGetVersion_keeps {t : State} {path : Nat} {s : State} (hE : execGetVersion path s = .next t) : Keeps s t := by
  have hK := Keeps.refl s
  unfold execGetVersion at hE
  cases hE
  try dsimp only
  repeat' first
    | with_reducible assumption | with_reducible apply State.spdm_keeps | with_reducible apply State.setSpdm_keeps
    | with_reducible apply Keeps.emit | fail_if_no_progress (with_reducible refine Keeps.upd ?_ rfl rfl) | intro _ | split
    | dsimp only

theorem execGetCapabilities_keeps {t : State} {path : Nat} {s : State} (hE : execGetCapabilities path s = .next t) : Keeps s t := by
  have hK := Keeps.refl s
  unfold execGetCapabilities at hE
  cases hE
  try dsimp only
  repeat' first
    | with_reducible assumption | with_reducible apply State.spdm_keeps | with_reducible apply State.spdmFail_keeps
    | with_reducible apply State.setSpdm_keeps | with_reducible apply Keeps.emit | with_reducible apply Keeps.ite
    | fail_if_no_progress (with_reducible refine Keeps.upd ?_ rfl rfl) | intro _ | split | dsimp only

theorem execNegotiateAlgorithms_keeps {t : State} {path : Nat} {s : State} (hE : execNegotiateAlgorithms path s = .next t) : Keeps s t := by
  have hK := Keeps.refl s
  unfold execNegotiateAlgorithms at hE
  cases hE
  try dsimp only
  repeat' first
    | with_reducible assumption | with_reducible apply State.spdm_keeps | with_reducible apply State.spdmFail_keeps
    | with_reducible apply State.setSpdm_keeps | with_reducible apply Keeps.emit | with_reducible apply Keeps.ite
    | fail_if_no_progress (with_reducible refine Keeps.upd ?_ rfl rfl) | intro _ | split | dsimp only

theorem execGetDigests_keeps {t : State} {path : Nat} {s : State} (hE : execGetDigests path s = .next t) : Keeps s t := by
  have hK := Keeps.refl s
  unfold execGetDigests at hE
  cases hE
  try dsimp only
  repeat' first
    | with_reducible assumption | with_reducible apply State.spdm_keeps | with_reducible apply State.spdmReady_keeps
    | with_reducible apply Keeps.emit | intro _ | split | dsimp only

theorem execGetCertificate_keeps {t : State} {path slot : Nat} {s : State} (hE : execGetCertificate path slot s = .next t) : Keeps s t := by
  have hK := Keeps.refl s
  unfold execGetCertificate at hE
  cases hE
  try dsimp only
  repeat' first
    | with_reducible assumption | with_reducible apply State.spdm_keeps | with_reducible apply State.spdmFail_keeps
    | with_reducible apply State.spdmReady_keeps | with_reducible apply Keeps.emit | with_reducible apply Keeps.ite | intro _
    | split | dsimp only

theorem execChallenge_keeps {t : State} {path slot : Nat} {nonce : List Byte} {s : State} (hE : execChallenge path slot nonce s = .next t) : Keeps s t := by
  have hK := Keeps.refl s
  unfold execChallenge at hE
  cases hE
  try dsimp only
  repeat' first
    | with_reducible assumption | with_reducible apply State.freeBytes_keeps
    | with_reducible refine State.freeBytes_keepsE (by assumption) ?_ | with_reducible apply State.spdm_keeps
    | with_reducible apply State.spdmFail_keeps | with_reducible apply State.spdmReady_keeps | with_reducible apply Keeps.emit
    | with_reducible apply Keeps.ite | intro _ | split | dsimp only

theorem execGetMeasurements_keeps {t : State} {path index : Nat} {s : State} (hE : execGetMeasurements path index s = .next t) : Keeps s t := by
  have hK := Keeps.refl s
  unfold execGetMeasurements at hE
  cases hE
  try dsimp only
  repeat' first
    | with_reducible assumption | with_reducible apply State.spdm_keeps | with_reducible apply State.spdmFail_keeps
    | with_reducible apply State.spdmReady_keeps | with_reducible apply Keeps.emit | with_reducible apply Keeps.ite | intro _
    | split | dsimp only

theorem execKeyExchange_keeps {t : State} {path : Nat} {owner : Bool} {s : State} (hE : execKeyExchange path owner s = .next t) : Keeps s t := by
  have hK := Keeps.refl s
  unfold execKeyExchange at hE
  cases hE
  try dsimp only
  repeat' first
    | with_reducible assumption | with_reducible apply State.freeBytes_keeps
    | with_reducible refine State.freeBytes_keepsE (by assumption) ?_ | with_reducible apply State.spdm_keeps
    | with_reducible apply State.setSpdm_keeps | with_reducible apply State.spdmReady_keeps | with_reducible apply Keeps.emit
    | with_reducible apply Keeps.emits | with_reducible apply Keeps.over | with_reducible apply Keeps.ite
    | fail_if_no_progress (with_reducible refine Keeps.upd ?_ rfl rfl) | intro _ | split | dsimp only

theorem State.onSession_keeps {s0 : State} {s : State} {path session : Nat} {ok : Bool → Bool} {f : List (Nat × Bool × Bool) → List (Nat × Bool × Bool)} {code : Nat} (hK : Keeps s0 s) : Keeps s0 (State.onSession s path session ok f code) := by
  unfold State.onSession
  try dsimp only
  repeat' first
    | with_reducible assumption | with_reducible apply State.spdm_keeps | with_reducible apply State.spdmFail_keeps
    | with_reducible apply State.setSpdm_keeps | with_reducible apply State.spdmReady_keeps | with_reducible apply Keeps.emit
    | with_reducible apply Keeps.ite | fail_if_no_progress (with_reducible refine Keeps.upd ?_ rfl rfl) | intro _ | split
    | dsimp only

theorem execFinish_keeps {t : State} {path session : Nat} {s : State} (hE : execFinish path session s = .next t) : Keeps s t := by
  have hK := Keeps.refl s
  unfold execFinish at hE
  cases hE
  try dsimp only
  repeat' first
    | with_reducible assumption | with_reducible apply State.onSession_keeps
    | with_reducible refine Keeps.mapE (by assumption) ?_ | with_reducible apply Keeps.ite | intro _ | split | dsimp only

theorem execKeyUpdate_keeps {t : State} {path session : Nat} {s : State} (hE : execKeyUpdate path session s = .next t) : Keeps s t := by
  have hK := Keeps.refl s
  unfold execKeyUpdate at hE
  cases hE
  try dsimp only
  repeat' first
    | with_reducible assumption | with_reducible apply State.onSession_keeps | intro _ | split | dsimp only

theorem execHeartbeat_keeps {t : State} {path session : Nat} {s : State} (hE : execHeartbeat path session s = .next t) : Keeps s t := by
  have hK := Keeps.refl s
  unfold execHeartbeat at hE
  cases hE
  try dsimp only
  repeat' first
    | with_reducible assumption | with_reducible apply State.onSession_keeps | intro _ | split | dsimp only

theorem execEndSession_keeps {t : State} {path session : Nat} {s : State} (hE : execEndSession path session s = .next t) : Keeps s t := by
  have hK := Keeps.refl s
  unfold execEndSession at hE
  cases hE
  try dsimp only
  repeat' first
    | with_reducible assumption | with_reducible apply State.onSession_keeps | intro _ | split | dsimp only

theorem execIdeKeyProgram_keeps {t : State} {head : Nat} {cachemem : Bool} {s : State} (hE : execIdeKeyProgram head cachemem s = .next t) : Keeps s t := by
  have hK := Keeps.refl s
  unfold execIdeKeyProgram at hE
  cases hE
  try dsimp only
  repeat' first
    | with_reducible assumption | with_reducible apply Keeps.ite
    | fail_if_no_progress (with_reducible refine Keeps.upd ?_ rfl rfl) | intro _ | split | dsimp only

theorem execIdeCheckFailure_keeps {t : State} {head : Nat} {s : State} (hE : execIdeCheckFailure head s = .next t) : Keeps s t := by
  have hK := Keeps.refl s
  unfold execIdeCheckFailure at hE
  cases hE
  try dsimp only
  repeat' first
    | with_reducible assumption | with_reducible apply State.logE_keeps | with_reducible apply Keeps.emit
    | with_reducible apply Keeps.ite | intro _ | split | dsimp only

end Sys2Proof.Machine
end

