-- ==== Sys2Proof/Laws/KeepsHeads.lean ====
section
/-! SUPPORT. What the operations of Machine/Heads.lean keep (Keeps), one lemma per operation. -/

set_option linter.unusedTactic false
set_option linter.unreachableTactic false

namespace Sys2Proof.Machine

theorem State.cancelFor_keeps {s0 : State} {s : State} {f : Nat} (hK : Keeps s0 s) : Keeps s0 (State.cancelFor s f) := by
  unfold State.cancelFor
  try dsimp only
  repeat' first
    | with_reducible assumption | with_reducible apply State.modOp_keeps | with_reducible apply Keeps.over
    | with_reducible apply Keeps.ite | fail_if_no_progress (with_reducible refine Keeps.upd ?_ rfl rfl) | intro _ | split
    | dsimp only

theorem State.cancelRuns_keeps {s0 : State} {s : State} {f : Nat} (hK : Keeps s0 s) : Keeps s0 (State.cancelRuns s f) := by
  unfold State.cancelRuns
  try dsimp only
  repeat' first
    | with_reducible assumption | with_reducible apply State.modOp_keeps | with_reducible apply State.modRun_keeps
    | with_reducible apply Keeps.over | with_reducible apply Keeps.ite
    | fail_if_no_progress (with_reducible refine Keeps.upd ?_ rfl rfl) | intro _ | split | dsimp only

theorem State.resetFunction_keeps {s0 : State} {s : State} {f cause : Nat} (hK : Keeps s0 s) : Keeps s0 (State.resetFunction s f cause) := by
  unfold State.resetFunction
  try dsimp only
  repeat' first
    | with_reducible assumption | with_reducible apply State.cancelFor_keeps | with_reducible apply State.cancelRuns_keeps
    | with_reducible apply State.updInta_keeps | with_reducible apply State.closeChans_keeps
    | with_reducible apply State.modFunc_keeps | fail_if_no_progress (with_reducible refine Keeps.upd ?_ rfl rfl) | intro _
    | split | dsimp only

theorem State.recallLd_keeps {s0 : State} {s : State} {ld : Nat} {silent : Bool} (hK : Keeps s0 s) : Keeps s0 (State.recallLd s ld silent) := by
  unfold State.recallLd
  try dsimp only
  repeat' first
    | with_reducible assumption | with_reducible apply Keeps.over
    | fail_if_no_progress (with_reducible refine Keeps.upd ?_ rfl rfl) | intro _ | split | dsimp only

theorem State.dropDecoders_keeps {s0 : State} {s : State} {ld : Nat} (hK : Keeps s0 s) : Keeps s0 (State.dropDecoders s ld) := by
  unfold State.dropDecoders
  try dsimp only
  repeat' first
    | with_reducible assumption | with_reducible apply State.modFunc_keeps
    | fail_if_no_progress (with_reducible refine Keeps.upd ?_ rfl rfl) | intro _ | split | dsimp only

theorem State.loseHead_keeps {s0 : State} {s : State} {h cause : Nat} (hK : Keeps s0 s) : Keeps s0 (State.loseHead s h cause) := by
  unfold State.loseHead
  try dsimp only
  repeat' first
    | with_reducible assumption | with_reducible apply State.modHead_keeps | with_reducible apply State.spdm_keeps
    | with_reducible apply State.resetFunction_keeps | with_reducible apply State.recallLd_keeps
    | with_reducible apply State.dropDecoders_keeps | with_reducible apply Keeps.over
    | fail_if_no_progress (with_reducible refine Keeps.upd ?_ rfl rfl) | intro _ | split | dsimp only

theorem execPerstNAssert_keeps {t : State} {head : Nat} {s : State} (hE : execPerstNAssert head s = .next t) : Keeps s t := by
  have hK := Keeps.refl s
  unfold execPerstNAssert at hE
  cases hE
  try dsimp only
  repeat' first
    | with_reducible assumption | with_reducible apply State.modHead_keeps | with_reducible apply State.loseHead_keeps
    | with_reducible apply Keeps.ite | fail_if_no_progress (with_reducible refine Keeps.upd ?_ rfl rfl) | intro _ | split
    | dsimp only

theorem execPerstNDeassert_keeps {t : State} {head : Nat} {s : State} (hE : execPerstNDeassert head s = .next t) : Keeps s t := by
  have hK := Keeps.refl s
  unfold execPerstNDeassert at hE
  cases hE
  try dsimp only
  repeat' first
    | with_reducible assumption | with_reducible apply State.modHead_keeps | with_reducible apply Keeps.ite
    | fail_if_no_progress (with_reducible refine Keeps.upd ?_ rfl rfl) | intro _ | split | dsimp only

theorem execHotReset_keeps {t : State} {head : Nat} {s : State} (hE : execHotReset head s = .next t) : Keeps s t := by
  have hK := Keeps.refl s
  unfold execHotReset at hE
  cases hE
  try dsimp only
  repeat' first
    | with_reducible assumption | with_reducible apply State.loseHead_keeps | with_reducible apply Keeps.ite | intro _ | split
    | dsimp only

theorem execLinkDisable_keeps {t : State} {head : Nat} {s : State} (hE : execLinkDisable head s = .next t) : Keeps s t := by
  have hK := Keeps.refl s
  unfold execLinkDisable at hE
  cases hE
  try dsimp only
  repeat' first
    | with_reducible assumption | with_reducible apply State.loseHead_keeps | with_reducible apply Keeps.ite | intro _ | split
    | dsimp only

theorem execHeadLinkLoss_keeps {t : State} {head : Nat} {s : State} (hE : execHeadLinkLoss head s = .next t) : Keeps s t := by
  have hK := Keeps.refl s
  unfold execHeadLinkLoss at hE
  cases hE
  try dsimp only
  repeat' first
    | with_reducible assumption | with_reducible apply State.loseHead_keeps | with_reducible apply Keeps.ite | intro _ | split
    | dsimp only

theorem execHeadLinkUp_keeps {t : State} {head rate width : Nat} {mld lopt flit256 : Bool} {s : State} (hE : execHeadLinkUp head rate width mld lopt flit256 s = .next t) : Keeps s t := by
  have hK := Keeps.refl s
  unfold execHeadLinkUp at hE
  cases hE
  try dsimp only
  repeat' first
    | with_reducible assumption | with_reducible apply State.logE_keeps | with_reducible apply State.modHead_keeps
    | with_reducible apply State.logScaled_keeps | with_reducible apply Keeps.ite
    | fail_if_no_progress (with_reducible refine Keeps.upd ?_ rfl rfl) | intro _ | split | dsimp only

theorem execLinkSpeedChange_keeps {t : State} {head rate width : Nat} {l0p : Bool} {s : State} (hE : execLinkSpeedChange head rate width l0p s = .next t) : Keeps s t := by
  have hK := Keeps.refl s
  unfold execLinkSpeedChange at hE
  cases hE
  try dsimp only
  repeat' first
    | with_reducible assumption | with_reducible apply State.modHead_keeps | with_reducible apply State.logScaled_keeps
    | with_reducible apply Keeps.ite | fail_if_no_progress (with_reducible refine Keeps.upd ?_ rfl rfl) | intro _ | split
    | dsimp only

theorem execFunctionLevelReset_keeps {t : State} {func : Nat} {s : State} (hE : execFunctionLevelReset func s = .next t) : Keeps s t := by
  have hK := Keeps.refl s
  unfold execFunctionLevelReset at hE
  cases hE
  try dsimp only
  repeat' first
    | with_reducible assumption | with_reducible apply State.resetFunction_keeps | with_reducible apply Keeps.ite | intro _
    | split | dsimp only

theorem execCxlReset_keeps {t : State} {func : Nat} {s : State} (hE : execCxlReset func s = .next t) : Keeps s t := by
  have hK := Keeps.refl s
  unfold execCxlReset at hE
  cases hE
  try dsimp only
  repeat' first
    | with_reducible assumption | with_reducible apply State.resetFunction_keeps | with_reducible apply State.recallLd_keeps
    | with_reducible apply State.dropDecoders_keeps | with_reducible apply Keeps.ite | intro _ | split | dsimp only

theorem execHdmDecoderCommit_keeps {t : State} {func i : Nat} {d : HdmDecoder} {s : State} (hE : execHdmDecoderCommit func i d s = .next t) : Keeps s t := by
  have hK := Keeps.refl s
  unfold execHdmDecoderCommit at hE
  cases hE
  try dsimp only
  repeat' first
    | with_reducible assumption | with_reducible apply State.modFunc_keeps | with_reducible apply State.request_keeps
    | with_reducible apply Keeps.over | with_reducible apply Keeps.ite
    | fail_if_no_progress (with_reducible refine Keeps.upd ?_ rfl rfl) | intro _ | split | dsimp only

theorem execIntxDisableWrite_keeps {t : State} {func : Nat} {disable : Bool} {s : State} (hE : execIntxDisableWrite func disable s = .next t) : Keeps s t := by
  have hK := Keeps.refl s
  unfold execIntxDisableWrite at hE
  cases hE
  try dsimp only
  repeat' first
    | with_reducible assumption | with_reducible apply State.modFunc_keeps | with_reducible apply State.updInta_keeps
    | with_reducible apply Keeps.ite | fail_if_no_progress (with_reducible refine Keeps.upd ?_ rfl rfl) | intro _ | split
    | dsimp only

theorem State.cfgDo_keeps {s0 : State} {s : State} {f : Nat} {r : CfgReq} (hK : Keeps s0 s) : Keeps s0 (State.cfgDo s f r) := by
  unfold State.cfgDo
  try dsimp only
  repeat' first
    | with_reducible assumption | with_reducible apply State.ignored_keeps | with_reducible apply State.modFunc_keeps
    | with_reducible apply State.updInta_keeps | with_reducible apply Keeps.emit | with_reducible apply Keeps.ite
    | fail_if_no_progress (with_reducible refine Keeps.upd ?_ rfl rfl) | intro _ | split | dsimp only

theorem execConfigurationRequest_keeps {t : State} {func : Nat} {r : CfgReq} {s : State} (hE : execConfigurationRequest func r s = .next t) : Keeps s t := by
  have hK := Keeps.refl s
  unfold execConfigurationRequest at hE
  cases hE
  try dsimp only
  repeat' first
    | with_reducible assumption | with_reducible apply State.cfgDo_keeps | with_reducible apply Keeps.emit
    | with_reducible apply Keeps.ite | intro _ | split | dsimp only

theorem execCompletionTimeout_keeps {t : State} {func : Nat} {d : Option (Nat × Bool)} {s : State} (hE : execCompletionTimeout func d s = .next t) : Keeps s t := by
  have hK := Keeps.refl s
  unfold execCompletionTimeout at hE
  cases hE
  try dsimp only
  repeat' first
    | with_reducible assumption | with_reducible apply State.modFunc_keeps | with_reducible apply State.faultQp_keeps
    | with_reducible apply State.dmaFailure_keeps | with_reducible apply Keeps.ite
    | fail_if_no_progress (with_reducible refine Keeps.upd ?_ rfl rfl) | intro _ | split | dsimp only

end Sys2Proof.Machine
end

