-- ==== Sys2Proof/Laws/KeepsMailbox.lean ====
section
/-! SUPPORT. What the operations of Machine/Mailbox.lean keep (Keeps), one lemma per operation. -/

set_option linter.unusedTactic false
set_option linter.unreachableTactic false

namespace Sys2Proof.Machine

theorem State.fm_keeps {s0 : State} {s : State} {path code : Nat} {vals : List Nat} (hK : Keeps s0 s) : Keeps s0 (State.fm s path code vals) := by
  unfold State.fm
  try dsimp only
  repeat' first
    | with_reducible assumption | with_reducible apply Keeps.emit | with_reducible apply Keeps.ite | intro _ | split | dsimp only

theorem execGetLdInfo_keeps {t : State} {head : Nat} {s : State} (hE : execGetLdInfo head s = .next t) : Keeps s t := by
  have hK := Keeps.refl s
  unfold execGetLdInfo at hE
  cases hE
  try dsimp only
  repeat' first
    | with_reducible assumption | with_reducible apply State.fm_keeps | intro _ | split | dsimp only

theorem execGetMhdInfo_keeps {t : State} {head : Nat} {s : State} (hE : execGetMhdInfo head s = .next t) : Keeps s t := by
  have hK := Keeps.refl s
  unfold execGetMhdInfo at hE
  cases hE
  try dsimp only
  repeat' first
    | with_reducible assumption | with_reducible apply State.fm_keeps | intro _ | split | dsimp only

theorem execGetQosStatus_keeps {t : State} {head : Nat} {s : State} (hE : execGetQosStatus head s = .next t) : Keeps s t := by
  have hK := Keeps.refl s
  unfold execGetQosStatus at hE
  cases hE
  try dsimp only
  repeat' first
    | with_reducible assumption | with_reducible apply State.fm_keeps | with_reducible apply Keeps.ite | intro _ | split
    | dsimp only

theorem execSetLdAllocations_keeps {t : State} {head : Nat} {s : State} (hE : execSetLdAllocations head s = .next t) : Keeps s t := by
  have hK := Keeps.refl s
  unfold execSetLdAllocations at hE
  cases hE
  try dsimp only
  repeat' first
    | with_reducible assumption | with_reducible apply State.fm_keeps | intro _ | split | dsimp only

theorem State.mbox_keeps {s0 : State} {s : State} {func : Nat} {f : State → State × Nat × List Nat} (hk_f : ∀ x0, Keeps s0 x0 → Keeps s0 (f x0).1) (hK : Keeps s0 s) : Keeps s0 (State.mbox s func f) := by
  unfold State.mbox
  try dsimp only
  repeat' first
    | with_reducible assumption | with_reducible apply hk_f | with_reducible apply Keeps.emit | with_reducible apply Keeps.ite
    | intro _ | split | dsimp only

theorem execIdentifyMemoryDevice_keeps {t : State} {func : Nat} {s : State} (hE : execIdentifyMemoryDevice func s = .next t) : Keeps s t := by
  have hK := Keeps.refl s
  unfold execIdentifyMemoryDevice at hE
  cases hE
  try dsimp only
  repeat' first
    | with_reducible assumption | with_reducible apply State.mbox_keeps | intro _ | split | dsimp only

theorem execGetEventRecords_keeps {t : State} {func log : Nat} {s : State} (hE : execGetEventRecords func log s = .next t) : Keeps s t := by
  have hK := Keeps.refl s
  unfold execGetEventRecords at hE
  cases hE
  try dsimp only
  repeat' first
    | with_reducible assumption | with_reducible apply State.mbox_keeps | with_reducible refine Keeps.getD ?_ ?_
    | with_reducible refine Keeps.getD₂ ?_ ?_ | with_reducible apply Keeps.ite | intro _ | split | dsimp only

theorem execClearEventRecords_keeps {t : State} {func log count : Nat} {s : State} (hE : execClearEventRecords func log count s = .next t) : Keeps s t := by
  have hK := Keeps.refl s
  unfold execClearEventRecords at hE
  cases hE
  try dsimp only
  repeat' first
    | with_reducible assumption | with_reducible apply State.modFunc_keeps | with_reducible apply State.mbox_keeps
    | with_reducible refine Keeps.getD ?_ ?_ | with_reducible refine Keeps.getD₂ ?_ ?_ | with_reducible apply Keeps.ite
    | fail_if_no_progress (with_reducible refine Keeps.upd ?_ rfl rfl) | intro _ | split | dsimp only

theorem execGetEventInterruptPolicy_keeps {t : State} {func : Nat} {s : State} (hE : execGetEventInterruptPolicy func s = .next t) : Keeps s t := by
  have hK := Keeps.refl s
  unfold execGetEventInterruptPolicy at hE
  cases hE
  try dsimp only
  repeat' first
    | with_reducible assumption | with_reducible apply State.mbox_keeps | with_reducible refine Keeps.mapE (by assumption) ?_
    | with_reducible refine Keeps.getD ?_ ?_ | with_reducible refine Keeps.getD₂ ?_ ?_ | intro _ | split | dsimp only

theorem execSetEventInterruptPolicy_keeps {t : State} {func : Nat} {policy : List Nat} {s : State} (hE : execSetEventInterruptPolicy func policy s = .next t) : Keeps s t := by
  have hK := Keeps.refl s
  unfold execSetEventInterruptPolicy at hE
  cases hE
  try dsimp only
  repeat' first
    | with_reducible assumption | with_reducible apply State.modFunc_keeps | with_reducible apply State.mbox_keeps
    | with_reducible apply Keeps.ite | fail_if_no_progress (with_reducible refine Keeps.upd ?_ rfl rfl) | intro _ | split
    | dsimp only

theorem execGetSupportedLogs_keeps {t : State} {func : Nat} {s : State} (hE : execGetSupportedLogs func s = .next t) : Keeps s t := by
  have hK := Keeps.refl s
  unfold execGetSupportedLogs at hE
  cases hE
  try dsimp only
  repeat' first
    | with_reducible assumption | with_reducible apply State.mbox_keeps | intro _ | split | dsimp only

theorem execGetLog_keeps {t : State} {func log : Nat} {s : State} (hE : execGetLog func log s = .next t) : Keeps s t := by
  have hK := Keeps.refl s
  unfold execGetLog at hE
  cases hE
  try dsimp only
  repeat' first
    | with_reducible assumption | with_reducible apply State.mbox_keeps | with_reducible apply Keeps.ite | intro _ | split
    | dsimp only

theorem execGetHealthInfo_keeps {t : State} {func : Nat} {s : State} (hE : execGetHealthInfo func s = .next t) : Keeps s t := by
  have hK := Keeps.refl s
  unfold execGetHealthInfo at hE
  cases hE
  try dsimp only
  repeat' first
    | with_reducible assumption | with_reducible apply State.mbox_keeps | intro _ | split | dsimp only

theorem execGetTimestamp_keeps {t : State} {func : Nat} {s : State} (hE : execGetTimestamp func s = .next t) : Keeps s t := by
  have hK := Keeps.refl s
  unfold execGetTimestamp at hE
  cases hE
  try dsimp only
  repeat' first
    | with_reducible assumption | with_reducible apply State.mbox_keeps | with_reducible apply Keeps.ite | intro _ | split
    | dsimp only

theorem execSetTimestamp_keeps {t : State} {func : Nat} {val : U64} {s : State} (hE : execSetTimestamp func val s = .next t) : Keeps s t := by
  have hK := Keeps.refl s
  unfold execSetTimestamp at hE
  cases hE
  try dsimp only
  repeat' first
    | with_reducible assumption | with_reducible apply State.modFunc_keeps | with_reducible apply State.mbox_keeps
    | fail_if_no_progress (with_reducible refine Keeps.upd ?_ rfl rfl) | intro _ | split | dsimp only

theorem execMailboxFirmwareUpdate_keeps {t : State} {func : Nat} {s : State} (hE : execMailboxFirmwareUpdate func s = .next t) : Keeps s t := by
  have hK := Keeps.refl s
  unfold execMailboxFirmwareUpdate at hE
  cases hE
  try dsimp only
  repeat' first
    | with_reducible assumption | with_reducible apply State.mbox_keeps | intro _ | split | dsimp only

end Sys2Proof.Machine
end

