-- ==== Sys2Proof/Laws/KeepsBoot.lean ====
section
/-! SUPPORT. What the operations of Machine/Boot.lean keep (Keeps), one lemma per operation. -/

set_option linter.unusedTactic false
set_option linter.unreachableTactic false

namespace Sys2Proof.Machine

theorem State.afterChipReset_keeps {s0 : State} {s : State} (hK : Keeps s0 s) : Keeps s0 (State.afterChipReset s) := by
  unfold State.afterChipReset
  try dsimp only
  repeat' first
    | with_reducible assumption | refine Keeps.fuse ?_ (fun i x => by simp [BitVec.getLsbD_or, x]) (Nat.le_max_left _ _)
    | (fail_if_no_progress refine Keeps.clear ?_ rfl rfl rfl) | fail_if_no_progress (with_reducible refine Keeps.upd ?_ rfl rfl)
    | intro _ | split | dsimp only

theorem execChipRstNAssert_keeps {t : State} {heldNs : Nat} {s : State} (hE : execChipRstNAssert heldNs s = .next t) : Keeps s t := by
  have hK := Keeps.refl s
  unfold execChipRstNAssert at hE
  cases hE
  try dsimp only
  repeat' first
    | with_reducible assumption | with_reducible apply State.afterChipReset_keeps | with_reducible apply Keeps.ite | intro _
    | split | dsimp only

theorem execChipRstNDeassert_keeps {t : State} {f : Fuses} {s : State} (hE : execChipRstNDeassert f s = .next t) : Keeps s t := by
  have hK := Keeps.refl s
  unfold execChipRstNDeassert at hE
  cases hE
  try dsimp only
  repeat' first
    | with_reducible assumption | refine Keeps.fuse ?_ (fun i x => by simp [BitVec.getLsbD_or, x]) (Nat.le_max_left _ _)
    | with_reducible apply Keeps.ite | fail_if_no_progress (with_reducible refine Keeps.upd ?_ rfl rfl) | intro _ | split
    | dsimp only

theorem execBootRomComplete_keeps {t : State} {marker : List Byte} {imgA imgB : Option Image} {s : State} (hE : execBootRomComplete marker imgA imgB s = .next t) : Keeps s t := by
  have hK := Keeps.refl s
  unfold execBootRomComplete at hE
  cases hE
  try dsimp only
  repeat' first
    | with_reducible assumption | with_reducible apply Keeps.ite
    | fail_if_no_progress (with_reducible refine Keeps.upd ?_ rfl rfl) | intro _ | split | dsimp only

theorem execCoreInitComplete_keeps {t : State} {s : State} (hE : execCoreInitComplete s = .next t) : Keeps s t := by
  have hK := Keeps.refl s
  unfold execCoreInitComplete at hE
  cases hE
  try dsimp only
  repeat' first
    | with_reducible assumption | with_reducible apply Keeps.ite
    | fail_if_no_progress (with_reducible refine Keeps.upd ?_ rfl rfl) | intro _ | split | dsimp only

theorem execTrainComplete_keeps {t : State} {failedPcs : List (Nat × Nat)} {flash : Option FlashPop} {s : State} (hE : execTrainComplete failedPcs flash s = .next t) : Keeps s t := by
  have hK := Keeps.refl s
  unfold execTrainComplete at hE
  cases hE
  try dsimp only
  repeat' first
    | with_reducible assumption | with_reducible apply State.logE_keeps | with_reducible apply State.modPc_keeps
    | with_reducible apply State.modBlock_keeps | with_reducible refine Keeps.mapE (by assumption) ?_
    | with_reducible apply Keeps.over | with_reducible apply Keeps.ite
    | fail_if_no_progress (with_reducible refine Keeps.upd ?_ rfl rfl) | intro _ | split | dsimp only

theorem execConfigComplete_keeps {t : State} {trayRecord : List Byte} {toActiveMs : Nat} {s : State} (hE : execConfigComplete trayRecord toActiveMs s = .next t) : Keeps s t := by
  have hK := Keeps.refl s
  unfold execConfigComplete at hE
  cases hE
  try dsimp only
  repeat' first
    | with_reducible assumption | with_reducible apply State.setCaps_keeps | with_reducible apply State.enterActive_keeps
    | with_reducible refine Keeps.mapE (by assumption) ?_ | with_reducible apply Keeps.ite
    | fail_if_no_progress (with_reducible refine Keeps.upd ?_ rfl rfl) | intro _ | split | dsimp only

theorem State.keepTemps_keeps {s0 : State} {s : State} {temps : List (BitVec 16)} (hK : Keeps s0 s) : Keeps s0 (State.keepTemps s temps) := by
  unfold State.keepTemps
  try dsimp only
  repeat' first
    | with_reducible assumption | with_reducible refine Keeps.getD ?_ ?_ | with_reducible refine Keeps.getD₂ ?_ ?_
    | with_reducible apply Keeps.over | with_reducible apply Keeps.ite
    | fail_if_no_progress (with_reducible refine Keeps.upd ?_ rfl rfl) | intro _ | split | dsimp only

theorem State.trip_keeps {s0 : State} {s : State} (hK : Keeps s0 s) : Keeps s0 (State.trip s) := by
  unfold State.trip
  try dsimp only
  repeat' first
    | with_reducible assumption | (fail_if_no_progress refine Keeps.clear ?_ rfl rfl rfl)
    | with_reducible refine Keeps.mapE (by assumption) ?_ | fail_if_no_progress (with_reducible refine Keeps.upd ?_ rfl rfl)
    | intro _ | split | dsimp only

theorem execThermalSample_keeps {t : State} {temps : List (BitVec 16)} {watts : Nat} {s : State} (hE : execThermalSample temps watts s = .next t) : Keeps s t := by
  have hK := Keeps.refl s
  unfold execThermalSample at hE
  cases hE
  try dsimp only
  repeat' first
    | with_reducible assumption | with_reducible apply State.keepTemps_keeps | with_reducible apply State.trip_keeps
    | with_reducible apply Keeps.ite | fail_if_no_progress (with_reducible refine Keeps.upd ?_ rfl rfl) | intro _ | split
    | dsimp only

end Sys2Proof.Machine
end

