-- ==== Sys2Proof/Laws/KeepsRegisters.lean ====
section
/-! SUPPORT. What the operations of Machine/Registers.lean keep (Keeps), one lemma per operation. -/

set_option linter.unusedTactic false
set_option linter.unreachableTactic false

namespace Sys2Proof.Machine

/-- No counter's place is one of what `Keeps` speaks of. -/
theorem counters_keeps {s0 s : State} {f : Nat} {v : U64} {c : Counter} (hc : c ∈ counters) (hK : Keeps s0 s) : Keeps s0 (c.put s f v) := by
  simp only [counters, countersA, countersB, countersC, List.mem_append, List.mem_cons, List.not_mem_nil, or_false] at hc
  rcases hc with (hc | hc) | hc <;> (repeat' rcases hc with rfl | hc) <;>
    first
    | (subst hc; exact Keeps.upd hK rfl rfl)
    | exact Keeps.upd hK rfl rfl
    | (subst hc; exact State.modFunc_keeps hK)
    | exact State.modFunc_keeps hK

theorem State.clearCounters_keeps {s0 : State} {s : State} {mask : Nat} (hK : Keeps s0 s) : Keeps s0 (State.clearCounters s mask) := by
  unfold State.clearCounters
  exact Keeps.overMem (fun s c hc h => counters_keeps (List.mem_filter.1 hc).1 h) hK

theorem State.clearDue_keeps {s0 : State} {s : State} (hK : Keeps s0 s) : Keeps s0 (State.clearDue s) := by
  unfold State.clearDue
  try dsimp only
  repeat' first
    | with_reducible assumption | with_reducible apply State.clearCounters_keeps | with_reducible apply Keeps.ite
    | fail_if_no_progress (with_reducible refine Keeps.upd ?_ rfl rfl) | intro _ | split | dsimp only

theorem State.pop1_keeps {s0 : State} {s : State} {func : Nat} (hK : Keeps s0 s) : Keeps s0 (State.pop1 s func) := by
  unfold State.pop1
  try dsimp only
  repeat' first
    | with_reducible assumption | fail_if_no_progress (with_reducible refine Keeps.upd ?_ rfl rfl) | intro _ | split | dsimp only

theorem State.openWord_keeps {s0 : State} {s : State} {off : Nat} (hK : Keeps s0 s) : Keeps s0 (State.openWord s off).1 := by
  unfold State.openWord
  try dsimp only
  repeat' first
    | with_reducible assumption | with_reducible apply State.freeWord_keeps
    | with_reducible refine State.freeWord_keepsE (by assumption) ?_ | with_reducible apply Keeps.ite | intro _ | split
    | dsimp only

theorem State.openWord_keepsE {s0 tK : State} {s : State} {off : Nat} {y : Nat} (hE : State.openWord s off = (tK, y)) (hK : Keeps s0 s) : Keeps s0 tK := by
  have k := State.openWord_keeps (s := s) (off := off) (hK := hK)
  rw [hE] at k
  exact k

theorem State.readLow_keeps {s0 : State} {s : State} {func off : Nat} (hK : Keeps s0 s) : Keeps s0 (State.readLow s func off) := by
  unfold State.readLow
  try dsimp only
  repeat' first
    | with_reducible assumption | with_reducible apply State.modFunc_keeps | with_reducible apply State.pop1_keeps
    | with_reducible apply State.openWord_keeps | with_reducible refine State.openWord_keepsE (by assumption) ?_
    | with_reducible apply Keeps.emit | with_reducible apply Keeps.ite
    | fail_if_no_progress (with_reducible refine Keeps.upd ?_ rfl rfl) | intro _ | split | dsimp only

theorem State.readHigh_keeps {s0 : State} {s : State} {func off : Nat} (hK : Keeps s0 s) : Keeps s0 (State.readHigh s func off) := by
  unfold State.readHigh
  try dsimp only
  repeat' first
    | with_reducible assumption | with_reducible apply State.modFunc_keeps | with_reducible apply State.openWord_keeps
    | with_reducible refine State.openWord_keepsE (by assumption) ?_ | with_reducible apply Keeps.emit
    | with_reducible apply Keeps.ite | fail_if_no_progress (with_reducible refine Keeps.upd ?_ rfl rfl) | intro _ | split
    | dsimp only

theorem State.popRead_keeps {s0 : State} {s : State} {func : Nat} {part : Part} (hK : Keeps s0 s) : Keeps s0 (State.popRead s func part) := by
  unfold State.popRead
  try dsimp only
  repeat' first
    | with_reducible assumption | with_reducible apply State.pop1_keeps | with_reducible apply State.readLow_keeps
    | with_reducible apply State.readHigh_keeps | with_reducible apply Keeps.emit | intro _ | split | dsimp only

theorem execGlbLogPopRead_keeps {t : State} {func : Nat} {part : Part} {s : State} (hE : execGlbLogPopRead func part s = .next t) : Keeps s t := by
  have hK := Keeps.refl s
  unfold execGlbLogPopRead at hE
  cases hE
  try dsimp only
  repeat' first
    | with_reducible assumption | with_reducible apply State.popRead_keeps | with_reducible apply Keeps.ite | intro _ | split
    | dsimp only

theorem execLowHalfRead_keeps {t : State} {func off : Nat} {s : State} (hE : execLowHalfRead func off s = .next t) : Keeps s t := by
  have hK := Keeps.refl s
  unfold execLowHalfRead at hE
  cases hE
  try dsimp only
  repeat' first
    | with_reducible assumption | with_reducible apply State.readLow_keeps | with_reducible apply Keeps.emit
    | with_reducible apply Keeps.ite | intro _ | split | dsimp only

theorem execHighHalfRead_keeps {t : State} {func off : Nat} {s : State} (hE : execHighHalfRead func off s = .next t) : Keeps s t := by
  have hK := Keeps.refl s
  unfold execHighHalfRead at hE
  cases hE
  try dsimp only
  repeat' first
    | with_reducible assumption | with_reducible apply State.readHigh_keeps | with_reducible apply Keeps.emit
    | with_reducible apply Keeps.ite | intro _ | split | dsimp only

/-- Nor is a selection register's. -/
theorem rwRegs_keeps {s0 s : State} {f : Nat} {v : U64} {r : RwReg} (hr : r ∈ rwRegs) (hK : Keeps s0 s) : Keeps s0 (r.put s f v) := by
  simp only [rwRegs, List.mem_cons, List.not_mem_nil, or_false] at hr
  (repeat' rcases hr with rfl | hr) <;>
    first
    | (subst hr; exact Keeps.upd hK rfl rfl)
    | exact Keeps.upd hK rfl rfl
    | exact State.modCmq_keeps hK

theorem RwReg.write_keeps {s0 : State} {r : RwReg} {s : State} {func : Nat} {part : Part} {val : U64} (hr : r ∈ rwRegs)
    (hK : Keeps s0 s) : Keeps s0 (RwReg.write r s func part val) := by
  unfold RwReg.write
  exact rwRegs_keeps hr hK

theorem State.writeBridleSel_keeps {s0 : State} {s : State} {func : Nat} {part : Part} {val : U64} (hK : Keeps s0 s) : Keeps s0 (State.writeBridleSel s func part val) := by
  unfold State.writeBridleSel
  try dsimp only
  repeat' first
    | with_reducible assumption | with_reducible apply State.ignored_keeps | with_reducible apply Keeps.ite
    | fail_if_no_progress (with_reducible refine Keeps.upd ?_ rfl rfl) | intro _ | split | dsimp only

theorem State.writePcSel_keeps {s0 : State} {s : State} {func : Nat} {part : Part} {val : U64} (hK : Keeps s0 s) : Keeps s0 (State.writePcSel s func part val) := by
  unfold State.writePcSel
  try dsimp only
  repeat' first
    | with_reducible assumption | with_reducible apply State.ignored_keeps | with_reducible apply Keeps.ite
    | fail_if_no_progress (with_reducible refine Keeps.upd ?_ rfl rfl) | intro _ | split | dsimp only

theorem State.writeTempSel_keeps {s0 : State} {s : State} {func : Nat} {part : Part} {val : U64} (hK : Keeps s0 s) : Keeps s0 (State.writeTempSel s func part val) := by
  unfold State.writeTempSel
  try dsimp only
  repeat' first
    | with_reducible assumption | with_reducible apply State.ignored_keeps | with_reducible apply Keeps.ite
    | fail_if_no_progress (with_reducible refine Keeps.upd ?_ rfl rfl) | intro _ | split | dsimp only

theorem State.writeTrace_keeps {s0 : State} {s : State} {func : Nat} {part : Part} {val : U64} (hK : Keeps s0 s) : Keeps s0 (State.writeTrace s func part val) := by
  unfold State.writeTrace
  try dsimp only
  repeat' first
    | with_reducible assumption | with_reducible apply State.ignored_keeps | with_reducible apply Keeps.ite
    | fail_if_no_progress (with_reducible refine Keeps.upd ?_ rfl rfl) | intro _ | split | dsimp only

theorem State.writeCntClear_keeps {s0 : State} {s : State} {func : Nat} {part : Part} {val : U64} (hK : Keeps s0 s) : Keeps s0 (State.writeCntClear s func part val) := by
  unfold State.writeCntClear
  try dsimp only
  repeat' first
    | with_reducible assumption | with_reducible apply State.ignored_keeps | with_reducible apply Keeps.ite
    | fail_if_no_progress (with_reducible refine Keeps.upd ?_ rfl rfl) | intro _ | split | dsimp only

theorem State.writeSemForce_keeps {s0 : State} {s : State} {func : Nat} {part : Part} {val : U64} (hK : Keeps s0 s) : Keeps s0 (State.writeSemForce s func part val) := by
  unfold State.writeSemForce
  try dsimp only
  repeat' first
    | with_reducible assumption | with_reducible apply State.ignored_keeps | with_reducible apply Keeps.ite
    | fail_if_no_progress (with_reducible refine Keeps.upd ?_ rfl rfl) | intro _ | split | dsimp only

theorem State.ownerWrite_keeps {s0 : State} {s : State} {func off : Nat} {val : U64} {f : State → State} (hk_f : ∀ x0, Keeps s0 x0 → Keeps s0 (f x0)) (hK : Keeps s0 s) : Keeps s0 (State.ownerWrite s func off val f) := by
  unfold State.ownerWrite
  try dsimp only
  repeat' first
    | with_reducible assumption | with_reducible apply hk_f | with_reducible apply State.ignored_keeps
    | with_reducible apply Keeps.ite | intro _ | split | dsimp only

theorem execStrBridleSelWrite_keeps {t : State} {func : Nat} {part : Part} {val : U64} {s : State} (hE : execStrBridleSelWrite func part val s = .next t) : Keeps s t := by
  have hK := Keeps.refl s
  unfold execStrBridleSelWrite at hE
  cases hE
  try dsimp only
  repeat' first
    | with_reducible assumption | with_reducible apply State.writeBridleSel_keeps | with_reducible apply State.ownerWrite_keeps
    | intro _ | split | dsimp only

theorem execDrmPcSelWrite_keeps {t : State} {func : Nat} {part : Part} {val : U64} {s : State} (hE : execDrmPcSelWrite func part val s = .next t) : Keeps s t := by
  have hK := Keeps.refl s
  unfold execDrmPcSelWrite at hE
  cases hE
  try dsimp only
  repeat' first
    | with_reducible assumption | with_reducible apply State.writePcSel_keeps | with_reducible apply State.ownerWrite_keeps
    | intro _ | split | dsimp only

theorem execPmuTempSelWrite_keeps {t : State} {func : Nat} {part : Part} {val : U64} {s : State} (hE : execPmuTempSelWrite func part val s = .next t) : Keeps s t := by
  have hK := Keeps.refl s
  unfold execPmuTempSelWrite at hE
  cases hE
  try dsimp only
  repeat' first
    | with_reducible assumption | with_reducible apply State.writeTempSel_keeps | with_reducible apply State.ownerWrite_keeps
    | intro _ | split | dsimp only

theorem execGlbCntClearWrite_keeps {t : State} {func : Nat} {part : Part} {val : U64} {s : State} (hE : execGlbCntClearWrite func part val s = .next t) : Keeps s t := by
  have hK := Keeps.refl s
  unfold execGlbCntClearWrite at hE
  cases hE
  try dsimp only
  repeat' first
    | with_reducible assumption | with_reducible apply State.writeCntClear_keeps | with_reducible apply Keeps.ite | intro _
    | split | dsimp only

theorem execTstSemForceWrite_keeps {t : State} {func : Nat} {part : Part} {val : U64} {s : State} (hE : execTstSemForceWrite func part val s = .next t) : Keeps s t := by
  have hK := Keeps.refl s
  unfold execTstSemForceWrite at hE
  cases hE
  try dsimp only
  repeat' first
    | with_reducible assumption | with_reducible apply State.writeSemForce_keeps | with_reducible apply State.ownerWrite_keeps
    | intro _ | split | dsimp only

theorem execTstTraceWrite_keeps {t : State} {func : Nat} {part : Part} {val : U64} {s : State} (hE : execTstTraceWrite func part val s = .next t) : Keeps s t := by
  have hK := Keeps.refl s
  unfold execTstTraceWrite at hE
  cases hE
  try dsimp only
  repeat' first
    | with_reducible assumption | with_reducible apply State.writeTrace_keeps | with_reducible apply State.ownerWrite_keeps
    | intro _ | split | dsimp only

theorem State.clearStatus_keepsE {s0 tK : State} {s : State} {func off : Nat} {w : U64} (hE : State.clearStatus s func off w = some tK) (hK : Keeps s0 s) : Keeps s0 tK := by
  revert hE
  unfold State.clearStatus
  try dsimp only
  repeat' first
    | with_reducible assumption | (intro hE; cases hE; done) | (intro hE; cases hE) | with_reducible apply State.modFunc_keeps
    | with_reducible apply State.modCmq_keeps | with_reducible apply State.lateRead_keeps
    | with_reducible refine Keeps.someIf (by assumption) ?_ | with_reducible apply Keeps.ite
    | fail_if_no_progress (with_reducible refine Keeps.upd ?_ rfl rfl) | dsimp only | split | intro _

theorem State.writeReg_keeps {s0 : State} {s : State} {func off : Nat} {part : Part} {val : U64} (hK : Keeps s0 s) : Keeps s0 (State.writeReg s func off part val) := by
  unfold State.writeReg
  try dsimp only
  repeat' first
    | with_reducible assumption | exact RwReg.write_keeps (List.mem_of_find?_eq_some (by assumption)) (by assumption)
    | exact counters_keeps (List.mem_of_find?_eq_some (by assumption)) (by assumption) | with_reducible apply State.ignored_keeps | with_reducible apply State.writeCtrl_keeps
    | with_reducible apply State.writeBase_keeps | with_reducible apply State.writeBridleSel_keeps
    | with_reducible apply State.writePcSel_keeps | with_reducible apply State.writeTempSel_keeps
    | with_reducible apply State.writeTrace_keeps | with_reducible apply State.writeCntClear_keeps
    | with_reducible apply State.writeSemForce_keeps | with_reducible refine State.clearStatus_keepsE (by assumption) ?_
    | with_reducible apply Keeps.ite | intro _ | split | dsimp only

theorem State.doorbell_keeps {s0 : State} {s : State} {func off size : Nat} {val : U64} (hK : Keeps s0 s) : Keeps s0 (State.doorbell s func off size val) := by
  unfold State.doorbell
  try dsimp only
  repeat' first
    | with_reducible assumption | with_reducible apply State.ignored_keeps | with_reducible apply State.sqTailWrite_keeps
    | with_reducible apply State.rqHeadWrite_keeps | with_reducible apply Keeps.ite | intro _ | split | dsimp only

theorem State.windowWrite_keeps {s0 : State} {s : State} {func : Nat} {w : WinWrite} (hK : Keeps s0 s) : Keeps s0 (State.windowWrite s func w) := by
  unfold State.windowWrite
  try dsimp only
  repeat' first
    | with_reducible assumption | with_reducible apply State.ignored_keeps | with_reducible apply State.writeReg_keeps
    | with_reducible apply State.doorbell_keeps | with_reducible apply Keeps.ite | intro _ | split | dsimp only

theorem execRegisterWrite_keeps {t : State} {func : Nat} {w : WinWrite} {s : State} (hE : execRegisterWrite func w s = .next t) : Keeps s t := by
  have hK := Keeps.refl s
  unfold execRegisterWrite at hE
  cases hE
  try dsimp only
  repeat' first
    | with_reducible assumption | with_reducible apply State.windowWrite_keeps | with_reducible apply Keeps.ite | intro _ | split
    | dsimp only

end Sys2Proof.Machine
end

