-- ==== Sys2Proof/Laws/KeepsTestOps.lean ====
section
/-! SUPPORT. What the operations of Machine/TestOps.lean keep (Keeps), one lemma per operation. -/

set_option linter.unusedTactic false
set_option linter.unreachableTactic false

namespace Sys2Proof.Machine

theorem cDressageLoad_safe  : (cDressageLoad).Safe := by
  intro s o p
  have hK := Keeps.refl s
  unfold cDressageLoad
  try unfold shortCmd
  try unfold longCmd
  try dsimp only
  repeat' first
    | with_reducible assumption | with_reducible apply deny_keeps | with_reducible refine deny_keepsE (by assumption) ?_
    | exact longCmd_safe | exact longCmd_safe _ _ _ | with_reducible apply Keeps.ite | intro _ | split | dsimp only

theorem State.dressageSlice_keeps {s0 : State} {s : State} {h cursor : Nat} {b : List Byte} (hK : Keeps s0 s) : Keeps s0 (State.dressageSlice s h cursor b) := by
  unfold State.dressageSlice
  try dsimp only
  repeat' first
    | with_reducible assumption | with_reducible apply State.setBody_keeps | with_reducible apply State.ranTo_keeps
    | with_reducible apply State.endOp_keeps | with_reducible apply Keeps.ite | intro _ | split | dsimp only

theorem State.installTable_keeps {s0 : State} {s : State} {b : List Byte} (hK : Keeps s0 s) : Keeps s0 (State.installTable s b) := by
  unfold State.installTable
  try dsimp only
  repeat' first
    | with_reducible assumption | fail_if_no_progress (with_reducible refine Keeps.upd ?_ rfl rfl) | intro _ | split | dsimp only

theorem cDressageDrop_safe  : (cDressageDrop).Safe := by
  intro s o p
  have hK := Keeps.refl s
  unfold cDressageDrop
  try unfold shortCmd
  try unfold longCmd
  try dsimp only
  repeat' first
    | with_reducible assumption | with_reducible apply deny_keeps | with_reducible refine deny_keepsE (by assumption) ?_
    | with_reducible apply done_keeps | with_reducible refine done_keepsE (by assumption) ?_ | exact shortCmd_safe
    | exact shortCmd_safe | exact shortCmd_safe _ _ _ | with_reducible apply Keeps.ite
    | fail_if_no_progress (with_reducible refine Keeps.upd ?_ rfl rfl) | intro _ | split | dsimp only

theorem State.dressageBoundary_keeps {s0 : State} {s : State} (hK : Keeps s0 s) : Keeps s0 (State.dressageBoundary s) := by
  unfold State.dressageBoundary
  try dsimp only
  repeat' first
    | with_reducible assumption | with_reducible apply State.diverge_keeps | with_reducible apply Keeps.ite
    | fail_if_no_progress (with_reducible refine Keeps.upd ?_ rfl rfl) | intro _ | split | dsimp only

theorem State.dressageField_keeps {s0 : State} {s : State} {old : Nat} (hK : Keeps s0 s) : Keeps s0 (State.dressageField s old) := by
  unfold State.dressageField
  try dsimp only
  repeat' first
    | with_reducible assumption | with_reducible apply Keeps.ite
    | fail_if_no_progress (with_reducible refine Keeps.upd ?_ rfl rfl) | intro _ | split | dsimp only

theorem cDressageQuery_safe  : (cDressageQuery).Safe := by
  intro s o p
  have hK := Keeps.refl s
  unfold cDressageQuery
  try unfold shortCmd
  try unfold longCmd
  try dsimp only
  repeat' first
    | with_reducible assumption | with_reducible apply deny_keeps | with_reducible refine deny_keepsE (by assumption) ?_
    | with_reducible apply doneData_keeps | with_reducible refine doneData_keepsE (by assumption) ?_ | exact shortCmd_safe
    | exact shortCmd_safe _ _ _ | with_reducible apply Keeps.ite | intro _ | split | dsimp only

theorem cSelftestLogic_safe  : (cSelftestLogic).Safe := by
  intro s o p
  have hK := Keeps.refl s
  unfold cSelftestLogic
  try unfold shortCmd
  try unfold longCmd
  try dsimp only
  repeat' first
    | with_reducible assumption | with_reducible apply deny_keeps | with_reducible refine deny_keepsE (by assumption) ?_
    | exact longCmd_safe | exact longCmd_safe _ _ _ | with_reducible apply Keeps.ite
    | fail_if_no_progress (with_reducible refine Keeps.upd ?_ rfl rfl) | intro _ | split | dsimp only

theorem State.logicSlice_keeps {s0 : State} {s : State} {h kind unit cursor : Nat} (hK : Keeps s0 s) : Keeps s0 (State.logicSlice s h kind unit cursor) := by
  unfold State.logicSlice
  try dsimp only
  repeat' first
    | with_reducible assumption | with_reducible apply State.freeWord_keeps
    | with_reducible refine State.freeWord_keepsE (by assumption) ?_ | with_reducible apply State.setBody_keeps
    | with_reducible apply State.ranTo_keeps | with_reducible apply State.endOp_keeps
    | with_reducible apply State.setResults_keeps | with_reducible apply Keeps.ite | intro _ | split | dsimp only

theorem State.logicOver_keeps {s0 : State} {s : State} {kind unit status : Nat} (hK : Keeps s0 s) : Keeps s0 (State.logicOver s kind unit status) := by
  unfold State.logicOver
  try dsimp only
  repeat' first
    | with_reducible assumption | with_reducible apply State.modLane_keeps | with_reducible apply Keeps.ite
    | fail_if_no_progress (with_reducible refine Keeps.upd ?_ rfl rfl) | intro _ | split | dsimp only

theorem cSelftestStore_safe  : (cSelftestStore).Safe := by
  intro s o p
  have hK := Keeps.refl s
  unfold cSelftestStore
  try unfold shortCmd
  try unfold longCmd
  try dsimp only
  repeat' first
    | with_reducible assumption | with_reducible apply deny_keeps | with_reducible refine deny_keepsE (by assumption) ?_
    | exact longCmd_safe | exact longCmd_safe _ _ _ | with_reducible apply Keeps.ite | intro _ | split | dsimp only

theorem State.openResults_keeps {s0 : State} {s : State} {h lines : Nat} (hK : Keeps s0 s) : Keeps s0 (State.openResults s h lines) := by
  unfold State.openResults
  try dsimp only
  repeat' first
    | with_reducible assumption | with_reducible apply State.freeWord_keeps
    | with_reducible refine State.freeWord_keepsE (by assumption) ?_ | with_reducible apply State.modOp_keeps
    | with_reducible apply State.endOp_keeps | with_reducible apply State.setResults_keeps | with_reducible apply Keeps.ite
    | fail_if_no_progress (with_reducible refine Keeps.upd ?_ rfl rfl) | intro _ | split | dsimp only

theorem State.listedResults_keeps {s0 : State} {s : State} {h failing first : Nat} {locs : List Nat} (hK : Keeps s0 s) : Keeps s0 (State.listedResults s h failing first locs) := by
  unfold State.listedResults
  try dsimp only
  repeat' first
    | with_reducible assumption | with_reducible apply State.modOp_keeps | with_reducible apply State.endOp_keeps
    | with_reducible apply Keeps.ite | fail_if_no_progress (with_reducible refine Keeps.upd ?_ rfl rfl) | intro _ | split
    | dsimp only

theorem State.storeSlice_keeps {s0 : State} {s : State} {h die mode bank cursor failing first : Nat} {locs : List Nat} (hK : Keeps s0 s) : Keeps s0 (State.storeSlice s h die mode bank cursor failing first locs) := by
  unfold State.storeSlice
  try dsimp only
  repeat' first
    | with_reducible assumption | with_reducible apply State.setBody_keeps | with_reducible apply State.ranTo_keeps
    | with_reducible apply State.scrubLine_keeps | with_reducible refine State.scrubLine_keepsE (by assumption) ?_
    | with_reducible apply State.openResults_keeps | with_reducible apply State.listedResults_keeps
    | with_reducible refine Keeps.mapE (by assumption) ?_ | with_reducible refine Keeps.getD ?_ ?_
    | with_reducible refine Keeps.getD₂ ?_ ?_ | with_reducible apply Keeps.foldl | with_reducible apply Keeps.fold
    | with_reducible refine Keeps.foldE (by assumption) ?_ ?_ | with_reducible apply Keeps.ite | intro _ | split | dsimp only

theorem cSelftestStack_safe  : (cSelftestStack).Safe := by
  intro s o p
  have hK := Keeps.refl s
  unfold cSelftestStack
  try unfold shortCmd
  try unfold longCmd
  try dsimp only
  repeat' first
    | with_reducible assumption | with_reducible apply deny_keeps | with_reducible refine deny_keepsE (by assumption) ?_
    | with_reducible apply State.modPc_keeps | exact longCmd_safe | exact shortCmd_safe | exact shortCmd_safe _ _ _
    | with_reducible apply Keeps.over | with_reducible apply Keeps.ite
    | fail_if_no_progress (with_reducible refine Keeps.upd ?_ rfl rfl) | intro _ | split | dsimp only

theorem State.stackSlice_keeps {s0 : State} {s : State} {h k : Nat} {offline : Bool} {mask cursor : Nat} (hK : Keeps s0 s) : Keeps s0 (State.stackSlice s h k offline mask cursor) := by
  unfold State.stackSlice
  try dsimp only
  repeat' first
    | with_reducible assumption | with_reducible apply State.modPc_keeps | with_reducible apply State.setBody_keeps
    | with_reducible apply State.ranTo_keeps | with_reducible apply State.openResults_keeps
    | with_reducible refine Keeps.mapE (by assumption) ?_ | with_reducible apply Keeps.over | with_reducible apply Keeps.ite
    | intro _ | split | dsimp only

theorem cDebugUnlock_safe  : (cDebugUnlock).Safe := by
  intro s o p
  have hK := Keeps.refl s
  unfold cDebugUnlock
  try unfold shortCmd
  try unfold longCmd
  try dsimp only
  repeat' first
    | with_reducible assumption | with_reducible apply State.logE_keeps | with_reducible apply done_keeps
    | with_reducible refine done_keepsE (by assumption) ?_ | with_reducible apply deny_keeps
    | with_reducible refine deny_keepsE (by assumption) ?_ | exact shortCmd_safe | exact shortCmd_safe _ _ _
    | with_reducible apply Keeps.ite | fail_if_no_progress (with_reducible refine Keeps.upd ?_ rfl rfl) | intro _ | split
    | dsimp only

theorem cDebugLock_safe  : (cDebugLock).Safe := by
  intro s o p
  have hK := Keeps.refl s
  unfold cDebugLock
  try unfold shortCmd
  try unfold longCmd
  try dsimp only
  repeat' first
    | with_reducible assumption | with_reducible apply done_keeps | with_reducible refine done_keepsE (by assumption) ?_
    | exact shortCmd_safe | fail_if_no_progress (with_reducible refine Keeps.upd ?_ rfl rfl) | intro _ | split | dsimp only

theorem State.modCore_keeps {s0 : State} {s : State} {n : Nat} {g : Core → Core} (hK : Keeps s0 s) : Keeps s0 (State.modCore s n g) := by
  unfold State.modCore
  try dsimp only
  repeat' first
    | with_reducible assumption | fail_if_no_progress (with_reducible refine Keeps.upd ?_ rfl rfl) | intro _ | split | dsimp only

theorem State.moveSems_keeps {s0 : State} {s : State} {core old new : Nat} (hK : Keeps s0 s) : Keeps s0 (State.moveSems s core old new) := by
  unfold State.moveSems
  try dsimp only
  repeat' first
    | with_reducible assumption | with_reducible refine Keeps.mapE (by assumption) ?_ | with_reducible apply Keeps.ite
    | fail_if_no_progress (with_reducible refine Keeps.upd ?_ rfl rfl) | intro _ | split | dsimp only

theorem State.haltHart_keeps {s0 : State} {s : State} {n : Nat} (hK : Keeps s0 s) : Keeps s0 (State.haltHart s n) := by
  unfold State.haltHart
  try dsimp only
  repeat' first
    | with_reducible assumption | with_reducible apply State.diverge_keeps | with_reducible apply State.modCore_keeps
    | with_reducible apply State.moveSems_keeps | with_reducible apply Keeps.ite
    | fail_if_no_progress (with_reducible refine Keeps.upd ?_ rfl rfl) | intro _ | split | dsimp only

theorem State.resumeHart_keeps {s0 : State} {s : State} {n : Nat} (hK : Keeps s0 s) : Keeps s0 (State.resumeHart s n) := by
  unfold State.resumeHart
  try dsimp only
  repeat' first
    | with_reducible assumption | with_reducible apply State.modCore_keeps | with_reducible apply State.moveSems_keeps
    | with_reducible apply Keeps.ite | fail_if_no_progress (with_reducible refine Keeps.upd ?_ rfl rfl) | intro _ | split
    | dsimp only

theorem execHartHalt_keeps {t : State} {hart : Nat} {s : State} (hE : execHartHalt hart s = .next t) : Keeps s t := by
  have hK := Keeps.refl s
  unfold execHartHalt at hE
  cases hE
  try dsimp only
  repeat' first
    | with_reducible assumption | with_reducible apply State.haltHart_keeps | with_reducible apply Keeps.ite | intro _ | split
    | dsimp only

theorem execHartResume_keeps {t : State} {hart : Nat} {cmd : Option Nat} {s : State} (hE : execHartResume hart cmd s = .next t) : Keeps s t := by
  have hK := Keeps.refl s
  unfold execHartResume at hE
  cases hE
  try dsimp only
  repeat' first
    | with_reducible assumption | with_reducible apply State.resumeHart_keeps | with_reducible apply State.abortHeld_keeps
    | with_reducible refine Keeps.someIf (by assumption) ?_ | with_reducible apply Keeps.ite | intro _ | split | dsimp only

theorem State.traceOff_keeps {s0 : State} {s : State} (hK : Keeps s0 s) : Keeps s0 (State.traceOff s) := by
  unfold State.traceOff
  try dsimp only
  repeat' first
    | with_reducible assumption | fail_if_no_progress (with_reducible refine Keeps.upd ?_ rfl rfl) | intro _ | split | dsimp only

theorem State.levelZero_keeps {s0 : State} {s : State} (hK : Keeps s0 s) : Keeps s0 (State.levelZero s) := by
  unfold State.levelZero
  try dsimp only
  repeat' first
    | with_reducible assumption | with_reducible apply State.logE_keeps | with_reducible apply Keeps.ite
    | fail_if_no_progress (with_reducible refine Keeps.upd ?_ rfl rfl) | intro _ | split | dsimp only

theorem State.lockStep_keeps {s0 : State} {s : State} (hK : Keeps s0 s) : Keeps s0 (State.lockStep s) := by
  unfold State.lockStep
  try dsimp only
  repeat' first
    | with_reducible assumption | with_reducible apply State.resumeHart_keeps | with_reducible apply State.traceOff_keeps
    | with_reducible apply State.levelZero_keeps | with_reducible apply Keeps.over | with_reducible apply Keeps.ite
    | fail_if_no_progress (with_reducible refine Keeps.upd ?_ rfl rfl) | intro _ | split | dsimp only

theorem State.debugBoundary_keeps {s0 : State} {s : State} (hK : Keeps s0 s) : Keeps s0 (State.debugBoundary s) := by
  unfold State.debugBoundary
  try dsimp only
  repeat' first
    | with_reducible assumption | with_reducible apply State.lockStep_keeps | with_reducible apply Keeps.ite
    | fail_if_no_progress (with_reducible refine Keeps.upd ?_ rfl rfl) | intro _ | split | dsimp only

theorem State.admissionRecs_keeps {s0 : State} {s : State} (hK : Keeps s0 s) : Keeps s0 (State.admissionRecs s) := by
  unfold State.admissionRecs
  try dsimp only
  repeat' first
    | with_reducible assumption | with_reducible apply State.traceRec_keeps | with_reducible apply State.freeWord_keeps
    | with_reducible refine State.freeWord_keepsE (by assumption) ?_ | with_reducible refine Keeps.mapE (by assumption) ?_
    | with_reducible apply Keeps.over | with_reducible apply Keeps.ite | intro _ | split | dsimp only

theorem State.traceOut_keeps {s0 : State} {s : State} (hK : Keeps s0 s) : Keeps s0 (State.traceOut s) := by
  unfold State.traceOut
  try dsimp only
  repeat' first
    | with_reducible assumption | with_reducible apply State.admissionRecs_keeps | with_reducible apply Keeps.emit
    | with_reducible refine Keeps.mapE (by assumption) ?_ | with_reducible refine Keeps.getD ?_ ?_
    | with_reducible refine Keeps.getD₂ ?_ ?_ | with_reducible apply Keeps.ite
    | fail_if_no_progress (with_reducible refine Keeps.upd ?_ rfl rfl) | intro _ | split | dsimp only

theorem State.traceBoundary_keeps {s0 : State} {s : State} (hK : Keeps s0 s) : Keeps s0 (State.traceBoundary s) := by
  unfold State.traceBoundary
  try dsimp only
  repeat' first
    | with_reducible assumption | with_reducible apply State.traceRec_keeps | with_reducible apply Keeps.ite | intro _ | split
    | dsimp only

theorem State.peek_keeps {s0 : State} {s : State} {a : Nat} (hK : Keeps s0 s) : Keeps s0 (State.peek s a) := by
  unfold State.peek
  try dsimp only
  repeat' first
    | with_reducible assumption | with_reducible apply State.modPc_keeps | with_reducible apply State.openWord_keeps
    | with_reducible refine State.openWord_keepsE (by assumption) ?_ | with_reducible apply State.logOpen_keeps
    | with_reducible apply Keeps.emit | with_reducible apply Keeps.ite
    | fail_if_no_progress (with_reducible refine Keeps.upd ?_ rfl rfl) | intro _ | split | dsimp only

theorem State.busRead_keeps {s0 : State} {s : State} {a : Nat} (hK : Keeps s0 s) : Keeps s0 (State.busRead s a) := by
  unfold State.busRead
  try dsimp only
  repeat' first
    | with_reducible assumption | with_reducible apply State.peek_keeps | with_reducible apply Keeps.emit
    | with_reducible apply Keeps.ite | intro _ | split | dsimp only

theorem State.busWrite_keeps {s0 : State} {s : State} {a : Nat} {d : List Byte} (hK : Keeps s0 s) : Keeps s0 (State.busWrite s a d) := by
  unfold State.busWrite
  try dsimp only
  repeat' first
    | with_reducible assumption | with_reducible apply State.logOpen_keeps | with_reducible apply State.writeLine_keeps
    | with_reducible apply State.windowWrite_keeps | with_reducible apply Keeps.ite
    | fail_if_no_progress (with_reducible refine Keeps.upd ?_ rfl rfl) | intro _ | split | dsimp only

theorem execPeek_keeps {t : State} {addr : Nat} {s : State} (hE : execPeek addr s = .next t) : Keeps s t := by
  have hK := Keeps.refl s
  unfold execPeek at hE
  cases hE
  try dsimp only
  repeat' first
    | with_reducible assumption | with_reducible apply State.busRead_keeps | intro _ | split | dsimp only

theorem execSystemBusWrite_keeps {t : State} {addr : Nat} {data : List Byte} {s : State} (hE : execSystemBusWrite addr data s = .next t) : Keeps s t := by
  have hK := Keeps.refl s
  unfold execSystemBusWrite at hE
  cases hE
  try dsimp only
  repeat' first
    | with_reducible assumption | with_reducible apply State.busWrite_keeps | intro _ | split | dsimp only

theorem execTapInstruction_keeps {t : State} {code : Byte} {s : State} (hE : execTapInstruction code s = .next t) : Keeps s t := by
  have hK := Keeps.refl s
  unfold execTapInstruction at hE
  cases hE
  try dsimp only
  repeat' first
    | with_reducible assumption | with_reducible apply Keeps.emit | with_reducible apply Keeps.ite
    | fail_if_no_progress (with_reducible refine Keeps.upd ?_ rfl rfl) | intro _ | split | dsimp only

theorem execTapReset_keeps {t : State} {s : State} (hE : execTapReset s = .next t) : Keeps s t := by
  have hK := Keeps.refl s
  unfold execTapReset at hE
  cases hE
  try dsimp only
  repeat' first
    | with_reducible assumption | fail_if_no_progress (with_reducible refine Keeps.upd ?_ rfl rfl) | intro _ | split | dsimp only

theorem State.accessReg_keeps {s0 : State} {s : State} {hart num : Nat} {write : Bool} {val : U64} (hK : Keeps s0 s) : Keeps s0 (State.accessReg s hart num write val) := by
  unfold State.accessReg
  try dsimp only
  repeat' first
    | with_reducible assumption | with_reducible apply State.freeWord_keeps
    | with_reducible refine State.freeWord_keepsE (by assumption) ?_ | with_reducible apply Keeps.emit
    | with_reducible apply Keeps.ite | fail_if_no_progress (with_reducible refine Keeps.upd ?_ rfl rfl) | intro _ | split
    | dsimp only

theorem State.dmiFull_keeps {s0 : State} {s : State} {op : DmiOp} (hK : Keeps s0 s) : Keeps s0 (State.dmiFull s op) := by
  unfold State.dmiFull
  try dsimp only
  repeat' first
    | with_reducible assumption | with_reducible apply State.freeWord_keeps
    | with_reducible refine State.freeWord_keepsE (by assumption) ?_ | with_reducible apply State.modCore_keeps
    | with_reducible apply State.haltHart_keeps | with_reducible apply State.resumeHart_keeps
    | with_reducible apply State.peek_keeps | with_reducible apply State.busWrite_keeps
    | with_reducible apply State.accessReg_keeps | with_reducible apply Keeps.emit | with_reducible refine Keeps.getD ?_ ?_
    | with_reducible refine Keeps.getD₂ ?_ ?_ | with_reducible apply Keeps.ite
    | fail_if_no_progress (with_reducible refine Keeps.upd ?_ rfl rfl) | intro _ | split | dsimp only

theorem execDmiAccess_keeps {t : State} {op : DmiOp} {s : State} (hE : execDmiAccess op s = .next t) : Keeps s t := by
  have hK := Keeps.refl s
  unfold execDmiAccess at hE
  cases hE
  try dsimp only
  repeat' first
    | with_reducible assumption | with_reducible apply State.logOpen_keeps | with_reducible apply State.dmiFull_keeps
    | with_reducible apply Keeps.emit | with_reducible apply Keeps.ite | intro _ | split | dsimp only

theorem execSelftestLogic_keeps {t : State} {o : Origin} {p : Pkt} {s : State} (hE : execSelftestLogic o p s = .next t) : Keeps s t := by
  have hK := Keeps.refl s
  unfold execSelftestLogic at hE
  cases hE
  try dsimp only
  repeat' first
    | with_reducible assumption | with_reducible apply State.packet_keeps | exact cSelftestLogic_safe | intro _ | split
    | dsimp only

theorem execSelftestStore_keeps {t : State} {o : Origin} {p : Pkt} {s : State} (hE : execSelftestStore o p s = .next t) : Keeps s t := by
  have hK := Keeps.refl s
  unfold execSelftestStore at hE
  cases hE
  try dsimp only
  repeat' first
    | with_reducible assumption | with_reducible apply State.packet_keeps | exact cSelftestStore_safe | intro _ | split
    | dsimp only

theorem execSelftestStack_keeps {t : State} {o : Origin} {p : Pkt} {s : State} (hE : execSelftestStack o p s = .next t) : Keeps s t := by
  have hK := Keeps.refl s
  unfold execSelftestStack at hE
  cases hE
  try dsimp only
  repeat' first
    | with_reducible assumption | with_reducible apply State.packet_keeps | exact cSelftestStack_safe | intro _ | split
    | dsimp only

theorem execDressageLoad_keeps {t : State} {o : Origin} {p : Pkt} {s : State} (hE : execDressageLoad o p s = .next t) : Keeps s t := by
  have hK := Keeps.refl s
  unfold execDressageLoad at hE
  cases hE
  try dsimp only
  repeat' first
    | with_reducible assumption | with_reducible apply State.packet_keeps | exact cDressageLoad_safe | intro _ | split
    | dsimp only

theorem execDressageDrop_keeps {t : State} {o : Origin} {p : Pkt} {s : State} (hE : execDressageDrop o p s = .next t) : Keeps s t := by
  have hK := Keeps.refl s
  unfold execDressageDrop at hE
  cases hE
  try dsimp only
  repeat' first
    | with_reducible assumption | with_reducible apply State.packet_keeps | exact cDressageDrop_safe | intro _ | split
    | dsimp only

theorem execDressageQuery_keeps {t : State} {o : Origin} {p : Pkt} {s : State} (hE : execDressageQuery o p s = .next t) : Keeps s t := by
  have hK := Keeps.refl s
  unfold execDressageQuery at hE
  cases hE
  try dsimp only
  repeat' first
    | with_reducible assumption | with_reducible apply State.packet_keeps | exact cDressageQuery_safe | intro _ | split
    | dsimp only

theorem execDebugUnlock_keeps {t : State} {o : Origin} {p : Pkt} {s : State} (hE : execDebugUnlock o p s = .next t) : Keeps s t := by
  have hK := Keeps.refl s
  unfold execDebugUnlock at hE
  cases hE
  try dsimp only
  repeat' first
    | with_reducible assumption | with_reducible apply State.packet_keeps | exact cDebugUnlock_safe | intro _ | split
    | dsimp only

theorem execDebugLock_keeps {t : State} {o : Origin} {p : Pkt} {s : State} (hE : execDebugLock o p s = .next t) : Keeps s t := by
  have hK := Keeps.refl s
  unfold execDebugLock at hE
  cases hE
  try dsimp only
  repeat' first
    | with_reducible assumption | with_reducible apply State.packet_keeps | exact cDebugLock_safe | intro _ | split | dsimp only

end Sys2Proof.Machine
end

