-- ==== Sys2Proof/Laws/KeepsCommands.lean ====
section
/-! SUPPORT. What the operations of Machine/Commands.lean keep (Keeps), one lemma per operation. -/

set_option linter.unusedTactic false
set_option linter.unreachableTactic false

namespace Sys2Proof.Machine

theorem addressCmds_safe : ∀ c ∈ addressCmds, c.Safe := by
  simp only [addressCmds, List.forall_mem_cons]
  exact ⟨cExtentGrant_safe, cExtentRelease_safe, cTetherRenew_safe, cExtentList_safe, cWindowSet_safe, cImpressionOpen_safe,
    cImpressionClose_safe, cImpressionQuery_safe, cDirRecall_safe, cStreamLoad_safe, cStreamRun_safe, cStreamUnload_safe,
    cStreamQuery_safe, fun _ h => absurd h List.not_mem_nil⟩

theorem engineCmds_safe : ∀ c ∈ engineCmds, c.Safe := by
  simp only [engineCmds, List.forall_mem_cons]
  exact ⟨cOperBind_safe, cOperUnbind_safe, cOperStep_safe, cOperRoundClose_safe, cOperQuery_safe, cDigestOpen_safe,
    cDigestClose_safe, cDigestRead_safe, cDmaChanOpen_safe, cDmaChanStop_safe, cDmaChanClose_safe, cDmaKick_safe,
    cDmaChanQuery_safe, fun _ h => absurd h List.not_mem_nil⟩

theorem storageCmds_safe : ∀ c ∈ storageCmds, c.Safe := by
  simp only [storageCmds, List.forall_mem_cons]
  exact ⟨cPlaceMove_safe, cPlateQuery_safe, cPlateDiscard_safe, cSegmentDefine_safe, cProofPass_safe, cSegmentDrop_safe,
    cSegmentQuery_safe, cTableRead_safe, cScrub_safe, cRetire_safe, cFlipArm_safe, cFlipDisarm_safe, cLogRead_safe,
    cLogRelease_safe, fun _ h => absurd h List.not_mem_nil⟩

theorem queueCmds_safe : ∀ c ∈ queueCmds, c.Safe := by
  simp only [queueCmds, List.forall_mem_cons]
  exact ⟨cNop_safe, cQueueCreate_safe, cQueueDelete_safe, cConfigWrite_safe, cConfigPlan_safe, cConfigRead_safe,
    cCatalogueRead_safe, cOpCancel_safe, cOpStatusRead_safe, cSelftestLogic_safe, cSelftestStore_safe, cSelftestStack_safe,
    cDressageLoad_safe, cDressageDrop_safe, cDressageQuery_safe, cDebugUnlock_safe, cDebugLock_safe, fun _ h => absurd h List.not_mem_nil⟩

theorem ownerCmds_safe : ∀ c ∈ ownerCmds, c.Safe := by
  simp only [ownerCmds, List.forall_mem_cons]
  exact ⟨cHerdForm_safe, cHerdAdmit_safe, cHerdJoin_safe, cHerdRemove_safe, cHerdVoters_safe, cHerdDomainSet_safe,
    cRouteWrite_safe, cHerdRead_safe, cLinkCtrl_safe, cHerdStandby_safe, cDomainActivate_safe, cDomainPark_safe,
    cDomainUnpark_safe, cDomainErase_safe, cDomainQuery_safe, cKeyLoad_safe, cKeyDestroy_safe, cFwPrepare_safe,
    cFwActivate_safe, cFwCommit_safe, cFwQuery_safe, fun _ h => absurd h List.not_mem_nil⟩

/-- Every command of the table keeps what `Keeps` speaks of. -/
theorem cmdOf_safe {opcode : Nat} {img : Option Image} {c : Cmd} (h : cmdOf opcode img = some c) : c.Safe := by
  unfold cmdOf at h
  split at h
  · obtain ⟨i, -, rfl⟩ := Option.map_eq_some_iff.1 h
    exact cFwStage_safe
  · have m := List.mem_of_find?_eq_some h
    simp only [List.mem_append] at m
    rcases m with (((m | m) | m) | m) | m
    · exact addressCmds_safe c m
    · exact engineCmds_safe c m
    · exact storageCmds_safe c m
    · exact queueCmds_safe c m
    · exact ownerCmds_safe c m

theorem cUnassigned_safe {opcode : Nat} : (cUnassigned opcode).Safe := by
  intro s o p
  have hK := Keeps.refl s
  unfold cUnassigned
  try unfold shortCmd
  try unfold longCmd
  try dsimp only
  repeat' first
    | with_reducible assumption | with_reducible apply deny_keeps | with_reducible refine deny_keepsE (by assumption) ?_
    | exact shortCmd_safe | intro _ | split | dsimp only

theorem execUnassignedOpcode_keeps {t : State} {o : Origin} {opcode : Nat} {p : Pkt} {s : State} (hE : execUnassignedOpcode o opcode p s = .next t) : Keeps s t := by
  have hK := Keeps.refl s
  unfold execUnassignedOpcode at hE
  cases hE
  try dsimp only
  repeat' first
    | with_reducible assumption | with_reducible apply State.packet_keeps | exact cUnassigned_safe | exact cUnassigned_safe _ _ _
    | with_reducible apply Keeps.ite | intro _ | split | dsimp only

theorem Cmd.failing_safe {c : Cmd} (hc : c.Safe) : (Cmd.failing c).Safe := by
  intro s o p
  have hK := Keeps.refl s
  unfold Cmd.failing
  dsimp only
  repeat' first
    | with_reducible assumption | exact hc _ _ _ | with_reducible apply deny_keeps | with_reducible refine hc.keepsE (by assumption) ?_
    | split | dsimp only

theorem cFwStageUnread_safe : (cFwStageUnread).Safe :=
  Cmd.failing_safe (longCmd_safe (fun s _ _ => deny_keeps (Keeps.refl s)))

theorem failingOf_safe {opcode : Nat} {c : Cmd} (h : failingOf opcode = some c) : c.Safe := by
  unfold failingOf at h
  split at h
  · cases h
    exact cFwStageUnread_safe
  · obtain ⟨d, hd, rfl⟩ := Option.map_eq_some_iff.1 h
    exact Cmd.failing_safe (cmdOf_safe hd)

theorem execCommandDataAccessFailure_keeps {t : State} {d : DataFail} {s : State} (hE : execCommandDataAccessFailure d s = .next t) : Keeps s t := by
  have hK := Keeps.refl s
  unfold execCommandDataAccessFailure at hE
  cases hE
  try dsimp only
  repeat' first
    | with_reducible assumption | exact failingOf_safe (by assumption) | with_reducible apply State.packet_keeps | with_reducible apply State.failOp_keeps
    | with_reducible apply Keeps.ite | intro _ | split | dsimp only

theorem cmdWaiting_safe {code : Nat} {img : Option Image} : (cmdWaiting code img).Safe := by
  unfold cmdWaiting
  dsimp only
  split
  · cases h : failingOf (code % 65536) with
    | none => exact cUnassigned_safe
    | some c => exact failingOf_safe h
  · cases h : cmdOf (code % 65536) img with
    | none => exact cUnassigned_safe
    | some c => exact cmdOf_safe h

theorem State.startWaiting_keeps {s0 : State} {s : State} (hK : Keeps s0 s) : Keeps s0 (State.startWaiting s) := by
  unfold State.startWaiting
  try dsimp only
  repeat' first
    | with_reducible assumption | with_reducible apply State.sequence_keeps | exact cmdWaiting_safe
    | with_reducible apply Keeps.over | with_reducible apply Keeps.ite
    | fail_if_no_progress (with_reducible refine Keeps.upd ?_ rfl rfl) | intro _ | split | dsimp only

end Sys2Proof.Machine
end

