-- ==== Sys2Proof/Laws/KeepsBoundary.lean ====
section
/-! SUPPORT. What the operations of Machine/Boundary.lean keep (Keeps), one lemma per operation. -/

set_option linter.unusedTactic false
set_option linter.unreachableTactic false

namespace Sys2Proof.Machine

theorem State.logDelayed_keeps {s0 : State} {s : State} (hK : Keeps s0 s) : Keeps s0 (State.logDelayed s) := by
  unfold State.logDelayed
  try dsimp only
  repeat' first
    | with_reducible assumption | with_reducible apply State.logE_keeps | with_reducible refine Keeps.mapE (by assumption) ?_
    | with_reducible refine Keeps.getD ?_ ?_ | with_reducible refine Keeps.getD₂ ?_ ?_ | with_reducible apply Keeps.over
    | intro _ | split | dsimp only

theorem State.startStride_keeps {s0 : State} {s : State} (hK : Keeps s0 s) : Keeps s0 (State.startStride s) := by
  unfold State.startStride
  try dsimp only
  repeat' first
    | with_reducible assumption | with_reducible apply State.traceOut_keeps | with_reducible apply State.clearDue_keeps
    | fail_if_no_progress (with_reducible refine Keeps.upd ?_ rfl rfl) | intro _ | split | dsimp only

theorem State.setLevels_keeps {s0 : State} {s : State} (hK : Keeps s0 s) : Keeps s0 (State.setLevels s) := by
  unfold State.setLevels
  try dsimp only
  repeat' first
    | with_reducible assumption | with_reducible apply State.breakDressage_keeps | with_reducible apply Keeps.ite
    | fail_if_no_progress (with_reducible refine Keeps.upd ?_ rfl rfl) | intro _ | split | dsimp only

theorem State.capacityBoundary_keeps {s0 : State} {s : State} (hK : Keeps s0 s) : Keeps s0 (State.capacityBoundary s) := by
  unfold State.capacityBoundary
  try dsimp only
  repeat' first
    | with_reducible assumption | with_reducible apply State.capFalls_keeps | with_reducible apply State.logDelayed_keeps
    | with_reducible apply State.setLevels_keeps | with_reducible apply State.dramBoundary_keeps
    | with_reducible apply State.lanesBoundary_keeps | intro _ | split | dsimp only

theorem State.renewTethers_keeps {s0 : State} {s : State} (hK : Keeps s0 s) : Keeps s0 (State.renewTethers s) := by
  unfold State.renewTethers
  try dsimp only
  repeat' first
    | with_reducible assumption | with_reducible apply Keeps.foldl | with_reducible apply Keeps.fold
    | with_reducible refine Keeps.foldE (by assumption) ?_ ?_ | with_reducible apply Keeps.ite
    | fail_if_no_progress (with_reducible refine Keeps.upd ?_ rfl rfl) | intro _ | split | dsimp only

theorem State.endOpSlice_keeps {s0 : State} {s : State} {h : Nat} {op : Op} (hK : Keeps s0 s) : Keeps s0 (State.endOpSlice s h op) := by
  unfold State.endOpSlice
  try dsimp only
  repeat' first
    | with_reducible assumption | with_reducible apply State.discardEndSlice_keeps | with_reducible apply State.endOp_keeps
    | with_reducible apply State.retireEnd_keeps | with_reducible apply Keeps.ite | intro _ | split | dsimp only

theorem State.endSlices_keeps {s0 : State} {s : State} (hK : Keeps s0 s) : Keeps s0 (State.endSlices s) := by
  unfold State.endSlices
  try dsimp only
  repeat' first
    | with_reducible assumption | with_reducible apply State.endOpSlice_keeps | with_reducible apply Keeps.over | intro _ | split
    | dsimp only

theorem State.joinTables_keeps {s0 : State} {s : State} (hK : Keeps s0 s) : Keeps s0 (State.joinTables s) := by
  unfold State.joinTables
  try dsimp only
  repeat' first
    | with_reducible assumption | with_reducible apply State.proofJoin_keeps | with_reducible apply Keeps.over
    | with_reducible apply Keeps.ite | intro _ | split | dsimp only

theorem State.plansStep_keeps {s0 : State} {s : State} (hK : Keeps s0 s) : Keeps s0 (State.plansStep s) := by
  unfold State.plansStep
  try dsimp only
  repeat' first
    | with_reducible assumption | with_reducible apply State.planStep_keeps | with_reducible apply State.plansDue_keeps
    | with_reducible apply Keeps.over | intro _ | split | dsimp only

theorem State.switchHomes_keeps {s0 : State} {s : State} (hK : Keeps s0 s) : Keeps s0 (State.switchHomes s) := by
  unfold State.switchHomes
  try dsimp only
  repeat' first
    | with_reducible assumption | with_reducible apply State.applySwitch_keeps | with_reducible apply State.switchPages_keeps
    | with_reducible apply Keeps.over | with_reducible apply Keeps.foldl | with_reducible apply Keeps.fold
    | with_reducible refine Keeps.foldE (by assumption) ?_ ?_ | with_reducible apply Keeps.ite
    | fail_if_no_progress (with_reducible refine Keeps.upd ?_ rfl rfl) | intro _ | split | dsimp only

theorem State.clearDamaged_keeps {s0 : State} {s : State} (hK : Keeps s0 s) : Keeps s0 (State.clearDamaged s) := by
  unfold State.clearDamaged
  try dsimp only
  repeat' first
    | with_reducible assumption | with_reducible apply State.modEnt_keeps | with_reducible refine Keeps.mapE (by assumption) ?_
    | with_reducible apply Keeps.over | with_reducible apply Keeps.ite
    | fail_if_no_progress (with_reducible refine Keeps.upd ?_ rfl rfl) | intro _ | split | dsimp only

theorem State.dropCopies_keeps {s0 : State} {s : State} (hK : Keeps s0 s) : Keeps s0 (State.dropCopies s) := by
  unfold State.dropCopies
  try dsimp only
  repeat' first
    | with_reducible assumption | with_reducible refine Keeps.mapE (by assumption) ?_ | with_reducible apply Keeps.ite
    | fail_if_no_progress (with_reducible refine Keeps.upd ?_ rfl rfl) | intro _ | split | dsimp only

theorem State.applyChange_keeps {s0 : State} {s : State} {c : Change} (hK : Keeps s0 s) : Keeps s0 (State.applyChange s c) := by
  unfold State.applyChange
  try dsimp only
  repeat' first
    | with_reducible assumption | with_reducible apply State.setExtentState_keeps | with_reducible apply State.setSlotState_keeps
    | fail_if_no_progress (with_reducible refine Keeps.upd ?_ rfl rfl) | intro _ | split | dsimp only

theorem State.ownerChanged_keeps {s0 : State} {s : State} {old : Nat} (hK : Keeps s0 s) : Keeps s0 (State.ownerChanged s old) := by
  unfold State.ownerChanged
  try dsimp only
  repeat' first
    | with_reducible assumption | with_reducible apply State.faultQp_keeps | with_reducible refine Keeps.mapE (by assumption) ?_
    | with_reducible apply Keeps.over | with_reducible apply Keeps.ite | intro _ | split | dsimp only

theorem State.swapGeneration_keeps {s0 : State} {s : State} (hK : Keeps s0 s) : Keeps s0 (State.swapGeneration s) := by
  unfold State.swapGeneration
  try dsimp only
  repeat' first
    | with_reducible assumption | with_reducible apply State.applyChange_keeps | with_reducible apply State.ownerChanged_keeps
    | with_reducible apply State.dressageField_keeps | with_reducible apply State.setCaps_keeps
    | with_reducible apply State.join_keeps | with_reducible refine State.join_keepsE (by assumption) ?_
    | with_reducible apply Keeps.over | with_reducible apply Keeps.ite
    | fail_if_no_progress (with_reducible refine Keeps.upd ?_ rfl rfl) | intro _ | split | dsimp only

theorem State.replan_keeps {s0 : State} {s : State} (hK : Keeps s0 s) : Keeps s0 (State.replan s) := by
  unfold State.replan
  try dsimp only
  repeat' first
    | with_reducible assumption | with_reducible apply Keeps.ite
    | fail_if_no_progress (with_reducible refine Keeps.upd ?_ rfl rfl) | intro _ | split | dsimp only

theorem State.setBridles_keeps {s0 : State} {s : State} {fresh : List Nat} (hK : Keeps s0 s) : Keeps s0 (State.setBridles s fresh) := by
  unfold State.setBridles
  try dsimp only
  repeat' first
    | with_reducible assumption | with_reducible apply Keeps.foldl | with_reducible apply Keeps.fold
    | with_reducible refine Keeps.foldE (by assumption) ?_ ?_
    | fail_if_no_progress (with_reducible refine Keeps.upd ?_ rfl rfl) | intro _ | split | dsimp only

theorem State.withdraw_keeps {s0 : State} {s : State} {cs : List Change} (hK : Keeps s0 s) : Keeps s0 (State.withdraw s cs) := by
  unfold State.withdraw
  try dsimp only
  repeat' first
    | with_reducible assumption | with_reducible refine Keeps.mapE (by assumption) ?_
    | fail_if_no_progress (with_reducible refine Keeps.upd ?_ rfl rfl) | intro _ | split | dsimp only

theorem State.grantCancelled_keeps {s0 : State} {s : State} {idx : Nat} (hK : Keeps s0 s) : Keeps s0 (State.grantCancelled s idx) := by
  unfold State.grantCancelled
  try dsimp only
  repeat' first
    | with_reducible assumption | with_reducible apply State.withdraw_keeps
    | fail_if_no_progress (with_reducible refine Keeps.upd ?_ rfl rfl) | intro _ | split | dsimp only

theorem State.opCancels_keeps {s0 : State} {s : State} {op : Op} (hK : Keeps s0 s) : Keeps s0 (State.opCancels s op) := by
  unfold State.opCancels
  try dsimp only
  repeat' first
    | with_reducible assumption | with_reducible apply State.withdraw_keeps | with_reducible apply Keeps.ite
    | fail_if_no_progress (with_reducible refine Keeps.upd ?_ rfl rfl) | intro _ | split | dsimp only

theorem State.opBegins_keeps {s0 : State} {s : State} {h : Nat} {op : Op} (hK : Keeps s0 s) : Keeps s0 (State.opBegins s h op) := by
  unfold State.opBegins
  try dsimp only
  repeat' first
    | with_reducible assumption | with_reducible apply State.streamBegin_keeps | with_reducible apply State.closeBegin_keeps
    | fail_if_no_progress (with_reducible refine Keeps.upd ?_ rfl rfl) | intro _ | split | dsimp only

theorem State.closeCancelled_keeps {s0 : State} {s : State} {id : Nat} {draining : Bool} (hK : Keeps s0 s) : Keeps s0 (State.closeCancelled s id draining) := by
  unfold State.closeCancelled
  try dsimp only
  repeat' first
    | with_reducible assumption | with_reducible apply State.modImpr_keeps | with_reducible apply Keeps.ite
    | fail_if_no_progress (with_reducible refine Keeps.upd ?_ rfl rfl) | intro _ | split | dsimp only

theorem State.opEnds_keeps {s0 : State} {s : State} {op : Op} {st status : Nat} (hK : Keeps s0 s) : Keeps s0 (State.opEnds s op st status) := by
  unfold State.opEnds
  try dsimp only
  repeat' first
    | with_reducible assumption | with_reducible apply State.grantCancelled_keeps
    | with_reducible apply State.closeStopped_keeps | with_reducible apply State.proofCancelled_keeps
    | with_reducible apply State.unhold_keeps | with_reducible apply State.streamEnd_keeps
    | with_reducible apply State.bindActive_keeps | with_reducible apply State.dropBinding_keeps
    | with_reducible apply State.imprCancelled_keeps | with_reducible apply State.closeCancelled_keeps
    | with_reducible apply State.scrubFinal_keeps | with_reducible apply State.logicOver_keeps
    | with_reducible apply State.installTable_keeps | with_reducible apply State.setStandby_keeps
    | with_reducible apply State.herdDone_keeps | with_reducible refine Keeps.bindE (by assumption) ?_
    | with_reducible refine Keeps.bindS (by assumption) ?_ | with_reducible apply Keeps.ite
    | fail_if_no_progress (with_reducible refine Keeps.upd ?_ rfl rfl) | intro _ | split | dsimp only

theorem State.opStep_keeps {s0 : State} {s : State} {h : Nat} {op : Op} (hK : Keeps s0 s) : Keeps s0 (State.opStep s h op) := by
  unfold State.opStep
  try dsimp only
  repeat' first
    | with_reducible assumption | with_reducible apply done_keeps | with_reducible refine done_keepsE (by assumption) ?_
    | with_reducible apply State.modOp_keeps | with_reducible apply State.opCancels_keeps
    | with_reducible apply State.opEnds_keeps | with_reducible apply State.opBegins_keeps | with_reducible apply Keeps.ite
    | fail_if_no_progress (with_reducible refine Keeps.upd ?_ rfl rfl) | intro _ | split | dsimp only

theorem State.opsStep_keeps {s0 : State} {s : State} (hK : Keeps s0 s) : Keeps s0 (State.opsStep s) := by
  unfold State.opsStep
  try dsimp only
  repeat' first
    | with_reducible assumption | with_reducible apply State.opStep_keeps | with_reducible refine Keeps.mapE (by assumption) ?_
    | with_reducible apply Keeps.over | intro _ | split | dsimp only

theorem State.writeRecords_keeps {s0 : State} {s : State} (hK : Keeps s0 s) : Keeps s0 (State.writeRecords s) := by
  unfold State.writeRecords
  try dsimp only
  repeat' first
    | with_reducible assumption | with_reducible apply State.writeRecord_keeps | with_reducible apply State.modOp_keeps
    | with_reducible apply Keeps.over | with_reducible apply Keeps.ite
    | fail_if_no_progress (with_reducible refine Keeps.upd ?_ rfl rfl) | intro _ | split | dsimp only

theorem State.sendReplies_keeps {s0 : State} {s : State} (hK : Keeps s0 s) : Keeps s0 (State.sendReplies s) := by
  unfold State.sendReplies
  try dsimp only
  repeat' first
    | with_reducible assumption | with_reducible apply State.reply_keeps | with_reducible apply Keeps.over
    | fail_if_no_progress (with_reducible refine Keeps.upd ?_ rfl rfl) | intro _ | split | dsimp only

theorem State.writeChanged_keeps {s0 : State} {s : State} {line : Nat → Nat} {b : List Byte} (hK : Keeps s0 s) : Keeps s0 (State.writeChanged s line b) := by
  unfold State.writeChanged
  try dsimp only
  repeat' first
    | with_reducible assumption | with_reducible apply State.writeLine_keeps | with_reducible apply Keeps.over
    | with_reducible apply Keeps.ite | intro _ | split | dsimp only

theorem State.pageToFlash_keeps {s0 : State} {s : State} {key : Nat} {pg : MapPage} (hK : Keeps s0 s) : Keeps s0 (State.pageToFlash s key pg).1 := by
  unfold State.pageToFlash
  try dsimp only
  repeat' first
    | with_reducible assumption | with_reducible apply State.charge_keeps
    | with_reducible refine State.flashPut_keepsE (by assumption) ?_ | with_reducible apply State.freeAt_keeps
    | fail_if_no_progress (with_reducible refine Keeps.upd ?_ rfl rfl) | intro _ | split | dsimp only
theorem State.pageToFlash_keepsE {s0 tK : State} {s : State} {key : Nat} {pg : MapPage} {y : Bool} (hE : State.pageToFlash s key pg = (tK, y)) (hK : Keeps s0 s) : Keeps s0 tK := by
  have k := State.pageToFlash_keeps (s := s) (key := key) (pg := pg) (hK := hK)
  rw [hE] at k
  exact k

theorem State.writePage_keeps {s0 : State} {s : State} {key : Nat} (hK : Keeps s0 s) : Keeps s0 (State.writePage s key).1 := by
  unfold State.writePage
  try dsimp only
  repeat' first
    | with_reducible assumption | with_reducible apply State.writeChanged_keeps | with_reducible apply State.pageToFlash_keeps
    | with_reducible refine State.pageToFlash_keepsE (by assumption) ?_ | with_reducible apply State.pageToT1_keeps
    | with_reducible refine State.pageToT1_keepsE (by assumption) ?_ | with_reducible apply Keeps.ite | intro _ | split
    | dsimp only
theorem State.writePage_keepsE {s0 tK : State} {s : State} {key : Nat} {y : Bool} (hE : State.writePage s key = (tK, y)) (hK : Keeps s0 s) : Keeps s0 tK := by
  have k := State.writePage_keeps (s := s) (key := key) (hK := hK)
  rw [hE] at k
  exact k

theorem State.pagesBoundary_keeps {s0 : State} {s : State} (hK : Keeps s0 s) : Keeps s0 (State.pagesBoundary s) := by
  unfold State.pagesBoundary
  try dsimp only
  repeat' first
    | with_reducible assumption | with_reducible apply State.writePage_keeps
    | with_reducible refine State.writePage_keepsE (by assumption) ?_ | with_reducible apply Keeps.over
    | fail_if_no_progress (with_reducible refine Keeps.upd ?_ rfl rfl) | intro _ | split | dsimp only

theorem State.evictSome_keeps {s0 : State} {s : State} {slot : Nat} {v0 : Nat} (hK : Keeps s0 s) : Keeps s0 (State.evictSome s slot v0) := by
  induction v0 generalizing s slot with
  | zero =>
    unfold State.evictSome
    all_goals try dsimp only
    repeat' first
      | with_reducible assumption | with_reducible apply State.victim_keeps
      | with_reducible refine State.victim_keepsE (by assumption) ?_ | with_reducible apply State.evict_keeps | intro _ | split
      | dsimp only
  | succ _ ih =>
    unfold State.evictSome
    all_goals try dsimp only
    repeat' first
      | with_reducible assumption | with_reducible apply ih | with_reducible apply State.victim_keeps
      | with_reducible refine State.victim_keepsE (by assumption) ?_ | with_reducible apply State.evict_keeps | intro _ | split
      | dsimp only

theorem State.effectiveBoundary_keeps {s0 : State} {s : State} (hK : Keeps s0 s) : Keeps s0 (State.effectiveBoundary s) := by
  unfold State.effectiveBoundary
  try dsimp only
  repeat' first
    | with_reducible assumption | with_reducible apply State.evictSome_keeps | with_reducible apply Keeps.over
    | with_reducible apply Keeps.ite | intro _ | split | dsimp only

theorem State.countUse_keeps {s0 : State} {s : State} (hK : Keeps s0 s) : Keeps s0 (State.countUse s) := by
  unfold State.countUse
  try dsimp only
  repeat' first
    | with_reducible assumption | with_reducible apply Keeps.foldl | with_reducible apply Keeps.fold
    | with_reducible refine Keeps.foldE (by assumption) ?_ ?_ | fail_if_no_progress (with_reducible refine Keeps.upd ?_ rfl rfl)
    | intro _ | split | dsimp only

theorem State.grantSlice_keeps {s0 : State} {s : State} {h idx cursor total : Nat} (hK : Keeps s0 s) : Keeps s0 (State.grantSlice s h idx cursor total) := by
  unfold State.grantSlice
  try dsimp only
  repeat' first
    | with_reducible assumption | with_reducible apply State.join_keeps
    | with_reducible refine State.join_keepsE (by assumption) ?_ | with_reducible apply State.poisonLinesFrom_keeps
    | with_reducible refine State.poisonLinesFrom_keepsE (by assumption) ?_ | with_reducible apply State.setBody_keeps
    | with_reducible apply State.ranTo_keeps | with_reducible apply Keeps.ite | intro _ | split | dsimp only

theorem State.opSlice_keeps {s0 : State} {s : State} {h : Nat} {op : Op} (hK : Keeps s0 s) : Keeps s0 (State.opSlice s h op) := by
  unfold State.opSlice
  try dsimp only
  repeat' first
    | with_reducible assumption | with_reducible apply State.placeSlice_keeps | with_reducible apply State.discardSlice_keeps
    | with_reducible apply State.proofSlice_keeps | with_reducible apply State.streamLoadSlice_keeps
    | with_reducible apply State.bindSlice_keeps | with_reducible apply State.closeSlice_keeps
    | with_reducible apply State.imprSlice_keeps | with_reducible apply State.closeImprSlice_keeps
    | with_reducible apply State.dirRecallSlice_keeps | with_reducible apply State.scrubSlice_keeps
    | with_reducible apply State.retireSlice_keeps | with_reducible apply State.parkSlice_keeps
    | with_reducible apply State.eraseSlice_keeps | with_reducible apply State.fwStageSlice_keeps
    | with_reducible apply State.fwPrepareSlice_keeps | with_reducible apply State.dressageSlice_keeps
    | with_reducible apply State.logicSlice_keeps | with_reducible apply State.storeSlice_keeps
    | with_reducible apply State.stackSlice_keeps | with_reducible apply State.grantSlice_keeps
    | with_reducible refine Keeps.bindE (by assumption) ?_ | with_reducible refine Keeps.bindS (by assumption) ?_ | intro _
    | split | dsimp only

theorem State.opSlices_keeps {s0 : State} {s : State} (hK : Keeps s0 s) : Keeps s0 (State.opSlices s) := by
  unfold State.opSlices
  try dsimp only
  repeat' first
    | with_reducible assumption | with_reducible apply State.opSlice_keeps | with_reducible refine Keeps.mapE (by assumption) ?_
    | with_reducible apply Keeps.over | with_reducible apply Keeps.ite | intro _ | split | dsimp only

theorem State.slices_keeps {s0 : State} {s : State} (hK : Keeps s0 s) : Keeps s0 (State.slices s) := by
  unfold State.slices
  try dsimp only
  repeat' first
    | with_reducible assumption | with_reducible apply State.planSlices_keeps | with_reducible apply State.streamsBoundary_keeps
    | with_reducible apply State.finishPending_keeps | with_reducible apply State.opSlices_keeps
    | with_reducible refine Keeps.mapE (by assumption) ?_ | with_reducible refine Keeps.bindE (by assumption) ?_
    | with_reducible refine Keeps.bindS (by assumption) ?_ | with_reducible apply Keeps.over | intro _ | split | dsimp only

theorem State.pruneSent_keeps {s0 : State} {s : State} (hK : Keeps s0 s) : Keeps s0 (State.pruneSent s) := by
  unfold State.pruneSent
  try dsimp only
  repeat' first
    | with_reducible assumption | with_reducible refine Keeps.mapE (by assumption) ?_
    | fail_if_no_progress (with_reducible refine Keeps.upd ?_ rfl rfl) | intro _ | split | dsimp only

theorem State.boundaryControl_keeps {s0 : State} {s : State} (hK : Keeps s0 s) : Keeps s0 (State.boundaryControl s) := by
  unfold State.boundaryControl
  try dsimp only
  repeat' first
    | with_reducible assumption | with_reducible apply State.endSlices_keeps | with_reducible apply State.renewTethers_keeps
    | with_reducible apply State.clearDamaged_keeps | with_reducible apply State.plansStep_keeps
    | with_reducible apply State.switchHomes_keeps | with_reducible apply State.joinTables_keeps
    | with_reducible apply State.dropCopies_keeps | with_reducible apply State.keysBoundary_keeps
    | with_reducible apply State.swapGeneration_keeps | with_reducible apply State.setBridles_keeps
    | with_reducible apply State.dressageBoundary_keeps | with_reducible apply State.replan_keeps
    | with_reducible apply State.herdBoundary_keeps | with_reducible apply State.opsStep_keeps
    | with_reducible refine Keeps.someIf (by assumption) ?_ | with_reducible apply Keeps.ite
    | fail_if_no_progress (with_reducible refine Keeps.upd ?_ rfl rfl) | intro _ | split | dsimp only

theorem State.boundaryEngines_keeps {s0 : State} {s : State} {links : List (Nat × U64)} (hK : Keeps s0 s) : Keeps s0 (State.boundaryEngines s links) := by
  unfold State.boundaryEngines
  try dsimp only
  repeat' first
    | with_reducible assumption | with_reducible apply State.imprsBoundary_keeps
    | with_reducible apply State.tablesBoundary_keeps | with_reducible apply State.pruneSent_keeps
    | with_reducible apply State.operatorsBoundary_keeps | with_reducible apply State.deletesBoundary_keeps
    | with_reducible apply State.sampleDoorbells_keeps | with_reducible apply State.writeRecords_keeps
    | with_reducible apply State.sendReplies_keeps | with_reducible apply State.recallsBoundary_keeps
    | with_reducible apply State.debugBoundary_keeps | with_reducible apply State.traceBoundary_keeps
    | with_reducible apply State.dmaBoundary_keeps | with_reducible apply State.patrol_keeps
    | with_reducible apply State.flashBoundary_keeps | with_reducible apply State.rescueChunks_keeps
    | with_reducible apply State.yokeSlices_keeps | with_reducible apply State.countUse_keeps
    | with_reducible apply State.effectiveBoundary_keeps | with_reducible apply State.pagesBoundary_keeps | intro _ | split
    | dsimp only

theorem State.strideBoundary_keeps {s0 : State} {s : State} {links : List (Nat × U64)} (hK : Keeps s0 s) : Keeps s0 (State.strideBoundary s links) := by
  unfold State.strideBoundary
  try dsimp only
  repeat' first
    | with_reducible assumption | with_reducible apply State.startStride_keeps | with_reducible apply State.logScaled_keeps
    | with_reducible apply State.capacityBoundary_keeps | with_reducible apply State.boundaryControl_keeps
    | with_reducible apply State.boundaryEngines_keeps | with_reducible apply State.advance_keeps
    | with_reducible apply State.slices_keeps | with_reducible apply State.moversBoundary_keeps
    | with_reducible apply State.retryFinishes_keeps | with_reducible apply State.retryOwed_keeps
    | with_reducible apply State.flushOut_keeps | with_reducible apply State.startWaiting_keeps
    | with_reducible apply Keeps.ite | fail_if_no_progress (with_reducible refine Keeps.upd ?_ rfl rfl) | intro _ | split
    | dsimp only

theorem execStrideBoundary_keeps {t : State} {links : List (Nat × U64)} {s : State} (hE : execStrideBoundary links s = .next t) : Keeps s t := by
  have hK := Keeps.refl s
  unfold execStrideBoundary at hE
  cases hE
  try dsimp only
  repeat' first
    | with_reducible assumption | with_reducible apply State.strideBoundary_keeps | intro _ | split | dsimp only

end Sys2Proof.Machine
end

