-- ==== Sys2Proof/Laws/KeepsExec.lean ====
section
/-! SUPPORT. What every command keeps (Keeps): one case per constructor, each the lemma of its own meaning. -/

namespace Sys2Proof.Machine

/-- Whatever a command does, the waiting commands, canonical memory, the messages sent and the blown fuses stand. -/
theorem exec_keeps {c : Instr} {s t : State} (h : exec c s = .next t) : Keeps s t := by
  cases c with
  | strideBoundary _ => exact execStrideBoundary_keeps h
  | tetherExpiry _ => exact execTetherExpiry_keeps h
  | offerTimeout _ => exact execOfferTimeout_keeps h
  | demandSnapshot => exact execDemandSnapshot_keeps h
  | plannerLate => exact execPlannerLate_keeps h
  | sliceOverrun _ _ _ _ => exact execSliceOverrun_keeps h
  | heldConfigBlockTake => exact execHeldConfigBlockTake_keeps h
  | accessAdmission _ => exact execAccessAdmission_keeps h
  | stagingClaimGrant => exact execStagingClaimGrant_keeps h
  | laneJobDispatch _ => exact execLaneJobDispatch_keeps h
  | planCommit _ => exact execPlanCommit_keeps h
  | planAbandon _ => exact execPlanAbandon_keeps h
  | sqTailWrite _ _ _ _ => exact execSqTailWrite_keeps h
  | rqHeadWrite _ _ _ _ => exact execRqHeadWrite_keeps h
  | ringAccessFailure _ _ => exact execRingAccessFailure_keeps h
  | commandDataAccessFailure _ => exact execCommandDataAccessFailure_keeps h
  | clampReportWriteFailure _ _ _ => exact execClampReportWriteFailure_keeps h
  | qp0Enable _ _ _ => exact execQp0Enable_keeps h
  | qp0Disable _ _ _ => exact execQp0Disable_keeps h
  | qp0IntEnWrite _ _ _ => exact execQp0IntEnWrite_keeps h
  | qp0BaseWrite _ _ _ _ => exact execQp0BaseWrite_keeps h
  | nop _ _ => exact execNop_keeps h
  | queueCreate _ _ => exact execQueueCreate_keeps h
  | queueDelete _ _ => exact execQueueDelete_keeps h
  | configWrite _ _ => exact execConfigWrite_keeps h
  | configPlan _ _ => exact execConfigPlan_keeps h
  | configRead _ _ => exact execConfigRead_keeps h
  | catalogueRead _ _ => exact execCatalogueRead_keeps h
  | opCancel _ _ => exact execOpCancel_keeps h
  | opStatusRead _ _ => exact execOpStatusRead_keeps h
  | extentGrant _ _ => exact execExtentGrant_keeps h
  | extentRelease _ _ => exact execExtentRelease_keeps h
  | tetherRenew _ _ => exact execTetherRenew_keeps h
  | extentList _ _ => exact execExtentList_keeps h
  | windowSet _ _ => exact execWindowSet_keeps h
  | placeMove _ _ => exact execPlaceMove_keeps h
  | plateQuery _ _ => exact execPlateQuery_keeps h
  | plateDiscard _ _ => exact execPlateDiscard_keeps h
  | segmentDefine _ _ => exact execSegmentDefine_keeps h
  | proofPass _ _ => exact execProofPass_keeps h
  | segmentDrop _ _ => exact execSegmentDrop_keeps h
  | segmentQuery _ _ => exact execSegmentQuery_keeps h
  | tableRead _ _ => exact execTableRead_keeps h
  | streamLoad _ _ => exact execStreamLoad_keeps h
  | streamRun _ _ => exact execStreamRun_keeps h
  | streamUnload _ _ => exact execStreamUnload_keeps h
  | streamQuery _ _ => exact execStreamQuery_keeps h
  | streamWriteFailure _ _ => exact execStreamWriteFailure_keeps h
  | operBind _ _ => exact execOperBind_keeps h
  | operUnbind _ _ => exact execOperUnbind_keeps h
  | operStep _ _ => exact execOperStep_keeps h
  | operRoundClose _ _ => exact execOperRoundClose_keeps h
  | operQuery _ _ => exact execOperQuery_keeps h
  | roundComplete _ => exact execRoundComplete_keeps h
  | roundEventWriteFailure _ => exact execRoundEventWriteFailure_keeps h
  | digestOpen _ _ => exact execDigestOpen_keeps h
  | digestClose _ _ => exact execDigestClose_keeps h
  | digestRead _ _ => exact execDigestRead_keeps h
  | dmaChanOpen _ _ => exact execDmaChanOpen_keeps h
  | dmaChanStop _ _ => exact execDmaChanStop_keeps h
  | dmaChanClose _ _ => exact execDmaChanClose_keeps h
  | dmaKick _ _ => exact execDmaKick_keeps h
  | dmaChanQuery _ _ => exact execDmaChanQuery_keeps h
  | descriptorFetch _ _ => exact execDescriptorFetch_keeps h
  | descriptorComplete _ _ _ => exact execDescriptorComplete_keeps h
  | parkLimitExpiry _ => exact execParkLimitExpiry_keeps h
  | dmaAccessFailure _ => exact execDmaAccessFailure_keeps h
  | impressionOpen _ _ => exact execImpressionOpen_keeps h
  | impressionCapture _ => exact execImpressionCapture_keeps h
  | impressionClose _ _ => exact execImpressionClose_keeps h
  | impressionQuery _ _ => exact execImpressionQuery_keeps h
  | dirRecall _ _ => exact execDirRecall_keeps h
  | snoopTimeout _ => exact execSnoopTimeout_keeps h
  | memRd _ => exact execMemRd_keeps h
  | memRdData _ => exact execMemRdData_keeps h
  | memInv _ => exact execMemInv_keeps h
  | memInvNt _ => exact execMemInvNt_keeps h
  | memWr _ => exact execMemWr_keeps h
  | memWrPtl _ => exact execMemWrPtl_keeps h
  | memClnEvct _ => exact execMemClnEvct_keeps h
  | memSpecRd _ => exact execMemSpecRd_keeps h
  | memFwdDrop _ => exact execMemFwdDrop_keeps h
  | biConflict _ _ => exact execBiConflict_keeps h
  | biRsp _ _ _ => exact execBiRsp_keeps h
  | biRspE _ _ => exact execBiRspE_keeps h
  | expansionWindowRead _ _ _ => exact execExpansionWindowRead_keeps h
  | expansionWindowWrite _ _ _ => exact execExpansionWindowWrite_keeps h
  | demotionSlice _ => exact execDemotionSlice_keeps h
  | touchedSweep => exact execTouchedSweep_keeps h
  | decodeComplete _ _ => exact execDecodeComplete_keeps h
  | encodeComplete _ _ => exact execEncodeComplete_keeps h
  | dramReadComplete _ _ _ => exact execDramReadComplete_keeps h
  | caParityAlert _ _ _ => exact execCaParityAlert_keeps h
  | retrainingComplete _ _ _ => exact execRetrainingComplete_keeps h
  | trainPeriodExpiry => exact execTrainPeriodExpiry_keeps h
  | selfRefreshEntry _ _ => exact execSelfRefreshEntry_keeps h
  | selfRefreshExit _ _ => exact execSelfRefreshExit_keeps h
  | bankSpareCopyDone _ => exact execBankSpareCopyDone_keeps h
  | flashReadComplete _ _ _ => exact execFlashReadComplete_keeps h
  | softRetryComplete _ _ => exact execSoftRetryComplete_keeps h
  | flashProgramComplete _ _ => exact execFlashProgramComplete_keeps h
  | flashProgramFailure _ _ _ => exact execFlashProgramFailure_keeps h
  | flashEraseComplete _ _ _ => exact execFlashEraseComplete_keeps h
  | padTimeout _ _ => exact execPadTimeout_keeps h
  | reclaimStart _ _ => exact execReclaimStart_keeps h
  | wearLevel _ _ => exact execWearLevel_keeps h
  | flashDieFailure _ _ => exact execFlashDieFailure_keeps h
  | flashPatrolRead _ _ _ => exact execFlashPatrolRead_keeps h
  | watchdogExpiry _ _ => exact execWatchdogExpiry_keeps h
  | mgmtWatchdogExpiry => exact execMgmtWatchdogExpiry_keeps h
  | scrub _ _ => exact execScrub_keeps h
  | retire _ _ => exact execRetire_keeps h
  | flipArm _ _ => exact execFlipArm_keeps h
  | flipDisarm _ _ => exact execFlipDisarm_keeps h
  | logRead _ _ => exact execLogRead_keeps h
  | logRelease _ _ => exact execLogRelease_keeps h
  | selftestLogic _ _ => exact execSelftestLogic_keeps h
  | selftestStore _ _ => exact execSelftestStore_keeps h
  | selftestStack _ _ => exact execSelftestStack_keeps h
  | dressageLoad _ _ => exact execDressageLoad_keeps h
  | dressageDrop _ _ => exact execDressageDrop_keeps h
  | dressageQuery _ _ => exact execDressageQuery_keeps h
  | debugUnlock _ _ => exact execDebugUnlock_keeps h
  | debugLock _ _ => exact execDebugLock_keeps h
  | herdForm _ _ => exact execHerdForm_keeps h
  | herdAdmit _ _ => exact execHerdAdmit_keeps h
  | herdJoin _ _ => exact execHerdJoin_keeps h
  | herdRemove _ _ => exact execHerdRemove_keeps h
  | herdVoters _ _ => exact execHerdVoters_keeps h
  | herdDomainSet _ _ => exact execHerdDomainSet_keeps h
  | routeWrite _ _ => exact execRouteWrite_keeps h
  | herdRead _ _ => exact execHerdRead_keeps h
  | linkCtrl _ _ => exact execLinkCtrl_keeps h
  | herdStandby _ _ => exact execHerdStandby_keeps h
  | domainActivate _ _ => exact execDomainActivate_keeps h
  | domainPark _ _ => exact execDomainPark_keeps h
  | domainUnpark _ _ => exact execDomainUnpark_keeps h
  | domainErase _ _ => exact execDomainErase_keeps h
  | domainQuery _ _ => exact execDomainQuery_keeps h
  | keyLoad _ _ => exact execKeyLoad_keeps h
  | keyDestroy _ _ => exact execKeyDestroy_keeps h
  | fwStage _ _ _ => exact execFwStage_keeps h
  | fwPrepare _ _ => exact execFwPrepare_keeps h
  | fwActivate _ _ => exact execFwActivate_keeps h
  | firmwareHandover => exact execFirmwareHandover_keeps h
  | fwActivateTimeout => exact execFwActivateTimeout_keeps h
  | fwCommit _ _ => exact execFwCommit_keeps h
  | fwQuery _ _ => exact execFwQuery_keeps h
  | pldmFirmwareUpdate _ => exact execPldmFirmwareUpdate_keeps h
  | syncBlockReceive _ _ _ => exact execSyncBlockReceive_keeps h
  | flitReceive _ _ => exact execFlitReceive_keeps h
  | retryReqReceive _ _ => exact execRetryReqReceive_keeps h
  | linkStateTimeout _ => exact execLinkStateTimeout_keeps h
  | linkTrainStepComplete _ _ => exact execLinkTrainStepComplete_keeps h
  | linkRecoverEntry _ _ _ => exact execLinkRecoverEntry_keeps h
  | linkDown _ => exact execLinkDown_keeps h
  | unknownMessage _ _ => exact execUnknownMessage_keeps h
  | rdLine _ _ => exact execRdLine_keeps h
  | rdPlate _ _ => exact execRdPlate_keeps h
  | wrLine _ _ => exact execWrLine_keeps h
  | contrib _ _ => exact execContrib_keeps h
  | mirror _ _ => exact execMirror_keeps h
  | dirtyMark _ _ => exact execDirtyMark_keeps h
  | parityDelta _ _ => exact execParityDelta_keeps h
  | plateMove _ _ => exact execPlateMove_keeps h
  | tableRec _ _ => exact execTableRec_keeps h
  | cmp _ _ => exact execCmp_keeps h
  | dataMsg _ _ => exact execDataMsg_keeps h
  | birspMsg _ _ => exact execBirspMsg_keeps h
  | bisnpMsg _ _ => exact execBisnpMsg_keeps h
  | lockReq _ _ => exact execLockReq_keeps h
  | lockGrant _ _ => exact execLockGrant_keeps h
  | lockRel _ _ => exact execLockRel_keeps h
  | suspect _ _ => exact execSuspect_keeps h
  | probe _ _ => exact execProbe_keeps h
  | probeAck _ _ => exact execProbeAck_keeps h
  | probeTimeout _ => exact execProbeTimeout_keeps h
  | syncLossTimeout _ => exact execSyncLossTimeout_keeps h
  | propose _ _ => exact execPropose_keeps h
  | proposalLockoutExpiry => exact execProposalLockoutExpiry_keeps h
  | accept _ _ => exact execAccept_keeps h
  | commit _ _ => exact execCommit_keeps h
  | commitStrideReached => exact execCommitStrideReached_keeps h
  | recordsReq _ _ => exact execRecordsReq_keeps h
  | records _ _ => exact execRecords_keeps h
  | linkLast _ _ => exact execLinkLast_keeps h
  | doneNote _ _ => exact execDoneNote_keeps h
  | standbySync _ _ => exact execStandbySync_keeps h
  | probationTimeout _ => exact execProbationTimeout_keeps h
  | chipRstNAssert _ => exact execChipRstNAssert_keeps h
  | chipRstNDeassert _ => exact execChipRstNDeassert_keeps h
  | bootRomComplete _ _ _ => exact execBootRomComplete_keeps h
  | coreInitComplete => exact execCoreInitComplete_keeps h
  | trainComplete _ _ => exact execTrainComplete_keeps h
  | configComplete _ _ => exact execConfigComplete_keeps h
  | thermalSample _ _ => exact execThermalSample_keeps h
  | perstNAssert _ => exact execPerstNAssert_keeps h
  | perstNDeassert _ => exact execPerstNDeassert_keeps h
  | hotReset _ => exact execHotReset_keeps h
  | linkDisable _ => exact execLinkDisable_keeps h
  | headLinkLoss _ => exact execHeadLinkLoss_keeps h
  | headLinkUp _ _ _ _ _ _ => exact execHeadLinkUp_keeps h
  | linkSpeedChange _ _ _ _ => exact execLinkSpeedChange_keeps h
  | functionLevelReset _ => exact execFunctionLevelReset_keeps h
  | cxlReset _ => exact execCxlReset_keeps h
  | hdmDecoderCommit _ _ _ => exact execHdmDecoderCommit_keeps h
  | intxDisableWrite _ _ => exact execIntxDisableWrite_keeps h
  | dcAddResponse _ _ _ _ => exact execDcAddResponse_keeps h
  | dcReleaseResponse _ _ => exact execDcReleaseResponse_keeps h
  | ideKeyProgram _ _ => exact execIdeKeyProgram_keeps h
  | ideCheckFailure _ => exact execIdeCheckFailure_keeps h
  | getLdInfo _ => exact execGetLdInfo_keeps h
  | getMhdInfo _ => exact execGetMhdInfo_keeps h
  | getDcRegionConfiguration _ => exact execGetDcRegionConfiguration_keeps h
  | getDcExtentLists _ => exact execGetDcExtentLists_keeps h
  | initiateDcAdd _ _ => exact execInitiateDcAdd_keeps h
  | initiateDcRelease _ _ => exact execInitiateDcRelease_keeps h
  | getQosStatus _ => exact execGetQosStatus_keeps h
  | setLdAllocations _ => exact execSetLdAllocations_keeps h
  | identifyMemoryDevice _ => exact execIdentifyMemoryDevice_keeps h
  | getEventRecords _ _ => exact execGetEventRecords_keeps h
  | clearEventRecords _ _ _ => exact execClearEventRecords_keeps h
  | getEventInterruptPolicy _ => exact execGetEventInterruptPolicy_keeps h
  | setEventInterruptPolicy _ _ => exact execSetEventInterruptPolicy_keeps h
  | getSupportedLogs _ => exact execGetSupportedLogs_keeps h
  | getLog _ _ => exact execGetLog_keeps h
  | getHealthInfo _ => exact execGetHealthInfo_keeps h
  | getTimestamp _ => exact execGetTimestamp_keeps h
  | setTimestamp _ _ => exact execSetTimestamp_keeps h
  | mailboxFirmwareUpdate _ => exact execMailboxFirmwareUpdate_keeps h
  | getVersion _ => exact execGetVersion_keeps h
  | getCapabilities _ => exact execGetCapabilities_keeps h
  | negotiateAlgorithms _ => exact execNegotiateAlgorithms_keeps h
  | getDigests _ => exact execGetDigests_keeps h
  | getCertificate _ _ => exact execGetCertificate_keeps h
  | challenge _ _ _ => exact execChallenge_keeps h
  | getMeasurements _ _ => exact execGetMeasurements_keeps h
  | keyExchange _ _ => exact execKeyExchange_keeps h
  | finish _ _ => exact execFinish_keeps h
  | keyUpdate _ _ => exact execKeyUpdate_keeps h
  | heartbeat _ _ => exact execHeartbeat_keeps h
  | endSession _ _ => exact execEndSession_keeps h
  | strBridleSelWrite _ _ _ => exact execStrBridleSelWrite_keeps h
  | drmPcSelWrite _ _ _ => exact execDrmPcSelWrite_keeps h
  | pmuTempSelWrite _ _ _ => exact execPmuTempSelWrite_keeps h
  | glbLogPopRead _ _ => exact execGlbLogPopRead_keeps h
  | glbCntClearWrite _ _ _ => exact execGlbCntClearWrite_keeps h
  | tstSemForceWrite _ _ _ => exact execTstSemForceWrite_keeps h
  | tstTraceWrite _ _ _ => exact execTstTraceWrite_keeps h
  | lowHalfRead _ _ => exact execLowHalfRead_keeps h
  | highHalfRead _ _ => exact execHighHalfRead_keeps h
  | registerWrite _ _ => exact execRegisterWrite_keeps h
  | tapInstruction _ => exact execTapInstruction_keeps h
  | peek _ => exact execPeek_keeps h
  | systemBusWrite _ _ => exact execSystemBusWrite_keeps h
  | hartHalt _ => exact execHartHalt_keeps h
  | hartResume _ _ => exact execHartResume_keeps h
  | unassignedOpcode _ _ _ => exact execUnassignedOpcode_keeps h
  | completionTimeout _ _ => exact execCompletionTimeout_keeps h
  | configurationRequest _ _ => exact execConfigurationRequest_keeps h
  | dmiAccess _ => exact execDmiAccess_keeps h
  | tapReset => exact execTapReset_keeps h
  | managementCoreRestartDone => exact execManagementCoreRestartDone_keeps h
  | standbySetReloaded => exact execStandbySetReloaded_keeps h

end Sys2Proof.Machine
end

