-- ==== Sys2Proof/Laws/Messages.lean ====
section
/-! SUPPORT. What a message from a link does where it is delivered at once, and where it waits. -/

namespace Sys2Proof.Machine

variable {s u : State} {n : Nat} {m : Msg}

/-- A delivered message takes effect; a request's slots are credited then, and what has come free is sent on. -/
theorem State.takeMsg_delivered (h : s.delivered n m = some u) :
    s.takeMsg n m = (if mopVc m.mop = 0 then (u.takeUp m).credited n m else u.takeUp m).pump := by
  unfold State.delivered at h
  split at h
  · rename_i hc
    obtain ⟨h1, h2, h3, h4, h5, h6⟩ := hc
    have hme : s.forMe m = true := by simp [State.forMe, h2, h3]
    have he : ∀ a b c d, (s.charge a b c d).herd = s.herd := by
      intro a b c d; unfold State.charge; split <;> rfl
    unfold State.admits at h5
    unfold State.takeMsg State.admitMsg State.receive State.takeRequest State.credited
    rw [if_neg (by simp [h1]), if_neg (by intro hw; rw [hw] at h5; cases h5)]
    by_cases hv : mopVc m.mop = 0
    · have h7 : m.epoch = s.herd.epoch := by
        rcases h6 with h6 | h6
        · omega
        · exact h6
      simp [hme, hv, he, h7, h4] at h ⊢
      subst h
      rfl
    · simp only [hv, if_false] at h
      by_cases h3' : mopVc m.mop = 3
      · simp [hme, h3', h4] at h ⊢
        subst h
        rfl
      · have h7 : m.epoch = s.herd.epoch := by
          rcases h6 with h6 | h6
          · exact absurd h6 h3'
          · exact h6
        simp [hme, hv, h3', he, h7, h4] at h ⊢
        subst h
        rfl
  · cases h

/-- A request that is not admitted waits in its link's ingress buffer. -/
theorem State.takeMsg_waits (hl : (s.link n).st = 5) (h : s.admits n m = false) :
    s.takeMsg n m = { s with herd.ingress := s.herd.ingress ++ [(n, m)] } := by
  unfold State.admits at h
  unfold State.takeMsg
  rw [if_neg (by simp [hl]), if_pos (by revert h; cases s.ingressWaits n m <;> simp)]

/-- A message that acts on a slot acts on the ACTIVE slot that its HDOM names. -/
theorem State.takeUp_slot {slot : Nat} (h : s.actsOn m = some slot) (hn : needsSlot m.mop = true) : s.takeUp m = s.slotMsg slot m := by
  unfold State.actsOn at h
  unfold State.takeUp
  rw [if_pos hn, h]

/-- A message that acts on no slot acts on the member. -/
theorem State.takeUp_member (hn : needsSlot m.mop = false) : s.takeUp m = s.memberMsg m := by
  unfold State.takeUp
  rw [if_neg (by simp [hn])]

end Sys2Proof.Machine
end

