-- ==== Sys2Proof/Laws/Packet.lean ====
section
/-! SUPPORT. How a packet whose command runs is answered: one lemma per kind of answer. -/

namespace Sys2Proof.Machine

variable {s t u : State} {c : Cmd} {o : Origin} {p : Pkt} {img : Option Image}

/-- A packet that is taken goes straight to its command's run. -/
theorem State.packet_takes (h : s.takes c o p = some t) : s.packet c img o p = t.execute c o p ∧ t.checks c o p = none := by
  unfold State.takes at h
  unfold State.packet
  split at h
  · cases h
  · rename_i v hv
    rw [hv]
    dsimp only
    split at h
    · cases h
    · rename_i hw
      split at h
      · cases h
      · rename_i w hw2
        split at h
        · cases h
          unfold State.begin State.sequence
          rw [if_neg hw, hw2]
          exact ⟨rfl, Option.isNone_iff_eq_none.1 ‹_›⟩
        · cases h

/-- A short answer. -/
theorem State.packet_now {st d r0 r1 : Nat} {inl : List Byte} (h : s.takes c o p = some t)
    (e : c.run t o p = (u, .now st d r0 r1 inl)) : s.packet c img o p = u.reply o (mkReply u o c.opcode p st d r0 r1) inl := by
  obtain ⟨h1, h2⟩ := State.packet_takes (img := img) h
  rw [h1]
  unfold State.execute
  rw [h2, e]

/-- An answer at a later stride. -/
theorem State.packet_later {due st d r0 r1 : Nat} {inl : List Byte} (h : s.takes c o p = some t)
    (e : c.run t o p = (u, .later due st d r0 r1 inl)) : s.packet c img o p =
      { u with q.replies := u.q.replies ++ [{ o := o, due := due, r := mkReply u o c.opcode p st d r0 r1, inline := inl }] } := by
  obtain ⟨h1, h2⟩ := State.packet_takes (img := img) h
  rw [h1]
  unfold State.execute
  rw [h2, e]

/-- An answer that the command's own state holds. -/
theorem State.packet_held (h : s.takes c o p = some t) (e : c.run t o p = (u, .held)) : s.packet c img o p = u := by
  obtain ⟨h1, h2⟩ := State.packet_takes (img := img) h
  rw [h1]
  unfold State.execute
  rw [h2, e]

/-- A long operation within its limits. -/
theorem State.packet_start {b : OpBody} {n r0 r1 st : Nat} (h : s.takes c o p = some t) (e : c.run t o p = (u, .start b n r0 r1 st))
    (l : t.mayStart c o p = true) : s.packet c img o p = u.acceptOp c o p b n r0 r1 st false [] := by
  obtain ⟨h1, h2⟩ := State.packet_takes (img := img) h
  rw [h1]
  unfold State.execute
  rw [h2, e]
  dsimp only
  unfold State.mayStart at l
  rw [if_neg (by simpa using l)]

/-- A packet that a check of R587 turns away. -/
theorem State.packet_turned {v : State} {st : Nat} (hr : s.receivePacket c o p = some v) (hw : v.mustWait o p = false)
    (hs : v.inOrder c o p = some t) (hc : t.checks c o p = some st) :
    s.packet c img o p = t.reply o (mkReply t o c.opcode p st 0 0 0) [] := by
  unfold State.packet
  rw [hr]
  dsimp only
  unfold State.begin State.sequence
  rw [if_neg (by simp [hw]), hs]
  dsimp only
  unfold State.execute
  rw [hc]

end Sys2Proof.Machine
end

