-- ==== Sys2Proof/Laws/State.lean ====
section
/-! SUPPORT. What each field of the state holds after each of the small updates that the commands are built of: the field that the
update names takes its value, every other stands. -/

namespace Sys2Proof.Machine

section
variable {s : State} {code : Nat} {slot : Option Nat} {a b : Nat}
@[simp] theorem State.logE_pending : (s.logE code slot a b).pending = s.pending := rfl
@[simp] theorem State.logE_out : (s.logE code slot a b).out = s.out := rfl
@[simp] theorem State.logE_mem : (s.logE code slot a b).mem = s.mem := rfl
@[simp] theorem State.logE_syn : (s.logE code slot a b).syn = s.syn := rfl
@[simp] theorem State.logE_str : (s.logE code slot a b).str = s.str := rfl
@[simp] theorem State.logE_cfg : (s.logE code slot a b).cfg = s.cfg := rfl
@[simp] theorem State.logE_q : (s.logE code slot a b).q = s.q := rfl
@[simp] theorem State.logE_ops : (s.logE code slot a b).ops = s.ops := rfl
@[simp] theorem State.logE_ti : (s.logE code slot a b).ti = s.ti := rfl
@[simp] theorem State.logE_doms : (s.logE code slot a b).doms = s.doms := rfl
@[simp] theorem State.logE_sh : (s.logE code slot a b).sh = s.sh := rfl
@[simp] theorem State.logE_cod : (s.logE code slot a b).cod = s.cod := rfl
@[simp] theorem State.logE_streams : (s.logE code slot a b).streams = s.streams := rfl
@[simp] theorem State.logE_opr : (s.logE code slot a b).opr = s.opr := rfl
@[simp] theorem State.logE_dma : (s.logE code slot a b).dma = s.dma := rfl
@[simp] theorem State.logE_claims : (s.logE code slot a b).claims = s.claims := rfl
@[simp] theorem State.logE_dram : (s.logE code slot a b).dram = s.dram := rfl
@[simp] theorem State.logE_fl : (s.logE code slot a b).fl = s.fl := rfl
@[simp] theorem State.logE_ras : (s.logE code slot a b).ras =
    s.ras.append { lseq := s.ras.nextLseq, code := code, sev := logSev code, stride := s.str.count, slot := slot, count := 1, argA := a % 2 ^ 32, argB := b % 2 ^ 64 } := rfl
@[simp] theorem State.logE_tst : (s.logE code slot a b).tst = s.tst := rfl
@[simp] theorem State.logE_herd : (s.logE code slot a b).herd = s.herd := rfl
@[simp] theorem State.logE_tr : (s.logE code slot a b).tr = s.tr := rfl
@[simp] theorem State.logE_heads : (s.logE code slot a b).heads = s.heads := rfl
@[simp] theorem State.logE_funcs : (s.logE code slot a b).funcs = s.funcs := rfl
@[simp] theorem State.logE_pmu : (s.logE code slot a b).pmu = s.pmu := rfl
@[simp] theorem State.logE_cntClear : (s.logE code slot a b).cntClear = s.cntClear := rfl
@[simp] theorem State.logE_atBoundary : (s.logE code slot a b).atBoundary = s.atBoundary := rfl
end

section
variable {s : State} {o : Out}
@[simp] theorem State.emit_pending : (s.emit o).pending = s.pending := rfl
@[simp] theorem State.emit_out : (s.emit o).out = s.out ++ [o] := rfl
@[simp] theorem State.emit_mem : (s.emit o).mem = s.mem := rfl
@[simp] theorem State.emit_syn : (s.emit o).syn = s.syn := rfl
@[simp] theorem State.emit_str : (s.emit o).str = s.str := rfl
@[simp] theorem State.emit_cfg : (s.emit o).cfg = s.cfg := rfl
@[simp] theorem State.emit_q : (s.emit o).q = s.q := rfl
@[simp] theorem State.emit_ops : (s.emit o).ops = s.ops := rfl
@[simp] theorem State.emit_ti : (s.emit o).ti = s.ti := rfl
@[simp] theorem State.emit_doms : (s.emit o).doms = s.doms := rfl
@[simp] theorem State.emit_sh : (s.emit o).sh = s.sh := rfl
@[simp] theorem State.emit_cod : (s.emit o).cod = s.cod := rfl
@[simp] theorem State.emit_streams : (s.emit o).streams = s.streams := rfl
@[simp] theorem State.emit_opr : (s.emit o).opr = s.opr := rfl
@[simp] theorem State.emit_dma : (s.emit o).dma = s.dma := rfl
@[simp] theorem State.emit_claims : (s.emit o).claims = s.claims := rfl
@[simp] theorem State.emit_dram : (s.emit o).dram = s.dram := rfl
@[simp] theorem State.emit_fl : (s.emit o).fl = s.fl := rfl
@[simp] theorem State.emit_ras : (s.emit o).ras = s.ras := rfl
@[simp] theorem State.emit_tst : (s.emit o).tst = s.tst := rfl
@[simp] theorem State.emit_herd : (s.emit o).herd = s.herd := rfl
@[simp] theorem State.emit_tr : (s.emit o).tr = s.tr := rfl
@[simp] theorem State.emit_heads : (s.emit o).heads = s.heads := rfl
@[simp] theorem State.emit_funcs : (s.emit o).funcs = s.funcs := rfl
@[simp] theorem State.emit_pmu : (s.emit o).pmu = s.pmu := rfl
@[simp] theorem State.emit_cntClear : (s.emit o).cntClear = s.cntClear := rfl
@[simp] theorem State.emit_atBoundary : (s.emit o).atBoundary = s.atBoundary := rfl
end

section
variable {s : State} {os : List Out}
@[simp] theorem State.emits_pending : (s.emits os).pending = s.pending := rfl
@[simp] theorem State.emits_out : (s.emits os).out = s.out ++ os := rfl
@[simp] theorem State.emits_mem : (s.emits os).mem = s.mem := rfl
@[simp] theorem State.emits_syn : (s.emits os).syn = s.syn := rfl
@[simp] theorem State.emits_str : (s.emits os).str = s.str := rfl
@[simp] theorem State.emits_cfg : (s.emits os).cfg = s.cfg := rfl
@[simp] theorem State.emits_q : (s.emits os).q = s.q := rfl
@[simp] theorem State.emits_ops : (s.emits os).ops = s.ops := rfl
@[simp] theorem State.emits_ti : (s.emits os).ti = s.ti := rfl
@[simp] theorem State.emits_doms : (s.emits os).doms = s.doms := rfl
@[simp] theorem State.emits_sh : (s.emits os).sh = s.sh := rfl
@[simp] theorem State.emits_cod : (s.emits os).cod = s.cod := rfl
@[simp] theorem State.emits_streams : (s.emits os).streams = s.streams := rfl
@[simp] theorem State.emits_opr : (s.emits os).opr = s.opr := rfl
@[simp] theorem State.emits_dma : (s.emits os).dma = s.dma := rfl
@[simp] theorem State.emits_claims : (s.emits os).claims = s.claims := rfl
@[simp] theorem State.emits_dram : (s.emits os).dram = s.dram := rfl
@[simp] theorem State.emits_fl : (s.emits os).fl = s.fl := rfl
@[simp] theorem State.emits_ras : (s.emits os).ras = s.ras := rfl
@[simp] theorem State.emits_tst : (s.emits os).tst = s.tst := rfl
@[simp] theorem State.emits_herd : (s.emits os).herd = s.herd := rfl
@[simp] theorem State.emits_tr : (s.emits os).tr = s.tr := rfl
@[simp] theorem State.emits_heads : (s.emits os).heads = s.heads := rfl
@[simp] theorem State.emits_funcs : (s.emits os).funcs = s.funcs := rfl
@[simp] theorem State.emits_pmu : (s.emits os).pmu = s.pmu := rfl
@[simp] theorem State.emits_cntClear : (s.emits os).cntClear = s.cntClear := rfl
@[simp] theorem State.emits_atBoundary : (s.emits os).atBoundary = s.atBoundary := rfl
end

section
variable {s : State} {f : Nat} {g : Func → Func}
@[simp] theorem State.modFunc_pending : (s.modFunc f g).pending = s.pending := rfl
@[simp] theorem State.modFunc_out : (s.modFunc f g).out = s.out := rfl
@[simp] theorem State.modFunc_mem : (s.modFunc f g).mem = s.mem := rfl
@[simp] theorem State.modFunc_syn : (s.modFunc f g).syn = s.syn := rfl
@[simp] theorem State.modFunc_str : (s.modFunc f g).str = s.str := rfl
@[simp] theorem State.modFunc_cfg : (s.modFunc f g).cfg = s.cfg := rfl
@[simp] theorem State.modFunc_q : (s.modFunc f g).q = s.q := rfl
@[simp] theorem State.modFunc_ops : (s.modFunc f g).ops = s.ops := rfl
@[simp] theorem State.modFunc_ti : (s.modFunc f g).ti = s.ti := rfl
@[simp] theorem State.modFunc_doms : (s.modFunc f g).doms = s.doms := rfl
@[simp] theorem State.modFunc_sh : (s.modFunc f g).sh = s.sh := rfl
@[simp] theorem State.modFunc_cod : (s.modFunc f g).cod = s.cod := rfl
@[simp] theorem State.modFunc_streams : (s.modFunc f g).streams = s.streams := rfl
@[simp] theorem State.modFunc_opr : (s.modFunc f g).opr = s.opr := rfl
@[simp] theorem State.modFunc_dma : (s.modFunc f g).dma = s.dma := rfl
@[simp] theorem State.modFunc_claims : (s.modFunc f g).claims = s.claims := rfl
@[simp] theorem State.modFunc_dram : (s.modFunc f g).dram = s.dram := rfl
@[simp] theorem State.modFunc_fl : (s.modFunc f g).fl = s.fl := rfl
@[simp] theorem State.modFunc_ras : (s.modFunc f g).ras = s.ras := rfl
@[simp] theorem State.modFunc_tst : (s.modFunc f g).tst = s.tst := rfl
@[simp] theorem State.modFunc_herd : (s.modFunc f g).herd = s.herd := rfl
@[simp] theorem State.modFunc_tr : (s.modFunc f g).tr = s.tr := rfl
@[simp] theorem State.modFunc_heads : (s.modFunc f g).heads = s.heads := rfl
@[simp] theorem State.modFunc_funcs : (s.modFunc f g).funcs = s.funcs.set f (g (s.func f)) := rfl
@[simp] theorem State.modFunc_pmu : (s.modFunc f g).pmu = s.pmu := rfl
@[simp] theorem State.modFunc_cntClear : (s.modFunc f g).cntClear = s.cntClear := rfl
@[simp] theorem State.modFunc_atBoundary : (s.modFunc f g).atBoundary = s.atBoundary := rfl
end

section
variable {s : State} {h : Nat} {g : Head → Head}
@[simp] theorem State.modHead_pending : (s.modHead h g).pending = s.pending := rfl
@[simp] theorem State.modHead_out : (s.modHead h g).out = s.out := rfl
@[simp] theorem State.modHead_mem : (s.modHead h g).mem = s.mem := rfl
@[simp] theorem State.modHead_syn : (s.modHead h g).syn = s.syn := rfl
@[simp] theorem State.modHead_str : (s.modHead h g).str = s.str := rfl
@[simp] theorem State.modHead_cfg : (s.modHead h g).cfg = s.cfg := rfl
@[simp] theorem State.modHead_q : (s.modHead h g).q = s.q := rfl
@[simp] theorem State.modHead_ops : (s.modHead h g).ops = s.ops := rfl
@[simp] theorem State.modHead_ti : (s.modHead h g).ti = s.ti := rfl
@[simp] theorem State.modHead_doms : (s.modHead h g).doms = s.doms := rfl
@[simp] theorem State.modHead_sh : (s.modHead h g).sh = s.sh := rfl
@[simp] theorem State.modHead_cod : (s.modHead h g).cod = s.cod := rfl
@[simp] theorem State.modHead_streams : (s.modHead h g).streams = s.streams := rfl
@[simp] theorem State.modHead_opr : (s.modHead h g).opr = s.opr := rfl
@[simp] theorem State.modHead_dma : (s.modHead h g).dma = s.dma := rfl
@[simp] theorem State.modHead_claims : (s.modHead h g).claims = s.claims := rfl
@[simp] theorem State.modHead_dram : (s.modHead h g).dram = s.dram := rfl
@[simp] theorem State.modHead_fl : (s.modHead h g).fl = s.fl := rfl
@[simp] theorem State.modHead_ras : (s.modHead h g).ras = s.ras := rfl
@[simp] theorem State.modHead_tst : (s.modHead h g).tst = s.tst := rfl
@[simp] theorem State.modHead_herd : (s.modHead h g).herd = s.herd := rfl
@[simp] theorem State.modHead_tr : (s.modHead h g).tr = s.tr := rfl
@[simp] theorem State.modHead_heads : (s.modHead h g).heads = s.heads.set h (g (s.head h)) := rfl
@[simp] theorem State.modHead_funcs : (s.modHead h g).funcs = s.funcs := rfl
@[simp] theorem State.modHead_pmu : (s.modHead h g).pmu = s.pmu := rfl
@[simp] theorem State.modHead_cntClear : (s.modHead h g).cntClear = s.cntClear := rfl
@[simp] theorem State.modHead_atBoundary : (s.modHead h g).atBoundary = s.atBoundary := rfl
end

section
variable {s : State} {func num : Nat} {g : Qp → Qp}
@[simp] theorem State.modQp_pending : (s.modQp func num g).pending = s.pending := rfl
@[simp] theorem State.modQp_out : (s.modQp func num g).out = s.out := rfl
@[simp] theorem State.modQp_mem : (s.modQp func num g).mem = s.mem := rfl
@[simp] theorem State.modQp_syn : (s.modQp func num g).syn = s.syn := rfl
@[simp] theorem State.modQp_str : (s.modQp func num g).str = s.str := rfl
@[simp] theorem State.modQp_cfg : (s.modQp func num g).cfg = s.cfg := rfl
@[simp] theorem State.modQp_q : (s.modQp func num g).q = { s.q with qps := s.q.qps.modify (qpKey func num) g } := rfl
@[simp] theorem State.modQp_ops : (s.modQp func num g).ops = s.ops := rfl
@[simp] theorem State.modQp_ti : (s.modQp func num g).ti = s.ti := rfl
@[simp] theorem State.modQp_doms : (s.modQp func num g).doms = s.doms := rfl
@[simp] theorem State.modQp_sh : (s.modQp func num g).sh = s.sh := rfl
@[simp] theorem State.modQp_cod : (s.modQp func num g).cod = s.cod := rfl
@[simp] theorem State.modQp_streams : (s.modQp func num g).streams = s.streams := rfl
@[simp] theorem State.modQp_opr : (s.modQp func num g).opr = s.opr := rfl
@[simp] theorem State.modQp_dma : (s.modQp func num g).dma = s.dma := rfl
@[simp] theorem State.modQp_claims : (s.modQp func num g).claims = s.claims := rfl
@[simp] theorem State.modQp_dram : (s.modQp func num g).dram = s.dram := rfl
@[simp] theorem State.modQp_fl : (s.modQp func num g).fl = s.fl := rfl
@[simp] theorem State.modQp_ras : (s.modQp func num g).ras = s.ras := rfl
@[simp] theorem State.modQp_tst : (s.modQp func num g).tst = s.tst := rfl
@[simp] theorem State.modQp_herd : (s.modQp func num g).herd = s.herd := rfl
@[simp] theorem State.modQp_tr : (s.modQp func num g).tr = s.tr := rfl
@[simp] theorem State.modQp_heads : (s.modQp func num g).heads = s.heads := rfl
@[simp] theorem State.modQp_funcs : (s.modQp func num g).funcs = s.funcs := rfl
@[simp] theorem State.modQp_pmu : (s.modQp func num g).pmu = s.pmu := rfl
@[simp] theorem State.modQp_cntClear : (s.modQp func num g).cntClear = s.cntClear := rfl
@[simp] theorem State.modQp_atBoundary : (s.modQp func num g).atBoundary = s.atBoundary := rfl
end

section
variable {s : State} {h : Nat} {g : Op → Op}
@[simp] theorem State.modOp_pending : (s.modOp h g).pending = s.pending := rfl
@[simp] theorem State.modOp_out : (s.modOp h g).out = s.out := rfl
@[simp] theorem State.modOp_mem : (s.modOp h g).mem = s.mem := rfl
@[simp] theorem State.modOp_syn : (s.modOp h g).syn = s.syn := rfl
@[simp] theorem State.modOp_str : (s.modOp h g).str = s.str := rfl
@[simp] theorem State.modOp_cfg : (s.modOp h g).cfg = s.cfg := rfl
@[simp] theorem State.modOp_q : (s.modOp h g).q = s.q := rfl
@[simp] theorem State.modOp_ops : (s.modOp h g).ops = { s.ops with tab := s.ops.tab.modify h g } := rfl
@[simp] theorem State.modOp_ti : (s.modOp h g).ti = s.ti := rfl
@[simp] theorem State.modOp_doms : (s.modOp h g).doms = s.doms := rfl
@[simp] theorem State.modOp_sh : (s.modOp h g).sh = s.sh := rfl
@[simp] theorem State.modOp_cod : (s.modOp h g).cod = s.cod := rfl
@[simp] theorem State.modOp_streams : (s.modOp h g).streams = s.streams := rfl
@[simp] theorem State.modOp_opr : (s.modOp h g).opr = s.opr := rfl
@[simp] theorem State.modOp_dma : (s.modOp h g).dma = s.dma := rfl
@[simp] theorem State.modOp_claims : (s.modOp h g).claims = s.claims := rfl
@[simp] theorem State.modOp_dram : (s.modOp h g).dram = s.dram := rfl
@[simp] theorem State.modOp_fl : (s.modOp h g).fl = s.fl := rfl
@[simp] theorem State.modOp_ras : (s.modOp h g).ras = s.ras := rfl
@[simp] theorem State.modOp_tst : (s.modOp h g).tst = s.tst := rfl
@[simp] theorem State.modOp_herd : (s.modOp h g).herd = s.herd := rfl
@[simp] theorem State.modOp_tr : (s.modOp h g).tr = s.tr := rfl
@[simp] theorem State.modOp_heads : (s.modOp h g).heads = s.heads := rfl
@[simp] theorem State.modOp_funcs : (s.modOp h g).funcs = s.funcs := rfl
@[simp] theorem State.modOp_pmu : (s.modOp h g).pmu = s.pmu := rfl
@[simp] theorem State.modOp_cntClear : (s.modOp h g).cntClear = s.cntClear := rfl
@[simp] theorem State.modOp_atBoundary : (s.modOp h g).atBoundary = s.atBoundary := rfl
end

section
variable {s : State} {l : Nat} {x : U32}
@[simp] theorem State.setSyn_pending : (s.setSyn l x).pending = s.pending := rfl
@[simp] theorem State.setSyn_out : (s.setSyn l x).out = s.out := rfl
@[simp] theorem State.setSyn_mem : (s.setSyn l x).mem = s.mem := rfl
@[simp] theorem State.setSyn_syn : (s.setSyn l x).syn = if x = 0 then s.syn.del l else s.syn.set l x := rfl
@[simp] theorem State.setSyn_str : (s.setSyn l x).str = s.str := rfl
@[simp] theorem State.setSyn_cfg : (s.setSyn l x).cfg = s.cfg := rfl
@[simp] theorem State.setSyn_q : (s.setSyn l x).q = s.q := rfl
@[simp] theorem State.setSyn_ops : (s.setSyn l x).ops = s.ops := rfl
@[simp] theorem State.setSyn_ti : (s.setSyn l x).ti = s.ti := rfl
@[simp] theorem State.setSyn_doms : (s.setSyn l x).doms = s.doms := rfl
@[simp] theorem State.setSyn_sh : (s.setSyn l x).sh = s.sh := rfl
@[simp] theorem State.setSyn_cod : (s.setSyn l x).cod = s.cod := rfl
@[simp] theorem State.setSyn_streams : (s.setSyn l x).streams = s.streams := rfl
@[simp] theorem State.setSyn_opr : (s.setSyn l x).opr = s.opr := rfl
@[simp] theorem State.setSyn_dma : (s.setSyn l x).dma = s.dma := rfl
@[simp] theorem State.setSyn_claims : (s.setSyn l x).claims = s.claims := rfl
@[simp] theorem State.setSyn_dram : (s.setSyn l x).dram = s.dram := rfl
@[simp] theorem State.setSyn_fl : (s.setSyn l x).fl = s.fl := rfl
@[simp] theorem State.setSyn_ras : (s.setSyn l x).ras = s.ras := rfl
@[simp] theorem State.setSyn_tst : (s.setSyn l x).tst = s.tst := rfl
@[simp] theorem State.setSyn_herd : (s.setSyn l x).herd = s.herd := rfl
@[simp] theorem State.setSyn_tr : (s.setSyn l x).tr = s.tr := rfl
@[simp] theorem State.setSyn_heads : (s.setSyn l x).heads = s.heads := rfl
@[simp] theorem State.setSyn_funcs : (s.setSyn l x).funcs = s.funcs := rfl
@[simp] theorem State.setSyn_pmu : (s.setSyn l x).pmu = s.pmu := rfl
@[simp] theorem State.setSyn_cntClear : (s.setSyn l x).cntClear = s.cntClear := rfl
@[simp] theorem State.setSyn_atBoundary : (s.setSyn l x).atBoundary = s.atBoundary := rfl
end

section
variable {s : State} {k p : Nat} {g : Pc → Pc}
@[simp] theorem State.modPc_pending : (s.modPc k p g).pending = s.pending := rfl
@[simp] theorem State.modPc_out : (s.modPc k p g).out = s.out := rfl
@[simp] theorem State.modPc_mem : (s.modPc k p g).mem = s.mem := rfl
@[simp] theorem State.modPc_syn : (s.modPc k p g).syn = s.syn := rfl
@[simp] theorem State.modPc_str : (s.modPc k p g).str = s.str := rfl
@[simp] theorem State.modPc_cfg : (s.modPc k p g).cfg = s.cfg := rfl
@[simp] theorem State.modPc_q : (s.modPc k p g).q = s.q := rfl
@[simp] theorem State.modPc_ops : (s.modPc k p g).ops = s.ops := rfl
@[simp] theorem State.modPc_ti : (s.modPc k p g).ti = s.ti := rfl
@[simp] theorem State.modPc_doms : (s.modPc k p g).doms = s.doms := rfl
@[simp] theorem State.modPc_sh : (s.modPc k p g).sh = s.sh := rfl
@[simp] theorem State.modPc_cod : (s.modPc k p g).cod = s.cod := rfl
@[simp] theorem State.modPc_streams : (s.modPc k p g).streams = s.streams := rfl
@[simp] theorem State.modPc_opr : (s.modPc k p g).opr = s.opr := rfl
@[simp] theorem State.modPc_dma : (s.modPc k p g).dma = s.dma := rfl
@[simp] theorem State.modPc_claims : (s.modPc k p g).claims = s.claims := rfl
@[simp] theorem State.modPc_dram : (s.modPc k p g).dram =
    { s.dram with pcs := s.dram.pcs.set (32 * k + p) (g (s.pc k p)) } := rfl
@[simp] theorem State.modPc_fl : (s.modPc k p g).fl = s.fl := rfl
@[simp] theorem State.modPc_ras : (s.modPc k p g).ras = s.ras := rfl
@[simp] theorem State.modPc_tst : (s.modPc k p g).tst = s.tst := rfl
@[simp] theorem State.modPc_herd : (s.modPc k p g).herd = s.herd := rfl
@[simp] theorem State.modPc_tr : (s.modPc k p g).tr = s.tr := rfl
@[simp] theorem State.modPc_heads : (s.modPc k p g).heads = s.heads := rfl
@[simp] theorem State.modPc_funcs : (s.modPc k p g).funcs = s.funcs := rfl
@[simp] theorem State.modPc_pmu : (s.modPc k p g).pmu = s.pmu := rfl
@[simp] theorem State.modPc_cntClear : (s.modPc k p g).cntClear = s.cntClear := rfl
@[simp] theorem State.modPc_atBoundary : (s.modPc k p g).atBoundary = s.atBoundary := rfl
end

section
variable {s : State} {g b : Nat} {f : FBlock → FBlock}
@[simp] theorem State.modBlock_pending : (s.modBlock g b f).pending = s.pending := rfl
@[simp] theorem State.modBlock_out : (s.modBlock g b f).out = s.out := rfl
@[simp] theorem State.modBlock_mem : (s.modBlock g b f).mem = s.mem := rfl
@[simp] theorem State.modBlock_syn : (s.modBlock g b f).syn = s.syn := rfl
@[simp] theorem State.modBlock_str : (s.modBlock g b f).str = s.str := rfl
@[simp] theorem State.modBlock_cfg : (s.modBlock g b f).cfg = s.cfg := rfl
@[simp] theorem State.modBlock_q : (s.modBlock g b f).q = s.q := rfl
@[simp] theorem State.modBlock_ops : (s.modBlock g b f).ops = s.ops := rfl
@[simp] theorem State.modBlock_ti : (s.modBlock g b f).ti = s.ti := rfl
@[simp] theorem State.modBlock_doms : (s.modBlock g b f).doms = s.doms := rfl
@[simp] theorem State.modBlock_sh : (s.modBlock g b f).sh = s.sh := rfl
@[simp] theorem State.modBlock_cod : (s.modBlock g b f).cod = s.cod := rfl
@[simp] theorem State.modBlock_streams : (s.modBlock g b f).streams = s.streams := rfl
@[simp] theorem State.modBlock_opr : (s.modBlock g b f).opr = s.opr := rfl
@[simp] theorem State.modBlock_dma : (s.modBlock g b f).dma = s.dma := rfl
@[simp] theorem State.modBlock_claims : (s.modBlock g b f).claims = s.claims := rfl
@[simp] theorem State.modBlock_dram : (s.modBlock g b f).dram = s.dram := rfl
@[simp] theorem State.modBlock_fl : (s.modBlock g b f).fl =
    { s.fl with blocks := s.fl.blocks.set (blockKey g b) (f (s.block g b)) } := rfl
@[simp] theorem State.modBlock_ras : (s.modBlock g b f).ras = s.ras := rfl
@[simp] theorem State.modBlock_tst : (s.modBlock g b f).tst = s.tst := rfl
@[simp] theorem State.modBlock_herd : (s.modBlock g b f).herd = s.herd := rfl
@[simp] theorem State.modBlock_tr : (s.modBlock g b f).tr = s.tr := rfl
@[simp] theorem State.modBlock_heads : (s.modBlock g b f).heads = s.heads := rfl
@[simp] theorem State.modBlock_funcs : (s.modBlock g b f).funcs = s.funcs := rfl
@[simp] theorem State.modBlock_pmu : (s.modBlock g b f).pmu = s.pmu := rfl
@[simp] theorem State.modBlock_cntClear : (s.modBlock g b f).cntClear = s.cntClear := rfl
@[simp] theorem State.modBlock_atBoundary : (s.modBlock g b f).atBoundary = s.atBoundary := rfl
end

section
variable {s : State} {n : Nat} {g : Link → Link}
@[simp] theorem State.modLink_pending : (s.modLink n g).pending = s.pending := rfl
@[simp] theorem State.modLink_out : (s.modLink n g).out = s.out := rfl
@[simp] theorem State.modLink_mem : (s.modLink n g).mem = s.mem := rfl
@[simp] theorem State.modLink_syn : (s.modLink n g).syn = s.syn := rfl
@[simp] theorem State.modLink_str : (s.modLink n g).str = s.str := rfl
@[simp] theorem State.modLink_cfg : (s.modLink n g).cfg = s.cfg := rfl
@[simp] theorem State.modLink_q : (s.modLink n g).q = s.q := rfl
@[simp] theorem State.modLink_ops : (s.modLink n g).ops = s.ops := rfl
@[simp] theorem State.modLink_ti : (s.modLink n g).ti = s.ti := rfl
@[simp] theorem State.modLink_doms : (s.modLink n g).doms = s.doms := rfl
@[simp] theorem State.modLink_sh : (s.modLink n g).sh = s.sh := rfl
@[simp] theorem State.modLink_cod : (s.modLink n g).cod = s.cod := rfl
@[simp] theorem State.modLink_streams : (s.modLink n g).streams = s.streams := rfl
@[simp] theorem State.modLink_opr : (s.modLink n g).opr = s.opr := rfl
@[simp] theorem State.modLink_dma : (s.modLink n g).dma = s.dma := rfl
@[simp] theorem State.modLink_claims : (s.modLink n g).claims = s.claims := rfl
@[simp] theorem State.modLink_dram : (s.modLink n g).dram = s.dram := rfl
@[simp] theorem State.modLink_fl : (s.modLink n g).fl = s.fl := rfl
@[simp] theorem State.modLink_ras : (s.modLink n g).ras = s.ras := rfl
@[simp] theorem State.modLink_tst : (s.modLink n g).tst = s.tst := rfl
@[simp] theorem State.modLink_herd : (s.modLink n g).herd = { s.herd with links := s.herd.links.set n (g (s.link n)) } := rfl
@[simp] theorem State.modLink_tr : (s.modLink n g).tr = s.tr := rfl
@[simp] theorem State.modLink_heads : (s.modLink n g).heads = s.heads := rfl
@[simp] theorem State.modLink_funcs : (s.modLink n g).funcs = s.funcs := rfl
@[simp] theorem State.modLink_pmu : (s.modLink n g).pmu = s.pmu := rfl
@[simp] theorem State.modLink_cntClear : (s.modLink n g).cntClear = s.cntClear := rfl
@[simp] theorem State.modLink_atBoundary : (s.modLink n g).atBoundary = s.atBoundary := rfl
end

section
variable {s : State} {n : Nat} {g : Lane → Lane}
@[simp] theorem State.modLane_pending : (s.modLane n g).pending = s.pending := rfl
@[simp] theorem State.modLane_out : (s.modLane n g).out = s.out := rfl
@[simp] theorem State.modLane_mem : (s.modLane n g).mem = s.mem := rfl
@[simp] theorem State.modLane_syn : (s.modLane n g).syn = s.syn := rfl
@[simp] theorem State.modLane_str : (s.modLane n g).str = s.str := rfl
@[simp] theorem State.modLane_cfg : (s.modLane n g).cfg = s.cfg := rfl
@[simp] theorem State.modLane_q : (s.modLane n g).q = s.q := rfl
@[simp] theorem State.modLane_ops : (s.modLane n g).ops = s.ops := rfl
@[simp] theorem State.modLane_ti : (s.modLane n g).ti = s.ti := rfl
@[simp] theorem State.modLane_doms : (s.modLane n g).doms = s.doms := rfl
@[simp] theorem State.modLane_sh : (s.modLane n g).sh = s.sh := rfl
@[simp] theorem State.modLane_cod : (s.modLane n g).cod = { s.cod with lanes := s.cod.lanes.set n (g (s.lane n)) } := rfl
@[simp] theorem State.modLane_streams : (s.modLane n g).streams = s.streams := rfl
@[simp] theorem State.modLane_opr : (s.modLane n g).opr = s.opr := rfl
@[simp] theorem State.modLane_dma : (s.modLane n g).dma = s.dma := rfl
@[simp] theorem State.modLane_claims : (s.modLane n g).claims = s.claims := rfl
@[simp] theorem State.modLane_dram : (s.modLane n g).dram = s.dram := rfl
@[simp] theorem State.modLane_fl : (s.modLane n g).fl = s.fl := rfl
@[simp] theorem State.modLane_ras : (s.modLane n g).ras = s.ras := rfl
@[simp] theorem State.modLane_tst : (s.modLane n g).tst = s.tst := rfl
@[simp] theorem State.modLane_herd : (s.modLane n g).herd = s.herd := rfl
@[simp] theorem State.modLane_tr : (s.modLane n g).tr = s.tr := rfl
@[simp] theorem State.modLane_heads : (s.modLane n g).heads = s.heads := rfl
@[simp] theorem State.modLane_funcs : (s.modLane n g).funcs = s.funcs := rfl
@[simp] theorem State.modLane_pmu : (s.modLane n g).pmu = s.pmu := rfl
@[simp] theorem State.modLane_cntClear : (s.modLane n g).cntClear = s.cntClear := rfl
@[simp] theorem State.modLane_atBoundary : (s.modLane n g).atBoundary = s.atBoundary := rfl
end

section
variable {s : State} {id : Nat} {g : Binding → Binding}
@[simp] theorem State.modBinding_pending : (s.modBinding id g).pending = s.pending := rfl
@[simp] theorem State.modBinding_out : (s.modBinding id g).out = s.out := rfl
@[simp] theorem State.modBinding_mem : (s.modBinding id g).mem = s.mem := rfl
@[simp] theorem State.modBinding_syn : (s.modBinding id g).syn = s.syn := rfl
@[simp] theorem State.modBinding_str : (s.modBinding id g).str = s.str := rfl
@[simp] theorem State.modBinding_cfg : (s.modBinding id g).cfg = s.cfg := rfl
@[simp] theorem State.modBinding_q : (s.modBinding id g).q = s.q := rfl
@[simp] theorem State.modBinding_ops : (s.modBinding id g).ops = s.ops := rfl
@[simp] theorem State.modBinding_ti : (s.modBinding id g).ti = s.ti := rfl
@[simp] theorem State.modBinding_doms : (s.modBinding id g).doms = s.doms := rfl
@[simp] theorem State.modBinding_sh : (s.modBinding id g).sh = s.sh := rfl
@[simp] theorem State.modBinding_cod : (s.modBinding id g).cod = s.cod := rfl
@[simp] theorem State.modBinding_streams : (s.modBinding id g).streams = s.streams := rfl
@[simp] theorem State.modBinding_opr : (s.modBinding id g).opr = { s.opr with binds := s.opr.binds.modify id g } := rfl
@[simp] theorem State.modBinding_dma : (s.modBinding id g).dma = s.dma := rfl
@[simp] theorem State.modBinding_claims : (s.modBinding id g).claims = s.claims := rfl
@[simp] theorem State.modBinding_dram : (s.modBinding id g).dram = s.dram := rfl
@[simp] theorem State.modBinding_fl : (s.modBinding id g).fl = s.fl := rfl
@[simp] theorem State.modBinding_ras : (s.modBinding id g).ras = s.ras := rfl
@[simp] theorem State.modBinding_tst : (s.modBinding id g).tst = s.tst := rfl
@[simp] theorem State.modBinding_herd : (s.modBinding id g).herd = s.herd := rfl
@[simp] theorem State.modBinding_tr : (s.modBinding id g).tr = s.tr := rfl
@[simp] theorem State.modBinding_heads : (s.modBinding id g).heads = s.heads := rfl
@[simp] theorem State.modBinding_funcs : (s.modBinding id g).funcs = s.funcs := rfl
@[simp] theorem State.modBinding_pmu : (s.modBinding id g).pmu = s.pmu := rfl
@[simp] theorem State.modBinding_cntClear : (s.modBinding id g).cntClear = s.cntClear := rfl
@[simp] theorem State.modBinding_atBoundary : (s.modBinding id g).atBoundary = s.atBoundary := rfl
end

section
variable {s : State} {f : Nat} {g : Cmq → Cmq}
@[simp] theorem State.modCmq_pending : (s.modCmq f g).pending = s.pending := rfl
@[simp] theorem State.modCmq_out : (s.modCmq f g).out = s.out := rfl
@[simp] theorem State.modCmq_mem : (s.modCmq f g).mem = s.mem := rfl
@[simp] theorem State.modCmq_syn : (s.modCmq f g).syn = s.syn := rfl
@[simp] theorem State.modCmq_str : (s.modCmq f g).str = s.str := rfl
@[simp] theorem State.modCmq_cfg : (s.modCmq f g).cfg = s.cfg := rfl
@[simp] theorem State.modCmq_q : (s.modCmq f g).q = { s.q with cmq := s.q.cmq.set f (g (s.cmq f)) } := rfl
@[simp] theorem State.modCmq_ops : (s.modCmq f g).ops = s.ops := rfl
@[simp] theorem State.modCmq_ti : (s.modCmq f g).ti = s.ti := rfl
@[simp] theorem State.modCmq_doms : (s.modCmq f g).doms = s.doms := rfl
@[simp] theorem State.modCmq_sh : (s.modCmq f g).sh = s.sh := rfl
@[simp] theorem State.modCmq_cod : (s.modCmq f g).cod = s.cod := rfl
@[simp] theorem State.modCmq_streams : (s.modCmq f g).streams = s.streams := rfl
@[simp] theorem State.modCmq_opr : (s.modCmq f g).opr = s.opr := rfl
@[simp] theorem State.modCmq_dma : (s.modCmq f g).dma = s.dma := rfl
@[simp] theorem State.modCmq_claims : (s.modCmq f g).claims = s.claims := rfl
@[simp] theorem State.modCmq_dram : (s.modCmq f g).dram = s.dram := rfl
@[simp] theorem State.modCmq_fl : (s.modCmq f g).fl = s.fl := rfl
@[simp] theorem State.modCmq_ras : (s.modCmq f g).ras = s.ras := rfl
@[simp] theorem State.modCmq_tst : (s.modCmq f g).tst = s.tst := rfl
@[simp] theorem State.modCmq_herd : (s.modCmq f g).herd = s.herd := rfl
@[simp] theorem State.modCmq_tr : (s.modCmq f g).tr = s.tr := rfl
@[simp] theorem State.modCmq_heads : (s.modCmq f g).heads = s.heads := rfl
@[simp] theorem State.modCmq_funcs : (s.modCmq f g).funcs = s.funcs := rfl
@[simp] theorem State.modCmq_pmu : (s.modCmq f g).pmu = s.pmu := rfl
@[simp] theorem State.modCmq_cntClear : (s.modCmq f g).cntClear = s.cntClear := rfl
@[simp] theorem State.modCmq_atBoundary : (s.modCmq f g).atBoundary = s.atBoundary := rfl
end

section
variable {s : State} {n : Nat} {g : Chan → Chan}
@[simp] theorem State.modChan_pending : (s.modChan n g).pending = s.pending := rfl
@[simp] theorem State.modChan_out : (s.modChan n g).out = s.out := rfl
@[simp] theorem State.modChan_mem : (s.modChan n g).mem = s.mem := rfl
@[simp] theorem State.modChan_syn : (s.modChan n g).syn = s.syn := rfl
@[simp] theorem State.modChan_str : (s.modChan n g).str = s.str := rfl
@[simp] theorem State.modChan_cfg : (s.modChan n g).cfg = s.cfg := rfl
@[simp] theorem State.modChan_q : (s.modChan n g).q = s.q := rfl
@[simp] theorem State.modChan_ops : (s.modChan n g).ops = s.ops := rfl
@[simp] theorem State.modChan_ti : (s.modChan n g).ti = s.ti := rfl
@[simp] theorem State.modChan_doms : (s.modChan n g).doms = s.doms := rfl
@[simp] theorem State.modChan_sh : (s.modChan n g).sh = s.sh := rfl
@[simp] theorem State.modChan_cod : (s.modChan n g).cod = s.cod := rfl
@[simp] theorem State.modChan_streams : (s.modChan n g).streams = s.streams := rfl
@[simp] theorem State.modChan_opr : (s.modChan n g).opr = s.opr := rfl
@[simp] theorem State.modChan_dma : (s.modChan n g).dma = { s.dma with chans := s.dma.chans.modify n g } := rfl
@[simp] theorem State.modChan_claims : (s.modChan n g).claims = s.claims := rfl
@[simp] theorem State.modChan_dram : (s.modChan n g).dram = s.dram := rfl
@[simp] theorem State.modChan_fl : (s.modChan n g).fl = s.fl := rfl
@[simp] theorem State.modChan_ras : (s.modChan n g).ras = s.ras := rfl
@[simp] theorem State.modChan_tst : (s.modChan n g).tst = s.tst := rfl
@[simp] theorem State.modChan_herd : (s.modChan n g).herd = s.herd := rfl
@[simp] theorem State.modChan_tr : (s.modChan n g).tr = s.tr := rfl
@[simp] theorem State.modChan_heads : (s.modChan n g).heads = s.heads := rfl
@[simp] theorem State.modChan_funcs : (s.modChan n g).funcs = s.funcs := rfl
@[simp] theorem State.modChan_pmu : (s.modChan n g).pmu = s.pmu := rfl
@[simp] theorem State.modChan_cntClear : (s.modChan n g).cntClear = s.cntClear := rfl
@[simp] theorem State.modChan_atBoundary : (s.modChan n g).atBoundary = s.atBoundary := rfl
end

section
variable {s : State} {id : Nat} {f : Impr → Impr}
@[simp] theorem State.modImpr_pending : (s.modImpr id f).pending = s.pending := rfl
@[simp] theorem State.modImpr_out : (s.modImpr id f).out = s.out := rfl
@[simp] theorem State.modImpr_mem : (s.modImpr id f).mem = s.mem := rfl
@[simp] theorem State.modImpr_syn : (s.modImpr id f).syn = s.syn := rfl
@[simp] theorem State.modImpr_str : (s.modImpr id f).str = s.str := rfl
@[simp] theorem State.modImpr_cfg : (s.modImpr id f).cfg = s.cfg := rfl
@[simp] theorem State.modImpr_q : (s.modImpr id f).q = s.q := rfl
@[simp] theorem State.modImpr_ops : (s.modImpr id f).ops = s.ops := rfl
@[simp] theorem State.modImpr_ti : (s.modImpr id f).ti = s.ti := rfl
@[simp] theorem State.modImpr_doms : (s.modImpr id f).doms = s.doms := rfl
@[simp] theorem State.modImpr_sh : (s.modImpr id f).sh = { s.sh with imprs := s.sh.imprs.modify id f } := rfl
@[simp] theorem State.modImpr_cod : (s.modImpr id f).cod = s.cod := rfl
@[simp] theorem State.modImpr_streams : (s.modImpr id f).streams = s.streams := rfl
@[simp] theorem State.modImpr_opr : (s.modImpr id f).opr = s.opr := rfl
@[simp] theorem State.modImpr_dma : (s.modImpr id f).dma = s.dma := rfl
@[simp] theorem State.modImpr_claims : (s.modImpr id f).claims = s.claims := rfl
@[simp] theorem State.modImpr_dram : (s.modImpr id f).dram = s.dram := rfl
@[simp] theorem State.modImpr_fl : (s.modImpr id f).fl = s.fl := rfl
@[simp] theorem State.modImpr_ras : (s.modImpr id f).ras = s.ras := rfl
@[simp] theorem State.modImpr_tst : (s.modImpr id f).tst = s.tst := rfl
@[simp] theorem State.modImpr_herd : (s.modImpr id f).herd = s.herd := rfl
@[simp] theorem State.modImpr_tr : (s.modImpr id f).tr = s.tr := rfl
@[simp] theorem State.modImpr_heads : (s.modImpr id f).heads = s.heads := rfl
@[simp] theorem State.modImpr_funcs : (s.modImpr id f).funcs = s.funcs := rfl
@[simp] theorem State.modImpr_pmu : (s.modImpr id f).pmu = s.pmu := rfl
@[simp] theorem State.modImpr_cntClear : (s.modImpr id f).cntClear = s.cntClear := rfl
@[simp] theorem State.modImpr_atBoundary : (s.modImpr id f).atBoundary = s.atBoundary := rfl
end

section
variable {s : State} {slot : Nat} {g : Dom → Dom}
@[simp] theorem State.modDom_pending : (s.modDom slot g).pending = s.pending := rfl
@[simp] theorem State.modDom_out : (s.modDom slot g).out = s.out := rfl
@[simp] theorem State.modDom_mem : (s.modDom slot g).mem = s.mem := rfl
@[simp] theorem State.modDom_syn : (s.modDom slot g).syn = s.syn := rfl
@[simp] theorem State.modDom_str : (s.modDom slot g).str = s.str := rfl
@[simp] theorem State.modDom_cfg : (s.modDom slot g).cfg = s.cfg := rfl
@[simp] theorem State.modDom_q : (s.modDom slot g).q = s.q := rfl
@[simp] theorem State.modDom_ops : (s.modDom slot g).ops = s.ops := rfl
@[simp] theorem State.modDom_ti : (s.modDom slot g).ti = s.ti := rfl
@[simp] theorem State.modDom_doms : (s.modDom slot g).doms = s.doms.set slot (g (s.dom slot)) := rfl
@[simp] theorem State.modDom_sh : (s.modDom slot g).sh = s.sh := rfl
@[simp] theorem State.modDom_cod : (s.modDom slot g).cod = s.cod := rfl
@[simp] theorem State.modDom_streams : (s.modDom slot g).streams = s.streams := rfl
@[simp] theorem State.modDom_opr : (s.modDom slot g).opr = s.opr := rfl
@[simp] theorem State.modDom_dma : (s.modDom slot g).dma = s.dma := rfl
@[simp] theorem State.modDom_claims : (s.modDom slot g).claims = s.claims := rfl
@[simp] theorem State.modDom_dram : (s.modDom slot g).dram = s.dram := rfl
@[simp] theorem State.modDom_fl : (s.modDom slot g).fl = s.fl := rfl
@[simp] theorem State.modDom_ras : (s.modDom slot g).ras = s.ras := rfl
@[simp] theorem State.modDom_tst : (s.modDom slot g).tst = s.tst := rfl
@[simp] theorem State.modDom_herd : (s.modDom slot g).herd = s.herd := rfl
@[simp] theorem State.modDom_tr : (s.modDom slot g).tr = s.tr := rfl
@[simp] theorem State.modDom_heads : (s.modDom slot g).heads = s.heads := rfl
@[simp] theorem State.modDom_funcs : (s.modDom slot g).funcs = s.funcs := rfl
@[simp] theorem State.modDom_pmu : (s.modDom slot g).pmu = s.pmu := rfl
@[simp] theorem State.modDom_cntClear : (s.modDom slot g).cntClear = s.cntClear := rfl
@[simp] theorem State.modDom_atBoundary : (s.modDom slot g).atBoundary = s.atBoundary := rfl
end

section
variable {s : State} {path : Nat} {x : Spdm}
@[simp] theorem State.setSpdm_pending : (s.setSpdm path x).pending = s.pending := rfl
@[simp] theorem State.setSpdm_out : (s.setSpdm path x).out = s.out := rfl
@[simp] theorem State.setSpdm_mem : (s.setSpdm path x).mem = s.mem := rfl
@[simp] theorem State.setSpdm_syn : (s.setSpdm path x).syn = s.syn := rfl
@[simp] theorem State.setSpdm_str : (s.setSpdm path x).str = s.str := rfl
@[simp] theorem State.setSpdm_cfg : (s.setSpdm path x).cfg = s.cfg := rfl
@[simp] theorem State.setSpdm_q : (s.setSpdm path x).q = s.q := rfl
@[simp] theorem State.setSpdm_ops : (s.setSpdm path x).ops = s.ops := rfl
@[simp] theorem State.setSpdm_ti : (s.setSpdm path x).ti = s.ti := rfl
@[simp] theorem State.setSpdm_doms : (s.setSpdm path x).doms = s.doms := rfl
@[simp] theorem State.setSpdm_sh : (s.setSpdm path x).sh = s.sh := rfl
@[simp] theorem State.setSpdm_cod : (s.setSpdm path x).cod = s.cod := rfl
@[simp] theorem State.setSpdm_streams : (s.setSpdm path x).streams = s.streams := rfl
@[simp] theorem State.setSpdm_opr : (s.setSpdm path x).opr = s.opr := rfl
@[simp] theorem State.setSpdm_dma : (s.setSpdm path x).dma = s.dma := rfl
@[simp] theorem State.setSpdm_claims : (s.setSpdm path x).claims = s.claims := rfl
@[simp] theorem State.setSpdm_dram : (s.setSpdm path x).dram = s.dram := rfl
@[simp] theorem State.setSpdm_fl : (s.setSpdm path x).fl = s.fl := rfl
@[simp] theorem State.setSpdm_ras : (s.setSpdm path x).ras = s.ras := rfl
@[simp] theorem State.setSpdm_tst : (s.setSpdm path x).tst = s.tst := rfl
@[simp] theorem State.setSpdm_herd : (s.setSpdm path x).herd = s.herd := rfl
@[simp] theorem State.setSpdm_tr : (s.setSpdm path x).tr = { s.tr with spdm := s.tr.spdm.set path x } := rfl
@[simp] theorem State.setSpdm_heads : (s.setSpdm path x).heads = s.heads := rfl
@[simp] theorem State.setSpdm_funcs : (s.setSpdm path x).funcs = s.funcs := rfl
@[simp] theorem State.setSpdm_pmu : (s.setSpdm path x).pmu = s.pmu := rfl
@[simp] theorem State.setSpdm_cntClear : (s.setSpdm path x).cntClear = s.cntClear := rfl
@[simp] theorem State.setSpdm_atBoundary : (s.setSpdm path x).atBoundary = s.atBoundary := rfl
end

section
variable {s : State} {n : Nat} {g : Core → Core}
@[simp] theorem State.modCore_pending : (s.modCore n g).pending = s.pending := rfl
@[simp] theorem State.modCore_out : (s.modCore n g).out = s.out := rfl
@[simp] theorem State.modCore_mem : (s.modCore n g).mem = s.mem := rfl
@[simp] theorem State.modCore_syn : (s.modCore n g).syn = s.syn := rfl
@[simp] theorem State.modCore_str : (s.modCore n g).str = s.str := rfl
@[simp] theorem State.modCore_cfg : (s.modCore n g).cfg = s.cfg := rfl
@[simp] theorem State.modCore_q : (s.modCore n g).q = s.q := rfl
@[simp] theorem State.modCore_ops : (s.modCore n g).ops = s.ops := rfl
@[simp] theorem State.modCore_ti : (s.modCore n g).ti = s.ti := rfl
@[simp] theorem State.modCore_doms : (s.modCore n g).doms = s.doms := rfl
@[simp] theorem State.modCore_sh : (s.modCore n g).sh = s.sh := rfl
@[simp] theorem State.modCore_cod : (s.modCore n g).cod = s.cod := rfl
@[simp] theorem State.modCore_streams : (s.modCore n g).streams = s.streams := rfl
@[simp] theorem State.modCore_opr : (s.modCore n g).opr = s.opr := rfl
@[simp] theorem State.modCore_dma : (s.modCore n g).dma = s.dma := rfl
@[simp] theorem State.modCore_claims : (s.modCore n g).claims = s.claims := rfl
@[simp] theorem State.modCore_dram : (s.modCore n g).dram = s.dram := rfl
@[simp] theorem State.modCore_fl : (s.modCore n g).fl = s.fl := rfl
@[simp] theorem State.modCore_ras : (s.modCore n g).ras = { s.ras with cores := s.ras.cores.set n (g (s.core n)) } := rfl
@[simp] theorem State.modCore_tst : (s.modCore n g).tst = s.tst := rfl
@[simp] theorem State.modCore_herd : (s.modCore n g).herd = s.herd := rfl
@[simp] theorem State.modCore_tr : (s.modCore n g).tr = s.tr := rfl
@[simp] theorem State.modCore_heads : (s.modCore n g).heads = s.heads := rfl
@[simp] theorem State.modCore_funcs : (s.modCore n g).funcs = s.funcs := rfl
@[simp] theorem State.modCore_pmu : (s.modCore n g).pmu = s.pmu := rfl
@[simp] theorem State.modCore_cntClear : (s.modCore n g).cntClear = s.cntClear := rfl
@[simp] theorem State.modCore_atBoundary : (s.modCore n g).atBoundary = s.atBoundary := rfl
end

section
variable {s : State} {t : Nat}
@[simp] theorem State.dropT0_pending : (s.dropT0 t).pending = s.pending := rfl
@[simp] theorem State.dropT0_out : (s.dropT0 t).out = s.out := rfl
@[simp] theorem State.dropT0_mem : (s.dropT0 t).mem = s.mem := rfl
@[simp] theorem State.dropT0_syn : (s.dropT0 t).syn = s.syn := rfl
@[simp] theorem State.dropT0_str : (s.dropT0 t).str = s.str := rfl
@[simp] theorem State.dropT0_cfg : (s.dropT0 t).cfg = s.cfg := rfl
@[simp] theorem State.dropT0_q : (s.dropT0 t).q = s.q := rfl
@[simp] theorem State.dropT0_ops : (s.dropT0 t).ops = s.ops := rfl
@[simp] theorem State.dropT0_ti : (s.dropT0 t).ti = { s.ti with t0 := s.ti.t0.del t } := rfl
@[simp] theorem State.dropT0_doms : (s.dropT0 t).doms = s.doms := rfl
@[simp] theorem State.dropT0_sh : (s.dropT0 t).sh = s.sh := rfl
@[simp] theorem State.dropT0_cod : (s.dropT0 t).cod = s.cod := rfl
@[simp] theorem State.dropT0_streams : (s.dropT0 t).streams = s.streams := rfl
@[simp] theorem State.dropT0_opr : (s.dropT0 t).opr = s.opr := rfl
@[simp] theorem State.dropT0_dma : (s.dropT0 t).dma = s.dma := rfl
@[simp] theorem State.dropT0_claims : (s.dropT0 t).claims = s.claims := rfl
@[simp] theorem State.dropT0_dram : (s.dropT0 t).dram = s.dram := rfl
@[simp] theorem State.dropT0_fl : (s.dropT0 t).fl = s.fl := rfl
@[simp] theorem State.dropT0_ras : (s.dropT0 t).ras = s.ras := rfl
@[simp] theorem State.dropT0_tst : (s.dropT0 t).tst = s.tst := rfl
@[simp] theorem State.dropT0_herd : (s.dropT0 t).herd = s.herd := rfl
@[simp] theorem State.dropT0_tr : (s.dropT0 t).tr = s.tr := rfl
@[simp] theorem State.dropT0_heads : (s.dropT0 t).heads = s.heads := rfl
@[simp] theorem State.dropT0_funcs : (s.dropT0 t).funcs = s.funcs := rfl
@[simp] theorem State.dropT0_pmu : (s.dropT0 t).pmu = s.pmu := rfl
@[simp] theorem State.dropT0_cntClear : (s.dropT0 t).cntClear = s.cntClear := rfl
@[simp] theorem State.dropT0_atBoundary : (s.dropT0 t).atBoundary = s.atBoundary := rfl
end

end Sys2Proof.Machine
end

