-- ==== Sys2Proof/WellFormed.lean ====
section
/-! DEFINITION. Which commands can reach the device at all: every number in the range that its field or the device's structure gives
it, every byte string of the length that its record or message has. `exec` is total, also outside these bounds. -/

namespace Sys2Proof

/-- One of the 128 functions, 16 on each of eight heads (R495). -/
def funcOk (f : Nat) : Bool := decide (f < 128)
/-- One of the 64 queue pairs of a function (R36). -/
def qpOk (n : Nat) : Bool := decide (n < 64)
/-- One of the eight heads (R491). -/
def headOk (h : Nat) : Bool := decide (h < 8)
/-- One of the 32 Apyan links (R384). -/
def linkOk (l : Nat) : Bool := decide (l < 32)
/-- One of the 12 stacks (R328). -/
def stackOk (k : Nat) : Bool := decide (k < 12)
/-- One of the 32 pseudo-channels of a stack (R328). -/
def pcOk (p : Nat) : Bool := decide (p < 32)
/-- One of the 64 burin lanes (R174). -/
def laneOk (n : Nat) : Bool := decide (n < 64)
/-- A handle (R66). -/
def handleOk (h : Nat) : Bool := decide (h < 4096)
/-- A domain slot (R430). -/
def slotOk (x : Nat) : Bool := decide (x < 4096)
/-- A path of SPDM: a head's DOE or an MCTP endpoint (R450). -/
def pathOk (p : Nat) : Bool := decide (p < 264)

/-- A queue pair of a function, or an MCTP endpoint ID. -/
def Origin.wf : Origin → Bool
  | .qp f n => funcOk f && qpOk n
  | .mgmt e _ => decide (e < 256)

/-- The data that a packet's address parameters name: at most 16 MiB, which is beyond the largest that a command reads. -/
def Pkt.wf (p : Pkt) : Bool := decide (p.data.length ≤ 16777216)

/-- A CXL.mem request: a tag of 16 bits and one line of data (R301). -/
def MemReq.wf (r : MemReq) : Bool := funcOk r.ld && decide (r.tag < 65536) && decide (r.data.length = 64)

/-- The fields of a message head and its data slots (R389). -/
def Msg.wf (m : Msg) : Bool :=
  decide (m.mop < 256) && decide (m.dst < 65536) && decide (m.src < 65536) && decide (m.hops < 256) && decide (m.epoch < 2 ^ 32)
    && decide (m.tag < 2 ^ 32) && decide (m.hdom < 2 ^ 24) && decide (m.plate < 2 ^ 36) && decide (m.line < 64)
    && decide (m.data.length ≤ 4096) && decide (m.data.length % 64 = 0)

/-- The message opcodes of R390. -/
def knownMops : List Nat :=
  [0x01, 0x02, 0x03, 0x04, 0x05, 0x06, 0x07, 0x08, 0x09, 0x10, 0x11, 0x12, 0x18, 0x20, 0x21, 0x22, 0x23, 0x24, 0x25, 0x26, 0x27,
   0x28, 0x29, 0x2A, 0x2B, 0x2C, 0x2D]

/-- A flit is 544 bytes (R386). -/
def Flit.wf (f : Flit) : Bool := decide (f.bytes.length = 544)

/-- What EXCHANGE tells (R394). -/
def Exchange.wf (x : Exchange) : Bool :=
  decide (x.deviceId < 65536) && decide (x.proto < 2 ^ 32) && decide (x.lanes < 16) && decide (x.credits.length = 4)
    && decide (x.lastFseq < 4096)

/-- An image with a header of 512 bytes (R453) and the number of a fused key hash, or 4. -/
def Image.wf (i : Image) : Bool := i.header.length == 512 && decide (i.keyHash ≤ 4)

/-- An access to a window of a function: a doorbell page or the register window (R498). -/
def WinWrite.wf (w : WinWrite) : Bool := decide (w.off < 2 ^ 20) && decide (w.size ≤ 64)

/-- Whether a command can reach the device: every operand in the range of its field. -/
def Instr.wf : Instr → Bool
  | .strideBoundary links => links.all (fun l => linkOk l.1)
  | .tetherExpiry _ => true
  | .offerTimeout _ => true
  | .demandSnapshot => true
  | .plannerLate => true
  | .sliceOverrun handle cls _ _ => handleOk handle && decide (cls < 8)
  | .heldConfigBlockTake => true
  | .accessAdmission _ => true
  | .stagingClaimGrant => true
  | .laneJobDispatch die => decide (die < 4)
  | .planCommit handle => handleOk handle
  | .planAbandon handle => handleOk handle
  | .sqTailWrite func qp _ _ => funcOk func && qpOk qp
  | .rqHeadWrite func qp _ _ => funcOk func && qpOk qp
  | .ringAccessFailure func qp => funcOk func && qpOk qp
  | .commandDataAccessFailure d => match d with
    | .packet o opcode p => o.wf && decide (opcode < 2 ^ 16) && p.wf
    | .running handle => handleOk handle
  | .clampReportWriteFailure o _ p => o.wf && p.wf
  | .qp0Enable func _ _ => funcOk func
  | .qp0Disable func _ _ => funcOk func
  | .qp0IntEnWrite func _ _ => funcOk func
  | .qp0BaseWrite func _ _ _ => funcOk func
  | .nop o p => o.wf && p.wf
  | .queueCreate o p => o.wf && p.wf
  | .queueDelete o p => o.wf && p.wf
  | .configWrite o p => o.wf && p.wf
  | .configPlan o p => o.wf && p.wf
  | .configRead o p => o.wf && p.wf
  | .catalogueRead o p => o.wf && p.wf
  | .opCancel o p => o.wf && p.wf
  | .opStatusRead o p => o.wf && p.wf
  | .extentGrant o p => o.wf && p.wf
  | .extentRelease o p => o.wf && p.wf
  | .tetherRenew o p => o.wf && p.wf
  | .extentList o p => o.wf && p.wf
  | .windowSet o p => o.wf && p.wf
  | .placeMove o p => o.wf && p.wf
  | .plateQuery o p => o.wf && p.wf
  | .plateDiscard o p => o.wf && p.wf
  | .segmentDefine o p => o.wf && p.wf
  | .proofPass o p => o.wf && p.wf
  | .segmentDrop o p => o.wf && p.wf
  | .segmentQuery o p => o.wf && p.wf
  | .tableRead o p => o.wf && p.wf
  | .streamLoad o p => o.wf && p.wf
  | .streamRun o p => o.wf && p.wf
  | .streamUnload o p => o.wf && p.wf
  | .streamQuery o p => o.wf && p.wf
  | .streamWriteFailure _ q => decide (q < 2 ^ 64)
  | .operBind o p => o.wf && p.wf
  | .operUnbind o p => o.wf && p.wf
  | .operStep o p => o.wf && p.wf
  | .operRoundClose o p => o.wf && p.wf
  | .operQuery o p => o.wf && p.wf
  | .roundComplete _ => true
  | .roundEventWriteFailure _ => true
  | .digestOpen o p => o.wf && p.wf
  | .digestClose o p => o.wf && p.wf
  | .digestRead o p => o.wf && p.wf
  | .dmaChanOpen o p => o.wf && p.wf
  | .dmaChanStop o p => o.wf && p.wf
  | .dmaChanClose o p => o.wf && p.wf
  | .dmaKick o p => o.wf && p.wf
  | .dmaChanQuery o p => o.wf && p.wf
  | .descriptorFetch _ bytes => decide (bytes.length = 64)
  | .descriptorComplete ch _ _ => decide (ch < 256)
  | .parkLimitExpiry _ => true
  | .dmaAccessFailure _ => true
  | .impressionOpen o p => o.wf && p.wf
  | .impressionCapture _ => true
  | .impressionClose o p => o.wf && p.wf
  | .impressionQuery o p => o.wf && p.wf
  | .dirRecall o p => o.wf && p.wf
  | .snoopTimeout _ => true
  | .memRd r => r.wf
  | .memRdData r => r.wf
  | .memInv r => r.wf
  | .memInvNt r => r.wf
  | .memWr r => r.wf
  | .memWrPtl r => r.wf
  | .memClnEvct r => r.wf
  | .memSpecRd r => r.wf
  | .memFwdDrop r => r.wf
  | .biConflict ld _ => funcOk ld
  | .biRsp ld _ _ => funcOk ld
  | .biRspE ld _ => funcOk ld
  | .expansionWindowRead func _ len => funcOk func && decide (1 ≤ len) && decide (len ≤ 64)
  | .expansionWindowWrite func _ data => funcOk func && decide (1 ≤ data.length) && decide (data.length ≤ 64)
  | .demotionSlice slot => slotOk slot
  | .touchedSweep => true
  | .decodeComplete lane fault => laneOk lane && (match fault with
    | some (c, n) => decide (1 ≤ c) && decide (c ≤ 10) && decide (n < 8)
    | none => true)
  | .encodeComplete lane _ => laneOk lane
  | .dramReadComplete stack granule flips => stackOk stack && decide (granule < 2 ^ 28) && flips.all (fun b => decide (b < 544))
  | .caParityAlert stack pc _ => stackOk stack && pcOk pc
  | .retrainingComplete stack pc _ => stackOk stack && pcOk pc
  | .trainPeriodExpiry => true
  | .selfRefreshEntry stack pc => stackOk stack && pcOk pc
  | .selfRefreshExit stack pc => stackOk stack && pcOk pc
  | .bankSpareCopyDone bank => decide (bank < 256)
  | .flashReadComplete _ _ _ => true
  | .softRetryComplete _ _ => true
  | .flashProgramComplete die mode => decide (die < 4) && decide (mode < 2)
  | .flashProgramFailure die mode ch => decide (die < 4) && decide (mode < 2) && decide (ch < 8)
  | .flashEraseComplete _ _ failed => failed.all (fun ch => decide (ch < 8))
  | .padTimeout die mode => decide (die < 4) && decide (mode < 2)
  | .reclaimStart die mode => decide (die < 4) && decide (mode < 2)
  | .wearLevel die mode => decide (die < 4) && decide (mode < 2)
  | .flashDieFailure _ _ => true
  | .flashPatrolRead _ _ _ => true
  | .watchdogExpiry core _ => decide (core < 16)
  | .mgmtWatchdogExpiry => true
  | .scrub o p => o.wf && p.wf
  | .retire o p => o.wf && p.wf
  | .flipArm o p => o.wf && p.wf
  | .flipDisarm o p => o.wf && p.wf
  | .logRead o p => o.wf && p.wf
  | .logRelease o p => o.wf && p.wf
  | .selftestLogic o p => o.wf && p.wf
  | .selftestStore o p => o.wf && p.wf
  | .selftestStack o p => o.wf && p.wf
  | .dressageLoad o p => o.wf && p.wf
  | .dressageDrop o p => o.wf && p.wf
  | .dressageQuery o p => o.wf && p.wf
  | .debugUnlock o p => o.wf && p.wf
  | .debugLock o p => o.wf && p.wf
  | .herdForm o p => o.wf && p.wf
  | .herdAdmit o p => o.wf && p.wf
  | .herdJoin o p => o.wf && p.wf
  | .herdRemove o p => o.wf && p.wf
  | .herdVoters o p => o.wf && p.wf
  | .herdDomainSet o p => o.wf && p.wf
  | .routeWrite o p => o.wf && p.wf
  | .herdRead o p => o.wf && p.wf
  | .linkCtrl o p => o.wf && p.wf
  | .herdStandby o p => o.wf && p.wf
  | .domainActivate o p => o.wf && p.wf
  | .domainPark o p => o.wf && p.wf
  | .domainUnpark o p => o.wf && p.wf
  | .domainErase o p => o.wf && p.wf
  | .domainQuery o p => o.wf && p.wf
  | .keyLoad o p => o.wf && p.wf
  | .keyDestroy o p => o.wf && p.wf
  | .fwStage o p image => o.wf && p.wf && image.wf
  | .fwPrepare o p => o.wf && p.wf
  | .fwActivate o p => o.wf && p.wf
  | .firmwareHandover => true
  | .fwActivateTimeout => true
  | .fwCommit o p => o.wf && p.wf
  | .fwQuery o p => o.wf && p.wf
  | .pldmFirmwareUpdate image => image.wf
  | .syncBlockReceive link b _ => linkOk link && decide (b.length = 128)
  | .flitReceive link f => linkOk link && f.wf
  | .retryReqReceive link fseq => linkOk link && decide (fseq < 4096)
  | .linkStateTimeout link => linkOk link
  | .linkTrainStepComplete link x => linkOk link && x.wf
  | .linkRecoverEntry link _ lanes => linkOk link && decide (lanes < 16)
  | .linkDown link => linkOk link
  | .unknownMessage link m => linkOk link && m.wf && !knownMops.contains m.mop
  | .rdLine link m => linkOk link && m.wf && m.mop == 0x01
  | .rdPlate link m => linkOk link && m.wf && m.mop == 0x02
  | .wrLine link m => linkOk link && m.wf && m.mop == 0x03
  | .contrib link m => linkOk link && m.wf && m.mop == 0x04
  | .mirror link m => linkOk link && m.wf && m.mop == 0x05
  | .dirtyMark link m => linkOk link && m.wf && m.mop == 0x06
  | .parityDelta link m => linkOk link && m.wf && m.mop == 0x07
  | .plateMove link m => linkOk link && m.wf && m.mop == 0x08
  | .tableRec link m => linkOk link && m.wf && m.mop == 0x09
  | .cmp link m => linkOk link && m.wf && m.mop == 0x10
  | .dataMsg link m => linkOk link && m.wf && m.mop == 0x11
  | .birspMsg link m => linkOk link && m.wf && m.mop == 0x12
  | .bisnpMsg link m => linkOk link && m.wf && m.mop == 0x18
  | .lockReq link m => linkOk link && m.wf && m.mop == 0x20
  | .lockGrant link m => linkOk link && m.wf && m.mop == 0x21
  | .lockRel link m => linkOk link && m.wf && m.mop == 0x22
  | .suspect link m => linkOk link && m.wf && m.mop == 0x23
  | .probe link m => linkOk link && m.wf && m.mop == 0x24
  | .probeAck link m => linkOk link && m.wf && m.mop == 0x25
  | .probeTimeout device => decide (device < 65536)
  | .syncLossTimeout device => decide (device < 65536)
  | .propose link m => linkOk link && m.wf && m.mop == 0x26
  | .proposalLockoutExpiry => true
  | .accept link m => linkOk link && m.wf && m.mop == 0x27
  | .commit link m => linkOk link && m.wf && m.mop == 0x28
  | .commitStrideReached => true
  | .recordsReq link m => linkOk link && m.wf && m.mop == 0x29
  | .records link m => linkOk link && m.wf && m.mop == 0x2A
  | .linkLast link m => linkOk link && m.wf && m.mop == 0x2B
  | .doneNote link m => linkOk link && m.wf && m.mop == 0x2C
  | .standbySync link m => linkOk link && m.wf && m.mop == 0x2D
  | .probationTimeout device => decide (device < 65536)
  | .chipRstNAssert _ => true
  | .chipRstNDeassert _ => true
  | .bootRomComplete marker imgA imgB => marker.length == 12 && imgA.all Image.wf && imgB.all Image.wf
  | .coreInitComplete => true
  | .trainComplete failedPcs _ => failedPcs.all (fun x => stackOk x.1 && pcOk x.2)
  | .configComplete trayRecord _ => decide (trayRecord.length = 64)
  | .thermalSample temps _ => decide (temps.length = 48)
  | .perstNAssert head => headOk head
  | .perstNDeassert head => headOk head
  | .hotReset head => headOk head
  | .linkDisable head => headOk head
  | .headLinkLoss head => headOk head
  | .headLinkUp head rate width _ _ _ => headOk head && decide (rate ≤ 64) && decide (width ≤ 16)
  | .linkSpeedChange head rate width _ => headOk head && decide (rate ≤ 64) && decide (width ≤ 16)
  | .functionLevelReset func => funcOk func
  | .cxlReset func => funcOk func
  | .hdmDecoderCommit func i _ => funcOk func && decide (i < 4)
  | .intxDisableWrite func _ => funcOk func
  | .dcAddResponse ld _ _ _ => funcOk ld
  | .dcReleaseResponse ld _ => funcOk ld
  | .ideKeyProgram head _ => headOk head
  | .ideCheckFailure head => headOk head
  | .getLdInfo head => pathOk head
  | .getMhdInfo head => pathOk head
  | .getDcRegionConfiguration ld => funcOk ld
  | .getDcExtentLists ld => funcOk ld
  | .initiateDcAdd eid p => decide (eid < 256) && p.wf
  | .initiateDcRelease eid p => decide (eid < 256) && p.wf
  | .getQosStatus head => pathOk head
  | .setLdAllocations head => pathOk head
  | .identifyMemoryDevice func => funcOk func
  | .getEventRecords func _ => funcOk func
  | .clearEventRecords func _ _ => funcOk func
  | .getEventInterruptPolicy func => funcOk func
  | .setEventInterruptPolicy func _ => funcOk func
  | .getSupportedLogs func => funcOk func
  | .getLog func _ => funcOk func
  | .getHealthInfo func => funcOk func
  | .getTimestamp func => funcOk func
  | .setTimestamp func _ => funcOk func
  | .mailboxFirmwareUpdate func => funcOk func
  | .getVersion path => pathOk path
  | .getCapabilities path => pathOk path
  | .negotiateAlgorithms path => pathOk path
  | .getDigests path => pathOk path
  | .getCertificate path slot => pathOk path && decide (slot < 8)
  | .challenge path slot nonce => pathOk path && decide (slot < 8) && decide (nonce.length = 32)
  | .getMeasurements path index => pathOk path && decide (index < 256)
  | .keyExchange path _ => pathOk path
  | .finish path _ => pathOk path
  | .keyUpdate path _ => pathOk path
  | .heartbeat path _ => pathOk path
  | .endSession path _ => pathOk path
  | .strBridleSelWrite func _ _ => funcOk func
  | .drmPcSelWrite func _ _ => funcOk func
  | .pmuTempSelWrite func _ _ => funcOk func
  | .glbLogPopRead func _ => funcOk func
  | .glbCntClearWrite func _ _ => funcOk func
  | .tstSemForceWrite func _ _ => funcOk func
  | .tstTraceWrite func _ _ => funcOk func
  | .lowHalfRead func off => funcOk func && decide (off < 2 ^ 20 + 2 ^ 18)
  | .highHalfRead func off => funcOk func && decide (off < 2 ^ 20 + 2 ^ 18)
  | .registerWrite func w => funcOk func && w.wf
  | .tapInstruction _ => true
  | .peek addr => decide (addr < 2 ^ 64)
  | .systemBusWrite addr _ => decide (addr < 2 ^ 64)
  | .hartHalt hart => decide (hart < 17)
  | .hartResume hart _ => decide (hart < 17)
  | .unassignedOpcode o opcode p => o.wf && decide (opcode < 2 ^ 16) && p.wf
  | .completionTimeout func _ => funcOk func
  | .configurationRequest func _ => funcOk func
  | .dmiAccess _ => true
  | .tapReset => true
  | .managementCoreRestartDone => true
  | .standbySetReloaded => true

end Sys2Proof
end

