-- ==== Sys2Proof/Tests/Slice0.lean ====
section
/-! SUPPORT. Tests of the model: what the spec's worked examples give, what the well-formedness checks refuse, and, for each statement
that has hypotheses, one theorem with a state and operands that meet those of each of its clauses. -/

open Sys2Proof Sys2Proof.Machine

namespace Sys2Proof.Tests

set_option maxRecDepth 20000
set_option Elab.async false

/-! ## States and operands -/

/-- What an option holds. -/
theorem some_get {α : Type} {o : Option α} (h : o.isSome = true) : o = some (o.get h) := (Option.some_get h).symm
theorem pair2 {α β : Type} (x : α × β) : x = (x.1, x.2) := rfl
theorem pair3 {α β γ : Type} (x : α × β × γ) : x = (x.1, x.2.1, x.2.2) := rfl
theorem pair4 {α β γ δ : Type} (x : α × β × γ × δ) : x = (x.1, x.2.1, x.2.2.1, x.2.2.2) := rfl

/-- An enabled queue pair with packets to fetch. -/
def ring (slot : Option Nat) : Qp :=
  { Qp.fresh 0x10000 0x20000 4 false slot 0 with enabled := true, awaiting := false, sqTail := 8, sampTail := 8 }
/-- A head that is up, in MLD mode. -/
def upHead : Head := { up := true, rate := 6, width := 16, mld := true, lopt := false, l0p := false, perst := false }
/-- An active domain. -/
def liveDom : Dom := { st := 1, activating := false, key := some 0, dueKey := none }
/-- A device in MEMORY_ACTIVE: head 0 up, function 0 the owner with queue pair 1, and domain slot 7 with queue pair 1 of function 1. -/
def base : State := { State.reset with
  pmu.stage := 5, heads := [(0, upHead)], doms := [(7, liveDom)]
  cfg.fields := [(fkey 0 fOwnerFunc 0, 0), (fkey 7 fDomFuncs 0, 2)]
  q.qps := [(qpKey 0 0, ring none), (qpKey 0 1, ring none), (qpKey 1 1, ring (some 7))], q.visit := qpKey 0 1 }
/-- The device whose fetcher has come to a queue pair. -/
def visiting (f n : Nat) : State := { base with q.visit := qpKey f n }
def own : Origin := .qp 0 1
def pkt : Pkt := { flags := 0, seq := 0, slot := 7, tag := 0, progAddr := 0, p0 := 0, p1 := 0, p2 := 0, p3 := 0, p4 := 0, data := [] }
/-- A packet of a long command. -/
def lpkt : Pkt := { pkt with progAddr := 64 }
/-- A long operation. -/
def anOp (body : OpBody) (st : Nat) : Op :=
  { opcode := 0, o := own, slot := some 7, seq := 0, progAddr := 64, st := st, status := 0, update := 1, done := 0, total := 1, r0 := 0,
    r1 := 0, r2 := 0, cancel := false, dead := false, ran := false, ending := none, born := 0, word := 0, body := body }
/-- A configuration block that waits (R90). -/
def aHeld : HeldBlock := { o := own, plan := false, p := pkt, head := 0 }
def aPlan : Plan :=
  { scope := 1, slot := 7, sets := [], todo := [], slice := [], moved := [], again := [], damaged := 0, fenced := 0,
    cancelling := false }
/-- The device with an operation under handle 0. -/
def withOp (s : State) (op : Op) : State := { s with ops.tab := [(0, op)] }

def anAccess : Access :=
  { ld := 0, func := 0, addr := 0, sharer := none, tag := 0, slot := 7, line := 0, kind := .read .I, data := [], be := 0, poison := false,
    target := .line, stride := 0, origin := none, credit := none, sent := false }

/-- A configuration block of one entry, with its CRC. -/
def aBlock : List Byte :=
  let b := le 2 0xCB10 ++ [1, 0] ++ le 2 0 ++ le 2 1 ++ zeros 24 ++ le 4 fSweepPeriod ++ le 4 0 ++ le 8 5
  splice b 12 (le 4 (blockCrc b))
def anEntry : List (Nat × FieldSpec × Entry) :=
  ((fieldSpec fSweepPeriod).map (fun f => [(0, f, ({ id := fSweepPeriod, elem := 0, val := 5 } : Entry))])).getD []
theorem noClamp {α β : Type} {x : α × β × List Clamp} (h : x.2.2 = []) : x = (x.1, x.2.1, []) := by
  rw [← h]
theorem checkedOk {x : Checked} {d : Bool} {n : Nat} {l : List (Nat × FieldSpec × Entry)}
    (h : (match x with | .ok a b c => decide (a = d ∧ b = n ∧ c = l) | .bad _ _ => false) = true) : x = .ok d n l := by
  cases x with
  | bad a b => cases h
  | ok a b c =>
    have k := of_decide_eq_true h
    rw [k.1, k.2.1, k.2.2]
theorem okExcept {ε α : Type} [DecidableEq α] {x : Except ε α} {v : α}
    (h : (match x with | .ok a => decide (a = v) | .error _ => false) = true) : x = .ok v := by
  cases x with
  | error a => cases h
  | ok a => rw [of_decide_eq_true h]

theorem errExcept {ε α : Type} [DecidableEq ε] {x : Except ε α} {v : ε}
    (h : (match x with | .ok _ => false | .error a => decide (a = v)) = true) : x = .error v := by
  cases x with
  | error a => rw [of_decide_eq_true h]
  | ok a => cases h
/-- What a list of changes sets a field to. -/
theorem fieldAll {k n : Nat} {cs : List Change}
    (h : cs.all (fun c => match c with | .field k' v => decide (k' = k → n ≤ v) | _ => true) = true) :
    ∀ v, Change.field k v ∈ cs → n ≤ v :=
  fun _ hv => of_decide_eq_true (List.all_eq_true.1 h _ hv) rfl

/-- A state with fields set: slot, field, element and value. -/
def fieldsOf (s : State) (l : List (Nat × Nat × Nat × Nat)) : State :=
  { s with cfg.fields := l.foldl (fun m x => m.set (fkey x.1 x.2.1 x.2.2.1) x.2.2.2) s.cfg.fields }
/-- The device with tiers, and room in them for domain slot 7. -/
def roomy : State :=
  { fieldsOf base [(7, fTierShare, 0, 1024), (7, fDomPriv, 0, 1), (7, fT0Part, 0, 64), (7, fDirShare, 0, 16)] with
    ti.capT1 := 192, ti.capT2 := 512, ti.capT3 := 1024 }
def anExtent : Extent :=
  { dpa := 0, len := blk, doff := 0, slot := 7, ld := 0, kind := 0, ro := false, hdmDb := false, st := 2, tetherLen := 2000,
    expiry := 4000, tag := zeros 16, target := 0, contributor := 0, sharer := 0, offered := 0, firstStack := 0 }
/-- The device with one extent, and function 0 that reaches it through its decoder. -/
def withExtent (e : Extent) : State :=
  { roomy with
    ti.extents := [(0, e)]
    funcs := [(0, { Func.reset with decoders := [(0, { base := 0, size := 2 ^ 40, ways := 1, gran := 256, position := 0, committed := true })] })]
    str.grant := [(bridleKey 7 0 0, 9), (bridleKey 7 1 0, 9), (bridleKey 7 4 0, 9)] }
def aPlace : Place := { slot := 7, line := 0, target := .line, sharer := none }
def aReq : MemReq := { ld := 0, hpa := 0, tag := 0, mv := .I, data := zeros 64, be := 0, poison := false }

def aPlate : MapEnt :=
  { t0Slot := 0, store := 0, version := 1, clen := 4096, table := 0, coding := cRaw, remote := false, moving := false, damaged := false,
    dirty := false, res0 := false, tier := 1, reads := 0 }
/-- The device with an extent whose first plate lies in T1. -/
def withPlate : State :=
  { withExtent anExtent with
    ti.map := [(plateKey 7 0, aPlate)], ti.pages := [(pageOf 7 0, { tier := 2, store := 0, touched := false, t0Slot := some 8192 })]
    str.grant := [(bridleKey 7 0 0, 9), (bridleKey 7 1 0, 9), (bridleKey 7 4 0, 99)] }

def aSnoop : Snoop :=
  { slot := 7, line := 0, sharer := 0, ld := 0, inv := true, sent := 0, late := false, owner := none, sealing := none, home := none }
def snooping : State := { base with sh.snoops := [(0, aSnoop)], str.count := 1000 }

theorem ok_get {ε α : Type} {x : Except ε α} (h : x.toOption.isSome = true) : x = .ok (x.toOption.get h) := by
  cases x with
  | error a => cases h
  | ok a => rfl
theorem pairR {α β : Type} {x : α × β} {v : β} (h : x.2 = v) : x = (x.1, v) := by
  rw [← h]

def aSeg : Seg := { slot := 7, first := 0, count := 16, elem := 1, table := none, escapes := 0, coded := 0, warn := false, dropping := false }
def withSeg : State := { roomy with cod.segs := [(0, aSeg)], cod.tables := [(0, { record := zeros 64, joined := true })] }

def aJob (kind : Nat) : Job :=
  { kind := kind, cls := 0, cycles := 0, key := plateKey 7 0, line := 0, failedOn := none, check := 0, released := 0, order := 0, extra := 0 }
/-- The device with a job of a lane on the plate 0 of slot 7. -/
def withJob (kind : Nat) (e : MapEnt) : State :=
  { withPlate with
    ti.map := [(plateKey 7 0, e)], ti.t0 := [(8193, { slot := 7, isPage := false, num := 0, ref := false, held := [] })]
    cod.lanes := [(0, { Lane.reset with queue := [aJob kind] })] }

/-- A stream schedule of one layer with one tile, with its CRC. -/
def aSched : List Byte :=
  let b := le 2 0x5D10 ++ [1, 0, 0, 1] ++ le 2 1 ++ le 4 1 ++ zeros 52 ++ le 4 0 ++ le 2 1 ++ le 2 0 ++ le 4 1 ++ zeros 4
    ++ le 8 0 ++ le 2 1 ++ le 2 0xFFFF ++ le 4 1 ++ le 4 0 ++ zeros 12
  splice b 12 (le 4 (crc32c (splice b 12 (zeros 4))).toNat)
def aStream (run : Option Run) : Stream := { slot := 7, ready := true, sched := schedOf aSched, sent := [], slotSeq := 0, released := 0, run := run }
def aRun : Run := { Run.fresh 0 1 0 with handle := 0 }
def streaming (run : Option Run) : State := { fieldsOf roomy [(7, fStreamLimit, 0, 4)] with streams := [(0, aStream run)] }

def anImpr : Impr :=
  { slot := 7, first := 0, count := 512, area := 1024, areaCount := 1024, st := 1, capture := 0, copies := 0, torn := 0, map := [], scanned := 0,
    snoops := [] }
def withImpr (st : Nat) : State := { fieldsOf roomy [(7, fImprLimit, 0, 4)] with sh.imprs := [(0, { anImpr with st := st })] }

/-- An operator descriptor: one contributor of BF16 to a target of 2 MiB, with its CRC. -/
def aDescriptor : List Byte :=
  let b := le 2 0x4F10 ++ [1, 0, 0, 0, 1, 1] ++ le 2 1 ++ zeros 30 ++ le 8 blk ++ zeros 76
  b ++ le 4 (crc32c b).toNat
def aBinding (st : Nat) : Binding := { bindingOf aDescriptor 7 0 with st := st }
def bindable : State := fieldsOf roomy [(7, fOperLimit, 0, 4), (7, fDigestLimit, 0, 4)]
def withBind (b : Binding) : State := { bindable with opr.binds := [(0, b)] }
def aDigest (st : Nat) : Digest := { slot := 7, tag := 0, first := 0, count := 16, sum := 0, n := 0, sum0 := 0, n0 := 0, st := st }
def withDigest (st : Nat) : State := { bindable with opr.digests := [(0, aDigest st)] }

/-- A DMA descriptor that moves 4 bytes of the domain to host memory, with its CRC. -/
def aDesc : List Byte :=
  let b := zeros 8 ++ le 4 1 ++ le 2 1 ++ zeros 2 ++ le 8 0 ++ le 8 0x1000 ++ le 4 4 ++ le 4 1 ++ zeros 20
  b ++ le 4 (crc32c (sub b 8 52)).toNat
/-- A DMA descriptor of two rows within the domain whose sides overlap, with its CRC. -/
def aStaged : List Byte :=
  let b := zeros 8 ++ le 4 1 ++ le 2 5 ++ zeros 2 ++ le 8 0 ++ le 8 4 ++ le 4 4 ++ le 4 2 ++ le 4 8 ++ le 4 8 ++ zeros 12
  b ++ le 4 (crc32c (sub b 8 52)).toNat
def aChan : Chan :=
  { slot := 7, func := 0, prio := 0, parkLimit := 16, stAddr := 0, evArea := 0, st := chRunning, next := none, lastDseq := 0, status := 0,
    poison := false, update := 0, word := 0, addr := 0, desc := none, cur := none, flight := [], moved := 0, stage := [],
    bad := false, parkLeft := 16, reread := false, ended := [], touch := false }
def withChan (c : Chan) : State := { fieldsOf roomy [(7, fDmaLimit, 0, 4)] with dma.chans := [(0, c)] }

theorem somePair {α β : Type} {o : Option (α × β)} {b : β} (h : o.map Prod.snd = some b) :
    o = some ((o.get (by cases o <;> simp_all)).1, b) := by
  cases o with
  | none => cases h
  | some x =>
    obtain ⟨x, y⟩ := x
    cases h
    rfl

/-- The device with pseudo-channel 0 of stack 0 in a state. -/
def withPc (st : Nat) : State :=
  { fieldsOf base [(0, fSrIdle, 0, 100)] with str.count := 1000, dram.pcs := [(0, { Pc.reset 0 with st := st })] }

def aPop : FlashPop :=
  { dies := 1, blocks := 2, pages := 4, bpc := 3, dataArea := 16384, spareArea := 2048, trPslcNs := 1, trNativeNs := 1, suspendNs := 1,
    ratedPslc := 1, ratedNative := 1, unusedDies := [], badBlocks := [] }
def aRead : FRead := { key := plateKey 7 0, recon := false, soft := false, softFailed := false, reconFailed := false, patrol := true, scrub := none }
def aUnit (programming : Bool) : FUnit := { group := 0, block := 0, page := 0, slots := [0], opened := 0, programming := programming }
def flashy : State :=
  { base with
    str.count := 5000, fl.pop := some aPop, fl.groups := [(0, (0, 0))]
    fl.blocks := [(0, { st := 2, erases := 0, pages := 4 }), (1, { st := 2, erases := 0, pages := 4 }), (65536, { st := 2, erases := 1000, pages := 4 })] }
def withRead (r : FRead) : State := { flashy with fl.reads := [(0, r)] }
def aSlot : FSlot :=
  { payload := [], ident := 0, hdom := 7, kind := 1, version := 1, coding := cRaw, elem := 0, table := 0, clen := 0, encrypted := false,
    wseq := 0, bad := false }

theorem some2 {α β : Type} {o : Option (α × β)} (h : o.isSome = true) : o = some ((o.get h).1, (o.get h).2) := (Option.some_get h).symm

def aMsg : Msg :=
  { mop := 0, poison := false, resent := false, nak := false, dst := 1, src := 2, hops := 1, epoch := 3, tag := 0, hdom := 7, plate := 0,
    line := 0, be := 0, arg := 0, data := [] }
def aMember (d : Nat) (voter : Bool) : RosterRec := { device := d, st := 2, voter := voter, epochAdded := 1, identity := zeros 24 }
def aLink (st : Nat) : Link := { Link.reset with st := st, enabled := true }
/-- The device as member 1 and lead of a herd, with an ACTIVE link to member 2. -/
def herded : State :=
  { base with
    str.count := 3000000, herd.st := 2, herd.device := 1, herd.epoch := 3
    herd.roster := [aMember 1 true, aMember 2 false, aMember 3 false]
    herd.links := [(0, aLink 5)], herd.lastSeen := [(2, 0)], herd.suspects := [(2, 0)], herd.probation := [(3, 0)]
    str.grant := [(bridleKey 7 2 0, 9)] }
/-- The device at a link alone. -/
def linked (st : Nat) : State := { base with str.count := 3000000, herd.links := [(0, aLink st)] }
theorem allSome {f : Nat → Option Nat} {P : Nat → Prop} [DecidablePred P] {w : Nat}
    (h : ∀ x < w, (f x).all (fun d => decide (P d)) = true) : ∀ x < w, ∀ d, f x = some d → P d := by
  intro x hx d hd
  have k := h x hx
  rw [hd] at k
  exact of_decide_eq_true k

def aSync : SyncBlock :=
  { stride := 0, herdId := 0, epoch := 0, proto := 0, digest := 0, deviceId := 2, state := 0, idValid := false, voter := false, depth := 0,
    req := 0, lanes := 0xF, echo := 0, fwver := 0, serial := 0, echoStride := 0, arrival := 0 }
/-- A PAYLOAD flit with an FSEQ. -/
def aFlit (fseq : Nat) : Flit := { bytes := flitBytes 1 fseq 0 [0, 0, 0, 0] 2 0 [], uncorr := 0 }
def anExchange : Exchange :=
  { herdId := 0, deviceId := 2, idValid := false, serial := 0, proto := 0, lanes := 0xF, credits := [0, 0, 0, 0], lastFseq := 0 }

/-- A herd domain record of one member, device 1, for herd domain 7. -/
def aRecord (kind w k m : Nat) : List Byte :=
  le 4 (7 + 2 ^ 24 * kind) ++ le 1 w ++ le 1 k ++ le 1 m ++ zeros 25 ++ le 2 1 ++ le 2 2 ++ zeros 124
/-- The herd with herd domain 7 mirrored on the devices 1 and 2. -/
def mirrored : State := { herded with herd.domains := [hdomRecOf (aRecord 3 2 1 1)] }

/-- A dressage table of one entry, with its CRC. -/
def aTable : List Byte :=
  let b := le 2 0xD7A1 ++ [1, 1] ++ le 2 1 ++ zeros 2 ++ le 4 1 ++ zeros 60
  splice b 12 (le 4 (crc32c (splice b 12 (zeros 4))).toNat)
/-- The device with a session of the owner on the path of MCTP endpoint 0. -/
def secured : State := { base with tr.spdm := [(8, { st := 3, sessions := [(0, true, true)], next := 1 })] }
def atLevel (n : Nat) : State := { base with tst.level := n }

/-- An image with a good header, version, protocol and SVN 1. -/
def anImage : Image :=
  { header := le 4 0x4E465731 ++ le 2 1 ++ le 2 0 ++ le 8 1 ++ le 4 1 ++ le 4 1 ++ le 4 1 ++ zeros 484, keyHash := 0, sigOk := true,
    bodyOk := true }
/-- The device with an image in each slot. -/
def imaged (standby : Nat) : State := { base with tr.imgA := some anImage, tr.imgB := some anImage, tr.standby := standby }

def booting (n : Nat) : State := { State.reset with pmu.stage := n }
/-- A tray record, with its CRC. -/
def aTray (mode : Byte) : List Byte :=
  let b := le 4 0x54524159 ++ [1, mode] ++ zeros 54
  b ++ le 4 (crc32c b).toNat

def talking (st : Nat) (l : List (Nat × Bool × Bool)) : State := { base with tr.spdm := [(0, { st := st, sessions := l, next := 1 })] }

/-- The device whose queue pair 1 of function 0 has accepted the sequence number 0. -/
def counted : State :=
  { base with q.qps := [(qpKey 0 1, { ring none with expected := 1, window := [{ seq := 0, status := 0, handle := none }] })] }
def aReply : Reply :=
  { tag := 0, status := 0, report := false, long := false, seq := 0, opcode := 0, sqHead := 0, handle := 0, detail := 0, r0 := 0, r1 := 0 }
theorem allBound {o : Option Nat} {n : Nat} (h : o.all (fun x => n == x) = true) : ∀ x, o = some x → n = x := by
  intro x hx
  rw [hx] at h
  simpa using h

def someShares : List Share :=
  [{ slot := 7, r := 2000, w := 1, c := 5216, d := 1200, grant := 0 }, { slot := 12, r := 1000, w := 3, c := 2200, d := 4800, grant := 0 },
   { slot := 40, r := 500, w := 1, c := 5216, d := 3000, grant := 0 }]

def anEvent (sev : Nat) : LogEnt := { lseq := 0, code := 4, sev := sev, stride := 0, slot := none, count := 1, argA := 0, argB := 0 }
/-- A full log. -/
def fullLog (sev : Nat) : Ras := { Ras.reset with log := anEvent sev :: List.replicate 65535 (anEvent 2) }
theorem severe_first (n : Nat) : ((anEvent 2 :: List.replicate n (anEvent 2)).find? (fun x => x.sev < 2)) = none := by
  rw [List.find?_eq_none]
  intro x hx
  have k : x = anEvent 2 := by
    rcases List.mem_cons.1 hx with h | h
    · exact h
    · exact List.eq_of_mem_replicate h
  rw [k]
  decide
theorem fullLog_full (sev : Nat) : 65536 ≤ (fullLog sev).log.length := by
  have k : ∀ n, (anEvent sev :: List.replicate n (anEvent 2)).length = n + 1 := by
    intro n
    rw [List.length_cons, List.length_replicate]
  exact Nat.le_of_eq (k 65535).symm
theorem fullLog_severe : (fullLog 2).log.find? (fun x => x.sev < 2) = none := severe_first 65535

def aSpec (lock : Bool) : FieldSpec :=
  { id := fSweepPeriod, dom := false, staged := false, ownerOnly := true, lock := lock, elems := 1, min := 1, max := 65535, step := 1, dflt := 1 }
def aValue : Entry := { id := fSweepPeriod, elem := 0, val := 5 }

/-! ## Worked examples of the spec -/

/-- Organisation, planes and the stride: the bridles of slots 7, 12 and 40 on S_4, for every rotation tried. -/
theorem test_bridles_example :
    (bridles 0 5216 someShares).map Share.grant = [2000, 2200, 1016] := by decide +kernel

/-- Commands: the clamps of the five entries of slot 40. -/
theorem test_clamp_example :
    let s := fieldsOf { base with doms := [(7, liveDom), (12, liveDom), (40, liveDom)] }
      [(7, fBridleReserve, 0x404, 2000), (12, fBridleReserve, 0x404, 1000), (40, fBridleReserve, 0x404, 500),
       (40, fBridleCeiling, 0x404, 5216)]
    let es := ([(fBridleReserve, 0x404, 3000), (fBridleWeight, 0x404, 0), (fBridleCeiling, 0x404, 2000), (fCmdLimit, 0, 5000),
      (fBridleWeight, 4, 8)] : List (Nat × Nat × Nat)).filterMap (fun x =>
        (fieldSpec x.1).map (fun f => (0, f, ({ id := x.1, elem := x.2.1, val := x.2.2 } : Entry))))
    (s.clampBlock false 40 es).2.1.map Prod.snd = [2216, 1, 2216, 4096, 8]
      ∧ (s.clampBlock false 40 es).2.2.map Clamp.reason = [8, 1, 8, 2] := by decide +kernel

/-- Addresses, plates and tiers: the plate and the line of DPA 0x4123_4540. -/
theorem test_address_example :
    let e : Extent := { anExtent with dpa := 0x40000000, len := 8 * 2 ^ 30, doff := 0x1000000000, slot := 7, ld := 0 }
    let a := (withExtent e).reach { aReq with hpa := 0x41234540 } (.read .I)
    a = .access (reqAccess { aReq with hpa := 0x41234540 } { slot := 7, line := 0x1001234 * 64 + 21, target := .line, sharer := none } (.read .I)) := by decide +kernel

/-- Addresses, plates and tiers, and DRAM: the capacities of a tray of 16 TiB and 192 TiB, and after the release of two segments. -/
theorem test_capacity_example :
    capacities (1024 * 405) 0 16384 196608 = (331, 15616, 196608) ∧ (capacities (1024 * 388) 0 16384 196608).1 = 314 := by decide +kernel

/-- Plate format: the split of elements 0, 1 and 4 of the example plate. -/
theorem test_split_example :
    let sp : Split := { bytes := 2, e := 8, w := 8 }
    [0x3CA4, 0xBC1F, 0x0000].map (fun x => (expOf sp x, smOf sp x)) = [(0x79, 0x24), (0x78, 0x9F), (0, 0)] := by decide

/-- DRAM: the pseudo-channel and the segment of granule 0x0040_2A10. -/
theorem test_granule_example : granPc 0x402A10 = 1 ∧ granSeg 0x402A10 = 0 := by decide

/-- Herd: plate 0x3A17 of the ERASURE domain with W 8, K 4, M 2 and U 8 has its home at position 0, in row 14 with index 2. -/
theorem test_home_example :
    let r : HdomRec := { hdom := 0xA31, kind := 2, w := 8, k := 4, m := 2, u := 8, spare := 0x18, spareValid := true, vacant := 0,
                         members := rangeFrom 0x10 8 }
    hRow r 0x3A17 = 14 ∧ hIndex r 0x3A17 = 2 ∧ hPos r 0x3A17 = 0 := by decide +kernel

/-- Integrity: the columns h_0, h_1 and h_5 of the storage code (R462). -/
theorem test_columns : hCol 0 = 7 ∧ hCol 1 = 0xB ∧ hCol 5 = 0x15 := by decide +kernel

/-- Registers: a counter across a carry, read low half first. -/
theorem test_half_latch_example :
    cntAdd 0xFFFFFF80 256 = 0x100000080 ∧ lowHalf 0xFFFFFF80 = 0xFFFFFF80 ∧ highHalf 0xFFFFFF80 = 0 ∧ highHalf 0x100000080 = 1 := by
  decide +kernel

/-- After reset the first long operation takes handle 0 (R66). -/
theorem test_first_handle : State.reset.nextHandle = some 0 := by decide +kernel

/-- The operation table gives no row bits, so that no word spells a command. -/
theorem test_no_words : decodeTableWord 16 0 = none := rfl

/-! ## What is not well formed -/

/-- Each check on an operand that every row shares refuses a term. -/
theorem test_ill_formed_operands :
    (Instr.qp0Enable 128 .whole 0).wf = false ∧ (Instr.sqTailWrite 0 64 8 0).wf = false ∧ (Instr.hotReset 8).wf = false ∧
    (Instr.linkDown 32).wf = false ∧ (Instr.selfRefreshEntry 12 0).wf = false ∧ (Instr.selfRefreshEntry 0 32).wf = false ∧
    (Instr.encodeComplete 64 false).wf = false ∧ (Instr.planCommit 4096).wf = false ∧ (Instr.demotionSlice 4096).wf = false ∧
    (Instr.getVersion 264).wf = false ∧ (Instr.nop (.mgmt 256 false) pkt).wf = false ∧ (Instr.laneJobDispatch 4).wf = false ∧
    (Instr.sliceOverrun 0 8 0 0).wf = false ∧ (Instr.bankSpareCopyDone 256).wf = false ∧ (Instr.watchdogExpiry 16 none).wf = false ∧
    (Instr.hartHalt 17).wf = false ∧ (Instr.peek (2 ^ 64)).wf = false ∧ (Instr.descriptorFetch 0 []).wf = false ∧
    (Instr.thermalSample [] 0).wf = false ∧ (Instr.configComplete [] 0).wf = false ∧ (Instr.lowHalfRead 0 (2 ^ 20 + 2 ^ 18)).wf = false := by
  decide +kernel

/-- Each check on a record or message refuses a term. -/
theorem test_ill_formed_records :
    (Instr.memRd { aReq with data := [] }).wf = false ∧ (Instr.rdLine 0 { aMsg with mop := 2 }).wf = false ∧
    (Instr.rdLine 0 { aMsg with mop := 1, line := 64 }).wf = false ∧ (Instr.unknownMessage 0 { aMsg with mop := 1 }).wf = false ∧
    (Instr.syncBlockReceive 0 (zeros 127) 0).wf = false ∧ (Instr.flitReceive 0 { aFlit 0 with bytes := [] }).wf = false ∧
    (Instr.streamWriteFailure 0 (2 ^ 64)).wf = false ∧ (Instr.bootRomComplete [] none none).wf = false ∧
    (Instr.linkTrainStepComplete 0 { anExchange with credits := [] }).wf = false ∧
    (Instr.pldmFirmwareUpdate { anImage with keyHash := 5 }).wf = false ∧
    (Instr.registerWrite 0 { doorbell := false, off := 0, size := 65, val := 0 }).wf = false ∧
    (Instr.headLinkUp 0 65 16 true false false).wf = false ∧ (Instr.challenge 0 0 []).wf = false ∧
    (Instr.expansionWindowRead 0 0 65).wf = false ∧ (Instr.headLinkUp 0 64 16 true false false).wf = true := by
  decide +kernel

/-! ## What meets the hypotheses of the statements -/

theorem test_witness_PlannerRowsComplete :
    (∃ (s : State), s.pmu.inReset = false ∧ s.pmu.stage ≠ 7) ∧
    (∃ (s : State), s.str.snap = false ∧ s.pmu.inReset = false ∧ s.isActive = true) ∧
    (∃ (h : Nat) (cls : Nat) (idx : Nat) (x : Nat) (op : Op) (s : State), s.ops.tab.get? h = some op ∧ op.slot = some x ∧ cls < 8 ∧ idx <
      indexCount cls) ∧
    (∃ (id : Nat) (ext : Nat) (off : Nat) (h : Access) (a : Access) (s : State), s.isActive = true ∧ s.sh.held.get? id = some h ∧ s.retarget h =
      .ok a ∧ s.admissible id a = true ∧ a.target = .pinned ext off ∧ a.origin = none) ∧
    (∃ (id : Nat) (dpa : Nat) (h : Access) (s : State), s.isActive = true ∧ s.sh.held.get? id = some h ∧ s.retarget h = .error dpa) ∧
    (∃ (s : State) (u : State), s.atBoundary.contains (3, 0, 0) = true ∧ u = ({ s with atBoundary := s.atBoundary.filter (· != (3, 0, 0)) } :
      State).grantClaims) :=
  ⟨⟨base, by decide +kernel, by decide +kernel⟩,
   ⟨base, by decide +kernel, by decide +kernel, by decide +kernel⟩,
   ⟨0, 0, 0, _, _, withOp base (anOp (.plan aPlan) opFenced), some_get (by decide +kernel), some_get (by decide +kernel), by decide +kernel,
     by decide +kernel⟩,
   ⟨0, 0, 0, _, { anAccess with target := .pinned 0 0 }, { withExtent { anExtent with kind := 1 } with sh.held := [(0, anAccess)] },
     by decide +kernel, some_get (by decide +kernel), okExcept (by decide +kernel), by decide +kernel, by decide +kernel, by decide +kernel⟩,
   ⟨0, 0, _, { base with sh.held := [(0, anAccess)] }, by decide +kernel, some_get (by decide +kernel), errExcept (by decide +kernel)⟩,
   ⟨{ base with atBoundary := [(3, 0, 0)] }, _, by decide +kernel, rfl⟩⟩

theorem test_witness_ConfigurationRowsComplete :
    (∃ (o : Origin) (p : Pkt) (s : State) (t : State), s.takes cConfigWrite o p = some t ∧ (t.portClosed || !t.cfg.heldBlocks.isEmpty) = true) ∧
    (∃ (o : Origin) (p : Pkt) (s : State) (t : State) (u : State) (dom : Bool) (slot : Nat) (g : Nat) (due : Nat) (es : List (Nat × FieldSpec ×
      Entry)) (v : FMap Nat) (sets : List (Nat × Nat)), s.takes cConfigWrite o p = some t ∧ t.portClosed = false ∧ t.cfg.heldBlocks = [] ∧
      t.checkBlock o false p = .ok dom slot es ∧ t.clampBlock (managed o) slot es = (v, sets, []) ∧ t.heldBack p [] = none ∧ (∀ x ∈ es, x.2.1.lock
      = false) ∧ p.p3.toNat < 32 ∧ t.join (sets.map (fun c => .field c.1 c.2)) = (u, g, due)) ∧
    (∃ (o : Origin) (p : Pkt) (s : State) (t : State), s.takes cConfigPlan o p = some t ∧ (t.portClosed || !t.cfg.heldBlocks.isEmpty) = true) ∧
    (∃ (o : Origin) (p : Pkt) (s : State) (t : State), s.takes cConfigPlan o p = some t ∧ t.portClosed = false ∧ t.cfg.heldBlocks = []) ∧
    (∃ (o : Origin) (p : Pkt) (s : State) (t : State) (plan : Bool), p.p2.toNat % 64 = 0 ∧ s.takes (if plan then cConfigPlan else cConfigWrite) o
      { p with p2 := 0 } = some t ∧ t.portClosed = false ∧ t.cfg.heldBlocks = []) ∧
    (∃ (b : HeldBlock) (l : List HeldBlock) (s : State) (u : State), s.portClosed = false ∧ s.cfg.heldBlocks = b :: l ∧ u =
      { s with cfg.heldBlocks := l, q.headAfter := b.head }) ∧
    (∃ (h : Nat) (op : Op) (pl : Plan) (s : State) (t : State), s.takeDue 11 h = some t ∧ t.ops.tab.get? h = some op ∧ op.body = .plan pl ∧ op.st
      = opFenced) ∧
    (∃ (h : Nat) (op : Op) (pl : Plan) (s : State) (t : State), s.takeDue 12 h = some t ∧ t.ops.tab.get? h = some op ∧ op.body = .plan pl ∧ op.st
      = opReverting) :=
  ⟨⟨own, pkt, { base with cfg.heldBlocks := [aHeld] }, _, some_get (by decide +kernel), by decide +kernel⟩,
   ⟨own, { pkt with p1 := 48, data := aBlock }, base, _, _, false, 0, _, _, anEntry, _, _, some_get (by decide +kernel), by decide +kernel,
     by decide +kernel, checkedOk (by decide +kernel), noClamp (by decide +kernel), by decide +kernel, by decide +kernel, by decide +kernel, pair3
     _⟩,
   ⟨own, lpkt, { base with cfg.heldBlocks := [aHeld] }, _, some_get (by decide +kernel), by decide +kernel⟩,
   ⟨own, lpkt, base, _, some_get (by decide +kernel), by decide +kernel, by decide +kernel⟩,
   ⟨own, pkt, base, _, false, by decide +kernel, some_get (by decide +kernel), by decide +kernel, by decide +kernel⟩,
   ⟨aHeld, [], { base with cfg.heldBlocks := [aHeld] }, _, by decide +kernel, by decide +kernel, rfl⟩,
   ⟨0, _, aPlan, { withOp base (anOp (.plan aPlan) opFenced) with atBoundary := [(11, 0, 0)] }, _, some_get (by decide +kernel), some_get
     (by decide +kernel), by decide +kernel, by decide +kernel⟩,
   ⟨0, _, aPlan, { withOp base (anOp (.plan aPlan) opReverting) with atBoundary := [(12, 0, 0)] }, _, some_get (by decide +kernel), some_get
     (by decide +kernel), by decide +kernel, by decide +kernel⟩⟩

theorem test_witness_DoorbellRowsComplete :
    (∃ (f : Nat) (n : Nat) (size : Nat) (q : Qp) (s : State), s.regUp f = true ∧ s.qp f n = some q ∧ q.enabled = true ∧ doorbellSize size = true) ∧
    (∃ (f : Nat) (n : Nat) (size : Nat) (q : Qp) (s : State), s.regUp f = true ∧ s.qp f n = some q ∧ q.enabled = true ∧ doorbellSize size = true) ∧
    (∃ (f : Nat) (n : Nat) (q : Qp) (s : State), s.qp f n = some q ∧ (q.enabled || s.qpBusy f n) = true) ∧
    (∃ (f : Nat) (n : Nat) (q : Qp) (s : State), s.qp f n = some q ∧ q.faulted = false) ∧
    (∃ (f : Nat) (part : Part) (val : U64) (v : U64) (s : State), s.regUp f = true ∧ v = mergePart (s.cmq f).ctrl part val ∧ s.ctrlOk (s.cmq
      f).ctrl (v &&& ctrlMask) = true ∧ (s.cmq f).ctrl.getLsbD 8 = false ∧ v.getLsbD 8 = true) ∧
    (∃ (f : Nat) (part : Part) (val : U64) (v : U64) (s : State), s.regUp f = true ∧ v = mergePart (s.cmq f).ctrl part val ∧ (s.cmq
      f).ctrl.getLsbD 8 = true ∧ v.getLsbD 8 = false) ∧
    (∃ (f : Nat) (part : Part) (val : U64) (v : U64) (s : State), s.regUp f = true ∧ v = mergePart (s.cmq f).ctrl part val ∧ s.ctrlOk (s.cmq
      f).ctrl (v &&& ctrlMask) = true ∧ (s.cmq f).ctrl.getLsbD 8 = v.getLsbD 8) ∧
    (∃ (f : Nat) (s : State), s.regUp f = true ∧ (s.cmq f).ctrl.getLsbD 8 = false) :=
  ⟨⟨0, 1, 8, _, base, by decide +kernel, some_get (by decide +kernel), by decide +kernel, by decide +kernel⟩,
   ⟨0, 1, 8, _, base, by decide +kernel, some_get (by decide +kernel), by decide +kernel, by decide +kernel⟩,
   ⟨0, 1, _, base, some_get (by decide +kernel), by decide +kernel⟩,
   ⟨0, 1, _, base, some_get (by decide +kernel), by decide +kernel⟩,
   ⟨0, .whole, 0x104, _, base, by decide +kernel, rfl, by decide +kernel, by decide +kernel, by decide +kernel⟩,
   ⟨0, .whole, 0x4, _, { base with q.cmq := [(0, { Cmq.reset with ctrl := 0x104 })] }, by decide +kernel, rfl, by decide +kernel,
     by decide +kernel⟩,
   ⟨0, .whole, 0x4, _, base, by decide +kernel, rfl, by decide +kernel, by decide +kernel⟩,
   ⟨0, base, by decide +kernel, by decide +kernel⟩⟩

theorem test_witness_QueueCommandsComplete :
    (∃ (o : Origin) (p : Pkt) (s : State) (t : State), s.takes cNop o p = some t) ∧
    (∃ (f : Nat) (m : Nat) (n : Nat) (size : Nat) (slot : Nat) (p : Pkt) (s : State) (t : State), s.takes cQueueCreate (.qp f m) p = some t ∧ n =
      fld p.p2.toNat 0 6 ∧ size = fld p.p2.toNat 8 5 ∧ slot = fld p.p2.toNat 32 12 ∧ n ≠ 0 ∧ 4 ≤ size ∧ size ≤ 16 ∧ p.p0.toNat % 4096 = 0 ∧
      p.p1.toNat % 4096 = 0 ∧ t.qp f n = none ∧ (t.isOwner f || (t.funcOf slot f && [1, 2, 3].contains (t.domSt slot))) = true ∧ t.enabledCount <
      4096) ∧
    (∃ (f : Nat) (m : Nat) (n : Nat) (p : Pkt) (q : Qp) (s : State) (t : State), s.takes cQueueDelete (.qp f m) p = some t ∧ n = fld p.p0.toNat 0
      6 ∧ n ≠ 0 ∧ t.qp f n = some q ∧ q.deleting = none) ∧
    (∃ (o : Origin) (p : Pkt) (h : Nat) (op : Op) (s : State) (t : State), s.takes cOpCancel o p = some t ∧ h = fld p.p0.toNat 0 12 ∧
      t.ops.tab.get? h = some op ∧ t.seesHandle o op = true) ∧
    (∃ (o : Origin) (p : Pkt) (h : Nat) (op : Op) (s : State) (t : State), s.takes cOpStatusRead o p = some t ∧ h = fld p.p0.toNat 0 12 ∧
      t.ops.tab.get? h = some op ∧ t.seesHandle o op = true) ∧
    (∃ (o : Origin) (p : Pkt) (scope : Nat) (b : List Byte) (s : State) (t : State), s.takes cConfigRead o p = some t ∧ scope = fld p.p2.toNat 8 2
      ∧ scope ≤ 1 ∧ (scope = 1 → t.unbound o = false) ∧ b = t.readBlock (scope == 1) (p.p2.getLsbD 0) (if scope = 1 then slotOf p else 0) ∧
      b.length ≤ roomFor o p.p1.toNat) ∧
    (∃ (o : Origin) (p : Pkt) (l : List FieldSpec) (n : Nat) (next : Nat) (s : State) (t : State), s.takes cCatalogueRead o p = some t ∧ l =
      catalogue.filter (fun f => decide (p.p2.toNat % 2 ^ 32 ≤ f.id)) ∧ n = min l.length (roomFor o p.p1.toNat / 64) ∧ next = ((l[n]?).map
      FieldSpec.id).getD 0) ∧
    (∃ (o : Origin) (p : Pkt) (op : Nat) (s : State) (u : State) (t : State), assigned op = false ∧ s.receivePacket (cUnassigned op) o p = some u
      ∧ u.mustWait o p = false ∧ u.inOrder (cUnassigned op) o p = some t) ∧
    (∃ (f : Nat) (n : Nat) (op : Nat) (p : Pkt) (c : Cmd) (s : State) (t : State), (readsData.contains op || writesData.contains op) = true ∧
      failingOf op = some c ∧ s.takes c (.qp f n) p = some t) ∧
    (∃ (h : Nat) (f : Nat) (n : Nat) (op : Op) (s : State), s.ops.tab.get? h = some op ∧ op.o = .qp f n ∧ isFinal op.st = false ∧ op.body.usesHost
      = true) :=
  ⟨⟨own, pkt, base, _, some_get (by decide +kernel)⟩,
   ⟨0, 0, _, _, _, { pkt with p2 := 0x402 }, visiting 0 0, _, some_get (by decide +kernel), rfl, rfl, rfl, by decide +kernel, by decide +kernel,
     by decide +kernel, by decide +kernel, by decide +kernel, by decide +kernel, by decide +kernel, by decide +kernel⟩,
   ⟨0, 0, _, { pkt with p0 := 1 }, _, visiting 0 0, _, some_get (by decide +kernel), rfl, by decide +kernel, some_get (by decide +kernel),
     by decide +kernel⟩,
   ⟨own, pkt, _, _, withOp base (anOp .fwPrepare 1), _, some_get (by decide +kernel), rfl, some_get (by decide +kernel), by decide +kernel⟩,
   ⟨own, pkt, _, _, withOp base (anOp .fwPrepare 1), _, some_get (by decide +kernel), rfl, some_get (by decide +kernel), by decide +kernel⟩,
   ⟨own, { pkt with p1 := 0x10000 }, _, _, base, _, some_get (by decide +kernel), rfl, by decide +kernel, by decide +kernel, rfl,
     by decide +kernel⟩,
   ⟨own, pkt, _, _, _, base, _, some_get (by decide +kernel), rfl, rfl, rfl⟩,
   ⟨own, pkt, 0, base, _, _, by decide +kernel, some_get (by decide +kernel), by decide +kernel, some_get (by decide +kernel)⟩,
   ⟨0, 1, 0x0812, pkt, _, base, _, by decide +kernel, some_get (by decide +kernel), some_get (by decide +kernel)⟩,
   ⟨0, 0, 1, _, withOp base (anOp (.streamLoad 0 0) 1), some_get (by decide +kernel), by decide +kernel, by decide +kernel, by decide +kernel⟩⟩

theorem test_witness_ExtentRowsComplete :
    (∃ (o : Origin) (p : Pkt) (g : Grant) (doff : Nat) (target : Nat) (j : Nat) (sharer : Nat) (idx : Nat) (e : Extent) (s : State) (t : State),
      s.takes cExtentGrant o p = some t ∧ t.mayStart cExtentGrant o p = true ∧ g = grantOf p ∧ t.grantCheck g = .ok (doff, target, j, sharer) ∧
      g.kind ≠ 1 ∧ t.ti.extents.firstFree (2 ^ 20) = some idx ∧ e =
      { dpa := g.dpa, len := g.len, doff := doff, slot := g.slot, ld := g.ld, kind := g.kind, ro := g.ro, hdmDb := g.hdmDb, st := 0, tetherLen := g.tether, expiry := 0, tag := g.tag, target := target, contributor := j, sharer := sharer, offered := 0, firstStack := t.ti.nextStack }) ∧
    (∃ (o : Origin) (p : Pkt) (g : Grant) (doff : Nat) (target : Nat) (j : Nat) (sharer : Nat) (idx : Nat) (e : Extent) (s : State) (t : State) (u
      : State), s.takes cExtentGrant o p = some t ∧ t.mayStart cExtentGrant o p = true ∧ g = grantOf p ∧ t.grantCheck g = .ok (doff, target, j,
      sharer) ∧ g.kind = 1 ∧ t.ti.extents.firstFree (2 ^ 20) = some idx ∧ e =
      { dpa := g.dpa, len := g.len, doff := doff, slot := g.slot, ld := g.ld, kind := g.kind, ro := g.ro, hdmDb := g.hdmDb, st := 0, tetherLen := g.tether, expiry := 0, tag := g.tag, target := target, contributor := j, sharer := sharer, offered := 0, firstStack := t.ti.nextStack }
      ∧ { t with ti.extents := t.ti.extents.set idx e }.giveChunks true idx t.ti.nextStack (g.len / blk) = some u) ∧
    (∃ (o : Origin) (p : Pkt) (idx : Nat) (e : Extent) (s : State) (t : State), s.takes cExtentRelease o p = some t ∧ t.mayStart cExtentRelease o
      p = true ∧ idx = fld p.p0.toNat 0 20 ∧ t.ti.extents.get? idx = some e ∧ e.st = 2 ∧ e.lapsed t.str.count = false) ∧
    (∃ (o : Origin) (p : Pkt) (idx : Nat) (n : Nat) (x : Nat) (e : Extent) (s : State) (t : State), s.takes cTetherRenew o p = some t ∧ idx = fld
      p.p0.toNat 0 20 ∧ t.ti.extents.get? idx = some e ∧ t.ownerOrigin o = true ∧ e.st = 2 ∧ e.lapsed t.str.count = false ∧ n = fld p.p1.toNat 0
      32 ∧ x = t.str.count + 1 + (if n = 0 then e.tetherLen else n)) ∧
    (∃ (o : Origin) (p : Pkt) (l : FMap Extent) (n : Nat) (s : State) (t : State), s.takes cExtentList o p = some t ∧ (managed o || p.p0.toNat %
      64 == 0) = true ∧ t.bound o = none ∧ l = t.ti.extents.filter (fun x => x.2.st != 0 && decide (fld p.p2.toNat 0 20 ≤ x.1)) ∧ n = min l.length
      (roomFor o p.p1.toNat / 64)) ∧
    (∃ (o : Origin) (p : Pkt) (g : Nat) (due : Nat) (s : State) (t : State) (u : State), s.takes cWindowSet o p = some t ∧ t.ownerOrigin o = true
      ∧ (p.p3.getLsbD 16 = true → p.p1.toNat % blk = 0 ∧ fld p.p2.toNat 0 10 ≠ 0 ∧ fld p.p2.toNat 0 10 ≤ 512 ∧ p.p1.toNat < 2 ^ 48) ∧ t.join
      [.window (fld p.p0.toNat 8 7 * 64 + fld p.p0.toNat 0 6) p.p1.toNat (fld p.p2.toNat 0 10) (fld p.p3.toNat 0 12) (p.p3.getLsbD 16)
      (p.p3.getLsbD 17)] = (u, g, due)) ∧
    (∃ (x : Nat) (e : Extent) (s : State), s.ti.extents.get? x = some e ∧ e.st = 2 ∧ e.expiry ≤ s.str.count) ∧
    (∃ (x : Nat) (e : Extent) (s : State), s.ti.extents.get? x = some e ∧ e.st = 1 ∧ e.offered + 2000000 ≤ s.str.count ∧ s.coming x 0 = false ∧
      s.coming x 2 = false) ∧
    (∃ (ld : Nat) (x : Nat) (e : Extent) (s : State), s.ti.extents.get? x = some e ∧ e.ld = ld ∧ e.st = 1 ∧ s.coming x 2 = false ∧ s.coming x 0 =
      false) ∧
    (∃ (ld : Nat) (x : Nat) (e : Extent) (s : State), s.ti.extents.get? x = some e ∧ e.ld = ld ∧ (e.st = 3 ∨ s.coming x 3 = true)) :=
  ⟨⟨own, { lpkt with p1 := BitVec.ofNat 64 blk, p3 := 0, p4 := 2000, data := zeros 16 }, _, 0, 0, 0, 0, _, _, roomy, _, some_get
     (by decide +kernel), by decide +kernel, rfl, okExcept (by decide +kernel), by decide +kernel, some_get (by decide +kernel), rfl⟩,
   ⟨own, { lpkt with p1 := BitVec.ofNat 64 blk, p3 := 0x100, p4 := 2000, data := zeros 16 }, _, 0, 0, 0, 0, _, _, roomy, _, _, some_get
     (by decide +kernel), by decide +kernel, rfl, okExcept (by decide +kernel), by decide +kernel, some_get (by decide +kernel), rfl, some_get
     (by decide +kernel)⟩,
   ⟨own, lpkt, _, _, withExtent anExtent, _, some_get (by decide +kernel), by decide +kernel, rfl, some_get (by decide +kernel),
     by decide +kernel, by decide +kernel⟩,
   ⟨own, pkt, _, _, _, _, withExtent anExtent, _, some_get (by decide +kernel), rfl, some_get (by decide +kernel), by decide +kernel,
     by decide +kernel, by decide +kernel, rfl, rfl⟩,
   ⟨own, { pkt with p1 := 64 }, _, _, withExtent anExtent, _, some_get (by decide +kernel), by decide +kernel, by decide +kernel, rfl, rfl⟩,
   ⟨own, { pkt with p2 := 1, p3 := 0x10007 }, _, _, base, _, _, some_get (by decide +kernel), by decide +kernel, by decide +kernel, pair3 _⟩,
   ⟨0, _, withExtent { anExtent with expiry := 0 }, some_get (by decide +kernel), by decide +kernel, by decide +kernel⟩,
   ⟨0, _, { withExtent { anExtent with st := 1 } with str.count := 2000000 }, some_get (by decide +kernel), by decide +kernel, by decide +kernel,
     by decide +kernel, by decide +kernel⟩,
   ⟨0, 0, _, withExtent { anExtent with st := 1 }, some_get (by decide +kernel), by decide +kernel, by decide +kernel, by decide +kernel,
     by decide +kernel⟩,
   ⟨0, 0, _, withExtent { anExtent with st := 3 }, some_get (by decide +kernel), by decide +kernel, by decide +kernel⟩⟩

theorem test_witness_MemoryRequestsComplete :
    (∃ (r : MemReq) (a : Access) (s : State), s.takesMem r.ld = true ∧ s.reach r (.read r.mv) = .access a) ∧
    (∃ (r : MemReq) (a : Access) (s : State), s.takesMem r.ld = true ∧ s.reach r (.read .I) = .access a) ∧
    (∃ (r : MemReq) (a : Access) (s : State), s.takesMem r.ld = true ∧ s.reach r .inv = .access a) ∧
    (∃ (r : MemReq) (q : MemReq) (a : Access) (b : Access) (s : State), s.takesMem r.ld = true ∧ q = { r with be := BitVec.ofNat 64 allBe } ∧
      s.reach q (.write r.mv true) = .access a ∧ b = { a with kind := .write r.mv true } ∧ s.crosses b = false) ∧
    (∃ (r : MemReq) (a : Access) (b : Access) (s : State), s.takesMem r.ld = true ∧ s.reach r (.write r.mv false) = .access a ∧ b =
      { a with kind := .write r.mv false } ∧ s.crosses b = false) ∧
    (∃ (r : MemReq) (a : Access) (s : State) (u : State), s.takesMem r.ld = true ∧ s.reach r .inv = .access a ∧ (a.sharer = none ∨ s.plateHome
      a.slot (a.line / 64) = .here) ∧ u = (s.charge a.slot 0 (headOf a.func) 1).charge a.slot 1 (headOf a.func) 1) ∧
    (∃ (r : MemReq) (a : Access) (x : MapEnt) (i : Nat) (p : Nat) (s : State), s.takesMem r.ld = true ∧ s.reach r (.read .I) = .access a ∧
      a.target = .line ∧ s.resolve a = .at p i ∧ s.plateHome a.slot p = .here ∧ s.ent a.slot p = some x ∧ x.res0 = false ∧ x.remote = false ∧
      x.damaged = false ∧ s.filling a.slot p = false ∧ s.homeGrant a.slot p x = true ∧ s.hasT0 a.slot (s.t0Need a.slot p false) = true) ∧
    (∃ (r : MemReq) (s : State), s.takesMem r.ld = true) ∧
    (∃ (r : MemReq) (dpa : Nat) (s : State), s.takesMem r.ld = true ∧ s.reach r (.read r.mv) = .unmapped dpa) :=
  ⟨⟨aReq, reqAccess aReq aPlace (.read .I), withExtent anExtent, by decide +kernel, by decide +kernel⟩,
   ⟨aReq, reqAccess aReq aPlace (.read .I), withExtent anExtent, by decide +kernel, by decide +kernel⟩,
   ⟨aReq, reqAccess aReq aPlace .inv, withExtent anExtent, by decide +kernel, by decide +kernel⟩,
   ⟨aReq, _, reqAccess { aReq with be := BitVec.ofNat 64 allBe } aPlace (.write .I true), _, withExtent anExtent, by decide +kernel, rfl,
     by decide +kernel, rfl, by decide +kernel⟩,
   ⟨aReq, reqAccess aReq aPlace (.write .I false), _, withExtent anExtent, by decide +kernel, by decide +kernel, rfl, by decide +kernel⟩,
   ⟨aReq, reqAccess aReq aPlace .inv, withExtent anExtent, _, by decide +kernel, by decide +kernel, .inl (by decide +kernel), rfl⟩,
   ⟨aReq, reqAccess aReq aPlace (.read .I), _, 0, 0, withPlate, by decide +kernel, by decide +kernel, by decide +kernel, by decide +kernel,
     by decide +kernel, some_get (by decide +kernel), by decide +kernel, by decide +kernel, by decide +kernel, by decide +kernel,
     by decide +kernel, by decide +kernel⟩,
   ⟨aReq, base, by decide +kernel⟩,
   ⟨aReq, 0, base, by decide +kernel, by decide +kernel⟩⟩

theorem test_witness_SharingRowsComplete :
    (∃ (ld : Nat) (id : Nat) (sn : Snoop) (s : State), s.sh.snoops.get? id = some sn ∧ sn.ld = ld ∧ (s.head (headOf ld)).up = true ∧ sn.late =
      false ∧ sn.home = none) ∧
    (∃ (ld : Nat) (id : Nat) (sn : Snoop) (s : State), s.sh.snoops.get? id = some sn ∧ sn.ld = ld ∧ (s.head (headOf ld)).up = true ∧ sn.late =
      false) ∧
    (∃ (ld : Nat) (id : Nat) (sn : Snoop) (s : State), s.sh.snoops.get? id = some sn ∧ sn.ld = ld ∧ (s.head (headOf ld)).up = true ∧
      s.sh.waiting.find? (fun p => p.2.ld == ld && p.2.slot == sn.slot && p.2.line == sn.line && p.2.target == .line && p.2.sent) = none) ∧
    (∃ (ld : Nat) (id : Nat) (sn : Snoop) (w : Nat × Access) (s : State), s.sh.snoops.get? id = some sn ∧ sn.ld = ld ∧ (s.head (headOf ld)).up =
      true ∧ s.sh.waiting.find? (fun p => p.2.ld == ld && p.2.slot == sn.slot && p.2.line == sn.line && p.2.target == .line && p.2.sent) = some w) ∧
    (∃ (id : Nat) (sn : Snoop) (s : State), s.sh.snoops.get? id = some sn ∧ sn.late = false ∧ sn.home = none ∧ sn.sent + s.dev fSnoopLimit ≤
      s.str.count) :=
  ⟨⟨0, 0, _, snooping, some_get (by decide +kernel), by decide +kernel, by decide +kernel, by decide +kernel, by decide +kernel⟩,
   ⟨0, 0, _, snooping, some_get (by decide +kernel), by decide +kernel, by decide +kernel, by decide +kernel⟩,
   ⟨0, 0, _, snooping, some_get (by decide +kernel), by decide +kernel, by decide +kernel, by decide +kernel⟩,
   ⟨0, 0, _, _, { snooping with sh.waiting := [(0, { anAccess with sent := true })] }, some_get (by decide +kernel), by decide +kernel,
     by decide +kernel, some_get (by decide +kernel)⟩,
   ⟨0, _, snooping, some_get (by decide +kernel), by decide +kernel, by decide +kernel, by decide +kernel⟩⟩

theorem test_witness_WindowRowsComplete :
    (∃ (f : Nat) (off : Nat) (len : Nat) (s : State), s.isActive = true ∧ (s.head (headOf f)).up = true ∧ off + len ≤ 2 ^ 36) ∧
    (∃ (f : Nat) (off : Nat) (d : List Byte) (s : State), s.isActive = true ∧ (s.head (headOf f)).up = true ∧ off + d.length ≤ 2 ^ 36) :=
  ⟨⟨0, 0, 2 ^ 36, base, by decide +kernel, by decide +kernel, by decide +kernel⟩,
   ⟨0, 2 ^ 36 - 4, zeros 4, base, by decide +kernel, by decide +kernel, by decide +kernel⟩⟩

theorem test_witness_PlacementRowsComplete :
    (∃ (o : Origin) (p : Pkt) (a : Nat) (n : Nat) (tier : Nat) (s : State) (t : State), s.takes cPlaceMove o p = some t ∧ t.mayStart cPlaceMove o
      p = true ∧ plateRange p = some (a, n) ∧ tier = fld p.p2.toNat 0 2 ∧ tier ≠ 0) ∧
    (∃ (o : Origin) (p : Pkt) (w : Nat) (s : State) (t : State), s.takes cPlateQuery o p = some t ∧ p.p0.toNat < 2 ^ 36 ∧ w = ((t.ent (slotOf p)
      p.p0.toNat).map MapEnt.word).getD 0) ∧
    (∃ (o : Origin) (p : Pkt) (a : Nat) (n : Nat) (s : State) (t : State), s.takes cPlateDiscard o p = some t ∧ t.mayStart cPlateDiscard o p =
      true ∧ plateRange p = some (a, n)) ∧
    (∃ (o : Origin) (p : Pkt) (a : Nat) (n : Nat) (elem : Nat) (id : Nat) (g : Seg) (s : State) (t : State), s.takes cSegmentDefine o p = some t ∧
      a = p.p0.toNat ∧ n = p.p1.toNat ∧ elem = fld p.p2.toNat 0 4 ∧ 1 ≤ n ∧ n ≤ 65536 ∧ a + n ≤ 2 ^ 36 ∧ elemKnown elem = true ∧ t.cod.segs.any
      (fun g => g.2.slot == slotOf p && decide (g.2.first < a + n) && decide (a < g.2.first + g.2.count)) = false ∧ t.cod.segs.firstFree 65536 =
      some id ∧ g =
      { slot := slotOf p, first := a, count := n, elem := elem, table := none, escapes := 0, coded := 0, warn := false, dropping := false }) ∧
    (∃ (o : Origin) (p : Pkt) (id : Nat) (gen : Nat) (due : Nat) (g : Seg) (s : State) (t : State) (u : State), s.takes cSegmentDrop o p = some t
      ∧ id = fld p.p0.toNat 0 16 ∧ t.segFor (slotOf p) id = .ok g ∧ t.proofsOf id = [] ∧
      { t with cod.segs := t.cod.segs.set id { g with dropping := true } }.join [] = (u, gen, due)) ∧
    (∃ (o : Origin) (p : Pkt) (g : Seg) (s : State) (t : State), s.takes cSegmentQuery o p = some t ∧ t.segFor (slotOf p) (fld p.p0.toNat 0 16) =
      .ok g) ∧
    (∃ (o : Origin) (p : Pkt) (x : Table) (s : State) (t : State), s.takes cTableRead o p = some t ∧ t.cod.tables.get? (fld p.p0.toNat 0 16) =
      some x ∧ x.joined = true ∧ (managed o || p.p1.toNat % 64 == 0) = true) ∧
    (∃ (o : Origin) (p : Pkt) (id : Nat) (x : Nat) (g : Seg) (s : State) (t : State), s.takes cProofPass o p = some t ∧ t.mayStart cProofPass o p
      = true ∧ id = fld p.p0.toNat 0 16 ∧ t.segFor (slotOf p) id = .ok g ∧ 1 ≤ g.elem ∧ g.elem ≤ 3 ∧ g.dropping = false ∧ t.proofsOf id = [] ∧
      t.nextTable = some x) ∧
    (∃ (slot : Nat) (ptr : Nat) (s : State) (u : State), s.tst.inForce = 0 ∧ s.isActive = true ∧ s.domSt slot = 1 ∧ s.demoting slot = true ∧ ptr =
      s.ti.demote.getD slot 0 / 2 ∧ u = { s with ti.demote := s.ti.demote.set slot (2 * ptr + 1) }.demoteSome slot 16 (s.demotable slot ptr)) ∧
    (∃ (s : State), s.str.count % (4096 * s.dev fSweepPeriod) = 0) :=
  ⟨⟨own, { lpkt with p1 := 1, p2 := 1 }, 0, 1, _, base, _, some_get (by decide +kernel), by decide +kernel, by decide +kernel, rfl,
     by decide +kernel⟩,
   ⟨own, pkt, _, base, _, some_get (by decide +kernel), by decide +kernel, rfl⟩,
   ⟨own, { lpkt with p1 := 1 }, 0, 1, base, _, some_get (by decide +kernel), by decide +kernel, by decide +kernel⟩,
   ⟨own, { pkt with p1 := 65536, p2 := 1 }, _, _, _, _, _, base, _, some_get (by decide +kernel), rfl, rfl, rfl, by decide +kernel,
     by decide +kernel, by decide +kernel, by decide +kernel, by decide +kernel, some_get (by decide +kernel), rfl⟩,
   ⟨own, pkt, _, _, _, _, withSeg, _, _, some_get (by decide +kernel), rfl, ok_get (by decide +kernel), by decide +kernel, pair3 _⟩,
   ⟨own, pkt, _, withSeg, _, some_get (by decide +kernel), ok_get (by decide +kernel)⟩,
   ⟨own, pkt, _, withSeg, _, some_get (by decide +kernel), some_get (by decide +kernel), by decide +kernel, by decide +kernel⟩,
   ⟨own, lpkt, _, _, _, withSeg, _, some_get (by decide +kernel), by decide +kernel, rfl, ok_get (by decide +kernel), by decide +kernel,
     by decide +kernel, by decide +kernel, by decide +kernel, some_get (by decide +kernel)⟩,
   ⟨7, _, { withPlate with cfg.fields := [(fkey 0 fOwnerFunc 0, 0)] }, _, by decide +kernel, by decide +kernel, by decide +kernel,
     by decide +kernel, rfl, rfl⟩,
   ⟨base, by decide +kernel⟩⟩

theorem test_witness_LaneRowsComplete :
    (∃ (lane : Nat) (slot : Nat) (plate : Nat) (cycles : Nat) (j : Job) (l : List Job) (e : MapEnt) (b : List Byte) (d : List Byte) (bad : List
      Nat) (s : State) (u : State), (s.lane lane).queue = j :: l ∧ j.kind = 1 ∧ slot = j.key / 2 ^ 36 ∧ plate = j.key % 2 ^ 36 ∧ (s.popJob
      lane).ent slot plate = some e ∧ e.res0 = false ∧ e.damaged = false ∧ (s.popJob lane).readHome slot plate e = (u, .bytes b bad) ∧ u.expand e
      b j.line = .good d cycles) ∧
    (∃ (lane : Nat) (slot : Nat) (plate : Nat) (cycles : Nat) (j : Job) (l : List Job) (e : MapEnt) (b : List Byte) (d : List Byte) (bad : List
      Nat) (s : State) (u : State), (s.lane lane).queue = j :: l ∧ j.kind = 1 ∧ slot = j.key / 2 ^ 36 ∧ plate = j.key % 2 ^ 36 ∧ (s.popJob
      lane).ent slot plate = some e ∧ e.res0 = false ∧ e.damaged = false ∧ (s.popJob lane).readHome slot plate e = (u, .bytes b bad) ∧ u.expand e
      b j.line = .good d cycles) ∧
    (∃ (lane : Nat) (j : Job) (l : List Job) (s : State), (s.lane lane).queue = j :: l ∧ j.kind = 5) ∧
    (∃ (lane : Nat) (slot : Nat) (j : Job) (l : List Job) (s : State) (u : State), (s.lane lane).queue = j :: l ∧ j.kind = 4 ∧ slot = j.key / 2 ^
      36 ∧ j.failedOn = none ∧ u = s.popJob lane) ∧
    (∃ (lane : Nat) (n : Nat) (slot : Nat) (plate : Nat) (j : Job) (l : List Job) (s : State) (u : State), (s.lane lane).queue = j :: l ∧ j.kind =
      4 ∧ slot = j.key / 2 ^ 36 ∧ plate = j.key % 2 ^ 36 ∧ j.failedOn = some n ∧ u = s.popJob lane) :=
  ⟨⟨0, _, _, 0, aJob 1, [], _, zeros 64, sub (zeros 64) 0 plateBytes, [], withJob 1 { aPlate with clen := 64 }, _, by decide +kernel,
     by decide +kernel, rfl, rfl, some_get (by decide +kernel), by decide +kernel, by decide +kernel, pairR (by decide +kernel), if_pos
     (by decide +kernel)⟩,
   ⟨0, _, _, 0, aJob 1, [], _, zeros 64, sub (zeros 64) 0 plateBytes, [], withJob 1 { aPlate with clen := 64 }, _, by decide +kernel,
     by decide +kernel, rfl, rfl, some_get (by decide +kernel), by decide +kernel, by decide +kernel, pairR (by decide +kernel), if_pos
     (by decide +kernel)⟩,
   ⟨0, aJob 5, [], withJob 5 aPlate, by decide +kernel, by decide +kernel⟩,
   ⟨0, _, aJob 4, [], withJob 4 aPlate, _, by decide +kernel, by decide +kernel, rfl, by decide +kernel, rfl⟩,
   ⟨0, 1, _, _, { aJob 4 with failedOn := some 1 }, [],
     { withPlate with cod.lanes := [(0, { Lane.reset with queue := [{ aJob 4 with failedOn := some 1 }] })] }, _, by decide +kernel,
     by decide +kernel, rfl, rfl, by decide +kernel, rfl⟩⟩

theorem test_witness_StreamRowsComplete :
    (∃ (o : Origin) (p : Pkt) (sc : Sched) (n : Nat) (x : Stream) (s : State) (t : State), s.takes cStreamLoad o p = some t ∧ t.mayStart
      cStreamLoad o p = true ∧ p.p0.toNat % 64 = 0 ∧ headerOk p.data p.p1.toNat (t.size (slotOf p)) = true ∧ badLayer p.data = none ∧ badTile
      p.data (t.size (slotOf p)) = none ∧ sc = schedOf p.data ∧ t.streams.firstFree 256 = some n ∧ sumOf (t.streams.map (fun x =>
      x.2.sched.tiles.length)) + sc.tiles.length ≤ 131072 ∧ (t.streams.filter (fun x => x.2.slot == slotOf p)).length < t.domF (slotOf p)
      fStreamLimit ∧ x = { slot := slotOf p, ready := false, sched := sc, sent := [], slotSeq := 0, released := 0, run := none }) ∧
    (∃ (o : Origin) (p : Pkt) (n : Nat) (func : Nat) (st : Stream) (run : Run) (s : State) (t : State), s.takes cStreamRun o p = some t ∧
      t.mayStart cStreamRun o p = true ∧ n = fld p.p0.toNat 0 8 ∧ t.streamFor (slotOf p) n = .ok st ∧ st.ready = true ∧ st.run = none ∧
      (!st.sched.push && st.sched.tiles.any (fun x => decide (t.partition st.slot < 2 * x.nplate))) = false ∧ func =
      (match o with | .qp f _ => if t.isOwner f then fld p.p3.toNat 0 7 else f | .mgmt _ _ => 0) ∧ run = Run.fresh p.p1.toNat (fld p.p2.toNat 0
      32) func) ∧
    (∃ (o : Origin) (p : Pkt) (n : Nat) (st : Stream) (s : State) (t : State), s.takes cStreamUnload o p = some t ∧ n = fld p.p0.toNat 0 8 ∧
      t.streamFor (slotOf p) n = .ok st ∧ st.run = none ∧ st.ready = true) ∧
    (∃ (o : Origin) (p : Pkt) (n : Nat) (st : Stream) (s : State) (t : State), s.takes cStreamQuery o p = some t ∧ n = fld p.p0.toNat 0 8 ∧
      t.streamFor (slotOf p) n = .ok st) ∧
    (∃ (n : Nat) (st : Stream) (r : Run) (q : Nat) (s : State), s.streams.get? n = some st ∧ st.run = some r ∧ r.handle < 4096 ∧ r.fail = none ∧
      r.within st.sched q = true) :=
  ⟨⟨own, { lpkt with p1 := 112, data := aSched }, _, _, _, fieldsOf roomy [(7, fStreamLimit, 0, 4)], _, some_get (by decide +kernel),
     by decide +kernel, by decide +kernel, by decide +kernel, by decide +kernel, by decide +kernel, rfl, some_get (by decide +kernel),
     by decide +kernel, by decide +kernel, rfl⟩,
   ⟨own, lpkt, _, _, _, _, streaming none, _, some_get (by decide +kernel), by decide +kernel, rfl, ok_get (by decide +kernel), by decide +kernel,
     by decide +kernel, by decide +kernel, rfl, rfl⟩,
   ⟨own, pkt, _, _, streaming none, _, some_get (by decide +kernel), rfl, ok_get (by decide +kernel), by decide +kernel, by decide +kernel⟩,
   ⟨own, pkt, _, _, streaming (some aRun), _, some_get (by decide +kernel), rfl, ok_get (by decide +kernel)⟩,
   ⟨0, _, _, 0, streaming (some aRun), some_get (by decide +kernel), some_get (by decide +kernel), by decide +kernel, by decide +kernel,
     by decide +kernel⟩⟩

theorem test_witness_ImpressionRowsComplete :
    (∃ (o : Origin) (p : Pkt) (id : Nat) (slot : Nat) (m : Impr) (s : State) (t : State), s.takes cImpressionOpen o p = some t ∧ t.mayStart
      cImpressionOpen o p = true ∧ slot = slotOf p ∧ t.imprOk slot p.p0.toNat p.p1.toNat p.p2.toNat p.p3.toNat = true ∧ (t.sh.imprs.filter (fun (m
      : Nat × Impr) => m.2.slot == slot)).length < t.domF slot fImprLimit ∧ t.covered slot p.p0.toNat p.p1.toNat < 16 ∧ t.sh.imprs.firstFree 65536
      = some id ∧ m =
      { slot := slot, first := p.p0.toNat, count := p.p1.toNat, area := p.p2.toNat, areaCount := p.p3.toNat, st := 3, capture := 0, copies := 0, torn := 0, map := [], scanned := 0, snoops := [] }) ∧
    (∃ (o : Origin) (p : Pkt) (id : Nat) (m : Impr) (s : State) (t : State), s.takes cImpressionClose o p = some t ∧ t.mayStart cImpressionClose o
      p = true ∧ id = fld p.p0.toNat 0 16 ∧ t.imprFor (slotOf p) id = .ok m ∧ m.st ≠ 0 ∧ m.st ≠ 3 ∧ t.imprClosing id = false) ∧
    (∃ (o : Origin) (p : Pkt) (m : Impr) (s : State) (t : State), s.takes cImpressionQuery o p = some t ∧ t.imprFor (slotOf p) (fld p.p0.toNat 0
      16) = .ok m) ∧
    (∃ (id : Nat) (h : Nat) (s : State) (u : State), s.takeDue 2 id = some u ∧ u.imprOp id = some h) ∧
    (∃ (o : Origin) (p : Pkt) (first : Nat) (count : Nat) (s : State) (t : State), s.takes cDirRecall o p = some t ∧ t.mayStart cDirRecall o p =
      true ∧ plateRange p = some (first, count)) :=
  ⟨⟨own, { lpkt with p1 := 512, p2 := 1024, p3 := 1024 }, _, _, _, fieldsOf roomy [(7, fImprLimit, 0, 4)], _, some_get (by decide +kernel),
     by decide +kernel, rfl, by decide +kernel, by decide +kernel, by decide +kernel, some_get (by decide +kernel), rfl⟩,
   ⟨own, lpkt, _, _, withImpr 1, _, some_get (by decide +kernel), by decide +kernel, rfl, ok_get (by decide +kernel), by decide +kernel,
     by decide +kernel, by decide +kernel⟩,
   ⟨own, pkt, _, withImpr 1, _, some_get (by decide +kernel), ok_get (by decide +kernel)⟩,
   ⟨0, _, { withOp (withImpr 0) (anOp (.imprOpen 0 0 0) 1) with atBoundary := [(2, 0, 0)] }, _, some_get (by decide +kernel), some_get
     (by decide +kernel)⟩,
   ⟨own, { lpkt with p1 := 1 }, 0, 1, base, _, some_get (by decide +kernel), by decide +kernel, by decide +kernel⟩⟩

theorem test_witness_OperatorRowsComplete :
    (∃ (o : Origin) (p : Pkt) (b : Binding) (id : Nat) (s : State) (t : State) (u : State), s.takes cOperBind o p = some t ∧ t.mayStart cOperBind
      o p = true ∧ (managed o || p.p0.toNat % 64 == 0) = true ∧ b = bindingOf p.data (slotOf p)
      (match o with | .qp f _ => f | .mgmt _ _ => t.owner) ∧ bindFormOk p.data = true ∧ b.valid = true ∧ t.bindFits b = true ∧ (t.opr.binds.filter
      (fun (x : Nat × Binding) => x.2.slot == slotOf p)).length < t.domF (slotOf p) fOperLimit ∧ t.workFits b = true ∧ t.opr.binds.firstFree 4096
      = some id ∧ { t with opr.binds := t.opr.binds.set id b }.giveChunks false id t.ti.nextStack b.workChunks = some u) ∧
    (∃ (o : Origin) (p : Pkt) (id : Nat) (b : Binding) (s : State) (t : State), s.takes cOperUnbind o p = some t ∧ id = fld p.p0.toNat 0 12 ∧
      t.bindFor (slotOf p) id = .ok b ∧ b.st ≠ 0 ∧ t.closeLive id = false ∧ t.ti.extents.any (fun (x : Nat × Extent) => x.2.kind == 2 &&
      x.2.target == id) = false) ∧
    (∃ (o : Origin) (p : Pkt) (id : Nat) (r : Nat) (b : Binding) (q : StepParams) (s : State) (t : State), s.takes cOperStep o p = some t ∧ id =
      fld p.p0.toNat 0 12 ∧ r = fld p.p0.toNat 32 32 ∧ t.bindFor (slotOf p) id = .ok b ∧ b.adamw = true ∧ b.st = 1 ∧ r = (b.round + 1) % 2 ^ 32 ∧
      r ≠ b.round % 2 ^ 32 ∧ q =
      { lr := BitVec.ofNat 32 (fld p.p1.toNat 0 32), wd := BitVec.ofNat 32 (fld p.p1.toNat 32 32), c1 := BitVec.ofNat 32 (fld p.p2.toNat 0 32), c2 := BitVec.ofNat 32 (fld p.p2.toNat 32 32), gscale := BitVec.ofNat 32 (fld p.p3.toNat 0 32) }) ∧
    (∃ (o : Origin) (p : Pkt) (id : Nat) (b : Binding) (s : State) (t : State), s.takes cOperRoundClose o p = some t ∧ t.mayStart cOperRoundClose
      o p = true ∧ id = fld p.p0.toNat 0 12 ∧ t.bindFor (slotOf p) id = .ok b ∧ b.st = 1 ∧ t.closeLive id = false) ∧
    (∃ (o : Origin) (p : Pkt) (b : Binding) (s : State) (t : State), s.takes cOperQuery o p = some t ∧ t.bindFor (slotOf p) (fld p.p0.toNat 0 12)
      = .ok b) ∧
    (∃ (id : Nat) (s : State) (u : State), s.takeDue 1 id = some u) ∧
    (∃ (id : Nat) (b : Binding) (s : State), s.binding id = some b ∧ b.st = 1 ∧ b.evWrite = true ∧ 0 < b.round) ∧
    (∃ (o : Origin) (p : Pkt) (id : Nat) (gen : Nat) (due : Nat) (g : Digest) (s : State) (t : State) (u : State), s.takes cDigestOpen o p = some
      t ∧ 1 ≤ p.p2.toNat ∧ p.p2.toNat ≤ 2 ^ 24 ∧ p.p1.toNat + p.p2.toNat ≤ 2 ^ 36 ∧ (t.opr.digests.filter (fun (x : Nat × Digest) => x.2.slot ==
      slotOf p)).length < t.domF (slotOf p) fDigestLimit ∧ t.opr.digests.firstFree 1024 = some id ∧ g =
      { slot := slotOf p, tag := p.p0.toNat % 65536, first := p.p1.toNat, count := p.p2.toNat, sum := 0, n := 0, sum0 := 0, n0 := 0, st := 0 } ∧
      { t with opr.digests := t.opr.digests.set id g }.join [.digestOpen id] = (u, gen, due)) ∧
    (∃ (o : Origin) (p : Pkt) (id : Nat) (gen : Nat) (due : Nat) (g : Digest) (s : State) (t : State) (u : State), s.takes cDigestClose o p = some
      t ∧ id = fld p.p0.toNat 0 10 ∧ t.digestFor (slotOf p) id = .ok g ∧ g.st = 1 ∧
      { t with opr.digests := t.opr.digests.set id { g with st := 2 } }.join [.digestClose id] = (u, gen, due)) ∧
    (∃ (o : Origin) (p : Pkt) (id : Nat) (g : Digest) (s : State) (t : State), s.takes cDigestRead o p = some t ∧ id = fld p.p0.toNat 0 10 ∧
      t.digestFor (slotOf p) id = .ok g ∧ (p.p0.getLsbD 16 = true → g.st = 3)) :=
  ⟨⟨own, { lpkt with data := aDescriptor }, _, _, bindable, _, _, some_get (by decide +kernel), by decide +kernel, by decide +kernel, rfl,
     by decide +kernel, by decide +kernel, by decide +kernel, by decide +kernel, by decide +kernel, some_get (by decide +kernel), some_get
     (by decide +kernel)⟩,
   ⟨own, pkt, _, _, withBind (aBinding 1), _, some_get (by decide +kernel), rfl, ok_get (by decide +kernel), by decide +kernel, by decide +kernel,
     by decide +kernel⟩,
   ⟨own, { pkt with p0 := 0x100000000 }, _, _, _, _, withBind { aBinding 1 with op := 3 }, _, some_get (by decide +kernel), rfl, rfl, ok_get
     (by decide +kernel), by decide +kernel, by decide +kernel, by decide +kernel, by decide +kernel, rfl⟩,
   ⟨own, lpkt, _, _, withBind (aBinding 1), _, some_get (by decide +kernel), by decide +kernel, rfl, ok_get (by decide +kernel),
     by decide +kernel, by decide +kernel⟩,
   ⟨own, pkt, _, withBind (aBinding 1), _, some_get (by decide +kernel), ok_get (by decide +kernel)⟩,
   ⟨0, { withBind (aBinding 1) with atBoundary := [(1, 0, 0)] }, _, some_get (by decide +kernel)⟩,
   ⟨0, _, withBind { aBinding 1 with evWrite := true, round := 1 }, some_get (by decide +kernel), by decide +kernel, by decide +kernel,
     by decide +kernel⟩,
   ⟨own, { pkt with p2 := 16 }, _, _, _, _, bindable, _, _, some_get (by decide +kernel), by decide +kernel, by decide +kernel, by decide +kernel,
     by decide +kernel, some_get (by decide +kernel), rfl, pair3 _⟩,
   ⟨own, pkt, _, _, _, _, withDigest 1, _, _, some_get (by decide +kernel), rfl, ok_get (by decide +kernel), by decide +kernel, pair3 _⟩,
   ⟨own, { pkt with p0 := 0x10000 }, _, _, withDigest 3, _, some_get (by decide +kernel), rfl, ok_get (by decide +kernel), by decide +kernel⟩⟩

theorem test_witness_DmaRowsComplete :
    (∃ (o : Origin) (p : Pkt) (n : Nat) (func : Nat) (c : Chan) (s : State) (t : State), s.takes cDmaChanOpen o p = some t ∧ n = fld p.p0.toNat 0
      7 ∧ n < 64 ∧ func = (match o with | .qp f _ => if t.isOwner f then fld p.p0.toNat 16 7 else f | .mgmt _ _ => fld p.p0.toNat 16 7) ∧
      p.p1.toNat % 64 = 0 ∧ p.p2.toNat % 8 = 0 ∧ p.p4.toNat % 64 = 0 ∧ 1 ≤ fld p.p3.toNat 32 13 ∧ fld p.p3.toNat 32 13 ≤ 4096 ∧ fld p.p0.toNat 8 2
      ≤ t.domF (slotOf p) fDmaPrioMax ∧ t.dma.chans.has n = false ∧ (t.dma.chans.filter (fun (x : Nat × Chan) => x.2.slot == slotOf p)).length <
      t.domF (slotOf p) fDmaLimit ∧ c =
      { slot := slotOf p, func := func, prio := fld p.p0.toNat 8 2, parkLimit := fld p.p3.toNat 32 13, stAddr := p.p2.toNat, evArea := p.p4.toNat, st := chClosed, next := some (chRunning, stOk), lastDseq := (fld p.p3.toNat 0 32 + 2 ^ 32 - 1) % 2 ^ 32, status := stOk, poison := false, update := 0, word := 0, addr := p.p1.toNat, desc := none, cur := none, flight := [], moved := 0, stage := [], bad := false, parkLeft := fld p.p3.toNat 32 13, reread := false, ended := [], touch := false }) ∧
    (∃ (o : Origin) (p : Pkt) (n : Nat) (c : Chan) (partly : Bool) (s : State) (t : State) (u : State), s.takes cDmaChanStop o p = some t ∧ n =
      fld p.p0.toNat 0 6 ∧ t.chanFor (slotOf p) n = .ok (some c) ∧ c.st ≠ chStopped ∧ c.coming ≠ chError ∧ c.coming ≠ chClosed ∧ t.stopBursts n c
      = (u, partly)) ∧
    (∃ (o : Origin) (p : Pkt) (n : Nat) (c : Chan) (s : State) (t : State), s.takes cDmaChanClose o p = some t ∧ n = fld p.p0.toNat 0 6 ∧
      t.chanFor (slotOf p) n = .ok (some c) ∧ c.st ≠ chRunning ∧ c.st ≠ chStageWait ∧ c.st ≠ chClosed ∧ c.coming ≠ chRunning) ∧
    (∃ (o : Origin) (p : Pkt) (n : Nat) (c : Chan) (s : State) (t : State), s.takes cDmaKick o p = some t ∧ n = fld p.p0.toNat 0 6 ∧ t.chanFor
      (slotOf p) n = .ok (some c) ∧ c.st = chSleeping ∧ c.next = none) ∧
    (∃ (o : Origin) (p : Pkt) (c : Chan) (s : State) (t : State), s.takes cDmaChanQuery o p = some t ∧ t.chanFor (slotOf p) (fld p.p0.toNat 0 6) =
      .ok (some c)) ∧
    (∃ (ch : Nat) (bytes : List Byte) (c : Chan) (d : Desc) (s : State) (u : State), s.chan ch = some c ∧ c.fetches = true ∧ d = descOf bytes ∧ u
      = s.charge c.slot 0 (headOf c.func) 1 ∧ descOk bytes = true ∧ d.dseq = (c.lastDseq + 1) % 2 ^ 32 ∧ (d.srcDom = true → d.srcHull.1 +
      d.srcHull.2 ≤ u.size c.slot) ∧ (d.dstDom = true → d.dstHull.1 + d.dstHull.2 ≤ u.size c.slot) ∧ (d.overlaps && !(d.rows == 1 && d.reshape ==
      0)) = false) ∧
    (∃ (ch : Nat) (bytes : List Byte) (c : Chan) (d : Desc) (s : State) (u : State), s.chan ch = some c ∧ c.fetches = true ∧ d = descOf bytes ∧ u
      = s.charge c.slot 0 (headOf c.func) 1 ∧ descOk bytes = true ∧ d.dseq = (c.lastDseq + 1) % 2 ^ 32 ∧ (d.srcDom = true → d.srcHull.1 +
      d.srcHull.2 ≤ u.size c.slot) ∧ (d.dstDom = true → d.dstHull.1 + d.dstHull.2 ≤ u.size c.slot) ∧ (d.overlaps && !(d.rows == 1 && d.reshape ==
      0)) = true ∧ d.total ≤ 16 * mib) ∧
    (∃ (ch : Nat) (src : List Byte) (c : Chan) (d : Desc) (s : State) (u : State) (v : State) (w : State), u = s.moveDie (chanDie ch) ∧ v =
      u.finishBursts ch (((u.chan ch).map (fun c => c.flight.length)).getD 0) ∧ v.chan ch = some c ∧ c.desc = some d ∧ c.cur = none ∧ c.flight =
      [] ∧ c.coming ≠ chError ∧ c.coming ≠ chStopped ∧ v.stageWaits ch c = false ∧ v.putHost ch c d src = (w, true) ∧ d.link.getLsbD 0 = false) ∧
    (∃ (ch : Nat) (src : List Byte) (link : U64) (c : Chan) (d : Desc) (s : State) (u : State) (v : State) (w : State), u = s.moveDie (chanDie ch)
      ∧ v = u.finishBursts ch (((u.chan ch).map (fun c => c.flight.length)).getD 0) ∧ v.chan ch = some c ∧ c.desc = some d ∧ c.cur = none ∧
      c.flight = [] ∧ c.coming ≠ chError ∧ c.coming ≠ chStopped ∧ v.stageWaits ch c = false ∧ v.putHost ch c d src = (w, true) ∧ d.link.getLsbD 0
      = true ∧ link.getLsbD 0 = true) ∧
    (∃ (ch : Nat) (c : Chan) (s : State), s.chan ch = some c ∧ c.st = chParked ∧ c.parkLeft = 0 ∧ c.next = none) ∧
    (∃ (ch : Nat) (c : Chan) (s : State), s.chan ch = some c ∧ c.st ≠ chClosed ∧ c.st < 4 ∧ c.coming ≠ chError ∧ c.desc = none) :=
  ⟨⟨own, { pkt with p3 := 0x1000000000 }, _, _, _, fieldsOf roomy [(7, fDmaLimit, 0, 4)], _, some_get (by decide +kernel), rfl, by decide +kernel,
     rfl, by decide +kernel, by decide +kernel, by decide +kernel, by decide +kernel, by decide +kernel, by decide +kernel, by decide +kernel,
     by decide +kernel, rfl⟩,
   ⟨own, pkt, _, aChan, _, withChan aChan, _, _, some_get (by decide +kernel), rfl, okExcept (by decide +kernel), by decide +kernel,
     by decide +kernel, by decide +kernel, pair2 _⟩,
   ⟨own, pkt, _, { aChan with st := chStopped }, withChan { aChan with st := chStopped }, _, some_get (by decide +kernel), rfl, okExcept
     (by decide +kernel), by decide +kernel, by decide +kernel, by decide +kernel, by decide +kernel⟩,
   ⟨own, pkt, _, { aChan with st := chSleeping }, withChan { aChan with st := chSleeping }, _, some_get (by decide +kernel), rfl, okExcept
     (by decide +kernel), by decide +kernel, by decide +kernel⟩,
   ⟨own, pkt, aChan, withChan aChan, _, some_get (by decide +kernel), okExcept (by decide +kernel)⟩,
   ⟨0, aDesc, _, _, withChan aChan, _, some_get (by decide +kernel), by decide +kernel, rfl, rfl, by decide +kernel, by decide +kernel,
     by decide +kernel, by decide +kernel, by decide +kernel⟩,
   ⟨0, aStaged, _, _, withChan aChan, _, some_get (by decide +kernel), by decide +kernel, rfl, rfl, by decide +kernel, by decide +kernel,
     by decide +kernel, by decide +kernel, by decide +kernel, by decide +kernel⟩,
   ⟨0, [], _, _, withChan { aChan with desc := some (descOf aDesc) }, _, _, _, rfl, rfl, some_get (by decide +kernel), some_get
     (by decide +kernel), by decide +kernel, by decide +kernel, by decide +kernel, by decide +kernel, by decide +kernel, pairR
     (by decide +kernel), by decide +kernel⟩,
   ⟨0, [], 1, _, _, withChan { aChan with desc := some { descOf aDesc with link := 1 } }, _, _, _, rfl, rfl, some_get (by decide +kernel),
     some_get (by decide +kernel), by decide +kernel, by decide +kernel, by decide +kernel, by decide +kernel, by decide +kernel, pairR
     (by decide +kernel), by decide +kernel, by decide +kernel⟩,
   ⟨0, _, withChan { aChan with st := chParked, parkLeft := 0 }, some_get (by decide +kernel), by decide +kernel, by decide +kernel,
     by decide +kernel⟩,
   ⟨0, _, withChan aChan, some_get (by decide +kernel), by decide +kernel, by decide +kernel, by decide +kernel, by decide +kernel⟩⟩

theorem test_witness_StackRowsComplete :
    (∃ (k : Nat) (g : Nat) (s : State) (u : State) (d : List Byte), k < 12 ∧ g < stackGranules ∧ s.pcOff k (granPc g) = false ∧ s.refreshed k g =
      true ∧ s.readLine (dramLine k g) = (u, .good d)) ∧
    (∃ (k : Nat) (pc : Nat) (n : Nat) (recent : List Nat) (w : U64) (s : State) (v : State) (u : State), pcExists k pc = true ∧ (s.pc k pc).st = 0
      ∧ recent = (s.pc k pc).alerts.filter (fun n => decide (s.str.count < n + 64)) ++ [s.str.count] ∧ s.freeWord = (v, w) ∧ u =
      ({ v.modPc k pc (Pc.replay n) with dram.caReplay := cntAdd v.dram.caReplay 1, dram.act := cntAdd v.dram.act (w.toNat % (n + 1)) }.logE
      0x0607 none (k * 256 + pc) n).diverge 2) ∧
    (∃ (k : Nat) (pc : Nat) (s : State), pcExists k pc = true ∧ (s.pc k pc).st = 2 ∧ (s.pc k pc).training = 0) ∧
    (∃ (s : State), s.dram.lastPass + s.dev fTrainPeriod ≤ s.str.count) ∧
    (∃ (k : Nat) (pc : Nat) (s : State), pcExists k pc = true ∧ (s.pc k pc).st = 0 ∧ s.dev fSrIdle ≠ 0 ∧ s.noGrant k = true ∧ (s.pc k pc).queue =
      [] ∧ (s.pc k pc).wbuf = [] ∧ (s.pc k pc).last + s.dev fSrIdle ≤ s.str.count ∧ s.dram.granted.getD k 0 + s.dev fSrIdle ≤ s.str.count) ∧
    (∃ (k : Nat) (pc : Nat) (s : State), pcExists k pc = true ∧ (s.pc k pc).st = 1 ∧ (s.stackDemand k || !(s.pc k pc).queue.isEmpty || !(s.pc k
      pc).wbuf.isEmpty) = true) ∧
    (∃ (bank : Nat) (n : Nat) (s : State) (u : State), s.ras.sparing.find? (fun x => x.1 == bank) = some (bank, n) ∧ u = s.over ((s.syn.map
      Prod.fst).filter (fun l => !isDram l && csBank (lineIndex l) == bank)) State.copySpare ∧ s.liveOps = [] ∧ u.liveOps = []) :=
  ⟨⟨0, 0, base, _, zeros 64, by decide +kernel, by decide +kernel, by decide +kernel, by decide +kernel, pairR (by decide +kernel)⟩,
   ⟨0, 0, 0, _, _, base, _, _, by decide +kernel, by decide +kernel, rfl, pair2 _, rfl⟩,
   ⟨0, 0, withPc 2, by decide +kernel, by decide +kernel, by decide +kernel⟩,
   ⟨{ base with str.count := 2 ^ 40 }, by decide +kernel⟩,
   ⟨0, 0, withPc 0, by decide +kernel, by decide +kernel, by decide +kernel, by decide +kernel, by decide +kernel, by decide +kernel,
     by decide +kernel, by decide +kernel⟩,
   ⟨0, 0, { withPc 1 with dram.pcs := [(0, { Pc.reset 0 with st := 1, wbuf := [(0, 0)] })] }, by decide +kernel, by decide +kernel,
     by decide +kernel⟩,
   ⟨0, 1, { base with ras.sparing := [(0, 1)] }, _, by decide +kernel, rfl, by decide +kernel, by decide +kernel⟩⟩

theorem test_witness_FlashRowsComplete :
    (∃ (a : Nat) (r : FRead) (s : State), s.fl.reads.get? a = some r ∧ r.reconFailed = false ∧ r.recon = false ∧ (r.patrol || s.identOk a r.key) =
      true) ∧
    (∃ (a : Nat) (r : FRead) (s : State) (u : State), s.fl.reads.get? a = some r ∧ r.reconFailed = false ∧ r.recon = false ∧ u = (((((s.setBad a
      true).diverge 3).over (peerChannels a) State.takeIssue).charge (r.key / 2 ^ 36) 7 (faEngine a) (if r.patrol then 0 else 504)).suspends a 7)) ∧
    (∃ (a : Nat) (r : FRead) (s : State), s.fl.reads.get? a = some r ∧ r.soft = true ∧ (r.patrol || s.identOk a r.key) = true) ∧
    (∃ (a : Nat) (r : FRead) (s : State), s.fl.reads.get? a = some r ∧ r.soft = true ∧ r.reconFailed = false) ∧
    (∃ (die : Nat) (mode : Nat) (u : FUnit) (s : State) (t : State), s.takeUnit die mode = some (t, u)) ∧
    (∃ (g : Nat) (b : Nat) (s : State), (s.block g b).st = 3) ∧
    (∃ (die : Nat) (mode : Nat) (u : FUnit) (s : State), s.openUnit die mode = some u ∧ u.slots ≠ [] ∧ u.opened + s.dev fPadStrides ≤ s.str.count) ∧
    (∃ (die : Nat) (mode : Nat) (n : Nat) (e : Nat) (g : Nat) (b : Nat) (p : FlashPop) (s : State), s.pop = some p ∧ die < 4 ∧ mode < 2 ∧ sumOf
      ((s.groupsOf die).map (s.freeCount p mode)) < 2 * (s.groupsOf die).length ∧ leastBy (fun x => (x.1, x.2.1)) (s.written p die mode) = some
      (n, e, g, b)) ∧
    (∃ (die : Nat) (mode : Nat) (n : Nat) (e : Nat) (g : Nat) (b : Nat) (p : FlashPop) (mine : FMap FBlock) (s : State), s.pop = some p ∧ die < 4
      ∧ mode < 2 ∧ mine = s.fl.blocks.filter (fun x => x.1 / 65536 / 16 == die && s.blockMode p (x.1 % 65536) == mode && x.2.st != 4) ∧ leastBy
      (fun x => (x.2.1, x.1)) (s.written p die mode) = some (n, e, g, b) ∧ s.dev fWearSpread * (if mode = 0 then p.ratedPslc else p.ratedNative) <
      1000 * (mine.foldl (fun m x => max m x.2.erases) 0 - e)) ∧
    (∃ (ch : Nat) (die : Nat), ch < 32 ∧ die < 16) ∧
    (∃ (a : Nat) (key : Nat) (s : State), s.dev fFlScrubH ≠ 0 ∧ s.fl.slots.has a = true ∧ s.inWriteBuffer a = false ∧ s.fl.reads.has a = false ∧
      s.slotOwner a = some (false, key)) :=
  ⟨⟨0, _, withRead aRead, some_get (by decide +kernel), by decide +kernel, by decide +kernel, by decide +kernel⟩,
   ⟨0, _, withRead aRead, _, some_get (by decide +kernel), by decide +kernel, by decide +kernel, rfl⟩,
   ⟨0, _, withRead { aRead with soft := true }, some_get (by decide +kernel), by decide +kernel, by decide +kernel⟩,
   ⟨0, _, withRead { aRead with soft := true }, some_get (by decide +kernel), by decide +kernel, by decide +kernel⟩,
   ⟨0, 0, _, { flashy with fl.units := [(0, [aUnit true])] }, _, some2 (by decide +kernel)⟩,
   ⟨0, 0, { flashy with fl.blocks := [(0, { st := 3, erases := 0, pages := 0 })] }, by decide +kernel⟩,
   ⟨0, 0, _, { flashy with fl.units := [(0, [aUnit false])] }, some_get (by decide +kernel), by decide +kernel, by decide +kernel⟩,
   ⟨0, 0, 0, 0, 0, 0, _, flashy, some_get (by decide +kernel), by decide +kernel, by decide +kernel, by decide +kernel, by decide +kernel⟩,
   ⟨0, 0, 0, 0, 0, 0, _, _, flashy, some_get (by decide +kernel), by decide +kernel, by decide +kernel, rfl, by decide +kernel, by decide +kernel⟩,
   ⟨0, 0, by decide +kernel, by decide +kernel⟩,
   ⟨0, plateKey 7 0, { flashy with fl.slots := [(0, aSlot)], ti.map := [(plateKey 7 0, { aPlate with tier := 2 })] }, by decide +kernel,
     by decide +kernel, by decide +kernel, by decide +kernel, by decide +kernel⟩⟩

theorem test_witness_IntegrityRowsComplete :
    (∃ (o : Origin) (p : Pkt) (k : Nat) (first : Nat) (n : Nat) (s : State) (t : State), s.takes cScrub o p = some t ∧ t.mayStart cScrub o p =
      true ∧ fld p.p0.toNat 0 2 = 0 ∧ k = fld p.p0.toNat 4 4 ∧ k < 12 ∧ first = p.p1.toNat ∧ n = p.p2.toNat ∧ 1 ≤ n ∧ n ≤ 2 ^ 32 ∧ p.p3.toNat % 64
      = 0 ∧ first + n ≤ stackGranules) ∧
    (∃ (o : Origin) (p : Pkt) (kind : Nat) (part : Nat) (s : State) (t : State), s.takes cRetire o p = some t ∧ t.mayStart cRetire o p = true ∧
      kind = fld p.p0.toNat 0 3 ∧ part = p.p1.toNat ∧ p.p0.toNat.testBit 8 = false ∧ t.partOk kind part = true ∧ (kind = 1 ∨ kind = 2)) ∧
    (∃ (o : Origin) (p : Pkt) (f : Flip) (i : Nat) (s : State) (t : State), s.takes cFlipArm o p = some t ∧ flipOf p = some f ∧
      t.ras.flips.firstFree 16 = some i) ∧
    (∃ (o : Origin) (p : Pkt) (s : State) (t : State), s.takes cFlipDisarm o p = some t) ∧
    (∃ (o : Origin) (p : Pkt) (es : List LogEnt) (n : Nat) (s : State) (t : State), s.takes cLogRead o p = some t ∧ p.p0.toNat % 32 = 0 ∧
      t.ownerOrigin o = true ∧ n = roomFor o p.p1.toNat / 32 ∧ es = t.ras.log.filter (fun e => lseqFrom (fld p.p2.toNat 0 32) e.lseq)) ∧
    (∃ (o : Origin) (p : Pkt) (q : Nat) (kept : List LogEnt) (gone : List (Nat × Option Nat)) (s : State) (t : State), s.takes cLogRelease o p =
      some t ∧ q = fld p.p0.toNat 0 32 ∧ kept = t.ras.log.filter (fun e => lseqFrom q e.lseq) ∧ gone = (t.ras.log.filter (fun e => !lseqFrom q
      e.lseq)).map (fun e => (e.lseq, e.slot))) ∧
    (∃ (core : Nat) (n : Nat) (s : State) (u : State) (v : State) (xs : List Nat), core < 16 ∧ (s.core core).out = false ∧ (s.core core).halted =
      false ∧ s.preempt core = (u, n) ∧ v = (u.logE 0x0704 none core n).diverge 5 ∧ xs = (s.core core).expiries.filter (fun x => decide
      (v.str.count < x + 2000000)) ++ [v.str.count] ∧ xs.length < 3 ∧
      { v with ras.cores := v.ras.cores.set core { s.core core with expiries := xs, out := false } }.coresGone = false) ∧
    (∃ (core : Nat) (n : Nat) (i : Nat) (b : HeldBlock) (s : State) (u : State) (v : State) (w : State) (xs : List Nat), core < 16 ∧ (s.core
      core).out = false ∧ (s.core core).halted = false ∧ s.preempt core = (u, n) ∧ v = (u.logE 0x0704 none core n).diverge 5 ∧ xs = (s.core
      core).expiries.filter (fun x => decide (v.str.count < x + 2000000)) ++ [v.str.count] ∧ xs.length < 3 ∧ w =
      { v with ras.cores := v.ras.cores.set core { s.core core with expiries := xs, out := false }, cfg.heldBlocks := v.cfg.heldBlocks.eraseIdx i, q.headAfter := b.head }
      ∧ v.cfg.heldBlocks[i]? = some b ∧ (w.reply b.o (mkReply w b.o (if b.plan then 0x0811 else 0x0810) b.p stAborted 0 0 0) []).coresGone =
      false) :=
  ⟨⟨own, { lpkt with p2 := 0x100 }, _, _, _, base, _, some_get (by decide +kernel), by decide +kernel, by decide +kernel, rfl, by decide +kernel,
     rfl, rfl, by decide +kernel, by decide +kernel, by decide +kernel, by decide +kernel⟩,
   ⟨own, { lpkt with p0 := 1 }, _, _, base, _, some_get (by decide +kernel), by decide +kernel, rfl, rfl, by decide +kernel, by decide +kernel,
     by decide +kernel⟩,
   ⟨own, { pkt with p2 := 0xFFFFFFFFFFFF0000 }, _, _, base, _, some_get (by decide +kernel), some_get (by decide +kernel), some_get
     (by decide +kernel)⟩,
   ⟨own, pkt, base, _, some_get (by decide +kernel)⟩,
   ⟨own, { pkt with p1 := 64 }, _, _, base, _, some_get (by decide +kernel), by decide +kernel, by decide +kernel, rfl, rfl⟩,
   ⟨own, pkt, _, _, _, base, _, some_get (by decide +kernel), rfl, rfl, rfl⟩,
   ⟨0, 0, base, _, _, _, by decide +kernel, by decide +kernel, by decide +kernel, pairR (by decide +kernel), rfl, rfl, by decide +kernel,
     by decide +kernel⟩,
   ⟨0, 0, 0, aHeld, { base with cfg.heldBlocks := [aHeld] }, _, _, _, _, by decide +kernel, by decide +kernel, by decide +kernel, pairR
     (by decide +kernel), rfl, rfl, by decide +kernel, rfl, by decide +kernel, by decide +kernel⟩⟩

theorem test_witness_SlotMessagesComplete :
    (∃ (n : Nat) (slot : Nat) (m : Msg) (q : Msg) (s : State) (u : State), q = { m with mop := 0x01 } ∧ s.delivered n q = some u ∧ u.actsOn q =
      some slot) ∧
    (∃ (n : Nat) (slot : Nat) (m : Msg) (q : Msg) (s : State) (u : State), q = { m with mop := 0x02 } ∧ s.delivered n q = some u ∧ u.actsOn q =
      some slot) ∧
    (∃ (n : Nat) (slot : Nat) (m : Msg) (q : Msg) (s : State) (u : State), q = { m with mop := 0x03 } ∧ s.delivered n q = some u ∧ u.actsOn q =
      some slot) ∧
    (∃ (n : Nat) (slot : Nat) (m : Msg) (q : Msg) (s : State) (u : State), q = { m with mop := 0x04 } ∧ s.delivered n q = some u ∧ u.actsOn q =
      some slot) ∧
    (∃ (n : Nat) (slot : Nat) (m : Msg) (q : Msg) (s : State) (u : State), q = { m with mop := 0x05 } ∧ s.delivered n q = some u ∧ u.actsOn q =
      some slot) ∧
    (∃ (n : Nat) (slot : Nat) (m : Msg) (q : Msg) (s : State) (u : State), q = { m with mop := 0x06 } ∧ s.delivered n q = some u ∧ u.actsOn q =
      some slot) ∧
    (∃ (n : Nat) (slot : Nat) (m : Msg) (q : Msg) (s : State) (u : State), q = { m with mop := 0x07 } ∧ s.delivered n q = some u ∧ u.actsOn q =
      some slot) ∧
    (∃ (n : Nat) (slot : Nat) (m : Msg) (q : Msg) (s : State) (u : State), q = { m with mop := 0x08 } ∧ s.delivered n q = some u ∧ u.actsOn q =
      some slot) ∧
    (∃ (n : Nat) (slot : Nat) (m : Msg) (q : Msg) (s : State) (u : State), q = { m with mop := 0x09 } ∧ s.delivered n q = some u ∧ u.actsOn q =
      some slot) ∧
    (∃ (n : Nat) (slot : Nat) (m : Msg) (q : Msg) (s : State) (u : State), q = { m with mop := 0x18 } ∧ s.delivered n q = some u ∧ u.actsOn q =
      some slot) ∧
    (∃ (n : Nat) (slot : Nat) (m : Msg) (q : Msg) (s : State) (u : State), q = { m with mop := 0x20 } ∧ s.delivered n q = some u ∧ u.actsOn q =
      some slot) ∧
    (∃ (n : Nat) (slot : Nat) (m : Msg) (q : Msg) (s : State) (u : State), q = { m with mop := 0x21 } ∧ s.delivered n q = some u ∧ u.actsOn q =
      some slot) ∧
    (∃ (n : Nat) (slot : Nat) (m : Msg) (q : Msg) (s : State) (u : State), q = { m with mop := 0x22 } ∧ s.delivered n q = some u ∧ u.actsOn q =
      some slot) ∧
    (∃ (n : Nat) (slot : Nat) (m : Msg) (q : Msg) (s : State) (u : State), q = { m with mop := 0x2C } ∧ s.delivered n q = some u ∧ u.actsOn q =
      some slot) ∧
    (∃ (n : Nat) (slot : Nat) (m : Msg) (q : Msg) (s : State) (u : State), q = { m with mop := 0x2D } ∧ s.delivered n q = some u ∧ u.actsOn q =
      some slot) ∧
    (∃ (n : Nat) (m : Msg) (q : Msg) (s : State), q = { m with mop := 0x01 } ∧ (s.link n).st = 5 ∧ s.admits n q = false) :=
  ⟨⟨0, 7, aMsg, _, herded, _, rfl, some_get (by decide +kernel), by decide +kernel⟩,
   ⟨0, 7, aMsg, _, herded, _, rfl, some_get (by decide +kernel), by decide +kernel⟩,
   ⟨0, 7, aMsg, _, herded, _, rfl, some_get (by decide +kernel), by decide +kernel⟩,
   ⟨0, 7, aMsg, _, herded, _, rfl, some_get (by decide +kernel), by decide +kernel⟩,
   ⟨0, 7, aMsg, _, herded, _, rfl, some_get (by decide +kernel), by decide +kernel⟩,
   ⟨0, 7, aMsg, _, herded, _, rfl, some_get (by decide +kernel), by decide +kernel⟩,
   ⟨0, 7, aMsg, _, herded, _, rfl, some_get (by decide +kernel), by decide +kernel⟩,
   ⟨0, 7, aMsg, _, herded, _, rfl, some_get (by decide +kernel), by decide +kernel⟩,
   ⟨0, 7, aMsg, _, herded, _, rfl, some_get (by decide +kernel), by decide +kernel⟩,
   ⟨0, 7, aMsg, _, herded, _, rfl, some_get (by decide +kernel), by decide +kernel⟩,
   ⟨0, 7, aMsg, _, herded, _, rfl, some_get (by decide +kernel), by decide +kernel⟩,
   ⟨0, 7, aMsg, _, herded, _, rfl, some_get (by decide +kernel), by decide +kernel⟩,
   ⟨0, 7, aMsg, _, herded, _, rfl, some_get (by decide +kernel), by decide +kernel⟩,
   ⟨0, 7, aMsg, _, herded, _, rfl, some_get (by decide +kernel), by decide +kernel⟩,
   ⟨0, 7, aMsg, _, herded, _, rfl, some_get (by decide +kernel), by decide +kernel⟩,
   ⟨0, aMsg, _, { herded with str.grant := [] }, rfl, by decide +kernel, by decide +kernel⟩⟩

theorem test_witness_MemberMessagesComplete :
    (∃ (n : Nat) (m : Msg) (q : Msg) (s : State) (u : State), q = { m with mop := 0x10 } ∧ s.delivered n q = some u) ∧
    (∃ (n : Nat) (m : Msg) (q : Msg) (s : State) (u : State), q = { m with mop := 0x11 } ∧ s.delivered n q = some u) ∧
    (∃ (n : Nat) (m : Msg) (q : Msg) (s : State) (u : State), q = { m with mop := 0x12 } ∧ s.delivered n q = some u) ∧
    (∃ (n : Nat) (m : Msg) (q : Msg) (s : State) (u : State), q = { m with mop := 0x23 } ∧ s.delivered n q = some u) ∧
    (∃ (n : Nat) (m : Msg) (q : Msg) (s : State) (u : State), q = { m with mop := 0x24 } ∧ s.delivered n q = some u) ∧
    (∃ (n : Nat) (m : Msg) (q : Msg) (s : State) (u : State), q = { m with mop := 0x26 } ∧ s.delivered n q = some u) ∧
    (∃ (n : Nat) (m : Msg) (q : Msg) (s : State) (u : State), q = { m with mop := 0x27 } ∧ s.delivered n q = some u) ∧
    (∃ (n : Nat) (m : Msg) (q : Msg) (s : State) (u : State), q = { m with mop := 0x28 } ∧ s.delivered n q = some u) ∧
    (∃ (n : Nat) (m : Msg) (q : Msg) (s : State) (u : State), q = { m with mop := 0x29 } ∧ s.delivered n q = some u) ∧
    (∃ (n : Nat) (m : Msg) (q : Msg) (s : State) (u : State), q = { m with mop := 0x2A } ∧ s.delivered n q = some u) ∧
    (∃ (n : Nat) (m : Msg) (q : Msg) (s : State) (u : State), q = { m with mop := 0x2B } ∧ s.delivered n q = some u) ∧
    (∃ (n : Nat) (m : Msg) (q : Msg) (s : State) (u : State), q = { m with mop := 0x25 } ∧ s.delivered n q = some u) ∧
    (∃ (n : Nat) (m : Msg) (s : State), (s.link n).st = 5 ∧ knownMop m.mop = false ∧ s.admits n m = true) :=
  ⟨⟨0, aMsg, _, herded, _, rfl, some_get (by decide +kernel)⟩,
   ⟨0, aMsg, _, herded, _, rfl, some_get (by decide +kernel)⟩,
   ⟨0, aMsg, _, herded, _, rfl, some_get (by decide +kernel)⟩,
   ⟨0, aMsg, _, herded, _, rfl, some_get (by decide +kernel)⟩,
   ⟨0, aMsg, _, herded, _, rfl, some_get (by decide +kernel)⟩,
   ⟨0, aMsg, _, herded, _, rfl, some_get (by decide +kernel)⟩,
   ⟨0, aMsg, _, herded, _, rfl, some_get (by decide +kernel)⟩,
   ⟨0, aMsg, _, herded, _, rfl, some_get (by decide +kernel)⟩,
   ⟨0, aMsg, _, herded, _, rfl, some_get (by decide +kernel)⟩,
   ⟨0, aMsg, _, herded, _, rfl, some_get (by decide +kernel)⟩,
   ⟨0, aMsg, _, herded, _, rfl, some_get (by decide +kernel)⟩,
   ⟨0, aMsg, _, herded, _, rfl, some_get (by decide +kernel)⟩,
   ⟨0, { aMsg with mop := 0x3F }, herded, by decide +kernel, by decide +kernel, by decide +kernel⟩⟩

theorem test_witness_LinkRowsComplete :
    (∃ (n : Nat) (d : List Byte) (at' : Int) (b : SyncBlock) (s : State), syncOf d at' = some b ∧ ((s.link n).st = 4 ∨ (s.link n).st = 5) ∧
      s.inHerd = false ∧ b.idValid = false) ∧
    (∃ (d : List Byte) (at' : Int), syncOf d at' = none) ∧
    (∃ (n : Nat) (f : Flit) (s : State) (u : State), (s.link n).st = 5 ∧ flitType f = 1 ∧ f.uncorr = 0 ∧ flitGood f = true ∧ u =
      ({ s with herd.fecUncorr := cntAdd s.herd.fecUncorr 0 } : State).modLink n (fun k =>
      ({ k with replay := ackThrough (flitAck f) k.replay }).credit (flitCredit f)) ∧ flitSeq f = (u.link n).rxSeq) ∧
    (∃ (n : Nat) (s : State), (s.link n).st = 5) ∧
    (∃ (n : Nat) (k : Nat) (s : State), linkMax (s.link n).st = some k ∧ (s.link n).entered + k ≤ s.str.count) ∧
    (∃ (n : Nat) (s : State), n < 32 ∧ 1 ≤ (s.link n).st ∧ (s.link n).st ≤ 3) ∧
    (∃ (n : Nat) (x : Exchange) (s : State), n < 32 ∧ (s.link n).st = 4 ∧ x.herdId = s.herd.herdId ∧ x.proto = s.proto ∧ s.wrongSerial x = false) ∧
    (∃ (n : Nat) (s : State), (s.link n).st = 5) ∧
    (∃ (n : Nat) (s : State), (s.link n).st ≠ 0) ∧
    (∃ (o : Origin) (p : Pkt) (n : Nat) (s : State) (t : State), s.takes cLinkCtrl o p = some t ∧ n = fld p.p0.toNat 0 5 ∧ fld p.p0.toNat 8 2 = 3) ∧
    (∃ (o : Origin) (p : Pkt) (n : Nat) (s : State) (t : State), s.takes cLinkCtrl o p = some t ∧ n = fld p.p0.toNat 0 5 ∧ fld p.p0.toNat 8 2 = 0
      ∧ (t.link n).st = 5 ∧ (t.link n).req = 0) :=
  ⟨⟨0, syncBytes aSync, 0, _, linked 5, some_get (by decide +kernel), by decide +kernel, by decide +kernel, by decide +kernel⟩,
   ⟨[], 0, by decide +kernel⟩,
   ⟨0, aFlit ((linked 5).link 0).rxSeq, linked 5, _, by decide +kernel, by decide +kernel, by decide +kernel, by decide +kernel, rfl,
     by decide +kernel⟩,
   ⟨0, linked 5, by decide +kernel⟩,
   ⟨0, 2000, linked 1, by decide +kernel, by decide +kernel⟩,
   ⟨0, linked 2, by decide +kernel, by decide +kernel, by decide +kernel⟩,
   ⟨0, anExchange, linked 4, by decide +kernel, by decide +kernel, by decide +kernel, by decide +kernel, by decide +kernel⟩,
   ⟨0, linked 5, by decide +kernel⟩,
   ⟨0, linked 5, by decide +kernel⟩,
   ⟨.mgmt 0 false, { pkt with p0 := 0x300 }, _, linked 5, _, some_get (by decide +kernel), rfl, by decide +kernel⟩,
   ⟨.mgmt 0 false, pkt, _, linked 5, _, some_get (by decide +kernel), rfl, by decide +kernel, by decide +kernel, by decide +kernel⟩⟩

theorem test_witness_HerdCommandsComplete :
    (∃ (o : Origin) (p : Pkt) (s : State) (t : State), s.takes cHerdForm o p = some t ∧ t.mayStart cHerdForm o p = true ∧ p.p0 ≠ 0 ∧ t.inHerd =
      false ∧ t.forming = false) ∧
    (∃ (o : Origin) (p : Pkt) (s : State) (t : State), s.takes cHerdJoin o p = some t ∧ t.mayStart cHerdJoin o p = true ∧ p.p0 ≠ 0 ∧ t.inHerd =
      false ∧ t.isActive = false ∧ t.forming = false) ∧
    (∃ (o : Origin) (p : Pkt) (d : Nat) (s : State) (t : State), s.takes cHerdAdmit o p = some t ∧ t.mayStart cHerdAdmit o p = true ∧ t.leadCheck
      = none ∧ d = fld p.p0.toNat 0 16 ∧ t.member d = false ∧ t.liveOps = []) ∧
    (∃ (o : Origin) (p : Pkt) (d : Nat) (s : State) (t : State), s.takes cHerdRemove o p = some t ∧ t.mayStart cHerdRemove o p = true ∧
      t.leadCheck = none ∧ d = fld p.p0.toNat 0 16 ∧ t.member d = true) ∧
    (∃ (o : Origin) (p : Pkt) (s : State) (t : State), s.takes cHerdVoters o p = some t ∧ t.mayStart cHerdVoters o p = true ∧ p.p2.getLsbD 8 =
      false ∧ t.leadCheck = none ∧ [1, 3, 5, 7].contains (voterList p).length = true ∧ (voterList p).eraseDups.length = (voterList p).length ∧ (∀
      d ∈ voterList p, t.herd.roster.any (fun r => r.device == d && t.isNormal r) = true)) ∧
    (∃ (o : Origin) (p : Pkt) (r : HdomRec) (s : State) (t : State), s.takes cHerdDomainSet o p = some t ∧ t.mayStart cHerdDomainSet o p = true ∧
      t.leadCheck = none ∧ r = hdomRecOf (sub p.data 0 160) ∧ (managed o || p.p0.toNat % 64 == 0) = true ∧ hdomOk r = true ∧ (∀ x < r.w, ∀ d, hAt
      r x = some d → t.member d = true ∧ t.inProbation d = false) ∧ r.spareValid = false ∧ t.liveOps = []) ∧
    (∃ (o : Origin) (p : Pkt) (first : Nat) (n : Nat) (g : Nat) (due : Nat) (es : List (Nat × Nat)) (s : State) (t : State) (u : State), s.takes
      cRouteWrite o p = some t ∧ first = fld p.p1.toNat 0 16 ∧ n = fld p.p2.toNat 0 17 ∧ es = (List.range n).map (fun i => (first + i, fieldAt
      p.data (4 * i) 4)) ∧ 1 ≤ n ∧ first + n ≤ 65536 ∧ (∀ e ∈ es, e.2.testBit 15 = true → 1 ≤ fld e.2 10 3 ∧ fld e.2 10 3 ≤ 4) ∧ t.join (es.map
      (fun (e : Nat × Nat) => .route e.1 (BitVec.ofNat 32 (e.2 % 2 ^ 16 &&& 0xBFFF)))) = (u, g, due)) ∧
    (∃ (o : Origin) (p : Pkt) (l : List (Nat × List Byte)) (n : Nat) (s : State) (t : State), s.takes cHerdRead o p = some t ∧ fld p.p2.toNat 0 2
      ≠ 3 ∧ l = (if t.inHerd then t.herdList (fld p.p2.toNat 0 2) else []).filter (fun x => decide (fld p.p2.toNat 16 24 ≤ x.1)) ∧ n = roomFor o
      p.p1.toNat / (if fld p.p2.toNat 0 2 = 1 then 160 else 32)) ∧
    (∃ (o : Origin) (p : Pkt) (h : Nat) (f : Nat) (pf : Nat) (slot : Nat) (r : HdomRec) (s : State) (t : State), s.takes cHerdStandby o p = some t
      ∧ t.mayStart cHerdStandby o p = true ∧ h = fld p.p0.toNat 0 24 ∧ f = fld p.p1.toNat 0 7 ∧ pf = fld p.p1.toNat 16 7 ∧ p.p1.getLsbD 32 = false
      ∧ t.inHerd = true ∧ t.herd.domains.find? (fun r => r.hdom == h) = some r ∧ t.slotOfHdom h = some slot ∧ t.ti.extents.any (fun e => e.2.ld ==
      f && e.2.slot == slot && e.2.hdmDb && e.2.st != 0) = false ∧ r.kind = 3 ∧ hAt r 0 = some t.herd.device) :=
  ⟨⟨.mgmt 0 false, { lpkt with p0 := 5 }, base, _, some_get (by decide +kernel), by decide +kernel, by decide +kernel, by decide +kernel,
     by decide +kernel⟩,
   ⟨.mgmt 0 false, { lpkt with p0 := 5 }, { base with pmu.stage := 4 }, _, some_get (by decide +kernel), by decide +kernel, by decide +kernel,
     by decide +kernel, by decide +kernel, by decide +kernel⟩,
   ⟨.mgmt 0 false, { lpkt with p0 := 4 }, _, herded, _, some_get (by decide +kernel), by decide +kernel, by decide +kernel, rfl,
     by decide +kernel, by decide +kernel⟩,
   ⟨.mgmt 0 false, { lpkt with p0 := 2 }, _, herded, _, some_get (by decide +kernel), by decide +kernel, by decide +kernel, rfl,
     by decide +kernel⟩,
   ⟨.mgmt 0 false, { lpkt with p0 := 2, p2 := 1 }, herded, _, some_get (by decide +kernel), by decide +kernel, by decide +kernel,
     by decide +kernel, by decide +kernel, by decide +kernel, by decide +kernel⟩,
   ⟨.mgmt 0 false, { lpkt with data := aRecord 0 1 1 0 }, _, herded, _, some_get (by decide +kernel), by decide +kernel, by decide +kernel, rfl,
     by decide +kernel, by decide +kernel, allSome (by decide +kernel), by decide +kernel, by decide +kernel⟩,
   ⟨.mgmt 0 false, { pkt with p1 := 2, p2 := 1, data := le 4 0x8400 }, _, _, _, _, _, base, _, _, some_get (by decide +kernel), rfl, rfl, rfl,
     by decide +kernel, by decide +kernel, by decide +kernel, pair3 _⟩,
   ⟨.mgmt 0 false, { pkt with p1 := 64 }, _, _, herded, _, some_get (by decide +kernel), by decide +kernel, rfl, rfl⟩,
   ⟨.mgmt 0 false, { lpkt with p0 := 7, p1 := 0 }, _, _, _, 7, _, mirrored, _, some_get (by decide +kernel), by decide +kernel, rfl, rfl, rfl,
     by decide +kernel, by decide +kernel, some_get (by decide +kernel), by decide +kernel, by decide +kernel, by decide +kernel,
     by decide +kernel⟩⟩

theorem test_witness_HerdTimersComplete :
    (∃ (d : Nat) (n : Nat) (s : State), s.herd.suspects.get? d = some n ∧ n + 200 ≤ s.str.count) ∧
    (∃ (d : Nat) (n : Nat) (s : State), s.herd.lastSeen.get? d = some n ∧ s.inHerd = true ∧ s.member d = true ∧ n + s.dev fLossStrides ≤
      s.str.count ∧ s.isLead = true) ∧
    (∃ (d : Nat) (n : Nat) (l : Nat) (s : State), s.herd.lastSeen.get? d = some n ∧ s.inHerd = true ∧ s.member d = true ∧ n + s.dev fLossStrides ≤
      s.str.count ∧ s.isLead = false ∧ s.lead = some l) ∧
    (∃ (s : State), s.isVoter = true) ∧
    (∃ (d : Nat) (n : Nat) (s : State), s.herd.probation.get? d = some n ∧ n + s.dev fProbationLimit ≤ s.str.count) :=
  ⟨⟨2, _, herded, some_get (by decide +kernel), by decide +kernel⟩,
   ⟨2, _, herded, some_get (by decide +kernel), by decide +kernel, by decide +kernel, by decide +kernel, by decide +kernel⟩,
   ⟨2, _, _, { herded with herd.roster := [aMember 1 false, aMember 2 true] }, some_get (by decide +kernel), by decide +kernel, by decide +kernel,
     by decide +kernel, by decide +kernel, some_get (by decide +kernel)⟩,
   ⟨herded, by decide +kernel⟩,
   ⟨3, _, herded, some_get (by decide +kernel), by decide +kernel⟩⟩

theorem test_witness_SelfTestRowsComplete :
    (∃ (o : Origin) (p : Pkt) (kind : Nat) (unit : Nat) (s : State) (t : State), s.takes cSelftestLogic o p = some t ∧ t.mayStart cSelftestLogic o
      p = true ∧ kind = fld p.p0.toNat 0 1 ∧ unit = fld p.p0.toNat 8 6 ∧ (kind = 1 → unit < 4) ∧ t.dressageNamed = false ∧
      t.tst.laneTests.contains (testKey kind unit) = false) ∧
    (∃ (o : Origin) (p : Pkt) (die : Nat) (mode : Nat) (bank : Nat) (s : State) (t : State), s.takes cSelftestStore o p = some t ∧ t.mayStart
      cSelftestStore o p = true ∧ die = fld p.p0.toNat 0 2 ∧ mode = fld p.p0.toNat 8 1 ∧ bank = fld p.p1.toNat 0 8 ∧ (mode = 1 → bank < 64) ∧
      t.dressageNamed = false ∧ t.liveOps = []) ∧
    (∃ (o : Origin) (p : Pkt) (k : Nat) (mask : Nat) (s : State) (t : State), s.takes cSelftestStack o p = some t ∧ t.mayStart cSelftestStack o p
      = true ∧ k = fld p.p0.toNat 0 4 ∧ mask = fld p.p1.toNat 0 32 ∧ k < 12 ∧ p.p0.getLsbD 8 = false ∧ t.dressageNamed = false ∧ t.liveOps = []) ∧
    (∃ (o : Origin) (p : Pkt) (s : State) (t : State), s.takes cDressageLoad o p = some t ∧ t.mayStart cDressageLoad o p = true ∧ p.p0.toNat % 64
      = 0 ∧ t.dressageOk p.data p.p1.toNat = true ∧ t.tst.tables.has (fieldAt p.data 4 2) = false ∧ t.loadingTables.contains (fieldAt p.data 4 2)
      = false ∧ t.tst.tables.length + t.loadingTables.length < 4) ∧
    (∃ (o : Origin) (p : Pkt) (id : Nat) (s : State) (t : State), s.takes cDressageDrop o p = some t ∧ id = fld p.p0.toNat 0 16 ∧ t.tst.tables.has
      id = true ∧ t.tst.dropping.contains id = false ∧ t.dressageUsed id = false) ∧
    (∃ (o : Origin) (p : Pkt) (s : State) (t : State), s.takes cDressageQuery o p = some t ∧ p.p0.toNat % 64 = 0) ∧
    (∃ (e : Nat) (lv : Nat) (sec : Bool) (p : Pkt) (s : State) (t : State), s.takes cDebugUnlock (.mgmt e sec) p = some t ∧ t.ownerSession (.mgmt
      e sec) = true ∧ lv = fld p.p0.toNat 0 2 ∧ lv ≠ 0 ∧ lv ≠ 3) ∧
    (∃ (o : Origin) (p : Pkt) (s : State) (t : State), s.takes cDebugLock o p = some t) :=
  ⟨⟨own, lpkt, _, _, base, _, some_get (by decide +kernel), by decide +kernel, rfl, rfl, by decide +kernel, by decide +kernel, by decide +kernel⟩,
   ⟨.qp 0 1, lpkt, _, _, _, base, _, some_get (by decide +kernel), by decide +kernel, rfl, rfl, rfl, by decide +kernel, by decide +kernel,
     by decide +kernel⟩,
   ⟨own, lpkt, _, _, base, _, some_get (by decide +kernel), by decide +kernel, rfl, rfl, by decide +kernel, by decide +kernel, by decide +kernel,
     by decide +kernel⟩,
   ⟨own, { lpkt with p1 := 72, data := aTable }, base, _, some_get (by decide +kernel), by decide +kernel, by decide +kernel, by decide +kernel,
     by decide +kernel, by decide +kernel, by decide +kernel⟩,
   ⟨own, { pkt with p0 := 1 }, _, { base with tst.tables := [(1, { period := 1, crc := 0, entries := [] })] }, _, some_get (by decide +kernel),
     rfl, by decide +kernel, by decide +kernel, by decide +kernel⟩,
   ⟨own, pkt, base, _, some_get (by decide +kernel), by decide +kernel⟩,
   ⟨0, _, true, { pkt with p0 := 2 }, secured, _, some_get (by decide +kernel), by decide +kernel, rfl, by decide +kernel, by decide +kernel⟩,
   ⟨own, pkt, base, _, some_get (by decide +kernel)⟩⟩

theorem test_witness_TestAccessRowsComplete :
    (∃ (code : Byte) (s : State), code ≠ 0x02 ∧ code ≠ 0x01 ∧ code ≠ 0x10 ∧ code ≠ 0x11 ∧ s.pmu.inReset = false) ∧
    (∃ (s : State), s.tst.level = 2) ∧
    (∃ (s : State), s.tst.level = 2) ∧
    (∃ (s : State), s.tst.level = 2) ∧
    (∃ (op : DmiOp) (s : State), s.tst.level = 0 ∧ dmiReads op = true) :=
  ⟨⟨0x3F, base, by decide +kernel, by decide +kernel, by decide +kernel, by decide +kernel, by decide +kernel⟩,
   ⟨atLevel 2, by decide +kernel⟩,
   ⟨atLevel 2, by decide +kernel⟩,
   ⟨atLevel 2, by decide +kernel⟩,
   ⟨.readSbData, base, by decide +kernel, by decide +kernel⟩⟩

theorem test_witness_DomainRowsComplete :
    (∃ (o : Origin) (p : Pkt) (x : Nat) (g : Nat) (due : Nat) (s : State) (t : State) (u : State), s.takes cDomainActivate o p = some t ∧ x =
      slotOf p ∧ t.domFree x = true ∧ 16 ≤ t.newest x fT0Part 0 ∧ t.activationClamps x = [] ∧ (∀ y ∈ t.upSlots, t.newest y fDomHdom 0 ≠ t.newest x
      fDomHdom 0) ∧ (t.modDom x (fun d => { d with activating := true })).join [.slotState x 1] = (u, g, due)) ∧
    (∃ (o : Origin) (p : Pkt) (x : Nat) (g : Nat) (due : Nat) (cs : List Change) (s : State) (t : State) (u : State), s.takes cDomainActivate o p
      = some t ∧ x = slotOf p ∧ t.domFree x = true ∧ 16 ≤ t.newest x fT0Part 0 ∧ cs = t.activationClamps x ∧ cs ≠ [] ∧ (∀ v, .field (fkey x
      fT0Part 0) v ∈ cs → 16 ≤ v) ∧ (∀ y ∈ t.upSlots, t.newest y fDomHdom 0 ≠ t.newest x fDomHdom 0) ∧ (t.modDom x (fun d =>
      { d with activating := true })).join (cs ++ [.slotState x 1]) = (u, g, due)) ∧
    (∃ (o : Origin) (p : Pkt) (g : Nat) (due : Nat) (s : State) (t : State) (u : State), s.takes cDomainUnpark o p = some t ∧ t.domSt (slotOf p) =
      3 ∧ t.join [.slotState (slotOf p) 1] = (u, g, due)) ∧
    (∃ (o : Origin) (p : Pkt) (x : Nat) (s : State) (t : State), s.takes cDomainPark o p = some t ∧ t.mayStart cDomainPark o p = true ∧ x = slotOf
      p ∧ t.domSt x = 1 ∧ t.slotOps x = 0 ∧ t.roundOpen x = false ∧ t.dma.chans = []) ∧
    (∃ (o : Origin) (p : Pkt) (x : Nat) (s : State) (t : State), s.takes cDomainErase o p = some t ∧ t.mayStart cDomainErase o p = true ∧ x =
      slotOf p ∧ (t.domSt x = 1 ∨ t.domSt x = 3) ∧ t.eraseBusy x = false ∧ t.slotLeaving x = false) ∧
    (∃ (o : Origin) (p : Pkt) (s : State) (t : State), s.takes cDomainQuery o p = some t) ∧
    (∃ (o : Origin) (p : Pkt) (x : Nat) (s : State) (t : State), s.takes cKeyLoad o p = some t ∧ x = slotOf p ∧ t.ownerSession o = true ∧
      t.domFree x = true ∧ (t.dom x).hasKey = false ∧ (t.dom x).dueKey.bind id = none ∧ p.data.length = 64 ∧ p.data.take 32 ≠ p.data.drop 32) ∧
    (∃ (o : Origin) (p : Pkt) (x : Nat) (s : State) (t : State), s.takes cKeyDestroy o p = some t ∧ x = slotOf p ∧ t.domFree x = true ∧ t.doms.has
      x = true) :=
  ⟨⟨.mgmt 0 false, { pkt with slot := 8 }, _, _, _, fieldsOf base [(8, fT0Part, 0, 16), (8, fDomHdom, 0, 9)], _, _, some_get (by decide +kernel),
     rfl, by decide +kernel, by decide +kernel, by decide +kernel, by decide +kernel, pair3 _⟩,
   ⟨.mgmt 0 false, { pkt with slot := 8 }, _, _, _, _, fieldsOf base [(8, fT0Part, 0, 16), (8, fDomHdom, 0, 9), (7, fDirShare, 0, 2040), (8,
     fDirShare, 0, 100)], _, _, some_get (by decide +kernel), rfl, by decide +kernel, by decide +kernel, rfl, by decide +kernel, fieldAll
     (by decide +kernel), by decide +kernel, pair3 _⟩,
   ⟨.mgmt 0 false, pkt, _, _, { base with doms := [(7, { liveDom with st := 3 })] }, _, _, some_get (by decide +kernel), by decide +kernel, pair3
     _⟩,
   ⟨.mgmt 0 false, lpkt, _, base, _, some_get (by decide +kernel), by decide +kernel, rfl, by decide +kernel, by decide +kernel,
     by decide +kernel, by decide +kernel⟩,
   ⟨.mgmt 0 false, lpkt, _, { base with q.qps := [] }, _, some_get (by decide +kernel), by decide +kernel, rfl, by decide +kernel,
     by decide +kernel, by decide +kernel⟩,
   ⟨.mgmt 0 false, pkt, base, _, some_get (by decide +kernel)⟩,
   ⟨.mgmt 0 true, { pkt with data := zeros 63 ++ [1] }, _, { secured with doms := [] }, _, some_get (by decide +kernel), rfl, by decide +kernel,
     by decide +kernel, by decide +kernel, by decide +kernel, by decide +kernel, by decide +kernel⟩,
   ⟨.mgmt 0 false, pkt, _, { base with doms := [(7, { liveDom with st := 0 })] }, _, some_get (by decide +kernel), rfl, by decide +kernel,
     by decide +kernel⟩⟩

theorem test_witness_FirmwareRowsComplete :
    (∃ (o : Origin) (p : Pkt) (i : Image) (s : State) (t : State), s.takes (cFwStage i) o p = some t ∧ t.mayStart (cFwStage i) o p = true ∧
      (managed o || p.p0.toNat % 64 == 0) = true ∧ t.imageCheck i = 0 ∧ t.standbyBusy = false) ∧
    (∃ (o : Origin) (p : Pkt) (i : Image) (s : State) (t : State), s.takes cFwPrepare o p = some t ∧ t.mayStart cFwPrepare o p = true ∧
      t.standbyImage = some i ∧ t.imageCheck i = 0 ∧ t.standbyBusy = false) ∧
    (∃ (o : Origin) (p : Pkt) (s : State) (t : State), s.takes cFwActivate o p = some t ∧ t.mayStart cFwActivate o p = true ∧ t.tr.standby = 3) ∧
    (∃ (o : Origin) (p : Pkt) (i : Image) (bits : BitVec 4) (s : State) (t : State), s.takes cFwCommit o p = some t ∧ t.image = some i ∧ bits =
      BitVec.ofNat 4 (fld p.p0.toNat 0 4) ∧ bits.getLsbD i.keyHash = false) ∧
    (∃ (o : Origin) (p : Pkt) (s : State) (t : State), s.takes cFwQuery o p = some t) ∧
    (∃ (h : Nat) (n : Nat) (u : State) (s : State), s.activation = some (h, n) ∧ s.tr.prepared = some s.str.count ∧ s.str.snap = false ∧ u =
      (({ s with tr.activeB := !s.tr.activeB, tr.standby := 2 } : State).emit (.bootMarker (markerBytes (!s.tr.activeB)))).restartMgmt) ∧
    (∃ (h : Nat) (n : Nat) (s : State), s.activation = some (h, n) ∧ n + 65 ≤ s.str.count ∧ s.tr.prepared ≠ some s.str.count) ∧
    (∃ (s : State), s.tr.standby = 2 ∧ s.liveBody (fun b => b == .fwPrepare) = false) ∧
    (∃ (i : Image) (s : State), (s.mgmtUp = true ∨ s.pmu.stage = 6) ∧ s.standbyBusy = false ∧ s.imageCheck i = 0) :=
  ⟨⟨.mgmt 0 false, lpkt, anImage, imaged 0, _, some_get (by decide +kernel), by decide +kernel, by decide +kernel, by decide +kernel,
     by decide +kernel⟩,
   ⟨.mgmt 0 false, lpkt, _, imaged 0, _, some_get (by decide +kernel), by decide +kernel, some_get (by decide +kernel), by decide +kernel,
     by decide +kernel⟩,
   ⟨.mgmt 0 false, lpkt, imaged 3, _, some_get (by decide +kernel), by decide +kernel, by decide +kernel⟩,
   ⟨.mgmt 0 false, pkt, _, _, imaged 0, _, some_get (by decide +kernel), some_get (by decide +kernel), rfl, by decide +kernel⟩,
   ⟨.mgmt 0 false, pkt, imaged 0, _, some_get (by decide +kernel)⟩,
   ⟨0, 0, _, { withOp (imaged 3) (anOp (.fwActivate 0) 1) with tr.prepared := some 0 }, by decide +kernel, by decide +kernel, by decide +kernel,
     rfl⟩,
   ⟨0, 0, { withOp (imaged 3) (anOp (.fwActivate 0) 1) with str.count := 65 }, by decide +kernel, by decide +kernel, by decide +kernel⟩,
   ⟨imaged 2, by decide +kernel, by decide +kernel⟩,
   ⟨anImage, imaged 0, by decide +kernel, by decide +kernel, by decide +kernel⟩⟩

theorem test_witness_BootRowsComplete :
    (∃ (n : Nat), 10000 ≤ n) ∧
    (∃ (s : State), s.pmu.inReset = true) ∧
    (∃ (a : Option Image) (b : Option Image) (u : State) (s : State), s.inStage 0 = true ∧ u =
      { s with tr.imgA := a, tr.imgB := b, tr.standby := 0 }) ∧
    (∃ (s : State), s.inStage 1 = true) ∧
    (∃ (l : List (Nat × Nat)) (s : State), s.inStage 2 = true ∧ (∀ x ∈ l, x.1 < 12 ∧ x.2 < 32)) ∧
    (∃ (r : List Byte) (u : State) (s : State), s.inStage 3 = true ∧ trayOk r = true ∧ fieldAt r 5 1 = 0 ∧ u =
      ({ s with fl.pop := s.fl.pop.map (fun p => rated p r), fl.profileBad := (s.fl.pop.map (fun p => rated p r)).any (fun p => !p.ok), pmu.herdMode := 0, pmu.subsysVendor := fieldAt r 8 2, pmu.subsysId := fieldAt r 0xA 2 }
      : State).setCaps) ∧
    (∃ (r : List Byte) (u : State) (s : State), s.inStage 3 = true ∧ trayOk r = true ∧ fieldAt r 5 1 = 1 ∧ s.herd.st = 0 ∧ u =
      ({ s with fl.pop := s.fl.pop.map (fun p => rated p r), fl.profileBad := (s.fl.pop.map (fun p => rated p r)).any (fun p => !p.ok), pmu.herdMode := 1, pmu.subsysVendor := fieldAt r 8 2, pmu.subsysId := fieldAt r 0xA 2 }
      : State).setCaps) ∧
    (∃ (l : List (BitVec 16)) (w : Nat) (u : State) (s : State), s.pmu.inReset = false ∧ s.pmu.stage ≠ 7 ∧ s.str.count % 64 = 63 ∧ u =
      { s.keepTemps l with pmu.nextLevels := some (s.sampleLevels l w), pmu.estW := w % 65536 }) :=
  ⟨⟨10000, by decide +kernel⟩,
   ⟨{ booting 0 with pmu.inReset := true }, by decide +kernel⟩,
   ⟨none, none, _, booting 0, by decide +kernel, rfl⟩,
   ⟨booting 1, by decide +kernel⟩,
   ⟨[(0, 0), (11, 31)], booting 2, by decide +kernel, by decide +kernel⟩,
   ⟨aTray 0, _, booting 3, by decide +kernel, by decide +kernel, by decide +kernel, rfl⟩,
   ⟨aTray 1, _, booting 3, by decide +kernel, by decide +kernel, by decide +kernel, by decide +kernel, rfl⟩,
   ⟨[], 0, _, { base with str.count := 63 }, by decide +kernel, by decide +kernel, by decide +kernel, rfl⟩⟩

theorem test_witness_HeadRowsComplete :
    (∃ (h : Nat) (s : State), s.pmu.inReset = false ∧ h < 8 ∧ (s.head h).perst = false) ∧
    (∃ (h : Nat) (s : State), s.pmu.inReset = false ∧ h < 8) ∧
    (∃ (h : Nat) (s : State), h < 8 ∧ (s.head h).up = true) ∧
    (∃ (h : Nat) (s : State), h < 8 ∧ (s.head h).up = true) ∧
    (∃ (h : Nat) (s : State), h < 8 ∧ (s.head h).up = true) ∧
    (∃ (h : Nat) (rate : Nat) (width : Nat) (s : State), h < 8 ∧ (s.head h).up = false ∧ (s.head h).perst = false ∧ s.pmu.inReset = false ∧ 2 ≤
      s.pmu.stage ∧ s.pmu.stage ≤ 5 ∧ linkMode rate width = true) ∧
    (∃ (h : Nat) (s : State), h < 8 ∧ (s.head h).up = false ∧ (s.head h).perst = false ∧ s.pmu.inReset = false ∧ 2 ≤ s.pmu.stage ∧ s.pmu.stage ≤
      5) ∧
    (∃ (h : Nat) (rate : Nat) (width : Nat) (s : State), h < 8 ∧ (s.head h).up = true ∧ linkMode rate width = true) ∧
    (∃ (f : Nat) (s : State), s.isActive = true ∧ s.hasFunc f = true) ∧
    (∃ (f : Nat) (s : State), s.isActive = true ∧ s.hasFunc f = true) ∧
    (∃ (f : Nat) (i : Nat) (d : HdmDecoder) (s : State), s.isActive = true ∧ s.hasFunc f = true ∧ i < 4 ∧ (d.committed = true → decoderOk d =
      true) ∧ s.herd.standbys = []) ∧
    (∃ (f : Nat) (s : State), s.isActive = true ∧ s.hasFunc f = true) ∧
    (∃ (f : Nat) (s : State), (s.head (headOf f)).up = true ∧ f < 128 ∧ s.isActive = true ∧ s.hasFunc f = true) ∧
    (∃ (f : Nat) (s : State), (s.head (headOf f)).up = true ∧ f < 128 ∧ s.isActive = false) ∧
    (∃ (f : Nat) (s : State), s.isActive = true ∧ s.hasFunc f = true ∧ (s.func f).cplDis = false) ∧
    (∃ (f : Nat) (n : Nat) (q : Qp) (s : State) (u : State), s.isActive = true ∧ s.hasFunc f = true ∧ (s.func f).cplDis = false ∧ u = s.modFunc f
      (fun x => { x with cplTo := cntAdd x.cplTo 1 }) ∧ u.qp f n = some q ∧ q.enabled = true) ∧
    (∃ (f : Nat) (ch : Nat) (c : Chan) (s : State) (u : State), s.isActive = true ∧ s.hasFunc f = true ∧ (s.func f).cplDis = false ∧ u = s.modFunc
      f (fun x => { x with cplTo := cntAdd x.cplTo 1 }) ∧ u.chan ch = some c ∧ c.func = f) ∧
    (∃ (h : Nat) (s : State), h < 8 ∧ s.spdmUp h = true ∧ (s.spdmOf h).sessions.any (fun y => y.2.2) = true) ∧
    (∃ (h : Nat) (s : State), s.tr.ideIo.getLsbD h = true ∨ s.tr.ideMem.getLsbD h = true) :=
  ⟨⟨0, base, by decide +kernel, by decide +kernel, by decide +kernel⟩,
   ⟨0, base, by decide +kernel, by decide +kernel⟩,
   ⟨0, base, by decide +kernel, by decide +kernel⟩,
   ⟨0, base, by decide +kernel, by decide +kernel⟩,
   ⟨0, base, by decide +kernel, by decide +kernel⟩,
   ⟨1, 64, 16, base, by decide +kernel, by decide +kernel, by decide +kernel, by decide +kernel, by decide +kernel, by decide +kernel,
     by decide +kernel⟩,
   ⟨1, base, by decide +kernel, by decide +kernel, by decide +kernel, by decide +kernel, by decide +kernel, by decide +kernel⟩,
   ⟨0, 64, 16, base, by decide +kernel, by decide +kernel, by decide +kernel⟩,
   ⟨0, base, by decide +kernel, by decide +kernel⟩,
   ⟨0, base, by decide +kernel, by decide +kernel⟩,
   ⟨0, 0, { base := 0, size := 2 ^ 30, ways := 1, gran := 256, position := 0, committed := true }, base, by decide +kernel, by decide +kernel,
     by decide +kernel, by decide +kernel, by decide +kernel⟩,
   ⟨0, base, by decide +kernel, by decide +kernel⟩,
   ⟨0, base, by decide +kernel, by decide +kernel, by decide +kernel, by decide +kernel⟩,
   ⟨0, { base with pmu.stage := 3 }, by decide +kernel, by decide +kernel, by decide +kernel⟩,
   ⟨0, base, by decide +kernel, by decide +kernel, by decide +kernel⟩,
   ⟨0, 1, _, base, _, by decide +kernel, by decide +kernel, by decide +kernel, rfl, some_get (by decide +kernel), by decide +kernel⟩,
   ⟨0, 0, _, withChan aChan, _, by decide +kernel, by decide +kernel, by decide +kernel, rfl, some_get (by decide +kernel), by decide +kernel⟩,
   ⟨0, { base with tr.spdm := [(0, { st := 3, sessions := [(0, false, true)], next := 1 })] }, by decide +kernel, by decide +kernel,
     by decide +kernel⟩,
   ⟨0, { base with tr.ideIo := 1 }, by decide +kernel⟩⟩

theorem test_witness_ManagementCommandsComplete :
    (∃ (h : Nat) (s : State), s.fmUp h = true) ∧
    (∃ (s : State), s.mgmtUp = true) ∧
    (∃ (m : Nat) (p : Pkt) (g : Grant) (doff : Nat) (target : Nat) (j : Nat) (sharer : Nat) (idx : Nat) (e : Extent) (s : State) (t : State),
      s.takes cExtentGrant (.mgmt m false) p = some t ∧ t.mayStart cExtentGrant (.mgmt m false) p = true ∧ g = grantOf p ∧ t.grantCheck g = .ok
      (doff, target, j, sharer) ∧ g.kind ≠ 1 ∧ t.ti.extents.firstFree (2 ^ 20) = some idx ∧ e =
      { dpa := g.dpa, len := g.len, doff := doff, slot := g.slot, ld := g.ld, kind := g.kind, ro := g.ro, hdmDb := g.hdmDb, st := 0, tetherLen := g.tether, expiry := 0, tag := g.tag, target := target, contributor := j, sharer := sharer, offered := 0, firstStack := t.ti.nextStack }) ∧
    (∃ (e : Nat) (idx : Nat) (p : Pkt) (x : Extent) (s : State) (t : State), s.takes cExtentRelease (.mgmt e false) p = some t ∧ t.mayStart
      cExtentRelease (.mgmt e false) p = true ∧ idx = fld p.p0.toNat 0 20 ∧ p.p0.getLsbD 32 = false ∧ t.ti.extents.get? idx = some x ∧ x.st = 2 ∧
      x.lapsed t.str.count = false) ∧
    (∃ (f : Nat) (s : State), s.isActive = true ∧ s.hasFunc f = true) ∧
    (∃ (f : Nat) (log : Nat) (s : State), s.isActive = true ∧ s.hasFunc f = true ∧ log ≤ 4) ∧
    (∃ (f : Nat) (log : Nat) (n : Nat) (s : State), s.isActive = true ∧ s.hasFunc f = true ∧ log ≤ 4 ∧ n ≤ ((s.func f).events.getD log []).length) ∧
    (∃ (f : Nat) (s : State), s.isActive = true ∧ s.hasFunc f = true) ∧
    (∃ (f : Nat) (l : List Nat) (s : State), s.isActive = true ∧ s.hasFunc f = true ∧ (∀ x ∈ l, x = 0)) ∧
    (∃ (f : Nat) (s : State), s.isActive = true ∧ s.hasFunc f = true ∧ (s.func f).time = 0) ∧
    (∃ (f : Nat) (s : State), s.isActive = true ∧ s.hasFunc f = true) :=
  ⟨⟨0, base, by decide +kernel⟩,
   ⟨base, by decide +kernel⟩,
   ⟨0, { lpkt with p1 := BitVec.ofNat 64 blk, p3 := 0, p4 := 2000, data := zeros 16 }, _, 0, 0, 0, 0, _, _, roomy, _, some_get
     (by decide +kernel), by decide +kernel, rfl, okExcept (by decide +kernel), by decide +kernel, some_get (by decide +kernel), rfl⟩,
   ⟨0, _, lpkt, _, withExtent anExtent, _, some_get (by decide +kernel), by decide +kernel, rfl, by decide +kernel, some_get (by decide +kernel),
     by decide +kernel, by decide +kernel⟩,
   ⟨0, base, by decide +kernel, by decide +kernel⟩,
   ⟨0, 0, base, by decide +kernel, by decide +kernel, by decide +kernel⟩,
   ⟨0, 0, 0, base, by decide +kernel, by decide +kernel, by decide +kernel, by decide +kernel⟩,
   ⟨0, base, by decide +kernel, by decide +kernel⟩,
   ⟨0, [0, 0, 0, 0, 0], base, by decide +kernel, by decide +kernel, by decide +kernel⟩,
   ⟨0, base, by decide +kernel, by decide +kernel, by decide +kernel⟩,
   ⟨0, base, by decide +kernel, by decide +kernel⟩⟩

theorem test_witness_AttestationRequestsComplete :
    (∃ (p : Nat) (s : State), s.spdmUp p = true) ∧
    (∃ (p : Nat) (s : State), s.spdmUp p = true ∧ (s.spdmOf p).st = 1) ∧
    (∃ (p : Nat) (s : State), s.spdmUp p = true ∧ (s.spdmOf p).st = 2) ∧
    (∃ (p : Nat) (s : State), s.spdmUp p = true ∧ (s.spdmOf p).st = 3) ∧
    (∃ (p : Nat) (i : Nat) (s : State), s.spdmUp p = true ∧ (s.spdmOf p).st = 3 ∧ 1 ≤ i ∧ i ≤ 4) ∧
    (∃ (p : Nat) (sig : List Byte) (s : State) (u : State), s.spdmUp p = true ∧ (s.spdmOf p).st = 3 ∧ s.freeBytes 96 = (u, sig)) ∧
    (∃ (p : Nat) (sig : List Byte) (x : Spdm) (s : State) (u : State), s.spdmUp p = true ∧ x = s.spdmOf p ∧ x.st = 3 ∧ s.freeBytes 96 = (u, sig)) ∧
    (∃ (p : Nat) (n : Nat) (own : Bool) (x : Spdm) (s : State), s.spdmUp p = true ∧ x = s.spdmOf p ∧ x.st = 3 ∧ x.sessions.find? (fun y => y.1 ==
      n) = some (n, own, false)) ∧
    (∃ (p : Nat) (n : Nat) (own : Bool) (x : Spdm) (s : State), s.spdmUp p = true ∧ x = s.spdmOf p ∧ x.st = 3 ∧ x.sessions.find? (fun y => y.1 ==
      n) = some (n, own, true)) :=
  ⟨⟨0, base, by decide +kernel⟩,
   ⟨0, talking 1 [], by decide +kernel, by decide +kernel⟩,
   ⟨0, talking 2 [], by decide +kernel, by decide +kernel⟩,
   ⟨0, talking 3 [], by decide +kernel, by decide +kernel⟩,
   ⟨0, 1, talking 3 [], by decide +kernel, by decide +kernel, by decide +kernel, by decide +kernel⟩,
   ⟨0, _, talking 3 [], _, by decide +kernel, by decide +kernel, pair2 _⟩,
   ⟨0, _, _, talking 3 [], _, by decide +kernel, rfl, by decide +kernel, pair2 _⟩,
   ⟨0, 0, true, _, talking 3 [(0, true, false)], by decide +kernel, rfl, by decide +kernel, by decide +kernel⟩,
   ⟨0, 0, true, _, talking 3 [(0, true, true)], by decide +kernel, rfl, by decide +kernel, by decide +kernel⟩⟩

theorem test_witness_RegisterRowsComplete :
    (∃ (f : Nat) (s : State), s.regUp f = true) ∧
    (∃ (f : Nat) (off : Nat) (s : State), s.regUp f = true ∧ inDoorbells off = false ∧ regOffset off = true) ∧
    (∃ (f : Nat) (off : Nat) (s : State), s.regUp f = true ∧ inDoorbells off = false ∧ regOffset off = false) ∧
    (∃ (f : Nat) (off : Nat) (s : State), s.regUp f = true ∧ inDoorbells off = true) ∧
    (∃ (f : Nat) (part : Part) (val : U64) (v : U64) (s : State), s.regUp f = true ∧ s.isOwner f = true ∧ v = mergePart s.str.bridleSel part val
      &&& bridleSelMask) ∧
    (∃ (f : Nat) (part : Part) (val : U64) (v : U64) (s : State), s.regUp f = true ∧ s.isOwner f = true ∧ v = mergePart s.dram.pcSel part val &&&
      pcSelMask) ∧
    (∃ (f : Nat) (part : Part) (val : U64) (v : U64) (s : State), s.regUp f = true ∧ s.isOwner f = true ∧ v = mergePart s.pmu.tempSel part val &&&
      0x3F#64) ∧
    (∃ (f : Nat) (s : State), s.regUp f = true) ∧
    (∃ (f : Nat) (n : Nat) (val : U64) (m : Sem) (s : State), s.regUp f = true ∧ s.isOwner f = true ∧ n = val.toNat % 1024 ∧ s.ras.sems.get? n =
      some m ∧ m.st = 2 ∧ s.tst.level = 2) ∧
    (∃ (f : Nat) (part : Part) (val : U64) (v : U64) (s : State), s.regUp f = true ∧ s.isOwner f = true ∧ v = mergePart s.tst.trace part val &&&
      traceMask) ∧
    (∃ (f : Nat) (s : State), s.regUp f = true ∧ s.isOwner f = false) ∧
    (∃ (f : Nat) (w : WinWrite) (s : State), s.regUp f = true ∧ w.doorbell = false ∧ (w.size = 4 ∨ w.size = 8) ∧ w.off % w.size = 0 ∧ w.off +
      w.size ≤ 0x100000) ∧
    (∃ (f : Nat) (w : WinWrite) (s : State), s.regUp f = true ∧ w.doorbell = true) :=
  ⟨⟨0, base, by decide +kernel⟩,
   ⟨0, 0, base, by decide +kernel, by decide +kernel, by decide +kernel⟩,
   ⟨0, 4, base, by decide +kernel, by decide +kernel, by decide +kernel⟩,
   ⟨0, 2 ^ 20, base, by decide +kernel, by decide +kernel⟩,
   ⟨0, .whole, 0, _, base, by decide +kernel, by decide +kernel, rfl⟩,
   ⟨0, .whole, 0, _, base, by decide +kernel, by decide +kernel, rfl⟩,
   ⟨0, .whole, 0, _, base, by decide +kernel, by decide +kernel, rfl⟩,
   ⟨0, base, by decide +kernel⟩,
   ⟨0, _, 0, _, { base with tst.level := 2, ras.sems := [(0, { st := 2, holder := 0 })] }, by decide +kernel, by decide +kernel, rfl, some_get
     (by decide +kernel), by decide +kernel, by decide +kernel⟩,
   ⟨0, .whole, 0, _, base, by decide +kernel, by decide +kernel, rfl⟩,
   ⟨1, base, by decide +kernel, by decide +kernel⟩,
   ⟨0, { doorbell := false, off := 0, size := 8, val := 0 }, base, by decide +kernel, by decide +kernel, by decide +kernel, by decide +kernel,
     by decide +kernel⟩,
   ⟨0, { doorbell := true, off := 0, size := 8, val := 0 }, base, by decide +kernel, by decide +kernel⟩⟩

theorem test_witness_StepRunsTheFrontCommand :
    ∃ (c : Instr) (l : List Instr) (s : State), s.pending = c :: l :=
  ⟨.tapReset, [], { base with pending := [.tapReset] }, rfl⟩

theorem test_witness_IdleStepLeavesTheState :
    ∃ (s : State), s.pending = [] :=
  ⟨base, by decide +kernel⟩

theorem test_witness_ChipResetKeepsOnlyFuses :
    ∃ (n : Nat) (s : State) (t : State), 10000 ≤ n ∧ exec (.chipRstNAssert n) s = .next t :=
  ⟨10000, base, _, by decide +kernel, rfl⟩

theorem test_witness_ExecLeavesQueueAndSentOutputs :
    ∃ (c : Instr) (s : State) (t : State), exec c s = .next t :=
  ⟨.tapReset, base, _, rfl⟩

theorem test_witness_EveryStepKeepsMemoryForm :
    ∃ (s : State) (t : State), s.memoryOk ∧ step s = .next t :=
  ⟨base, _, (show Memory.wf _ = true by decide +kernel), rfl⟩

theorem test_witness_FusesNeverGoBack :
    ∃ (c : Instr) (s : State) (t : State), exec c s = .next t :=
  ⟨.tapReset, base, _, rfl⟩

theorem test_witness_MemoryReadsBackWhatIsWritten :
    (∃ (m : List Host.Cell), Memory.wf m = true) ∧
    (∃ (m : List Host.Cell), Memory.wf m = true) ∧
    (∃ (m : List Host.Cell) (a : Nat) (b : Nat) (l : List Byte), Memory.wf m = true ∧ (b < a ∨ a + l.length ≤ b)) :=
  ⟨⟨[(3, 5)], by decide +kernel⟩,
   ⟨[(3, 5)], by decide +kernel⟩,
   ⟨[(3, 5)], 2, 5, [1, 2], by decide +kernel, by decide +kernel⟩⟩

theorem test_witness_SequenceNumbersDecide :
    (∃ (s : State) (c : Cmd) (o : Origin) (p : Pkt) (x : Nat) (w : List WinEnt), s.seqOf o = (x, w) ∧ p.seq.toNat = x ∧ ((∀ e q, o = .mgmt e q →
      c.opcode ≠ 0x0800 ∨ x ≠ 0))) ∧
    (∃ (s : State) (v : State) (c : Cmd) (o : Origin) (p : Pkt) (x : Nat) (w : List WinEnt) (e : WinEnt), s.receivePacket c o p = some v ∧
      v.mustWait o p = false ∧ v.seqOf o = (x, w) ∧ p.seq.toNat ≠ x ∧ ((∀ m q, o = .mgmt m q → c.opcode ≠ 0x0800 ∨ p.seq.toNat ≠ 0)) ∧ w.find?
      (fun e => e.seq == p.seq.toNat) = some e) ∧
    (∃ (s : State) (v : State) (c : Cmd) (o : Origin) (p : Pkt) (x : Nat) (w : List WinEnt), s.receivePacket c o p = some v ∧ v.mustWait o p =
      false ∧ v.seqOf o = (x, w) ∧ p.seq.toNat ≠ x ∧ ((∀ m q, o = .mgmt m q → c.opcode ≠ 0x0800 ∨ p.seq.toNat ≠ 0)) ∧ w.find? (fun e => e.seq ==
      p.seq.toNat) = none) ∧
    (∃ (e : Nat) (s : State), s.q.mgmts.get? e = none) ∧
    (∃ (c : Cmd) (p : Pkt), c.opcode = 0x0800 ∧ p.seq = 0) ∧
    (∃ (r : Reply), r.status ≠ stDuplicate) :=
  ⟨⟨base, cNop, own, pkt, _, _, pair2 _, by decide +kernel, (by intro e q h; cases h)⟩,
   ⟨counted, _, cNop, own, pkt, _, _, _, some_get (by decide +kernel), by decide +kernel, pair2 _, by decide +kernel, (by intro e q h; cases h),
     some_get (by decide +kernel)⟩,
   ⟨base, _, cNop, own, { pkt with seq := 5 }, _, _, some_get (by decide +kernel), by decide +kernel, pair2 _, by decide +kernel,
     (by intro e q h; cases h), by decide +kernel⟩,
   ⟨0, base, by decide +kernel⟩,
   ⟨cNop, pkt, by decide +kernel, by decide +kernel⟩,
   ⟨aReply, by decide +kernel⟩⟩

theorem test_witness_ChecksDecideInOrder :
    (∃ (s : State) (v : State) (c : Cmd) (o : Origin) (p : Pkt), s.receivePacket c o p = some v ∧ v.mustWait o p = false ∧ v.inOrder c o p = none) ∧
    (∃ (s : State) (v : State) (t : State) (c : Cmd) (o : Origin) (p : Pkt), s.receivePacket c o p = some v ∧ v.mustWait o p = false ∧ v.inOrder c
      o p = some t ∧ t.accepts c o = false) ∧
    (∃ (s : State) (v : State) (t : State) (c : Cmd) (o : Origin) (p : Pkt) (x : Nat), s.receivePacket c o p = some v ∧ v.mustWait o p = false ∧
      v.inOrder c o p = some t ∧ t.accepts c o = true ∧ t.isActive = true ∧ t.bound o = some x ∧ slotOf p ≠ x) ∧
    (∃ (s : State) (v : State) (t : State) (c : Cmd) (o : Origin) (p : Pkt), s.receivePacket c o p = some v ∧ v.mustWait o p = false ∧ v.inOrder c
      o p = some t ∧ t.accepts c o = true ∧ t.isActive = true ∧ (∀ x, t.bound o = some x → slotOf p = x) ∧ (t.unbound o = true → c.dom = false) ∧
      (if c.long then managed o = false ∧ (p.progAddr = 0 ∨ p.progAddr.toNat % 64 ≠ 0) else p.progAddr ≠ 0)) ∧
    (∃ (s : State) (v : State) (t : State) (u : State) (c : Cmd) (o : Origin) (p : Pkt) (st : Nat) (d : Nat) (r0 : Nat) (r1 : Nat) (l : List
      Byte), s.receivePacket c o p = some v ∧ v.mustWait o p = false ∧ v.inOrder c o p = some t ∧ t.checks c o p = none ∧ c.run t o p = (u, .now
      st d r0 r1 l)) ∧
    (∃ (v : State) (t : State) (f : Nat) (n : Nat) (q : Qp) (c : Cmd) (p : Pkt), v.qp f n = some q ∧ v.inOrder c (.qp f n) p = some t) :=
  ⟨⟨base, _, cNop, own, { pkt with seq := 5 }, some_get (by decide +kernel), by decide +kernel, by decide +kernel⟩,
   ⟨base, _, _, cQueueCreate, own, pkt, some_get (by decide +kernel), by decide +kernel, some_get (by decide +kernel), by decide +kernel⟩,
   ⟨visiting 1 1, _, _, cPlateQuery, .qp 1 1, { pkt with slot := 8 }, _, some_get (by decide +kernel), by decide +kernel, some_get
     (by decide +kernel), by decide +kernel, by decide +kernel, some_get (by decide +kernel), by decide +kernel⟩,
   ⟨base, _, _, cPlaceMove, own, pkt, some_get (by decide +kernel), by decide +kernel, some_get (by decide +kernel), by decide +kernel,
     by decide +kernel, allBound (by decide +kernel), by decide +kernel, by decide +kernel⟩,
   ⟨base, _, _, _, cNop, own, pkt, _, _, _, _, _, some_get (by decide +kernel), by decide +kernel, some_get (by decide +kernel),
     by decide +kernel, rfl⟩,
   ⟨base, _, 0, 1, _, cNop, pkt, some_get (by decide +kernel), some_get (by decide +kernel)⟩⟩

theorem test_witness_RepliesTakeTheNextEntry :
    (∃ (s : State) (f : Nat) (n : Nat) (q : Qp), s.qp f n = some q ∧ q.faulted = false ∧ q.unreleased + 1 < q.size) ∧
    (∃ (s : State) (f : Nat) (n : Nat) (q : Qp), s.qp f n = some q ∧ q.faulted = true) ∧
    (∃ (s : State) (f : Nat) (n : Nat) (q : Qp), s.qp f n = some q ∧ q.faulted = false ∧ q.size ≤ q.unreleased + 1) :=
  ⟨⟨base, 0, 1, _, some_get (by decide +kernel), by decide +kernel, by decide +kernel⟩,
   ⟨{ base with q.qps := [(qpKey 0 1, { ring none with faulted := true })] }, 0, 1, _, some_get (by decide +kernel), by decide +kernel⟩,
   ⟨{ base with q.qps := [(qpKey 0 1, { ring none with sampHead := 1 })] }, 0, 1, _, some_get (by decide +kernel), by decide +kernel,
     by decide +kernel⟩⟩

theorem test_witness_SyndromeOutcomes :
    (∃ (x : U32), x ≠ 0 ∧ x ≠ zSyn ∧ (∀ j < 512, x ≠ hCol j) ∧ (∀ i < 32, x ≠ BitVec.ofNat 32 (2 ^ i))) ∧
    (∃ (s : State), s.ras.flips = []) :=
  ⟨⟨3, by decide +kernel, by decide +kernel, by decide +kernel, by decide +kernel⟩,
   ⟨base, by decide +kernel⟩⟩

theorem test_witness_LinesReadBackAsWritten :
    (∃ (d : List Byte) (s : State), d.length = 64 ∧ Memory.wf s.mem = true ∧ s.ras.flips = []) ∧
    (∃ (l : Nat) (j : Nat) (s : State), s.ras.flips = [] ∧ j < 512 ∧ s.synOf l = hCol j) ∧
    (∃ (l : Nat) (k : Nat) (d : List Byte) (s : State), d.length = 64 ∧ Memory.wf s.mem = true ∧ k ≠ l) :=
  ⟨⟨zeros 64, base, by decide +kernel, by decide +kernel, by decide +kernel⟩,
   ⟨0, 3, { base with syn := [(0, hCol 3)] }, by decide +kernel, by decide +kernel, by decide +kernel⟩,
   ⟨0, 1, zeros 64, base, by decide +kernel, by decide +kernel, by decide +kernel⟩⟩

theorem test_witness_PartialWritesMerge :
    (∃ (be : Nat), be % 2 ^ 64 = allBe) ∧
    (∃ (l : Nat) (be : Nat) (old : List Byte) (s : State) (u : State) (v : State), be % 2 ^ 64 ≠ allBe ∧ u = (if isDram l then
      { s with dram.rmw := cntAdd s.dram.rmw 1 } else s) ∧ u.readLine l = (v, .good old)) ∧
    (∃ (l : Nat) (be : Nat) (old : List Byte) (s : State) (u : State) (v : State), be % 2 ^ 64 ≠ allBe ∧ u = (if isDram l then
      { s with dram.rmw := cntAdd s.dram.rmw 1 } else s) ∧ u.readLine l = (v, .poison old)) ∧
    (∃ (old : List Byte) (i : Nat), i < old.length) :=
  ⟨⟨allBe, by decide +kernel⟩,
   ⟨0, 1, zeros 64, base, _, _, by decide +kernel, rfl, pairR (by decide +kernel)⟩,
   ⟨0, 1, zeros 64, { base with syn := [(0, zSyn)] }, _, _, by decide +kernel, rfl, pairR (by decide +kernel)⟩,
   ⟨[0], 0, by decide +kernel⟩⟩

theorem test_witness_ElementsSplitAndRebuild :
    ∃ (elem : Nat) (x : Nat) (sp : Split), splitOf elem = some sp ∧ x < 2 ^ (8 * sp.bytes) :=
  ⟨1, 0, _, some_get (by decide +kernel), by decide +kernel⟩

theorem test_witness_BitStreamsUnpack :
    (∃ (bs : List Bool) (j : Nat), j < bs.length) ∧
    (∃ (w : Nat) (vs : List Nat), (∀ v ∈ vs, v < 2 ^ w)) :=
  ⟨⟨[true], 0, by decide +kernel⟩,
   ⟨3, [7], by decide +kernel⟩⟩

theorem test_witness_BridlesStayWithinCapacity :
    (∃ (cap : Nat) (xs : List Share), (xs.map Share.slot).Nodup ∧ sumOf (xs.map Share.r) ≤ cap) ∧
    (∃ (xs : List Share), (xs.map Share.slot).Nodup) :=
  ⟨⟨5216, someShares, by decide +kernel, by decide +kernel⟩,
   ⟨someShares, by decide +kernel⟩⟩

theorem test_witness_CountersAndHalfLatch :
    (∃ (f : Nat) (off : Nat) (v : U32) (s : State), s.regUp f = true ∧ inDoorbells off = false ∧ regOffset off = true ∧ (s.func f).latch = some
      (off, v)) ∧
    (∃ (f : Nat) (off : Nat) (s : State) (t : State), s.regUp f = true ∧ inDoorbells off = false ∧ regOffset off = true ∧ off ≠ offLogPop ∧
      (s.openWord off).1.hasReg f off = true ∧ exec (.lowHalfRead f off) s = .next t) :=
  ⟨⟨0, 8, 5, { base with funcs := [(0, { Func.reset with latch := some (8, 5) })] }, by decide +kernel, by decide +kernel, by decide +kernel,
     by decide +kernel⟩,
   ⟨0, 0, base, _, by decide +kernel, by decide +kernel, by decide +kernel, by decide +kernel, by decide +kernel, rfl⟩⟩

theorem test_witness_LogKeepsSevereEntries :
    (∃ (r : Ras) (e : LogEnt), 65536 ≤ r.log.length ∧ e.sev < 2) ∧
    (∃ (r : Ras) (e : LogEnt) (old : LogEnt), 65536 ≤ r.log.length ∧ 2 ≤ e.sev ∧ r.log.find? (fun x => x.sev < 2) = some old) ∧
    (∃ (r : Ras) (e : LogEnt), 65536 ≤ r.log.length ∧ 2 ≤ e.sev ∧ r.log.find? (fun x => x.sev < 2) = none) ∧
    (∃ (o : Origin) (p : Pkt) (q : Nat) (s : State) (t : State), s.takes cLogRelease o p = some t ∧ q = fld p.p0.toNat 0 32) :=
  ⟨⟨fullLog 0, anEvent 0, fullLog_full 0, by decide +kernel⟩,
   ⟨fullLog 0, anEvent 2, anEvent 0, fullLog_full 0, by decide +kernel, rfl⟩,
   ⟨fullLog 2, anEvent 2, fullLog_full 2, by decide +kernel, fullLog_severe⟩,
   ⟨own, pkt, _, base, _, some_get (by decide +kernel), rfl⟩⟩

theorem test_witness_IgnoredWritesAreLoggedOnceAStride :
    (∃ (f : Nat) (s : State), s.ras.rate.get? f = none) ∧
    (∃ (f : Nat) (s : State), s.ras.log.length < 65536 ∧ (∀ e ∈ s.ras.log, e.lseq ≠ s.ras.nextLseq) ∧ s.ras.rate.get? f = none) :=
  ⟨⟨0, base, by decide +kernel⟩,
   ⟨0, base, by decide +kernel, by decide +kernel, by decide +kernel⟩⟩

theorem test_witness_ClampedValuesAreLegal :
    (∃ (s : State) (slot : Nat) (f : FieldSpec) (e : Entry), f.lock = true ∧ s.cfg.locked.contains (fkey slot f.id e.elem) = true) ∧
    (∃ (s : State) (slot : Nat) (f : FieldSpec) (e : Entry), (f.lock && s.cfg.locked.contains (fkey slot f.id e.elem)) = false ∧ s.underPlan slot
      f.id e.elem = true) ∧
    (∃ (s : State) (slot : Nat) (f : FieldSpec) (e : Entry), (f.lock && s.cfg.locked.contains (fkey slot f.id e.elem)) = false ∧ s.underPlan slot
      f.id e.elem = false ∧ 1 ≤ f.step ∧ f.min ≤ s.fieldMax f e.elem) :=
  ⟨⟨{ base with cfg.locked := [fkey 0 fSweepPeriod 0] }, 0, aSpec true, aValue, by decide +kernel, by decide +kernel⟩,
   ⟨withOp base (anOp (.plan { aPlan with scope := 0, slot := 0, sets := [(fkey 0 fSweepPeriod 0, 5)] }) 0x11), 0, aSpec false, aValue,
     by decide +kernel, by decide +kernel⟩,
   ⟨base, 0, aSpec false, aValue, by decide +kernel, by decide +kernel, by decide +kernel, by decide +kernel⟩⟩

theorem test_witness_NeverWrittenPlatesReadZero :
    ∃ (slot : Nat) (plate : Nat) (s : State), s.ent slot plate = none :=
  ⟨0, 0, base, by decide +kernel⟩

theorem test_witness_QueriesOnlyAnswer :
    ∃ (c : Instr) (s : State) (t : State), (∃ a b, c ∈ [.getLdInfo a, .getMhdInfo a, .getQosStatus a, .setLdAllocations a,
      .getDcRegionConfiguration a, .getDcExtentLists a, .identifyMemoryDevice a, .getEventRecords a b, .getEventInterruptPolicy a,
      .getSupportedLogs a, .getLog a b, .getHealthInfo a, .getTimestamp a, .mailboxFirmwareUpdate a, .getDigests a, .getCertificate a b,
      .getMeasurements a b]) ∧ exec c s = .next t :=
  ⟨.getLdInfo 0, base, _, ⟨0, 0, by simp⟩, rfl⟩

theorem test_witness_NegotiationsTouchOnlyTheirState :
    (∃ (c : Instr) (path : Nat) (s : State) (t : State), (∃ a b d, c ∈ [.getVersion path, .getCapabilities path, .negotiateAlgorithms path,
      .challenge path a d, .keyExchange path b, .finish path a, .keyUpdate path a, .heartbeat path a, .endSession path a]) ∧ exec c s = .next t) ∧
    (∃ (c : Instr) (f : Nat) (s : State) (t : State), (∃ a b l v, c ∈ [.clearEventRecords f a b, .setEventInterruptPolicy f l, .setTimestamp f v])
      ∧ exec c s = .next t) :=
  ⟨⟨.getVersion 0, 0, base, _, ⟨0, false, [], by simp⟩, rfl⟩,
   ⟨.setTimestamp 0 5, 0, base, _, ⟨0, 0, [], 5, by simp⟩, rfl⟩⟩

theorem test_witness_RegisterWritesTouchOnlyTheirRegister :
    (∃ (f : Nat) (part : Part) (val : U64) (s : State) (t : State), exec (.strBridleSelWrite f part val) s = .next t) ∧
    (∃ (f : Nat) (part : Part) (val : U64) (s : State) (t : State), exec (.drmPcSelWrite f part val) s = .next t) ∧
    (∃ (f : Nat) (part : Part) (val : U64) (s : State) (t : State), exec (.pmuTempSelWrite f part val) s = .next t) ∧
    (∃ (f : Nat) (part : Part) (val : U64) (s : State) (t : State), exec (.glbCntClearWrite f part val) s = .next t) ∧
    (∃ (f : Nat) (part : Part) (val : U64) (s : State) (t : State), exec (.tstSemForceWrite f part val) s = .next t) ∧
    (∃ (f : Nat) (part : Part) (val : U64) (s : State) (t : State), exec (.tstTraceWrite f part val) s = .next t) ∧
    (∃ (c : Instr) (f : Nat) (s : State) (t : State), (∃ part v n size b, c ∈ [.sqTailWrite f n size v, .rqHeadWrite f n size v, .qp0Enable f part
      v, .qp0Disable f part v, .qp0IntEnWrite f part v, .qp0BaseWrite f b part v, .ringAccessFailure f n]) ∧ exec c s = .next t) :=
  ⟨⟨0, .whole, 0, base, _, rfl⟩,
   ⟨0, .whole, 0, base, _, rfl⟩,
   ⟨0, .whole, 0, base, _, rfl⟩,
   ⟨0, .whole, 0, base, _, rfl⟩,
   ⟨0, .whole, 0, base, _, rfl⟩,
   ⟨0, .whole, 0, base, _, rfl⟩,
   ⟨.ringAccessFailure 0 1, 0, base, _, ⟨.whole, 0, 1, 0, false, by simp⟩, rfl⟩⟩

theorem test_witness_QueryPacketsOnlyAnswer :
    ∃ (c : Instr) (s : State) (t : State), (∃ o p, c ∈ [.nop o p, .opStatusRead o p, .configRead o p, .catalogueRead o p, .domainQuery o p,
      .fwQuery o p, .plateQuery o p, .segmentQuery o p, .tableRead o p, .operQuery o p, .streamQuery o p, .impressionQuery o p, .dmaChanQuery o p,
      .extentList o p, .herdRead o p, .dressageQuery o p, .logRead o p]) ∧ exec c s = .next t :=
  ⟨.nop own pkt, base, _, ⟨own, pkt, by simp⟩, rfl⟩

theorem test_witness_ForeignSlotPacketsHaveNoEffect :
    (∃ (f : Nat) (n : Nat) (x : Nat) (p : Pkt) (s : State), s.bound (.qp f n) = some x ∧ slotOf p ≠ x) ∧
    (∃ (c : Cmd) (f : Nat) (n : Nat) (s : State), s.unbound (.qp f n) = true ∧ c.dom = true) :=
  ⟨⟨1, 1, _, { pkt with slot := 8 }, base, some_get (by decide +kernel), by decide +kernel⟩,
   ⟨cPlateQuery, 1, 0, { base with q.qps := [(qpKey 1 0, ring none)] }, by decide +kernel, by decide +kernel⟩⟩

theorem test_witness_PacketsReadBackFromTheirBytes :
    (∃ (opcode : Nat) (p : Pkt) (b : List Byte), opcode < 2 ^ 16 ∧ b = pktBytes opcode p) ∧
    (∃ (opcode : Nat), opcode < 2 ^ 16) ∧
    (∃ (c : Cmd) (opcode : Nat), cmdOf opcode none = some c) ∧
    (∃ (opcode : Nat), opcode < 2 ^ 16 ∧ assigned opcode = false) :=
  ⟨⟨0x0800, pkt, _, by decide +kernel, rfl⟩,
   ⟨0x0800, by decide +kernel⟩,
   ⟨cNop, 0x0800, rfl⟩,
   ⟨0, by decide +kernel, by decide +kernel⟩⟩

end Sys2Proof.Tests
end

section
/-! SUPPORT. The passes of R26 only raise grants: what a round of the planner leaves of each domain's part, within which bounds it stays,
and how much of the spare it hands out. -/

namespace Sys2Proof.Machine

/-! ## Sums of shares -/

theorem sumOf_eq_sum (l : List Nat) : sumOf l = l.sum := by
  rw [sumOf, List.sum_eq_foldl]

/-- Rounding each part of a division down loses, and never gains. -/
theorem sum_map_div_le (l : List Nat) (b : Nat) : (l.map (· / b)).sum ≤ l.sum / b := by
  induction l with
  | nil => simp
  | cons a l ih =>
    simp only [List.map_cons, List.sum_cons]
    exact (Nat.add_le_add_left ih _).trans (Nat.div_add_div_le_add_div)

/-- Parts of `k` in proportion to weights, each rounded down, come to no more than `k`. -/
theorem sumOf_proportion_le (k : Nat) (ws : List Nat) : sumOf (ws.map (fun w => k * w / sumOf ws)) ≤ k := by
  rw [sumOf_eq_sum, sumOf_eq_sum]
  calc (ws.map (fun w => k * w / ws.sum)).sum
      = ((ws.map (k * ·)).map (· / ws.sum)).sum := by rw [List.map_map]; rfl
    _ ≤ (ws.map (k * ·)).sum / ws.sum := sum_map_div_le _ _
    _ = k * ws.sum / ws.sum := by rw [List.sum_map_mul_left, List.map_id']
    _ ≤ k := Nat.div_le_of_le_mul (Nat.mul_comm k _).le

/-! ## Raising grants -/

/-- What a domain brings to the planner for one class and index, whatever it is granted. -/
def Share.terms (x : Share) : Nat × Nat × Nat × Nat := (x.slot, x.r, x.c, x.d)

/-- A grant of at least the reservation, and beyond it within ceiling and demand. -/
def Share.InBounds (x : Share) : Prop := x.r ≤ x.grant ∧ x.grant ≤ max x.r (min x.c x.d)

/-- The grants of some domains raised, each by its own amount. -/
def raise (p : Share → Bool) (f : Share → Nat) (xs : List Share) : List Share :=
  xs.map (fun x => if p x then { x with grant := x.grant + f x } else x)

/-- `ys` are the shares `xs` with `n` more units granted in all, still in bounds. -/
structure Raises (xs ys : List Share) (n : Nat) : Prop where
  terms : ys.map Share.terms = xs.map Share.terms
  inBounds : (∀ x ∈ xs, x.InBounds) → ∀ y ∈ ys, y.InBounds
  granted : sumOf (ys.map Share.grant) = sumOf (xs.map Share.grant) + n

theorem Raises.refl (xs : List Share) : Raises xs xs 0 := ⟨rfl, id, rfl⟩

theorem Raises.trans {xs ys zs : List Share} {n m : Nat} (h : Raises xs ys n) (k : Raises ys zs m) : Raises xs zs (n + m) :=
  ⟨k.terms.trans h.terms, fun b => k.inBounds (h.inBounds b), by rw [k.granted, h.granted, Nat.add_assoc]⟩

theorem Share.map_slot_eq (xs : List Share) : xs.map Share.slot = (xs.map Share.terms).map Prod.fst := by
  rw [List.map_map]
  rfl

theorem Raises.slots {xs ys : List Share} {n : Nat} (h : Raises xs ys n) : ys.map Share.slot = xs.map Share.slot := by
  rw [Share.map_slot_eq, Share.map_slot_eq, h.terms]

theorem map_terms_raise (p : Share → Bool) (f : Share → Nat) (xs : List Share) :
    (raise p f xs).map Share.terms = xs.map Share.terms := by
  rw [raise, List.map_map]
  refine List.map_congr_left fun x _ => ?_
  by_cases h : p x <;> simp [h, Share.terms]

theorem sumOf_grant_raise (p : Share → Bool) (f : Share → Nat) (xs : List Share) :
    sumOf ((raise p f xs).map Share.grant) = sumOf (xs.map Share.grant) + sumOf ((xs.filter p).map f) := by
  simp only [sumOf_eq_sum, raise, List.map_map]
  induction xs with
  | nil => rfl
  | cons x xs ih =>
    by_cases h : p x
    · simp only [List.map_cons, List.sum_cons, List.filter_cons_of_pos h, ih, Function.comp_apply, h, if_true]
      omega
    · simp [h, ih, Nat.add_assoc]

/-- Raises that stay within ceiling and demand keep every share in bounds. -/
theorem raise_raises {p : Share → Bool} {f : Share → Nat} {xs : List Share}
    (h : ∀ x ∈ xs, p x → x.grant + f x ≤ min x.c x.d) : Raises xs (raise p f xs) (sumOf ((xs.filter p).map f)) where
  terms := map_terms_raise p f xs
  granted := sumOf_grant_raise p f xs
  inBounds b y hy := by
    obtain ⟨x, hx, rfl⟩ := List.mem_map.1 hy
    have hb := b x hx
    by_cases hp : p x
    · have hle := h x hx hp
      simp only [hp, if_true, Share.InBounds] at hb ⊢
      omega
    · simpa [hp] using hb

/-! ## The units that rounding leaves (R27) -/

/-- In a list of distinct slots, one share at most has a slot's number. -/
theorem filter_slot_eq {xs : List Share} (hd : (xs.map Share.slot).Nodup) {x : Share} (hx : x ∈ xs) :
    xs.filter (fun z => z.slot == x.slot) = [x] := by
  induction xs with
  | nil => cases hx
  | cons a xs ih =>
    obtain ⟨ha, hd⟩ := List.nodup_cons.1 hd
    have hne : ∀ z ∈ xs, z.slot ≠ a.slot := fun z hz e => ha (e ▸ List.mem_map_of_mem hz)
    rcases List.mem_cons.1 hx with rfl | hx
    · simpa using hne
    · rw [List.filter_cons_of_neg (by simpa using (hne x hx).symm), ih hd hx]

/-- One unit for one domain that may still have it. -/
theorem raise_slot_raises {xs : List Share} (hd : (xs.map Share.slot).Nodup) {y : Nat}
    (h : xs.any (fun x => x.slot == y && decide (x.grant < min x.c x.d)) = true) :
    Raises xs (raise (fun x => x.slot == y) (fun _ => 1) xs) 1 := by
  obtain ⟨x, hx, hy⟩ := List.any_eq_true.1 h
  simp only [Bool.and_eq_true, beq_iff_eq, decide_eq_true_eq] at hy
  obtain ⟨rfl, hlt⟩ := hy
  have hone := filter_slot_eq hd hx
  have hr : Raises xs (raise (fun z => z.slot == x.slot) (fun _ => 1) xs)
      (sumOf ((xs.filter (fun z => z.slot == x.slot)).map (fun _ => 1))) := raise_raises fun z hz hs => by
    have hmem : z ∈ xs.filter (fun z => z.slot == x.slot) := List.mem_filter.2 ⟨hz, hs⟩
    rw [hone, List.mem_singleton] at hmem
    rw [hmem]
    exact hlt
  rw [hone] at hr
  exact hr

/-- Handing out single units raises grants by what it counts, which is no more than what there is. -/
theorem handOut_raises {elig : List Nat} {lost : Nat} {order : List Nat} {xs : List Share} (hd : (xs.map Share.slot).Nodup) :
    Raises xs (handOut elig lost order xs).1 (handOut elig lost order xs).2 ∧ (handOut elig lost order xs).2 ≤ lost := by
  induction order generalizing lost xs with
  | nil => exact ⟨by simpa [handOut] using Raises.refl xs, by simp [handOut]⟩
  | cons y ys ih =>
    cases lost with
    | zero => exact ⟨by simpa [handOut] using Raises.refl xs, by simp [handOut]⟩
    | succ lost =>
      rw [handOut]
      split
      next hy =>
        have h1 := raise_slot_raises hd hy.2
        have he : raise (fun x => x.slot == y) (fun _ => 1) xs =
            xs.map (fun x => if x.slot = y then { x with grant := x.grant + 1 } else x) := by simp [raise]
        rw [he] at h1
        obtain ⟨h2, hle⟩ := ih (lost := lost) (h1.slots ▸ hd)
        have h3 := h1.trans h2
        rw [Nat.add_comm] at h3
        exact ⟨h3, Nat.succ_le_succ hle⟩
      next => exact ih hd

/-! ## Passes (R26) -/

/-- A pass hands out some of the spare, and what it leaves is the rest. -/
theorem bridlePass_raises {rot spare : Nat} {xs : List Share} (hd : (xs.map Share.slot).Nodup) (hb : ∀ x ∈ xs, x.InBounds) :
    ∃ n ≤ spare, Raises xs (bridlePass rot xs spare).1 n ∧ (bridlePass rot xs spare).2 = spare - n := by
  rw [bridlePass]
  extract_lets wsum ideal floorSum share given names order xs'
  split
  next => exact ⟨0, Nat.zero_le _, Raises.refl xs, rfl⟩
  next =>
    have h1 : Raises xs xs' given := raise_raises fun x hx he => by
      have hr := hb x hx
      simp only [decide_eq_true_eq, Share.InBounds, share] at he hr ⊢
      omega
    obtain ⟨h2, hle⟩ := handOut_raises (elig := names) (lost := spare - floorSum) (order := order) (h1.slots ▸ hd)
    have hfloor : floorSum ≤ spare := by
      have h := sumOf_proportion_le spare ((xs.filter (fun x => decide (x.grant < min x.c (max x.d x.r)))).map Share.w)
      rwa [List.map_map] at h
    have hgiven : given ≤ floorSum := by
      simp only [given, floorSum, sumOf_eq_sum]
      exact List.sum_le_sum fun x _ => Nat.min_le_left _ _
    exact ⟨_, by omega, h1.trans h2, rfl⟩

theorem iter_bridlePass_raises {rot : Nat} (k : Nat) {spare : Nat} {xs : List Share} (hd : (xs.map Share.slot).Nodup)
    (hb : ∀ x ∈ xs, x.InBounds) :
    ∃ n ≤ spare, Raises xs (iter (fun a : List Share × Nat => bridlePass rot a.1 a.2) k (xs, spare)).1 n := by
  induction k generalizing spare xs with
  | zero => exact ⟨0, Nat.zero_le _, Raises.refl xs⟩
  | succ k ih =>
    obtain ⟨n, hn, h1, hs⟩ := bridlePass_raises (rot := rot) (spare := spare) hd hb
    obtain ⟨m, hm, h2⟩ := ih (spare := (bridlePass rot xs spare).2) (h1.slots ▸ hd) (h1.inBounds hb)
    exact ⟨n + m, by omega, h1.trans h2⟩

/-- Every reservation granted, and nothing more. -/
def reservedShares (xs : List Share) : List Share := xs.map (fun x => { x with grant := x.r })

theorem reservedShares_inBounds (xs : List Share) : ∀ x ∈ reservedShares xs, x.InBounds := by
  intro x hx
  obtain ⟨x, -, rfl⟩ := List.mem_map.1 hx
  exact ⟨Nat.le_refl _, Nat.le_max_left _ _⟩

theorem map_terms_reservedShares (xs : List Share) : (reservedShares xs).map Share.terms = xs.map Share.terms := by
  rw [reservedShares, List.map_map]
  rfl

/-- The bridles raise the reservations by no more than the spare. -/
theorem bridles_raises (rot cap : Nat) {xs : List Share} (hd : (xs.map Share.slot).Nodup) :
    ∃ n ≤ cap - sumOf (xs.map Share.r), Raises (reservedShares xs) (bridles rot cap xs) n := by
  have hslots : ((reservedShares xs).map Share.slot).Nodup := by
    rwa [Share.map_slot_eq, map_terms_reservedShares, ← Share.map_slot_eq]
  have hr : (reservedShares xs).map Share.r = xs.map Share.r := by
    rw [reservedShares, List.map_map]
    rfl
  rw [← hr]
  exact iter_bridlePass_raises 4 hslots (reservedShares_inBounds xs)

theorem bridles_terms (rot cap : Nat) {xs : List Share} (hd : (xs.map Share.slot).Nodup) :
    (bridles rot cap xs).map Share.terms = xs.map Share.terms := by
  obtain ⟨n, -, h⟩ := bridles_raises rot cap hd
  exact h.terms.trans (map_terms_reservedShares xs)

/-- R26: reservations that fit are granted in full, and the passes stay within what they leave. -/
theorem bridles_within_capacity (rot cap : Nat) {xs : List Share} (hd : (xs.map Share.slot).Nodup)
    (hfit : sumOf (xs.map Share.r) ≤ cap) : sumOf ((bridles rot cap xs).map Share.grant) ≤ cap := by
  obtain ⟨n, hn, h⟩ := bridles_raises rot cap hd
  have hr : (reservedShares xs).map Share.grant = xs.map Share.r := by
    rw [reservedShares, List.map_map]
    rfl
  rw [h.granted, hr]
  omega

/-- R26: a domain's place, reservation, ceiling and demand stand, and its grant is within them. -/
theorem bridles_getElem_inBounds (rot cap : Nat) {xs : List Share} (hd : (xs.map Share.slot).Nodup) {i : Nat} {x y : Share}
    (hx : xs[i]? = some x) (hy : (bridles rot cap xs)[i]? = some y) :
    y.slot = x.slot ∧ x.r ≤ y.grant ∧ y.grant ≤ max x.r (min x.c x.d) := by
  obtain ⟨n, -, h⟩ := bridles_raises rot cap hd
  have hb : y.InBounds := h.inBounds (reservedShares_inBounds xs) y (List.mem_of_getElem? hy)
  have ht := congrArg (·[i]?) (bridles_terms rot cap hd)
  simp only [List.getElem?_map, hx, hy, Option.map_some, Option.some.injEq, Share.terms, Prod.mk.injEq] at ht
  obtain ⟨hslot, hr, hc, hd⟩ := ht
  rw [Share.InBounds, hr, hc, hd] at hb
  exact ⟨hslot, hb⟩

/-- R25, R195: reservations that exceed the capacity are scaled down to it. -/
theorem State.sumOf_shareOf_r_le (s : State) (next : Bool) (demand : FMap Nat) (cap cls idx : Nat) (slots : List Nat) :
    sumOf ((slots.map (s.shareOf next demand cap
      (sumOf (slots.map (fun y => s.bridleField next y fBridleReserve (cls * 256 + idx)))) cls idx)).map Share.r) ≤ cap := by
  rw [List.map_map]
  set reserve := fun y => s.bridleField next y fBridleReserve (cls * 256 + idx)
  by_cases hfit : sumOf (slots.map reserve) ≤ cap
  · refine le_trans (le_of_eq ?_) hfit
    congr 1
    refine List.map_congr_left fun y _ => ?_
    simp [State.shareOf, hfit, reserve]
  · refine le_trans (le_of_eq ?_) (sumOf_proportion_le cap (slots.map reserve))
    rw [List.map_map]
    congr 1
    refine List.map_congr_left fun y _ => ?_
    simp [State.shareOf, hfit, reserve, Nat.mul_comm]

end Sys2Proof.Machine
end

section
open Sys2Proof.Machine

/-- Settles O49: reservations and then four passes, each of which only raises grants and by no more than the spare. -/
theorem bridlesStayWithinCapacity : Obligations.BridlesStayWithinCapacity := by
  refine ⟨fun rot cap xs hd hfit => bridles_within_capacity rot cap hd hfit, fun rot cap xs hd => ⟨?_, ?_⟩,
    State.sumOf_shareOf_r_le⟩
  · simpa using congrArg List.length (bridles_terms rot cap hd)
  · exact fun i _ x y hx hy => bridles_getElem_inBounds rot cap hd hx hy
end

section
/-! SUPPORT. The planner's rows: what the start of a stride does to the clock, and the rows of what the planner lets go. -/

namespace Sys2Proof.Machine

variable {s t u : State}

/-! ## The clock of a stride -/

/-- The counter, the snapshot's mark and the count of strides are as they were. -/
structure State.SameClock (s t : State) : Prop where
  count : t.str.count = s.str.count
  snap : t.str.snap = s.str.snap
  strides : t.pmu.strides = s.pmu.strides

theorem State.sameClock_iff : s.SameClock t ↔
    t.str.count = s.str.count ∧ t.str.snap = s.str.snap ∧ t.pmu.strides = s.pmu.strides :=
  ⟨fun ⟨hc, hs, hp⟩ => ⟨hc, hs, hp⟩, fun ⟨hc, hs, hp⟩ => ⟨hc, hs, hp⟩⟩

theorem State.SameClock.refl (s : State) : s.SameClock s := ⟨rfl, rfl, rfl⟩

theorem State.SameClock.trans (h : s.SameClock t) (k : t.SameClock u) : s.SameClock u :=
  ⟨k.count.trans h.count, k.snap.trans h.snap, k.strides.trans h.strides⟩

theorem State.SameClock.ite {b : Prop} [Decidable b] (h : s.SameClock t) (k : s.SameClock u) : s.SameClock (if b then t else u) := by
  split
  · exact h
  · exact k

theorem State.over_sameClock {α : Type} {f : State → α → State} {l : List α} (hf : ∀ x ∈ l, ∀ s : State, s.SameClock (f s x)) (s : State) :
    s.SameClock (s.over l f) := by
  induction l generalizing s with
  | nil => exact State.SameClock.refl s
  | cons x l ih =>
    exact (hf x List.mem_cons_self s).trans (ih (fun y hy => hf y (List.mem_cons_of_mem x hy)) (f s x))

/-- No counter that a register clears is one of the clock. -/
theorem counters_sameClock : ∀ c ∈ counters, ∀ (s : State) (f : Nat) (v : U64), s.SameClock (c.put s f v) := by
  simp [counters, countersA, countersB, countersC, State.sameClock_iff]

theorem State.clearCounters_sameClock (s : State) (mask : Nat) : s.SameClock (s.clearCounters mask) :=
  State.over_sameClock (fun c hc s => counters_sameClock c (List.mem_filter.1 hc).1 s s.owner 0) s

theorem State.clearDue_sameClock (s : State) : s.SameClock s.clearDue := by
  unfold State.clearDue
  split
  · exact State.SameClock.refl s
  · exact (State.clearCounters_sameClock s s.cntClear).trans ⟨rfl, rfl, rfl⟩

theorem State.admissionRecs_sameClock (s : State) : s.SameClock s.admissionRecs := by
  unfold State.admissionRecs
  split
  · exact State.SameClock.refl s
  · refine State.over_sameClock (fun k _ s => ?_) s
    dsimp only
    split <;> exact ⟨rfl, rfl, rfl⟩

theorem State.traceOut_sameClock (s : State) : s.SameClock s.traceOut := by
  unfold State.traceOut
  dsimp only
  split
  · exact ⟨rfl, rfl, rfl⟩
  · exact (State.admissionRecs_sameClock s).trans (State.SameClock.ite ⟨rfl, rfl, rfl⟩ ⟨rfl, rfl, rfl⟩)

/-- R15, R18: with a new stride the counter goes up by one, and its snapshot is yet to come. -/
theorem State.startStride_clock (s : State) : s.startStride.str.count = (s.str.count + 1) % 2 ^ 64 ∧ s.startStride.str.snap = false ∧
    s.startStride.pmu.strides = s.pmu.strides + 1 := by
  have ht := State.traceOut_sameClock s
  refine ⟨(State.clearDue_sameClock _).count.trans ?_, (State.clearDue_sameClock _).snap,
    (State.clearDue_sameClock _).strides.trans ?_⟩
  · exact congrArg (fun n => (n + 1) % 2 ^ 64) ht.count
  · exact congrArg (· + 1) ht.strides

/-! ## Rows -/

theorem State.strideBoundary_running {links : List (Nat × U64)} (hr : s.pmu.inReset = false) (hst : s.pmu.stage ≠ 7) :
    s.strideBoundary links = { ((s.startStride.capacityBoundary.boundaryControl.logScaled s.startStride).boundaryEngines
      links).slices.moversBoundary.retryFinishes.retryOwed.advance with ti.released := [] }.startWaiting.flushOut := by
  simp [State.strideBoundary, hr, hst]

theorem execDemandSnapshot_active (hn : s.str.snap = false) (hr : s.pmu.inReset = false) (ha : s.isActive = true) :
    execDemandSnapshot s = .next { s with
      str.demand := s.takeDemand, str.active := s.comingSlots, str.next := some (s.computeBridles true s.comingSlots s.takeDemand),
      str.snap := true }.streamsSnapshot := by
  have hst : (s.pmu.stage == 7) = false := by
    have h5 : s.pmu.stage = 5 := by simpa [State.isActive] using ha
    simp [h5]
  simp [execDemandSnapshot, hn, hr, hst, ha]

/-- An event that may end a dressage run changes the test block alone. -/
theorem State.diverge_eq_tst (s : State) (bit : Nat) : s.diverge bit = { s with tst := (s.diverge bit).tst } := by
  unfold State.diverge
  split <;> rfl

theorem execSliceOverrun_of_op {h cls idx units x : Nat} {op : Op} (hop : s.ops.tab.get? h = some op) (hx : op.slot = some x)
    (hc : cls < 8) (hi : idx < indexCount cls) : execSliceOverrun h cls idx units s = .next { s with
      tst := (s.diverge 0).tst, ras := (s.logE 0x0002 (some x) h s.str.count).ras, str.overrun := true,
      str.overrunCnt := cntAdd s.str.overrunCnt 1, str.overran := s.str.overran ++ [(x, s.str.count)],
      str.carry := s.str.carry.set (bridleKey x cls idx) (s.str.carry.getD (bridleKey x cls idx) 0 + units) } := by
  simp only [execSliceOverrun, hop, hx, hc, hi, and_self, if_true]
  rw [State.diverge_eq_tst s 0]
  rfl

/-- R20, R21: a held access to a pinned line that is admitted charges its head and is tried. -/
theorem State.admitAccess_pinned {id ext off : Nat} {h a : Access} (hh : s.sh.held.get? id = some h) (hr : s.retarget h = .ok a)
    (had : s.admissible id a = true) (ht : a.target = .pinned ext off) (ho : a.origin = none)
    (hu : u = (s.charge a.slot 0 (headOf a.func) 1).charge a.slot 1 (headOf a.func) 1) :
    s.admitAccess id = ({ u with
      sh.held := u.sh.held.del id, sh.waiting := u.sh.waiting.set id { a with stride := u.str.count } }.creditBack a.credit).tryAccess id := by
  simp [State.admitAccess, State.lookUp, hh, hr, had, ht, ho, hu]

theorem State.admitAccess_unmapped {id dpa : Nat} {h : Access} (hh : s.sh.held.get? id = some h) (hr : s.retarget h = .error dpa) :
    s.admitAccess id = ({ s with sh.held := s.sh.held.del id }.logUnmapped h.ld dpa).answerUnmapped h := by
  simp [State.admitAccess, hh, hr]

theorem State.takeDue_of_contains {kind id : Nat} (h : s.atBoundary.contains (kind, id, 0) = true) :
    s.takeDue kind id = some { s with atBoundary := s.atBoundary.filter (· != (kind, id, 0)) } := by
  simp only [State.takeDue, h, if_true]

end Sys2Proof.Machine
end

section
open Sys2Proof Sys2Proof.Machine

/-- Settles O1: the clock goes on with the stride, and each row runs on the case that its hypotheses pick. -/
theorem plannerRowsComplete : Obligations.PlannerRowsComplete := by
  refine ⟨fun links s hr hst => ⟨_, rfl, congrArg Host.Outcome.next (State.strideBoundary_running hr hst)⟩, State.startStride_clock,
    fun s hn hr ha => execDemandSnapshot_active hn hr ha, fun s => rfl,
    fun h cls idx units x op s hop hx hc hi => execSliceOverrun_of_op hop hx hc hi,
    fun id ext off h a s ha hh hr had ht ho => ⟨_, rfl, ?_⟩, fun id dpa h s ha hh hr => ?_, fun die s => rfl, fun s u hb hu => ?_⟩
  · simp only [exec, execAccessAdmission, ha, if_true, State.admitAccess_pinned hh hr had ht ho rfl]
  · simp only [exec, execAccessAdmission, ha, if_true, State.admitAccess_unmapped hh hr]
  · subst hu
    simp only [exec, execStagingClaimGrant, State.takeDue_of_contains hb]
end

section
/-! SUPPORT. Register writes: what a write that is ignored changes, what each selector and control takes, and that doorbells and the
registers of queue pair 0 stay within the queues, the log and the outputs. -/

namespace Sys2Proof.Machine

variable {s t u : State} {func off num : Nat} {part : Part} {val : U64}

/-! ## Ignored writes -/

theorem State.logRated_eq_ras (key code : Nat) (slot : Option Nat) (a b : Nat) :
    ∃ r, s.logRated key code slot a b = { s with ras := r } := by
  unfold State.logRated
  split
  · exact ⟨_, rfl⟩
  · exact ⟨_, rfl⟩

/-- R573: a write that is ignored changes the log alone. -/
theorem State.ignored_eq_ras (s : State) (func off val : Nat) : ∃ r, s.ignored func off val = { s with ras := r } :=
  State.logRated_eq_ras func 0x0004 none off val

/-- What holds of the state with any log, and of a register's write, holds of that write by any function. -/
theorem State.ownerWrite_frame {P : State → Prop} {f : State → State} (hi : ∀ r, P { s with ras := r }) (hf : P (f s)) :
    P (s.ownerWrite func off val f) := by
  unfold State.ownerWrite
  split
  · exact hi s.ras
  · split
    · exact hf
    · obtain ⟨r, hr⟩ := State.ignored_eq_ras s func off val.toNat
      exact hr ▸ hi r

theorem State.ownerWrite_of_owner (f : State → State) (hu : s.regUp func = true) (ho : s.isOwner func = true) :
    s.ownerWrite func off val f = f s := by
  simp [State.ownerWrite, hu, ho]

theorem State.ownerWrite_of_not_owner (f : State → State) (hu : s.regUp func = true) (ho : s.isOwner func = false) :
    s.ownerWrite func off val f = s.ignored func off val.toNat := by
  simp [State.ownerWrite, hu, ho]

/-! ## Selectors and controls -/

theorem State.writeBridleSel_eq (s : State) (func : Nat) (part : Part) (val : U64) :
    ∃ v r, s.writeBridleSel func part val = { s with str.bridleSel := v, ras := r } := by
  unfold State.writeBridleSel
  obtain ⟨r, hr⟩ := State.ignored_eq_ras s func (reg 1 0x30) val.toNat
  dsimp only
  split
  · exact ⟨_, s.ras, rfl⟩
  · exact ⟨s.str.bridleSel, r, hr⟩

theorem State.writePcSel_eq (s : State) (func : Nat) (part : Part) (val : U64) :
    ∃ v r, s.writePcSel func part val = { s with dram.pcSel := v, ras := r } := by
  unfold State.writePcSel
  obtain ⟨r, hr⟩ := State.ignored_eq_ras s func (reg 3 0x08) val.toNat
  dsimp only
  split
  · exact ⟨_, s.ras, rfl⟩
  · exact ⟨s.dram.pcSel, r, hr⟩

theorem State.writeTempSel_eq (s : State) (func : Nat) (part : Part) (val : U64) :
    ∃ v r, s.writeTempSel func part val = { s with pmu.tempSel := v, ras := r } := by
  unfold State.writeTempSel
  obtain ⟨r, hr⟩ := State.ignored_eq_ras s func (reg 13 0x08) val.toNat
  dsimp only
  split
  · exact ⟨_, s.ras, rfl⟩
  · exact ⟨s.pmu.tempSel, r, hr⟩

theorem State.writeTrace_eq (s : State) (func : Nat) (part : Part) (val : U64) :
    ∃ v r, s.writeTrace func part val = { s with tst.trace := v, ras := r } := by
  unfold State.writeTrace
  obtain ⟨r, hr⟩ := State.ignored_eq_ras s func (reg 14 0x40) val.toNat
  dsimp only
  split
  · exact ⟨s.tst.trace, r, hr⟩
  · exact ⟨_, s.ras, rfl⟩

theorem State.writeCntClear_eq (s : State) (func : Nat) (part : Part) (val : U64) :
    ∃ v r, s.writeCntClear func part val = { s with cntClear := v, ras := r } := by
  unfold State.writeCntClear
  obtain ⟨r, hr⟩ := State.ignored_eq_ras s func 0x60 val.toNat
  split
  · exact ⟨_, s.ras, rfl⟩
  · exact ⟨s.cntClear, r, hr⟩

theorem State.writeSemForce_eq_ras (s : State) (func : Nat) (part : Part) (val : U64) :
    ∃ r, s.writeSemForce func part val = { s with ras := r } := by
  unfold State.writeSemForce
  have hi := State.ignored_eq_ras s func (reg 14 0x38) val.toNat
  dsimp only
  split
  · split
    · exact ⟨_, rfl⟩
    · exact hi
  · exact hi

/-! ## Doorbells and queue pair 0 -/

/-- Whether another state differs from this one only in the queues, the log and the outputs. -/
def State.onlyQueues (s t : State) : Prop := t = { s with q := t.q, ras := t.ras, out := t.out }

theorem State.onlyQueues_refl (s : State) : s.onlyQueues s := rfl

theorem State.onlyQueues_trans (h : s.onlyQueues t) (k : t.onlyQueues u) : s.onlyQueues u := by
  unfold State.onlyQueues at *
  rw [h] at k
  exact k

theorem State.onlyQueues_ite {b : Prop} [Decidable b] (h : s.onlyQueues t) (k : s.onlyQueues u) :
    s.onlyQueues (if b then t else u) := by
  split
  · exact h
  · exact k

theorem State.modQp_onlyQueues (g : Qp → Qp) : s.onlyQueues (s.modQp func num g) := rfl

theorem State.modCmq_onlyQueues (g : Cmq → Cmq) : s.onlyQueues (s.modCmq func g) := rfl

theorem State.ignored_onlyQueues (v : Nat) : s.onlyQueues (s.ignored func off v) := by
  obtain ⟨r, hr⟩ := State.ignored_eq_ras s func off v
  rw [hr]
  rfl

theorem State.updInta_onlyQueues : s.onlyQueues (s.updInta func) := by
  unfold State.updInta
  exact State.onlyQueues_ite (State.onlyQueues_refl s) rfl

theorem State.faultQp_onlyQueues (cause : Nat) : s.onlyQueues (s.faultQp func num cause) := by
  unfold State.faultQp
  split
  · exact State.onlyQueues_refl s
  · exact State.onlyQueues_ite (State.onlyQueues_refl s) rfl

theorem State.sqTailWrite_onlyQueues (size : Nat) : s.onlyQueues (s.sqTailWrite func num size val) := by
  unfold State.sqTailWrite
  split
  · exact State.onlyQueues_ite
      (State.onlyQueues_ite (State.faultQp_onlyQueues 0) (State.modQp_onlyQueues _)) (State.ignored_onlyQueues _)
  · exact State.ignored_onlyQueues _

theorem State.rqHeadWrite_onlyQueues (size : Nat) : s.onlyQueues (s.rqHeadWrite func num size val) := by
  unfold State.rqHeadWrite
  split
  · exact State.onlyQueues_ite (State.onlyQueues_ite (State.faultQp_onlyQueues 0)
      (State.onlyQueues_trans (State.modQp_onlyQueues _) State.updInta_onlyQueues)) (State.ignored_onlyQueues _)
  · exact State.ignored_onlyQueues _

theorem State.writeCtrl_onlyQueues : s.onlyQueues (s.writeCtrl func part val) := by
  unfold State.writeCtrl
  exact State.onlyQueues_ite (State.onlyQueues_trans (State.modCmq_onlyQueues _)
    (State.onlyQueues_trans (State.modQp_onlyQueues _) State.updInta_onlyQueues)) (State.ignored_onlyQueues _)

theorem State.writeBase_onlyQueues (reply : Bool) : s.onlyQueues (s.writeBase func reply part val) := by
  unfold State.writeBase
  exact State.onlyQueues_ite (State.ignored_onlyQueues _) (State.modCmq_onlyQueues _)

end Sys2Proof.Machine
end

section
open Sys2Proof Sys2Proof.Machine

/-- Settles O57: each write runs on the register that it names, or is turned away with at most a log entry. -/
theorem registerWritesTouchOnlyTheirRegister : Obligations.RegisterWritesTouchOnlyTheirRegister := by
  refine ⟨fun f part val s t h => ?_, fun f part val s t h => ?_, fun f part val s t h => ?_, fun f part val s t h => ?_,
    fun f part val s t h => ?_, fun f part val s t h => ?_, fun c f s t hc h => ?_⟩
  · obtain ⟨v, r, hw⟩ := State.writeBridleSel_eq s f part val
    cases h
    exact State.ownerWrite_frame (P := fun t => t = { s with str.bridleSel := t.str.bridleSel, ras := t.ras }) (fun _ => rfl) (by rw [hw])
  · obtain ⟨v, r, hw⟩ := State.writePcSel_eq s f part val
    cases h
    exact State.ownerWrite_frame (P := fun t => t = { s with dram.pcSel := t.dram.pcSel, ras := t.ras }) (fun _ => rfl) (by rw [hw])
  · obtain ⟨v, r, hw⟩ := State.writeTempSel_eq s f part val
    cases h
    exact State.ownerWrite_frame (P := fun t => t = { s with pmu.tempSel := t.pmu.tempSel, ras := t.ras }) (fun _ => rfl) (by rw [hw])
  · obtain ⟨v, r, hw⟩ := State.writeCntClear_eq s f part val
    cases h
    rw [hw]
    split <;> rfl
  · obtain ⟨r, hw⟩ := State.writeSemForce_eq_ras s f part val
    cases h
    exact State.ownerWrite_frame (P := fun t => t = { s with ras := t.ras }) (fun _ => rfl) (by rw [hw])
  · obtain ⟨v, r, hw⟩ := State.writeTrace_eq s f part val
    cases h
    exact State.ownerWrite_frame (P := fun t => t = { s with tst.trace := t.tst.trace, ras := t.ras }) (fun _ => rfl) (by rw [hw])
  · obtain ⟨part, v, n, size, b, hc⟩ := hc
    simp only [List.mem_cons, List.not_mem_nil, or_false] at hc
    have hs := State.onlyQueues_refl s
    show s.onlyQueues t
    rcases hc with rfl | rfl | rfl | rfl | rfl | rfl | rfl <;> cases h
    · exact State.onlyQueues_ite (State.sqTailWrite_onlyQueues size) hs
    · exact State.onlyQueues_ite (State.rqHeadWrite_onlyQueues size) hs
    · exact State.onlyQueues_ite hs (State.onlyQueues_ite State.writeCtrl_onlyQueues hs)
    · exact State.onlyQueues_ite hs (State.onlyQueues_ite State.writeCtrl_onlyQueues hs)
    · exact State.onlyQueues_ite hs (State.onlyQueues_ite State.writeCtrl_onlyQueues hs)
    · exact State.onlyQueues_ite (State.writeBase_onlyQueues b) hs
    · exact State.onlyQueues_ite (State.faultQp_onlyQueues 1) hs
end

section
/-! SUPPORT. Rows of the register window, for a function that reaches it. -/

namespace Sys2Proof.Machine

variable {s : State} {func off : Nat}

/-- A 4-byte read, in each place that it can name: the doorbell window, a register, or neither. -/
theorem execLowHalfRead_up (hu : s.regUp func = true) : execLowHalfRead func off s = .next (if inDoorbells off then
    s.emit (.regData func off .low 0) else if regOffset off then s.readLow func off else s.emit (.ioUr func)) := by
  cases hr : regOffset off <;> simp [execLowHalfRead, hu, hr]

theorem execHighHalfRead_up (hu : s.regUp func = true) : execHighHalfRead func off s = .next (if inDoorbells off then
    s.emit (.regData func off .high 0) else if regOffset off then s.readHigh func off else s.emit (.ioUr func)) := by
  cases hr : regOffset off <;> simp [execHighHalfRead, hu, hr]

/-- A write of the register window that is aligned, of a size it takes and inside it (R498, R573, R574). -/
theorem State.windowWrite_inside {w : WinWrite} (hd : w.doorbell = false) (hsize : w.size = 4 ∨ w.size = 8)
    (halign : w.off % w.size = 0) (hend : w.off + w.size ≤ 0x100000) :
    s.windowWrite func w = if s.sees func (w.off / 8 * 8) = true
      then s.writeReg func (w.off / 8 * 8) (if w.size = 8 then .whole else if w.off % 8 = 0 then .low else .high) w.val
      else s.ignored func w.off w.val.toNat := by
  have hs : (w.size == 4 || w.size == 8) = true := by simpa using hsize
  simp [State.windowWrite, hd, hs, halign, hend]

theorem State.writeSemForce_preempts {val : U64} {m : Sem} (hm : s.ras.sems.get? (val.toNat % 1024) = some m) (hst : m.st = 2)
    (hl : s.tst.level = 2) : s.writeSemForce func .whole val = { s with
      ras.sems := s.ras.sems.set (val.toNat % 1024) { m with st := 3 }
      ras.cores := s.ras.cores.set m.holder { s.core m.holder with released := true } } := by
  simp [State.writeSemForce, hm, hst, hl]

end Sys2Proof.Machine
end

section
open Sys2Proof Sys2Proof.Machine

/-- Settles O31: reads by the place that they name, writes of the owner function by their register, every other as an ignored write. -/
theorem registerRowsComplete : Obligations.RegisterRowsComplete := by
  refine ⟨fun f s hu => ?_, fun f off s hu hd hr => ?_, fun f off s hu hd hr => ?_, fun f off s hu hd => ?_,
    fun f part val v s hu ho hv => ?_, fun f part val v s hu ho hv => ?_, fun f part val v s hu ho hv => ?_,
    fun f part val s hu => ?_, fun f n val m s hu ho hn hm hst hl => ?_, fun f part val v s hu ho hv => ?_,
    fun f part val s hu ho => ?_, fun f w s hu hd hsize halign hend => ?_, fun f w s hu hd => ?_⟩
  · simp [exec, execGlbLogPopRead, hu, State.popRead]
  · simp [exec, execLowHalfRead_up hu, execHighHalfRead_up hu, hd, hr]
  · simp [exec, execLowHalfRead_up hu, execHighHalfRead_up hu, hd, hr]
  · simp [exec, execLowHalfRead_up hu, execHighHalfRead_up hu, hd]
  · subst hv
    exact congrArg Host.Outcome.next (State.ownerWrite_of_owner _ hu ho)
  · subst hv
    exact congrArg Host.Outcome.next (State.ownerWrite_of_owner _ hu ho)
  · subst hv
    exact congrArg Host.Outcome.next (State.ownerWrite_of_owner _ hu ho)
  · simp [exec, execGlbCntClearWrite, hu, State.writeCntClear]
  · subst hn
    exact congrArg Host.Outcome.next ((State.ownerWrite_of_owner _ hu ho).trans (State.writeSemForce_preempts hm hst hl))
  · subst hv
    refine congrArg Host.Outcome.next ((State.ownerWrite_of_owner _ hu ho).trans ?_)
    simp [State.writeTrace]
  · exact ⟨congrArg Host.Outcome.next (State.ownerWrite_of_not_owner _ hu ho),
      congrArg Host.Outcome.next (State.ownerWrite_of_not_owner _ hu ho),
      congrArg Host.Outcome.next (State.ownerWrite_of_not_owner _ hu ho),
      congrArg Host.Outcome.next (State.ownerWrite_of_not_owner _ hu ho),
      congrArg Host.Outcome.next (State.ownerWrite_of_not_owner _ hu ho)⟩
  · simp [exec, execRegisterWrite, hu, State.windowWrite_inside hd hsize halign hend]
  · simp [exec, execRegisterWrite, hu, State.windowWrite, hd]
end

section
/-! SUPPORT. A message that is delivered to a slot: what it does there, by its kind of virtual channel. -/

namespace Sys2Proof.Machine

variable {s u t : State} {n slot mop : Nat} {m q : Msg}

/-- A request for a slot takes effect there, its slots are credited and what waits is sent on (R21, R390). -/
theorem State.takeMsg_slotRequest (hq : q = { m with mop := mop }) (hd : s.delivered n q = some u) (ha : u.actsOn q = some slot)
    (hn : needsSlot mop = true) (hv : mopVc mop = 0) (ht : u.slotMsg slot q = t) :
    s.takeMsg n { m with mop := mop } = (t.credited n q).pump := by
  subst hq ht
  rw [State.takeMsg_delivered hd, if_pos hv, State.takeUp_slot ha hn]

/-- A snoop or a control message for a slot takes effect there, and what waits is sent on (R390). -/
theorem State.takeMsg_slotControl (hq : q = { m with mop := mop }) (hd : s.delivered n q = some u) (ha : u.actsOn q = some slot)
    (hn : needsSlot mop = true) (hv : mopVc mop ≠ 0) (ht : u.slotMsg slot q = t) :
    s.takeMsg n { m with mop := mop } = t.pump := by
  subst hq ht
  rw [State.takeMsg_delivered hd, if_neg hv, State.takeUp_slot ha hn]

end Sys2Proof.Machine
end

section
open Sys2Proof Sys2Proof.Machine

/-- Settles O18: the first nine rows are requests, each other row a snoop or a control message, and each MOP picks its own effect. -/
theorem slotMessagesComplete : Obligations.SlotMessagesComplete := by
  unfold Obligations.SlotMessagesComplete
  refine ⟨?_, ?_, ?_, ?_, ?_, ?_, ?_, ?_, ?_, ?_, ?_, ?_, ?_, ?_, ?_, ?_⟩
  iterate 9
    · intro n slot m q s u hq hd ha
      exact congrArg Host.Outcome.next
        (State.takeMsg_slotRequest hq hd ha (by decide) (by decide) (by simp only [State.slotMsg, hq]))
  iterate 6
    · intro n slot m q s u hq hd ha
      exact congrArg Host.Outcome.next
        (State.takeMsg_slotControl hq hd ha (by decide) (by decide) (by simp only [State.slotMsg, hq]))
  · rintro n m q s rfl hl hw
    exact congrArg Host.Outcome.next (State.takeMsg_waits hl hw)
end

section
open Sys2Proof Sys2Proof.Machine

/-- Settles O35: each field of the reset state is the value named, and its memory lists no byte. -/
theorem resetStateHolds : Obligations.ResetStateHolds :=
  ⟨rfl, rfl, rfl, rfl, rfl, rfl, rfl, rfl, Memory.wf_nil⟩
end

section
/-! SUPPORT. Finite maps: what a key reads after it is set or changed. -/

namespace Sys2Proof.FMap

variable {α : Type}

@[simp] theorem get?_set_self (m : FMap α) (i : Nat) (a : α) : (m.set i a).get? i = some a := by
  induction m with
  | nil => simp [set, get?]
  | cons x m ih =>
    obtain ⟨k, v⟩ := x
    simp only [set]
    split
    · simp [get?]
    · split
      · simp [get?]
      · simp [get?, *]

@[simp] theorem get?_modify_self (m : FMap α) (i : Nat) (f : α → α) : (m.modify i f).get? i = (m.get? i).map f := by
  unfold modify
  cases h : m.get? i with
  | some v => simp
  | none => simpa using h

end Sys2Proof.FMap
end

section
/-! SUPPORT. Queue pairs and SEQ: what a change of a queue pair leaves at its place, and when a packet is in order (R62). -/

namespace Sys2Proof.Machine

variable {s t v : State} {c : Cmd} {o : Origin} {p : Pkt} {f n x : Nat} {w : List WinEnt}

@[simp] theorem State.modQp_qp (g : Qp → Qp) : (s.modQp f n g).qp f n = (s.qp f n).map g :=
  FMap.get?_modify_self s.q.qps (qpKey f n) g

@[simp] theorem State.charge_q (a b d k : Nat) : (s.charge a b d k).q = s.q := by
  unfold State.charge
  dsimp only
  split <;> rfl

@[simp] theorem State.charge_qp (a b d k : Nat) : (s.charge a b d k).qp f n = s.qp f n := by
  unfold State.qp
  rw [State.charge_q]

/-! ## Packets in order -/

/-- Whether a packet starts a management queue again: NOP with SEQ 0 (R44). -/
def restarts (c : Cmd) (o : Origin) (p : Pkt) : Bool := managed o && (c.opcode == 0x0800 && p.seq.toNat == 0)

/-- The window once a packet has entered it. -/
def windowWith (w : List WinEnt) (x : Nat) : List WinEnt :=
  prune (w ++ [{ seq := x, status := stInProgress, handle := none }]) ((x + 1) % 2 ^ 32)

theorem State.inOrder_eq (h : s.seqOf o = (x, w)) : s.inOrder c o p = if restarts c o p = true then some (s.setSeq o 1 [])
    else if p.seq.toNat = x then some (s.setSeq o ((x + 1) % 2 ^ 32) (windowWith w x)) else none := by
  unfold State.inOrder
  rw [h]
  cases o with
  | qp f n =>
    refine ite_congr rfl (fun _ => rfl) fun _ => ite_congr rfl (fun hx => ?_) fun _ => rfl
    rw [hx]
    rfl
  | mgmt e d =>
    refine ite_congr (by simp [restarts, managed]) (fun _ => rfl) fun _ => ite_congr rfl (fun hx => ?_) fun _ => rfl
    rw [hx]
    rfl

theorem State.inOrder_qp_eq_some {q : Qp} (hq : s.qp f n = some q) (h : s.inOrder c (.qp f n) p = some t) :
    p.seq.toNat = q.expected ∧ t = s.setSeq (.qp f n) ((q.expected + 1) % 2 ^ 32) (windowWith q.window q.expected) := by
  have hs : s.seqOf (.qp f n) = (q.expected, q.window) := by simp [State.seqOf, hq]
  rw [State.inOrder_eq hs, if_neg (by simp [restarts, managed])] at h
  split at h
  · exact ⟨‹_›, (Option.some.inj h).symm⟩
  · cases h

/-! ## The slot that a queue is bound to -/

theorem State.modQp_bind_slot {g : Qp → Qp} (hg : ∀ q, (g q).slot = q.slot) :
    ((s.modQp f n g).qp f n).bind Qp.slot = (s.qp f n).bind Qp.slot := by
  rw [State.modQp_qp]
  cases s.qp f n with
  | none => rfl
  | some q => exact hg q

/-- A queue pair that its next `e` entries are fetched from. -/
def Qp.fetched (q : Qp) (e : Nat) : Qp :=
  { q with head := (q.head + e) % q.size, unanswered := q.unanswered + 1, fetchedNow := q.fetchedNow + e }

theorem State.fetch_qp {e : Nat} {q : Qp} : (s.fetch f n e q).qp f n = (s.qp f n).map (·.fetched e) := by
  unfold State.fetch
  dsimp only
  split
  · rw [State.charge_qp]
    exact FMap.get?_modify_self s.q.qps (qpKey f n) _
  · exact FMap.get?_modify_self s.q.qps (qpKey f n) _

theorem State.receivePacket_qp (h : s.receivePacket c (.qp f n) p = some v) :
    ∃ q, s.qp f n = some q ∧ v = s.fetch f n c.entries q := by
  unfold State.receivePacket at h
  dsimp only at h
  split at h
  · cases h
  · split at h
    · exact ⟨_, ‹_›, (Option.some.inj h).symm⟩
    · cases h

theorem State.receivePacket_bind_slot (h : s.receivePacket c (.qp f n) p = some v) :
    (v.qp f n).bind Qp.slot = (s.qp f n).bind Qp.slot := by
  obtain ⟨q, hq, rfl⟩ := State.receivePacket_qp h
  rw [State.fetch_qp, hq]
  rfl

theorem State.setSeq_bind_slot : ((s.setSeq (.qp f n) x w).qp f n).bind Qp.slot = (s.qp f n).bind Qp.slot :=
  State.modQp_bind_slot fun _ => rfl

theorem State.inOrder_bind_slot (h : s.inOrder c (.qp f n) p = some t) :
    (t.qp f n).bind Qp.slot = (s.qp f n).bind Qp.slot := by
  rw [State.inOrder_eq (Prod.mk.eta (p := s.seqOf _)).symm, if_neg (by simp [restarts, managed])] at h
  split at h
  · cases h
    exact State.setSeq_bind_slot
  · cases h

theorem State.onlyAnswers_isOwner (h : s.onlyAnswers t) : t.isOwner f = s.isOwner f := by
  rw [h]
  rfl

/-- From its arrival to its checks a packet keeps the slot that its queue pair is bound to, and the owner. -/
theorem State.binding_at_checks (hr : s.receivePacket c (.qp f n) p = some v) (hi : v.inOrder c (.qp f n) p = some t) :
    t.bound (.qp f n) = s.bound (.qp f n) ∧ t.unbound (.qp f n) = s.unbound (.qp f n) := by
  have ho : t.isOwner f = s.isOwner f :=
    State.onlyAnswers_isOwner (State.onlyAnswers_trans (State.receivePacket_answers hr) (State.inOrder_answers hi))
  have hs := (State.inOrder_bind_slot hi).trans (State.receivePacket_bind_slot hr)
  simp only [State.bound, State.unbound, ho, hs, and_self]

end Sys2Proof.Machine
end

section
/-! SUPPORT. The checks of R587 on a packet, one lemma per check that turns it away. -/

namespace Sys2Proof.Machine

variable {s t v : State} {c : Cmd} {o : Origin} {p : Pkt} {img : Option Image} {x st : Nat}

/-- An opcode that the stage rule lets through before MEMORY_ACTIVE (R559). -/
def Cmd.early (c : Cmd) : Bool := c.opcode / 256 == 0x0A || (decide (0x0B20 ≤ c.opcode) && decide (c.opcode ≤ 0x0B24))

/-- Whether a packet names another slot than the one its queue is bound to (R39). -/
def State.namesForeign (s : State) (o : Origin) (p : Pkt) : Bool := (s.bound o).any (slotOf p != ·)

/-- Whether the parking rule turns a command away (R433). -/
def State.parks (s : State) (c : Cmd) (o : Origin) : Bool :=
  (s.bound o).any (fun x => (s.domSt x == 2 || s.domSt x == 3) && !([0x01, 0x0B, 0x08].contains (c.opcode / 256)))

theorem State.checks_eq : t.checks c o p =
    if !t.accepts c o then some stBadOpcode
    else if !t.isActive && !c.early then some stBusyRetry
    else if t.namesForeign o p then some stNotPermitted
    else if t.unbound o && c.dom then some stNotPermitted
    else if c.long && !managed o && (p.progAddr == 0 || p.progAddr.toNat % 64 != 0) then some stBadParam
    else if !c.long && p.progAddr != 0 then some stBadParam
    else if t.parks c o then some stBusyRetry
    else none := by
  unfold State.checks State.namesForeign State.parks
  dsimp only
  cases t.bound o <;> cases o <;> rfl

theorem State.checks_unaccepted (ha : t.accepts c o = false) : t.checks c o p = some stBadOpcode := by
  simp [State.checks_eq, ha]

theorem State.checks_foreign (ha : t.accepts c o = true) (hact : t.isActive = true) (hb : t.bound o = some x) (hp : slotOf p ≠ x) :
    t.checks c o p = some stNotPermitted := by
  simp [State.checks_eq, State.namesForeign, ha, hact, hb, hp]

/-- PROG_ADDR (R43): zero with a short opcode, and the aligned address of a record with a long one on a queue pair. -/
theorem State.checks_progAddr (ha : t.accepts c o = true) (hact : t.isActive = true) (hb : ∀ x, t.bound o = some x → slotOf p = x)
    (hu : t.unbound o = true → c.dom = false)
    (hp : if c.long then managed o = false ∧ (p.progAddr = 0 ∨ p.progAddr.toNat % 64 ≠ 0) else p.progAddr ≠ 0) :
    t.checks c o p = some stBadParam := by
  have hown : t.namesForeign o p = false := by
    rw [State.namesForeign, Option.any_eq_false_iff_get]
    exact fun h => by simpa using hb _ (Option.some_get h).symm
  have hunb : (t.unbound o && c.dom) = false := by simpa using hu
  cases hl : c.long with
  | false =>
    have hn : (p.progAddr != 0) = true := by simpa [hl] using hp
    simp only [State.checks_eq, ha, hact, hown, hunb, hl, hn]
    rfl
  | true =>
    have hn : (!managed o && (p.progAddr == 0 || p.progAddr.toNat % 64 != 0)) = true := by simpa [hl] using hp
    simp only [State.checks_eq, ha, hact, hown, hunb, hl, hn, Bool.true_and]
    rfl

/-- A packet that names another slot than its queue's passes no checks, whatever else they find (R39). -/
theorem State.checks_isSome_of_foreign (hb : t.bound o = some x) (hp : slotOf p ≠ x) : (t.checks c o p).isSome = true := by
  have hf : t.namesForeign o p = true := by simp [State.namesForeign, hb, hp]
  rw [State.checks_eq, if_pos hf]
  split
  · rfl
  · split <;> rfl

/-- A domain-scope command passes no checks on a queue pair 0 bound to no slot (R39). -/
theorem State.checks_isSome_of_unbound (hu : t.unbound o = true) (hd : c.dom = true) : (t.checks c o p).isSome = true := by
  rw [State.checks_eq, hu, hd]
  split
  · rfl
  · split
    · rfl
    · split <;> rfl

theorem State.execute_turned (h : t.checks c o p = some st) : t.execute c o p = t.answer c.opcode o p st 0 0 := by
  unfold State.execute
  rw [h]
  rfl

/-- A packet that meets checks which none of its kind passes has no effect but its answer. -/
theorem State.packet_answers_of_checks
    (h : ∀ v t, s.receivePacket c o p = some v → v.inOrder c o p = some t → (t.checks c o p).isSome = true) :
    s.onlyAnswers (s.packet c img o p) :=
  State.packet_answers fun v t hr hi => by
    obtain ⟨st, hst⟩ := Option.isSome_iff_exists.1 (h v t hr hi)
    rw [State.execute_turned hst]
    exact State.reply_answers State.onlyAnswers_refl

end Sys2Proof.Machine
end

section
open Sys2Proof Sys2Proof.Machine

/-- Settles O59: between its arrival and the checks a packet leaves its queue's binding alone, and so the check of its slot meets the
binding that the packet found. -/
theorem foreignSlotPacketsHaveNoEffect : Obligations.ForeignSlotPacketsHaveNoEffect := by
  refine ⟨fun c img f n x p s hb hp => ?_, fun c img f n p s hu hd => ?_⟩
  · refine State.packet_answers_of_checks fun v t hr hi => ?_
    exact State.checks_isSome_of_foreign ((State.binding_at_checks hr hi).1.trans hb) hp
  · refine State.packet_answers_of_checks fun v t hr hi => ?_
    exact State.checks_isSome_of_unbound ((State.binding_at_checks hr hi).2.trans hu) hd
end

section
/-! SUPPORT. Commands that only ask: whatever they find, they answer at once and change no more than an answer does. -/

namespace Sys2Proof.Machine

variable {s t : State} {c : Cmd} {o : Origin} {p : Pkt} {img : Option Image}

/-- What a command has done that answers at once and has no other effect. -/
def State.Answered (s : State) (x : State × Ans) : Prop :=
  s.onlyAnswers x.1 ∧ ∃ st d r0 r1 l, x.2 = .now st d r0 r1 l

theorem State.answered_done (st r0 r1 : Nat) : s.Answered (done s st r0 r1) := ⟨rfl, st, 0, r0, r1, [], rfl⟩

theorem State.answered_deny (st : Nat) : s.Answered (deny s st) := ⟨rfl, st, 0, 0, 0, [], rfl⟩

theorem State.answered_doneData (o : Origin) (buf : Nat) (b : List Byte) (st r0 r1 : Nat) :
    s.Answered (doneData s o buf b st r0 r1) :=
  ⟨State.returnData_answers State.onlyAnswers_refl, st, 0, r0, r1, _, rfl⟩

theorem State.answered_ite {b : Prop} [Decidable b] {x y : State × Ans} (h : s.Answered x) (k : s.Answered y) :
    s.Answered (if b then x else y) := by
  split
  · exact h
  · exact k

/-- A command that only asks. -/
def Cmd.Asks (c : Cmd) : Prop := ∀ s o p, State.Answered s (c.run s o p)

theorem State.packet_asks (h : c.Asks) : s.onlyAnswers (s.packet c img o p) :=
  State.packet_answers fun _ t _ _ => by
    obtain ⟨ha, st, d, r0, r1, l, hn⟩ := h t o p
    exact State.execute_answers ha (fun _ _ _ _ _ hs => by rw [hn] at hs; cases hs) (fun _ _ _ _ _ _ _ hs => by rw [hn] at hs; cases hs)

theorem cNop_asks : cNop.Asks := fun _ _ _ => State.answered_done ..

theorem cDomainQuery_asks : cDomainQuery.Asks := fun _ _ _ => State.answered_done ..

theorem cFwQuery_asks : cFwQuery.Asks := fun _ _ _ => State.answered_done ..

theorem cOpStatusRead_asks : cOpStatusRead.Asks := fun s o p => by
  dsimp only [cOpStatusRead, shortCmd]
  split
  · exact State.answered_deny _
  · exact State.answered_ite (State.answered_deny _) (State.answered_done ..)

theorem cConfigRead_asks : cConfigRead.Asks := fun _ _ _ =>
  State.answered_ite (State.answered_deny _) (State.answered_ite (State.answered_deny _)
    (State.answered_ite (State.answered_done ..) (State.answered_doneData ..)))

theorem cCatalogueRead_asks : cCatalogueRead.Asks := fun _ _ _ => State.answered_doneData ..

theorem cPlateQuery_asks : cPlateQuery.Asks := fun _ _ _ => State.answered_ite (State.answered_deny _) (State.answered_done ..)

theorem cSegmentQuery_asks : cSegmentQuery.Asks := fun s o p => by
  dsimp only [cSegmentQuery, shortCmd]
  split
  · exact State.answered_deny _
  · exact State.answered_done ..

theorem cTableRead_asks : cTableRead.Asks := fun s o p => by
  dsimp only [cTableRead, shortCmd]
  split
  · exact State.answered_deny _
  · exact State.answered_ite (State.answered_deny _) (State.answered_doneData ..)

theorem cOperQuery_asks : cOperQuery.Asks := fun s o p => by
  dsimp only [cOperQuery, shortCmd]
  split
  · exact State.answered_deny _
  · exact State.answered_done ..

theorem cStreamQuery_asks : cStreamQuery.Asks := fun s o p => by
  dsimp only [cStreamQuery, shortCmd]
  split
  · exact State.answered_deny _
  · exact State.answered_done ..

theorem cImpressionQuery_asks : cImpressionQuery.Asks := fun s o p => by
  dsimp only [cImpressionQuery, shortCmd]
  split
  · exact State.answered_deny _
  · exact State.answered_done ..

theorem cDmaChanQuery_asks : cDmaChanQuery.Asks := fun s o p => by
  dsimp only [cDmaChanQuery, shortCmd]
  split
  · exact State.answered_deny _
  · exact State.answered_done ..
  · exact State.answered_done ..

theorem cExtentList_asks : cExtentList.Asks := fun _ _ _ => State.answered_ite (State.answered_deny _) (State.answered_doneData ..)

theorem cHerdRead_asks : cHerdRead.Asks := fun _ _ _ => State.answered_ite (State.answered_deny _) (State.answered_doneData ..)

theorem cDressageQuery_asks : cDressageQuery.Asks := fun _ _ _ =>
  State.answered_ite (State.answered_deny _) (State.answered_doneData ..)

theorem cLogRead_asks : cLogRead.Asks := fun _ _ _ => State.answered_ite (State.answered_deny _) (State.answered_doneData ..)

end Sys2Proof.Machine
end

section
open Sys2Proof Sys2Proof.Machine

/-- Settles O58: each of the commands only asks, and a packet whose command only asks leaves no more than its answer. -/
theorem queryPacketsOnlyAnswer : Obligations.QueryPacketsOnlyAnswer := by
  rintro c s t ⟨o, p, hc⟩ h
  simp only [List.mem_cons, List.not_mem_nil, or_false] at hc
  rcases hc with rfl | rfl | rfl | rfl | rfl | rfl | rfl | rfl | rfl | rfl | rfl | rfl | rfl | rfl | rfl | rfl | rfl <;> cases h
  · exact State.packet_asks cNop_asks
  · exact State.packet_asks cOpStatusRead_asks
  · exact State.packet_asks cConfigRead_asks
  · exact State.packet_asks cCatalogueRead_asks
  · exact State.packet_asks cDomainQuery_asks
  · exact State.packet_asks cFwQuery_asks
  · exact State.packet_asks cPlateQuery_asks
  · exact State.packet_asks cSegmentQuery_asks
  · exact State.packet_asks cTableRead_asks
  · exact State.packet_asks cOperQuery_asks
  · exact State.packet_asks cStreamQuery_asks
  · exact State.packet_asks cImpressionQuery_asks
  · exact State.packet_asks cDmaChanQuery_asks
  · exact State.packet_asks cExtentList_asks
  · exact State.packet_asks cHerdRead_asks
  · exact State.packet_asks cDressageQuery_asks
  · exact State.packet_asks cLogRead_asks
end

section
/-! SUPPORT. Little-endian bytes (R6) and the layout of a command packet (R53), and the command that an OPCODE picks (R59). -/

namespace Sys2Proof.Machine

/-! ## Fields of bytes -/

@[simp] theorem length_le (n v : Nat) : (le n v).length = n := by
  induction n generalizing v with
  | zero => rfl
  | succ n ih => simp [le, ih]

@[simp] theorem length_zeros (n : Nat) : (zeros n).length = n := List.length_replicate

theorem leNat_le {n v : Nat} (h : v < 256 ^ n) : leNat (le n v) = v := by
  induction n generalizing v with
  | zero =>
    rw [Nat.pow_zero, Nat.lt_one_iff] at h
    rw [h]
    rfl
  | succ n ih =>
    have hq : v / 256 < 256 ^ n := Nat.div_lt_of_lt_mul (by rwa [Nat.pow_succ'] at h)
    simp only [le, leNat, ih hq, BitVec.toNat_ofNat]
    omega

theorem leNat_zeros (n : Nat) : leNat (zeros n) = 0 := by
  induction n with
  | zero => rfl
  | succ n ih =>
    change 0 + 256 * leNat (zeros n) = 0
    rw [ih]

/-- A field lies beyond the bytes that come before it. -/
theorem fieldAt_append {a b : List Byte} {off n : Nat} (h : a.length ≤ off) : fieldAt (a ++ b) off n = fieldAt b (off - a.length) n := by
  simp [fieldAt, sub, List.drop_append, List.drop_eq_nil_of_le h]

/-- A field that the bytes begin with. -/
theorem fieldAt_start (a b : List Byte) : fieldAt (a ++ b) 0 a.length = leNat a := by
  simp [fieldAt, sub]

theorem fieldAt_le_append {n v : Nat} (h : v < 256 ^ n) (b : List Byte) : fieldAt (le n v ++ b) 0 n = v := by
  have hs := fieldAt_start (le n v) b
  rwa [length_le, leNat_le h] at hs

theorem fieldAt_zeros_append (n : Nat) (b : List Byte) : fieldAt (zeros n ++ b) 0 n = 0 := by
  have hs := fieldAt_start (zeros n) b
  rwa [length_zeros, leNat_zeros] at hs

theorem fieldAt_le {n v : Nat} (h : v < 256 ^ n) : fieldAt (le n v) 0 n = v := by
  simpa using fieldAt_le_append h []

theorem fieldAt_u16 (x : U16) (b : List Byte) : fieldAt (le 2 x.toNat ++ b) 0 2 = x.toNat := fieldAt_le_append x.isLt b

theorem fieldAt_u32 (x : U32) (b : List Byte) : fieldAt (le 4 x.toNat ++ b) 0 4 = x.toNat := fieldAt_le_append x.isLt b

theorem fieldAt_u64 (x : U64) (b : List Byte) : fieldAt (le 8 x.toNat ++ b) 0 8 = x.toNat := fieldAt_le_append x.isLt b

/-! ## Command packets (R53) -/

theorem pktBytes_fields {opcode : Nat} (p : Pkt) {b : List Byte} (ho : opcode < 2 ^ 16) (hb : b = pktBytes opcode p) :
    b.length = 64 ∧ fieldAt b 0 2 = opcode ∧ fieldAt b 2 2 = p.flags.toNat ∧ fieldAt b 4 4 = p.seq.toNat ∧
      fieldAt b 8 2 = p.slot.toNat ∧ fieldAt b 0x0A 2 = p.tag.toNat ∧ fieldAt b 0x0C 4 = 0 ∧ fieldAt b 0x10 8 = p.progAddr.toNat ∧
      fieldAt b 0x18 8 = p.p0.toNat ∧ fieldAt b 0x20 8 = p.p1.toNat ∧ fieldAt b 0x28 8 = p.p2.toNat ∧
      fieldAt b 0x30 8 = p.p3.toNat ∧ fieldAt b 0x38 8 = p.p4.toNat := by
  have hop (l : List Byte) : fieldAt (le 2 opcode ++ l) 0 2 = opcode := fieldAt_le_append ho l
  have hlast : fieldAt (le 8 p.p4.toNat) 0 8 = p.p4.toNat := fieldAt_le p.p4.isLt
  subst hb
  simp [pktBytes, fieldAt_append, fieldAt_u16, fieldAt_u32, fieldAt_u64, fieldAt_zeros_append, hop, hlast]

theorem pktOf_pktBytes {opcode : Nat} (p : Pkt) (data : List Byte) (ho : opcode < 2 ^ 16) :
    pktOf (pktBytes opcode p) data = (opcode, { p with data := data }) := by
  obtain ⟨-, hop, hfl, hseq, hslot, htag, -, hprog, h0, h1, h2, h3, h4⟩ := pktBytes_fields p ho rfl
  simp only [pktOf, hop, hfl, hseq, hslot, htag, hprog, h0, h1, h2, h3, h4, BitVec.ofNat_toNat, BitVec.setWidth_eq]

theorem receivedCommand_pktBytes {opcode : Nat} (o : Origin) (p : Pkt) (img : Option Image) (ho : opcode < 2 ^ 16) :
    receivedCommand (pktBytes opcode p) o p.data img = commandOf opcode o p img := by
  rw [receivedCommand, pktOf_pktBytes p p.data ho]

/-! ## The command of an OPCODE (R59) -/

/-- The commands of the table but FW_STAGE. -/
def tableCmds : List Cmd := addressCmds ++ engineCmds ++ storageCmds ++ queueCmds ++ ownerCmds

theorem mem_tableCmds_of_cmdOf {opcode : Nat} {c : Cmd} (h : cmdOf opcode none = some c) : c ∈ tableCmds ∧ c.opcode = opcode := by
  unfold cmdOf at h
  split at h
  · cases h
  · exact ⟨List.mem_of_find?_eq_some h, by simpa using List.find?_some h⟩

theorem tableCmds_opcode_lt : ∀ c ∈ tableCmds, c.opcode < 2 ^ 16 := by decide

/-- Each command of the table runs where its opcode is dispatched. -/
theorem exec_commandOf (o : Origin) (p : Pkt) (s : State) :
    ∀ c ∈ tableCmds, exec (commandOf c.opcode o p none) s = .next (s.packet c none o p) := by
  simp only [tableCmds, addressCmds, engineCmds, storageCmds, queueCmds, ownerCmds, List.cons_append, List.nil_append,
    List.forall_mem_cons, List.not_mem_nil, false_implies, implies_true, and_true]
  and_intros <;> rfl

/-- An opcode that no chapter defines is dispatched as unassigned. -/
theorem commandOf_unassigned {opcode : Nat} (o : Origin) (p : Pkt) (img : Option Image) (h : assigned opcode = false) :
    commandOf opcode o p img = .unassignedOpcode o opcode p := by
  unfold commandOf
  split
  case h_80 => rfl
  all_goals exact absurd h (by decide)

end Sys2Proof.Machine
end

section
open Sys2Proof Sys2Proof.Machine

/-- Settles O60: the fields follow one another in the bytes, so that each reads back, and each opcode of the table is dispatched to its own
command. -/
theorem packetsReadBackFromTheirBytes : Obligations.PacketsReadBackFromTheirBytes := by
  refine ⟨fun opcode p b ho hb => pktBytes_fields p ho hb, fun opcode p data ho => pktOf_pktBytes p data ho, fun c opcode o p s h => ?_,
    fun img o p s => ?_, fun opcode o p img s ho h => ?_⟩
  · obtain ⟨hc, rfl⟩ := mem_tableCmds_of_cmdOf h
    rw [receivedCommand_pktBytes o p none (tableCmds_opcode_lt c hc)]
    exact exec_commandOf o p s c hc
  · rw [receivedCommand_pktBytes o p (some img) (by decide)]
    rfl
  · rw [receivedCommand_pktBytes o p img ho, commandOf_unassigned o p img h]
    simp only [exec, execUnassignedOpcode, h]
    rfl
end

section
/-! SUPPORT. Clamping (R82): the value between the bounds and on a step, and the bits that say what moved it. -/

namespace Sys2Proof.Machine

/-- The value that steps 2 to 4 of R82 give: within the bounds, and a whole number of steps above the lower one. -/
def legalValue (lo hi step v : Nat) : Nat := lo + (max lo (min v hi) - lo) / step * step

theorem legalValue_legal {lo hi step : Nat} (v : Nat) (h : lo ≤ hi) :
    lo ≤ legalValue lo hi step v ∧ legalValue lo hi step v ≤ hi ∧ (legalValue lo hi step v - lo) % step = 0 := by
  have hle := Nat.div_mul_le_self (max lo (min v hi) - lo) step
  refine ⟨Nat.le_add_right _ _, ?_, ?_⟩
  · unfold legalValue
    omega
  · rw [legalValue, Nat.add_sub_cancel_left, Nat.mul_mod_left]

theorem legalValue_of_legal {lo hi step v : Nat} (h : lo ≤ v ∧ v ≤ hi ∧ (v - lo) % step = 0) : legalValue lo hi step v = v := by
  obtain ⟨hlo, hhi, hstep⟩ := h
  rw [legalValue, min_eq_left hhi, max_eq_right hlo, Nat.div_mul_cancel (Nat.dvd_of_mod_eq_zero hstep), Nat.add_sub_cancel' hlo]

/-- The reason bits MIN, MAX, STEP and DEPENDENCY (R84). -/
def clampReason (low high step dep : Bool) : Nat := bitAt low 0 + bitAt high 1 + (bitAt step 2 + bitAt dep 3)

theorem clampReason_testBit (low high step dep : Bool) :
    (clampReason low high step dep).testBit 0 = low ∧ (clampReason low high step dep).testBit 1 = high := by
  revert low high step dep
  decide

variable {s : State} {ov : FMap Nat} {mg : Bool} {slot : Nat} {f : FieldSpec} {e : Entry}

theorem State.clampEntry_locked (h : (f.lock && s.cfg.locked.contains (fkey slot f.id e.elem)) = true) :
    s.clampEntry ov mg slot f e = (s.pend ov slot f.id e.elem, 32) := by
  simp only [State.clampEntry, h, if_true]

theorem State.clampEntry_underPlan (h : (f.lock && s.cfg.locked.contains (fkey slot f.id e.elem)) = false)
    (hp : s.underPlan slot f.id e.elem = true) : s.clampEntry ov mg slot f e = (s.pend ov slot f.id e.elem, 16) := by
  simp only [State.clampEntry, h, hp, if_true, Bool.false_eq_true, if_false]

theorem State.clampEntry_open (h : (f.lock && s.cfg.locked.contains (fkey slot f.id e.elem)) = false)
    (hp : s.underPlan slot f.id e.elem = false) : ∃ step dep, s.clampEntry ov mg slot f e =
      ((s.depOf ov mg slot f.id e.elem).apply (legalValue f.min (s.fieldMax f e.elem) f.step e.val) (s.pend ov slot f.id e.elem),
        clampReason (decide (e.val < f.min)) (decide (s.fieldMax f e.elem < e.val)) step dep) := by
  let v1 := max f.min (min e.val (s.fieldMax f e.elem))
  let v2 := legalValue f.min (s.fieldMax f e.elem) f.step e.val
  refine ⟨!decide (v2 = v1), !decide ((s.depOf ov mg slot f.id e.elem).apply v2 (s.pend ov slot f.id e.elem) = v2), ?_⟩
  simp only [State.clampEntry, h, hp, Bool.false_eq_true, if_false]
  refine Prod.ext rfl ?_
  simp [clampReason, legalValue, bitAt, v1, v2, Nat.add_assoc]

end Sys2Proof.Machine
end

section
open Sys2Proof Sys2Proof.Machine

/-- Settles O53: a field that is open takes the legal value for the one asked for, and the two low reason bits compare that with the
bounds. -/
theorem clampedValuesAreLegal : Obligations.ClampedValuesAreLegal := by
  refine ⟨fun s ov mg slot f e hl hk => State.clampEntry_locked (by rw [hl, hk]; rfl),
    fun s ov mg slot f e h hp => State.clampEntry_underPlan h hp, fun s ov mg slot f e h hp _ hm => ?_⟩
  obtain ⟨step, dep, hc⟩ := State.clampEntry_open (ov := ov) (mg := mg) h hp
  obtain ⟨hlo, hhi, hstep⟩ := legalValue_legal (step := f.step) e.val hm
  obtain ⟨hb0, hb1⟩ := clampReason_testBit (decide (e.val < f.min)) (decide (s.fieldMax f e.elem < e.val)) step dep
  rw [hc]
  exact ⟨_, rfl, hlo, hhi, hstep, legalValue_of_legal, by simp [hb0], by simp [hb1]⟩
end

section
/-! SUPPORT. The ring of replies: its addresses come round with the ring (R45). -/

namespace Sys2Proof.Machine

theorem Qp.rqAddr_add_size (q : Qp) (i : Nat) : q.rqAddr (i + q.size) = q.rqAddr i := by
  rw [Qp.rqAddr, Nat.add_mod_right, Qp.rqAddr]

end Sys2Proof.Machine
end

section
open Sys2Proof Sys2Proof.Machine

/-- Refutes O43: the clause on addresses takes every number for an index, and a ring's addresses come round. In a ring of 16 entries,
`rqAddr 16` is the first entry's address and not 512 bytes beyond it. -/
theorem not_repliesTakeTheNextEntry : ¬ Obligations.RepliesTakeTheNextEntry := by
  rintro ⟨-, haddr, -⟩
  have h16 := (haddr (Qp.fresh 0 0 4 false none 0) 16).1
  have hround : (Qp.fresh 0 0 4 false none 0).rqAddr 16 = (Qp.fresh 0 0 4 false none 0).rqAddr 0 := Qp.rqAddr_add_size _ 0
  rw [hround] at h16
  exact absurd h16 (by decide)
end

section
/-! SUPPORT. Doorbells and the registers of queue pair 0: what each write that is taken does. -/

namespace Sys2Proof.Machine

variable {s : State} {f n cause : Nat} {part : Part} {val v : U64} {q : Qp}

theorem State.faultQp_sound (hq : s.qp f n = some q) (hf : q.faulted = false) : s.faultQp f n cause = { s with
    q.qps := s.q.qps.modify (qpKey f n) (fun q => { q with faulted := true }),
    q.cmq := s.q.cmq.set f { s.cmq f with fault := (s.cmq f).fault ||| BitVec.ofNat 64 (2 ^ n) },
    ras := (s.logE 0x0801 q.slot (f * 256 + n) cause).ras } := by
  unfold State.faultQp
  rw [hq]
  dsimp only
  rw [if_neg (by simp [hf])]
  rfl

/-- ENABLE and INT_EN are among the bits that CMQ_QP_0_CTRL takes (R99). -/
theorem getLsbD_ctrlMask_enable : (v &&& ctrlMask).getLsbD 8 = v.getLsbD 8 := by
  rw [BitVec.getLsbD_and]
  exact Bool.and_true _

theorem getLsbD_ctrlMask_intEn : (v &&& ctrlMask).getLsbD 9 = v.getLsbD 9 := by
  rw [BitVec.getLsbD_and]
  exact Bool.and_true _

/-- A write of CMQ_QP_0_CTRL that the state allows (R99, R101): the masked value stands, INT_EN acts at once, and a queue pair that was
enabled is to stop where ENABLE goes from 1 to 0. -/
theorem State.writeCtrl_ok (hv : v = mergePart (s.cmq f).ctrl part val) (ho : s.ctrlOk (s.cmq f).ctrl (v &&& ctrlMask) = true) :
    s.writeCtrl f part val = ((s.modCmq f (fun c => { c with ctrl := v &&& ctrlMask })).modQp f 0 (fun q => { q with
      intEn := v.getLsbD 9
      stopping := q.stopping || (q.enabled && ((s.cmq f).ctrl.getLsbD 8 && !v.getLsbD 8)) })).updInta f := by
  unfold State.writeCtrl
  dsimp only
  rw [← hv, if_pos ho, getLsbD_ctrlMask_enable, getLsbD_ctrlMask_intEn]
  simp only [Bool.and_assoc]

/-- While ENABLE is 1, a write that clears it is allowed whatever else it changes (R100). -/
theorem State.ctrlOk_disable {old new : U64} (ho : old.getLsbD 8 = true) (hn : new.getLsbD 8 = false) : s.ctrlOk old new = true := by
  simp only [State.ctrlOk, ho, hn, if_true, Bool.not_false, Bool.true_or]

end Sys2Proof.Machine
end

section
open Sys2Proof Sys2Proof.Machine

/-- Settles O3: each row runs on the case that its hypotheses pick, and the three writes of the control register are one. -/
theorem doorbellRowsComplete : Obligations.DoorbellRowsComplete := by
  refine ⟨fun f n size val q s hu hq he hd => ?_, fun f n size val q s hu hq he hd => ?_, fun f n q s hq he => ?_,
    fun f n cause q s hq hf => ⟨_, rfl, State.faultQp_sound hq hf⟩, fun f part val v s hu hv ho h0 h1 => ?_,
    fun f part val v s hu hv h1 h0 => ?_, fun f part val v s hu hv ho h => ?_, fun f reply part val s hu h => ?_⟩
  · simp only [exec, execSqTailWrite, State.sqTailWrite, hu, hq, he, hd, Bool.and_self, if_true]
  · simp only [exec, execRqHeadWrite, State.rqHeadWrite, hu, hq, he, hd, Bool.and_self, if_true]
  · simp only [exec, execRingAccessFailure, hq, Option.any_some, he, if_true]
  · simp only [exec, execQp0Enable, hu, ← hv, h0, h1, State.writeCtrl_ok hv ho, Bool.not_true, Bool.not_false, Bool.and_self,
      Bool.and_false, Bool.or_false, Bool.false_eq_true, if_true, if_false]
  · have ho := State.ctrlOk_disable (s := s) h1 (getLsbD_ctrlMask_enable.trans h0)
    simp only [exec, execQp0Disable, hu, ← hv, h0, h1, State.writeCtrl_ok hv ho, Bool.not_true, Bool.not_false, Bool.and_self,
      Bool.and_true, Bool.false_eq_true, if_true, if_false]
  · simp only [exec, execQp0IntEnWrite, hu, ← hv, h, State.writeCtrl_ok hv ho, beq_self_eq_true, Bool.not_true, Bool.and_not_self,
      Bool.and_false, Bool.or_false, Bool.false_eq_true, if_true, if_false]
  · simp only [exec, execQp0BaseWrite, State.writeBase, hu, h, Bool.false_eq_true, if_true, if_false]
end

section
/-! SUPPORT. What a reply does to the window of its queue (R62), and what a packet out of order leaves. -/

namespace Sys2Proof.Machine

variable {s t v : State} {c : Cmd} {o : Origin} {p : Pkt} {img : Option Image} {x : Nat} {w : List WinEnt} {e : WinEnt} {r : Reply}
  {l : List Byte}

theorem State.updInta_queues (f : Nat) : (s.updInta f).q = { s.q with inta := (s.updInta f).q.inta } := by
  unfold State.updInta
  dsimp only
  split <;> rfl

theorem State.seqOf_congr (hq : t.q.qps = s.q.qps) (hm : t.q.mgmts = s.q.mgmts) : t.seqOf o = s.seqOf o := by
  unfold State.seqOf State.qp
  rw [hq, hm]

theorem State.updInta_seqOf (f : Nat) : (s.updInta f).seqOf o = s.seqOf o :=
  State.seqOf_congr (by rw [State.updInta_queues]) (by rw [State.updInta_queues])

theorem State.charge_seqOf (a b d k : Nat) : (s.charge a b d k).seqOf o = s.seqOf o :=
  State.seqOf_congr (by rw [State.charge_q]) (by rw [State.charge_q])

/-- A reply that is written is marked in its queue's window; the expected value stands. -/
theorem State.writeReply_seqOf : (s.writeReply o r l).seqOf o = ((s.seqOf o).1, markWindow (s.seqOf o).2 r) := by
  unfold State.writeReply
  dsimp only
  have hq : (if r.status = stNotPermitted then { s with tr.denied := cntAdd s.tr.denied 1 } else s).q = s.q := by split <;> rfl
  have hs : (if r.status = stNotPermitted then { s with tr.denied := cntAdd s.tr.denied 1 } else s).seqOf o = s.seqOf o :=
    State.seqOf_congr (by rw [hq]) (by rw [hq])
  rw [← hs]
  generalize (if r.status = stNotPermitted then { s with tr.denied := cntAdd s.tr.denied 1 } else s) = u
  cases o with
  | qp f n =>
    cases hu : u.qp f n with
    | none => simp [State.seqOf, hu, markWindow]
    | some q =>
      simp only [hu]
      have hmod : ∀ g : Qp → Qp, (∀ q, (g q).expected = q.expected ∧ (g q).window = markWindow q.window r) →
          (u.modQp f n g).seqOf (.qp f n) = ((u.seqOf (.qp f n)).1, markWindow (u.seqOf (.qp f n)).2 r) := by
        intro g hg
        simp [State.seqOf, hu, hg q]
      split
      · exact hmod _ fun _ => ⟨rfl, rfl⟩
      · rw [State.updInta_seqOf]
        split
        · rw [State.charge_seqOf]
          exact hmod _ fun _ => ⟨rfl, rfl⟩
        · exact hmod _ fun _ => ⟨rfl, rfl⟩
  | mgmt m d =>
    simp only [State.seqOf, State.emit_q, FMap.get?_modify_self]
    cases u.q.mgmts.get? m <;> rfl

/-- A reply that marks nothing leaves expected value and window as they are, whether it is written now or waits. -/
theorem State.reply_seqOf (hw : s.seqOf o = (x, w)) (h : markWindow w r = w) : (s.reply o r l).seqOf o = (x, w) := by
  unfold State.reply
  split
  · exact (State.seqOf_congr rfl rfl).trans hw
  · rw [State.writeReply_seqOf, hw, h]

theorem markWindow_duplicate (h : r.status = stDuplicate) : markWindow w r = w := by
  simp [markWindow, h]

theorem markWindow_of_find_none (h : w.find? (fun e => e.seq == r.seq) = none) : markWindow w r = w := by
  rw [List.find?_eq_none] at h
  refine (List.map_congr_left fun e he => ?_).trans (List.map_id w)
  exact if_neg fun ⟨hs, _⟩ => h e he (by simpa using hs)

theorem markWindow_marks (hs : r.status ≠ stDuplicate) (he : e ∈ markWindow w r) (hr : e.seq = r.seq) :
    e.status = r.status ∧ e.handle = (if r.long then some r.handle else none) := by
  obtain ⟨a, -, rfl⟩ := List.mem_map.1 he
  by_cases ha : a.seq = r.seq
  · simp [ha, hs]
  · simp [ha] at hr

/-! ## From arrival to SEQ (R62, R587) -/

theorem State.packet_sequence (hr : s.receivePacket c o p = some v) (hw : v.mustWait o p = false) :
    s.packet c img o p = v.sequence c o p := by
  simp only [State.packet, hr, State.begin, hw, Bool.false_eq_true, if_false]

theorem State.packet_outOfOrder (hr : s.receivePacket c o p = some v) (hw : v.mustWait o p = false) (hi : v.inOrder c o p = none) :
    s.packet c img o p = v.outOfOrder c o p := by
  rw [State.packet_sequence hr hw, State.sequence, hi]

theorem State.takes_of_checks_eq_none (hr : s.receivePacket c o p = some v) (hw : v.mustWait o p = false) (hi : v.inOrder c o p = some t)
    (hc : t.checks c o p = none) : s.takes c o p = some t := by
  simp only [State.takes, hr, hw, hi, hc, Bool.false_eq_true, if_false, Option.isNone_none, if_true]

theorem restarts_eq_false (h : ∀ m q, o = .mgmt m q → c.opcode ≠ 0x0800 ∨ p.seq.toNat ≠ 0) : restarts c o p = false := by
  cases o with
  | qp f n => rfl
  | mgmt m q =>
    rcases h m q rfl with hc | hp
    · simp [restarts, hc]
    · simp [restarts, hp]

theorem State.inOrder_expected (hs : s.seqOf o = (x, w)) (hx : p.seq.toNat = x) (hn : restarts c o p = false) :
    s.inOrder c o p = some (s.setSeq o ((x + 1) % 2 ^ 32) (windowWith w x)) := by
  rw [State.inOrder_eq hs, hn, if_neg Bool.false_ne_true, if_pos hx]

theorem State.inOrder_unexpected (hs : s.seqOf o = (x, w)) (hx : p.seq.toNat ≠ x) (hn : restarts c o p = false) :
    s.inOrder c o p = none := by
  rw [State.inOrder_eq hs, hn, if_neg Bool.false_ne_true, if_neg hx]

/-- A packet whose SEQ is in the window (R62). -/
theorem State.outOfOrder_duplicate (hs : s.seqOf o = (x, w)) (he : w.find? (fun e => e.seq == p.seq.toNat) = some e) :
    s.outOfOrder c o p = s.reply o { mkReply s o c.opcode p stDuplicate e.status 0 0 with
      long := e.handle.isSome, handle := e.handle.getD 0 } [] := by
  simp only [State.outOfOrder, hs, he]

/-- A packet whose SEQ is neither expected nor in the window (R62). -/
theorem State.outOfOrder_unknown (hs : s.seqOf o = (x, w)) (he : w.find? (fun e => e.seq == p.seq.toNat) = none) :
    s.outOfOrder c o p = s.reply o (mkReply s o c.opcode p stBadParam (x % 65536) 0 0) [] := by
  simp only [State.outOfOrder, hs, he]

/-- A management queue that its first packet brings into being expects that packet's SEQ, with an empty window (R44, R62). -/
theorem State.openMgmt_new {m q : Nat} (h : s.q.mgmts.get? m = none) :
    ∃ y, (s.openMgmt m q).q.mgmts.get? m = some y ∧ y.expected = q ∧ y.window = [] := by
  refine ⟨{ expected := q, window := [], lastUse := s.q.useCount + 1 }, ?_, rfl, rfl⟩
  simp only [State.openMgmt, h, FMap.get?_set_self]

end Sys2Proof.Machine
end

section
open Sys2Proof Sys2Proof.Machine

/-- Settles O41: the expected SEQ enters the window, and any other is answered by a reply that marks nothing. -/
theorem sequenceNumbersDecide : Obligations.SequenceNumbersDecide := by
  refine ⟨fun s c o p x w hs hx hn => ?_, fun s v c img o p x w e hr hw hs hx hn he => ?_,
    fun s v c img o p x w hr hw hs hx hn he => ?_, fun _ _ _ _ _ _ => ⟨rfl, rfl⟩, fun e q s h => State.openMgmt_new h,
    fun c e sec p s hc hp => ?_, fun w r hs e he hr => markWindow_marks hs he hr⟩
  · exact State.inOrder_expected hs hx (restarts_eq_false (by rwa [hx]))
  · rw [State.packet_outOfOrder hr hw (State.inOrder_unexpected hs hx (restarts_eq_false hn)), State.outOfOrder_duplicate hs he]
    exact ⟨rfl, State.reply_seqOf hs (markWindow_duplicate rfl)⟩
  · rw [State.packet_outOfOrder hr hw (State.inOrder_unexpected hs hx (restarts_eq_false hn)), State.outOfOrder_unknown hs he]
    exact ⟨rfl, State.reply_seqOf hs (markWindow_of_find_none he)⟩
  · have hstart : restarts c (.mgmt e sec) p = true := by simp [restarts, managed, hc, hp]
    rw [State.inOrder_eq (Prod.mk.eta (p := s.seqOf _)).symm, if_pos hstart]

/-- Settles O42: the checks stand in their order in one chain, and a packet that comes to them has set the expected value beyond its SEQ. -/
theorem checksDecideInOrder : Obligations.ChecksDecideInOrder := by
  refine ⟨fun s v c img o p hr hw hi => State.packet_outOfOrder hr hw hi,
    fun s v t c img o p hr hw hi ha => State.packet_turned hr hw hi (State.checks_unaccepted ha),
    fun s v t c img o p x hr hw hi ha hact hb hp => State.packet_turned hr hw hi (State.checks_foreign ha hact hb hp),
    fun s v t c img o p hr hw hi ha hact hb hu hp => State.packet_turned hr hw hi (State.checks_progAddr ha hact hb hu hp),
    fun s v t u c img o p st d r0 r1 l hr hw hi hc he => State.packet_now (State.takes_of_checks_eq_none hr hw hi hc) he,
    fun v t f n q c p hq hi => ?_⟩
  obtain ⟨hseq, rfl⟩ := State.inOrder_qp_eq_some hq hi
  simp [State.seqOf, State.setSeq, hq, hseq]
end

section
/-! SUPPORT. What the commands of the queues answer where they are carried out. -/

namespace Sys2Proof.Machine

variable {t : State} {o : Origin} {p : Pkt} {f m n : Nat}

theorem cQueueCreate_run {size slot : Nat} (hn : n = fld p.p2.toNat 0 6) (hz : size = fld p.p2.toNat 8 5)
    (hs : slot = fld p.p2.toNat 32 12) (h0 : n ≠ 0) (h4 : 4 ≤ size) (h16 : size ≤ 16) (hsq : p.p0.toNat % 4096 = 0)
    (hrq : p.p1.toNat % 4096 = 0) (hq : t.qp f n = none)
    (ho : (t.isOwner f || (t.funcOf slot f && [1, 2, 3].contains (t.domSt slot))) = true) (hc : t.enabledCount < 4096) :
    cQueueCreate.run t (.qp f m) p = ({ t with q.qps := t.q.qps.set (qpKey f n) (Qp.fresh p.p0.toNat p.p1.toNat size
      (p.p2.getLsbD 16) (if t.isOwner f then none else some slot) (p.p3.toNat % 2 ^ 32)) },
      .later (t.str.count + 1) stOk 0 0 0 []) := by
  subst hn hz hs
  dsimp only [cQueueCreate, shortCmd]
  have hbad : ¬ (fld p.p2.toNat 0 6 = 0 ∨ fld p.p2.toNat 8 5 < 4 ∨ 16 < fld p.p2.toNat 8 5 ∨ p.p0.toNat % 4096 ≠ 0 ∨
      p.p1.toNat % 4096 ≠ 0 ∨ (t.qp f (fld p.p2.toNat 0 6)).isSome = true) := by
    rw [hq]
    simp [h0, hsq, hrq, h4, h16]
  have hperm : ¬ (!t.isOwner f && !(t.funcOf (fld p.p2.toNat 32 12) f &&
      [1, 2, 3].contains (t.domSt (fld p.p2.toNat 32 12)))) = true := by
    rw [← Bool.not_or, ho]
    decide
  rw [if_neg hbad, if_neg hperm, if_neg (Nat.not_le.2 hc)]

theorem cQueueDelete_run {q : Qp} (hn : n = fld p.p0.toNat 0 6) (h0 : n ≠ 0) (hq : t.qp f n = some q) (hd : q.deleting = none) :
    cQueueDelete.run t (.qp f m) p = (t.modQp f n (fun q => { q with
      stopping := true
      deleting := some { o := .qp f m, due := t.str.count + 1, inline := [], r := mkReply t (.qp f m) 0x0802 p stOk 0 0 0 } }),
      .held) := by
  subst hn
  simp [cQueueDelete, shortCmd, hq, hd, h0]

theorem cOpCancel_run {h : Nat} {op : Op} (hh : h = fld p.p0.toNat 0 12) (ht : t.ops.tab.get? h = some op)
    (hs : t.seesHandle o op = true) : cOpCancel.run t o p = done (t.modOp h Op.askCancel) stOk op.word.toNat 0 := by
  subst hh
  simp [cOpCancel, shortCmd, ht, hs]

theorem cOpStatusRead_run {h : Nat} {op : Op} (hh : h = fld p.p0.toNat 0 12) (ht : t.ops.tab.get? h = some op)
    (hs : t.seesHandle o op = true) : cOpStatusRead.run t o p = done t stOk op.word.toNat op.done := by
  subst hh
  simp [cOpStatusRead, shortCmd, ht, hs]

theorem cConfigRead_run {scope : Nat} {b : List Byte} (hs : scope = fld p.p2.toNat 8 2) (h1 : scope ≤ 1)
    (hu : scope = 1 → t.unbound o = false)
    (hb : b = t.readBlock (scope == 1) (p.p2.getLsbD 0) (if scope = 1 then slotOf p else 0)) (hl : b.length ≤ roomFor o p.p1.toNat) :
    cConfigRead.run t o p = doneData t o p.p0.toNat b stOk b.length 0 := by
  subst hs
  have hperm : ¬ ((fld p.p2.toNat 8 2 == 1) && t.unbound o) = true := by simpa using hu
  have hblock : t.readBlock (fld p.p2.toNat 8 2 == 1) (p.p2.getLsbD 0) (if (fld p.p2.toNat 8 2 == 1) = true then slotOf p else 0) = b := by
    simpa using hb.symm
  dsimp only [cConfigRead, shortCmd]
  rw [if_neg (Nat.not_lt.2 h1), if_neg hperm, hblock, if_neg (Nat.not_lt.2 hl)]

theorem cCatalogueRead_run {l : List FieldSpec} {k next : Nat} (hl : l = catalogue.filter (fun f => decide (p.p2.toNat % 2 ^ 32 ≤ f.id)))
    (hk : k = min l.length (roomFor o p.p1.toNat / 64)) (hn : next = ((l[k]?).map FieldSpec.id).getD 0) :
    cCatalogueRead.run t o p = doneData t o p.p0.toNat ((l.take k).flatMap t.fieldRecord) stOk k next := by
  have hm : next = (match l[k]? with
      | some f => f.id
      | none => 0) := by
    rw [hn]
    cases l[k]? <;> rfl
  rw [hm]
  subst hk hl
  rfl

/-- No queue accepts an opcode that no chapter defines (R59). -/
theorem State.accepts_unassigned (op : Nat) : t.accepts (cUnassigned op) o = false :=
  Bool.and_false _

end Sys2Proof.Machine
end

section
open Sys2Proof Sys2Proof.Machine

/-- Settles O4: each command's run ends in one of the ways in which a packet is answered. -/
theorem queueCommandsComplete : Obligations.QueueCommandsComplete := by
  refine ⟨fun o p s t h => ?_, fun f m n size slot p s t h hn hz hs h0 h4 h16 hsq hrq hq ho hc => ?_,
    fun f m n p q s t h hn h0 hq hd => ?_, fun o p k op s t h hk ht hs => ?_, fun o p k op s t h hk ht hs => ?_,
    fun o p scope b s t h hs h1 hu hb hl => ?_, fun o p l n next s t h hl hn hx => ?_, fun o p op s u t ha hr hw hi => ?_,
    fun f n op p c s t hd hc h => ?_, fun h f n op s ht ho hf hu => ?_⟩
  · exact congrArg Host.Outcome.next (State.packet_now h rfl)
  · exact congrArg Host.Outcome.next (State.packet_later h (cQueueCreate_run hn hz hs h0 h4 h16 hsq hrq hq ho hc))
  · exact congrArg Host.Outcome.next (State.packet_held h (cQueueDelete_run hn h0 hq hd))
  · exact congrArg Host.Outcome.next (State.packet_now h (cOpCancel_run hk ht hs))
  · exact congrArg Host.Outcome.next (State.packet_now h (cOpStatusRead_run hk ht hs))
  · exact congrArg Host.Outcome.next (State.packet_now h (cConfigRead_run hs h1 hu hb hl))
  · exact congrArg Host.Outcome.next (State.packet_now h (cCatalogueRead_run hl hn hx))
  · simp only [exec, execUnassignedOpcode, ha, Bool.false_eq_true, if_false]
    exact congrArg Host.Outcome.next (State.packet_turned hr hw hi (State.checks_unaccepted (State.accepts_unassigned op)))
  · simp only [exec, execCommandDataAccessFailure, hd, hc, if_true, (State.packet_takes h).1]
  · simp only [exec, execCommandDataAccessFailure, ht, ho, hf, hu, Bool.not_true, Bool.or_self, Bool.false_eq_true, if_false]
end

section
/-! SUPPORT. The port of the configuration (R82 to R97): a block that waits, one that joins a generation, and a plan's end. -/

namespace Sys2Proof.Machine

variable {s t u : State} {o : Origin} {p : Pkt}

theorem cConfigWrite_run_held (h : (t.portClosed || !t.cfg.heldBlocks.isEmpty) = true) : cConfigWrite.run t o p =
    ({ t with cfg.heldBlocks := t.cfg.heldBlocks ++ [{ o := o, plan := false, p := p, head := t.q.headAfter }] }, .held) := by
  simp only [cConfigWrite, shortCmd, h, if_true]

theorem cConfigPlan_run_held (h : (t.portClosed || !t.cfg.heldBlocks.isEmpty) = true) : cConfigPlan.run t o p =
    ({ t with cfg.heldBlocks := t.cfg.heldBlocks ++ [{ o := o, plan := true, p := p, head := t.q.headAfter }] }, .held) := by
  simp only [cConfigPlan, longCmd, h, if_true]

theorem cConfigWrite_run_open (hc : t.portClosed = false) (hb : t.cfg.heldBlocks = []) :
    cConfigWrite.run t o p = (t.takeWrite o p, .held) := by
  simp [cConfigWrite, shortCmd, hc, hb]

theorem cConfigPlan_run_open (hc : t.portClosed = false) (hb : t.cfg.heldBlocks = []) :
    cConfigPlan.run t o p = (t.takePlan o p, .held) := by
  simp [cConfigPlan, longCmd, hc, hb]

/-- A clamp report is not written to a buffer that does not hold its header (R84). -/
theorem State.report_small {cs : List Clamp} {size gen st : Nat} (h : size < 32) :
    s.report o p (reportBytes cs size gen st) = (s, false, []) := by
  cases o <;> simp [State.report, reportBytes, h]

/-- A block without clamps, locked fields or a report joins a generation and is answered when that takes effect (R83, R87). -/
theorem State.takeWrite_joins {dom : Bool} {slot g due : Nat} {es : List (Nat × FieldSpec × Entry)} {v : FMap Nat}
    {sets : List (Nat × Nat)} (hk : t.checkBlock o false p = .ok dom slot es)
    (hcl : t.clampBlock (managed o) slot es = (v, sets, [])) (hb : t.heldBack p [] = none) (hl : ∀ x ∈ es, x.2.1.lock = false)
    (hp : p.p3.toNat < 32) (hj : t.join (sets.map (fun c => .field c.1 c.2)) = (u, g, due)) :
    t.takeWrite o p = u.answerAt 0x0810 o p due stOk g 0 := by
  have hkeys : es.filter (fun x => x.2.1.lock) = [] := List.filter_eq_nil_iff.2 fun x hx => by simp [hl x hx]
  have hsame : { t.logLocked dom slot [] with cfg.locked := t.cfg.locked ++ [] } = t := by
    rw [List.append_nil]
    rfl
  unfold State.takeWrite
  rw [hk]
  cases o <;>
  · simp only [managed] at hcl
    simp only [hcl, hb, hkeys, List.map_nil, hsame, hj, State.report_small hp]
    rfl

theorem State.commitPlan_fenced {h : Nat} {op : Op} {pl : Plan} (hd : s.takeDue 11 h = some t) (ht : t.ops.tab.get? h = some op)
    (hb : op.body = .plan pl) (hs : op.st = opFenced)
    (hu : u = { t with cfg.fields := pl.sets.foldl (fun (m : FMap Nat) (c : Nat × Nat) => m.set c.1 c.2) t.cfg.fields }) :
    s.commitPlan h = ((u.clearPool (t.dev fStagingPool) (u.dev fStagingPool)).modOp h (fun o =>
      { o with st := opCommitted, status := if pl.damaged = 0 then stOk else stDataError })).setCaps.writeRecord h := by
  subst hu
  simp only [State.commitPlan, hd, ht, Op.plan, hb, hs, ne_eq, not_true_eq_false, if_false]

theorem State.abandonPlan_reverting {h : Nat} {op : Op} {pl : Plan} (hd : s.takeDue 12 h = some t) (ht : t.ops.tab.get? h = some op)
    (hb : op.body = .plan pl) (hs : op.st = opReverting) :
    s.abandonPlan h = (t.modOp h (fun o => { o with st := opAbandoned, status := stAborted })).writeRecord h := by
  simp only [State.abandonPlan, hd, ht, Op.plan, hb, hs, ne_eq, not_true_eq_false, if_false]

end Sys2Proof.Machine
end

section
open Sys2Proof Sys2Proof.Machine

/-- Settles O2: a block is held or taken as the port stands, and a plan that is due ends. -/
theorem configurationRowsComplete : Obligations.ConfigurationRowsComplete := by
  refine ⟨fun o p s t h hc => ?_, fun o p s t u dom slot g due es v sets h hc hb hk hcl hh hl hp hj => ?_, fun o p s t h hc => ?_,
    fun o p s t h hc hb => ?_, fun o p s t plan hp h hc hb => ?_, fun b l s u hc hb hu => ?_,
    fun h op pl s t hd ht hb hs => ⟨_, rfl, congrArg Host.Outcome.next (State.commitPlan_fenced hd ht hb hs rfl)⟩,
    fun h op pl s t hd ht hb hs => congrArg Host.Outcome.next (State.abandonPlan_reverting hd ht hb hs)⟩
  · exact congrArg Host.Outcome.next (State.packet_held h (cConfigWrite_run_held hc))
  · rw [← State.takeWrite_joins hk hcl hh hl hp hj]
    exact congrArg Host.Outcome.next (State.packet_held h (cConfigWrite_run_open hc hb))
  · exact congrArg Host.Outcome.next (State.packet_held h (cConfigPlan_run_held hc))
  · exact congrArg Host.Outcome.next (State.packet_held h (cConfigPlan_run_open hc hb))
  · simp only [exec, execClampReportWriteFailure, hp, if_true]
    cases plan with
    | false => exact congrArg Host.Outcome.next (State.packet_held h (cConfigWrite_run_open hc hb))
    | true => exact congrArg Host.Outcome.next (State.packet_held h (cConfigPlan_run_open hc hb))
  · subst hu
    simp only [exec, execHeldConfigBlockTake, State.takeHeld, hc, hb, Bool.false_eq_true, if_false]
end

section
/-! SUPPORT. Extents, tethers and windows: what each of their commands does where it is carried out, and when their events act. -/

namespace Sys2Proof.Machine

variable {s t u : State} {o : Origin} {p : Pkt} {g : Grant} {doff target j sharer idx : Nat} {e : Extent}

/-! ## Grants (R110, R134, R142) -/

/-- The extent that a grant lists: FREE until its offer is in force. -/
def Grant.extent (g : Grant) (doff target contributor sharer firstStack : Nat) : Extent :=
  { dpa := g.dpa, len := g.len, doff := doff, slot := g.slot, ld := g.ld, kind := g.kind, ro := g.ro, hdmDb := g.hdmDb, st := 0,
    tetherLen := g.tether, expiry := 0, tag := g.tag, target := target, contributor := contributor, sharer := sharer, offered := 0,
    firstStack := firstStack }

theorem cExtentGrant_run_offered (hg : g = grantOf p) (hc : t.grantCheck g = .ok (doff, target, j, sharer)) (hk : g.kind ≠ 1)
    (hi : t.ti.extents.firstFree (2 ^ 20) = some idx) (he : e = g.extent doff target j sharer t.ti.nextStack) :
    cExtentGrant.run t o p = (({ t with ti.extents := t.ti.extents.set idx e }.join [.extentState idx 1]).1,
      .start (.extentGrant idx 0) 0 idx 0 opQueued) := by
  subst hg he
  dsimp only [cExtentGrant]
  rw [hc]
  dsimp only
  rw [hi]
  exact if_neg hk

theorem cExtentGrant_run_pinned (hg : g = grantOf p) (hc : t.grantCheck g = .ok (doff, target, j, sharer)) (hk : g.kind = 1)
    (hi : t.ti.extents.firstFree (2 ^ 20) = some idx) (he : e = g.extent doff target j sharer t.ti.nextStack)
    (hu : { t with ti.extents := t.ti.extents.set idx e }.giveChunks true idx t.ti.nextStack (g.len / blk) = some u) :
    cExtentGrant.run t o p = ({ u with ti.nextStack := (t.ti.nextStack + g.len / blk) % 12 },
      .start (.extentGrant idx 0) (g.len / 64) idx 0 opQueued) := by
  subst hg he
  dsimp only [cExtentGrant]
  rw [hc]
  dsimp only
  rw [hi]
  dsimp only
  rw [if_pos hk]
  unfold Grant.extent at hu
  rw [hu]

/-! ## Release, renewal, lists and windows -/

/-- A buffer that need not be aligned, on a management queue, or is (R42). -/
theorem not_misaligned {b : Bool} {n : Nat} (h : (b || n % 64 == 0) = true) : ¬ (!b && n % 64 != 0) = true := by
  rw [bne, ← Bool.not_or, h]
  exact Bool.false_ne_true

/-- An extent that is ACTIVE and has not lapsed goes at once where the release is forced, and is asked back from its host otherwise. -/
theorem cExtentRelease_run_active (hi : idx = fld p.p0.toNat 0 20) (he : t.ti.extents.get? idx = some e) (hs : e.st = 2)
    (hl : e.lapsed t.str.count = false) : cExtentRelease.run t o p = if p.p0.getLsbD 32
      then (((t.dcEvent idx 2).join [.extentState idx 0]).1, .start (.extentRelease idx true) 1 0 0 opQueued)
      else ((t.join [.extentState idx 3]).1, .start (.extentRelease idx false) 1 0 0 opQueued) := by
  subst hi
  simp [cExtentRelease, longCmd, he, hs, hl]

theorem cTetherRenew_run_owner {n x : Nat} (hi : idx = fld p.p0.toNat 0 20) (he : t.ti.extents.get? idx = some e)
    (ho : t.ownerOrigin o = true) (hs : e.st = 2) (hl : e.lapsed t.str.count = false) (hn : n = fld p.p1.toNat 0 32)
    (hx : x = t.str.count + 1 + (if n = 0 then e.tetherLen else n)) :
    cTetherRenew.run t o p = done { t with ti.renewals := t.ti.renewals ++ [(idx, x)] } stOk x 0 := by
  subst hi hn hx
  simp [cTetherRenew, shortCmd, he, ho, hs, hl]

theorem cExtentList_run_unbound {l : FMap Extent} {n : Nat} (ha : (managed o || p.p0.toNat % 64 == 0) = true) (hb : t.bound o = none)
    (hl : l = t.ti.extents.filter (fun x => x.2.st != 0 && decide (fld p.p2.toNat 0 20 ≤ x.1)))
    (hn : n = min l.length (roomFor o p.p1.toNat / 64)) : cExtentList.run t o p =
      doneData t o p.p0.toNat ((l.take n).flatMap (fun x => x.2.record x.1)) stOk n (((l[n]?).map Prod.fst).getD 0) := by
  have hnext : ((l[n]?).map Prod.fst).getD 0 = (match l[n]? with
      | some x => x.1
      | none => 0) := by
    cases l[n]? <;> rfl
  have hlist : l = t.ti.extents.filter (fun x => x.2.st != 0 && decide (fld p.p2.toNat 0 20 ≤ x.1) && true) := by
    simpa only [Bool.and_true] using hl
  rw [hnext]
  subst hn hlist
  dsimp only [cExtentList, shortCmd]
  rw [hb]
  cases o <;> exact if_neg (not_misaligned ha)

theorem cWindowSet_run_owner {gen due : Nat} (ho : t.ownerOrigin o = true)
    (hp : p.p3.getLsbD 16 = true → p.p1.toNat % blk = 0 ∧ fld p.p2.toNat 0 10 ≠ 0 ∧ fld p.p2.toNat 0 10 ≤ 512 ∧
      p.p1.toNat < 2 ^ 48)
    (hj : t.join [.window (fld p.p0.toNat 8 7 * 64 + fld p.p0.toNat 0 6) p.p1.toNat (fld p.p2.toNat 0 10) (fld p.p3.toNat 0 12)
      (p.p3.getLsbD 16) (p.p3.getLsbD 17)] = (u, gen, due)) :
    cWindowSet.run t o p = (u, .later due stOk 0 gen 0 []) := by
  have hgood : ¬ (p.p3.getLsbD 16 && (p.p1.toNat % blk != 0 || fld p.p2.toNat 0 10 == 0 || decide (512 < fld p.p2.toNat 0 10) ||
      decide (2 ^ 48 ≤ p.p1.toNat))) = true := by
    intro hbad
    rw [Bool.and_eq_true] at hbad
    obtain ⟨hmod, hlen, hmax, hend⟩ := hp hbad.1
    simp [hmod, hlen, Nat.not_lt.2 hmax] at hbad
    omega
  dsimp only [cWindowSet, shortCmd]
  rw [ho, if_neg (by simp), if_neg hgood, hj]

end Sys2Proof.Machine
end

section
open Sys2Proof Sys2Proof.Machine

/-- Settles O5: each command's run ends in the way in which its packet is answered, and each event acts on the extent that it names. -/
theorem extentRowsComplete : Obligations.ExtentRowsComplete := by
  refine ⟨fun o p g doff target j sharer idx e s t h hl hg hc hk hi he => ?_,
    fun o p g doff target j sharer idx e s t u h hl hg hc hk hi he hu => ?_, fun o p idx e s t h hl hi he hs hn => ?_,
    fun o p idx n x e s t h hi he ho hs hl hn hx => ?_, fun o p l n s t h ha hb hl hn => ?_, fun o p g due s t u h ho hp hj => ?_,
    fun x e s he hs hx => ?_, fun x e s he hs hx h0 h2 => ?_, fun ld x e accept part s he hld hs h2 h0 => ?_,
    fun ld x e s he hld hs => ?_⟩
  · exact congrArg Host.Outcome.next (State.packet_start h (cExtentGrant_run_offered hg hc hk hi he) hl)
  · exact congrArg Host.Outcome.next (State.packet_start h (cExtentGrant_run_pinned hg hc hk hi he hu) hl)
  · have hrun := cExtentRelease_run_active (o := o) hi he hs hn
    split at hrun <;> rename_i hf
    · rw [if_pos hf]
      exact congrArg Host.Outcome.next (State.packet_start h hrun hl)
    · rw [if_neg hf]
      exact congrArg Host.Outcome.next (State.packet_start h hrun hl)
  · exact congrArg Host.Outcome.next (State.packet_now h (cTetherRenew_run_owner hi he ho hs hl hn hx))
  · exact congrArg Host.Outcome.next (State.packet_now h (cExtentList_run_unbound ha hb hl hn))
  · exact congrArg Host.Outcome.next (State.packet_later h (cWindowSet_run_owner ho hp hj))
  · simp only [exec, execTetherExpiry, he, hs, hx, and_self, if_true]
  · simp [exec, execOfferTimeout, he, hs, hx, h0, h2]
  · simp [exec, execDcAddResponse, he, hld, hs, h0, h2]
  · simp only [exec, execDcReleaseResponse, he, hld, hs, and_self, if_true]
end

section
/-! SUPPORT. Rows of the expansion window, on a head that is up. -/

namespace Sys2Proof.Machine

variable {s : State} {f off len : Nat}

/-- An access of an active device that stays in the window goes to its lines (R140). -/
theorem State.windowRow_up (ha : s.isActive = true) (hh : (s.head (headOf f)).up = true) (hl : off + len ≤ 2 ^ 36) :
    ¬ (!s.isActive || !(s.head (headOf f)).up || decide (2 ^ 36 < off + len)) = true := by
  rw [ha, hh, decide_eq_false (Nat.not_lt.2 hl)]
  exact Bool.false_ne_true

end Sys2Proof.Machine
end

section
open Sys2Proof Sys2Proof.Machine

/-- Settles O8: neither row is turned away, and both then go over the lines of the access. -/
theorem windowRowsComplete : Obligations.WindowRowsComplete :=
  ⟨fun _ _ _ _ ha hh hl => congrArg Host.Outcome.next (if_neg (State.windowRow_up ha hh hl)),
    fun _ _ _ _ ha hh hl => congrArg Host.Outcome.next (if_neg (State.windowRow_up ha hh hl))⟩
end

section
/-! SUPPORT. Placement, segments and tables: what each of their commands does where it is carried out. -/

namespace Sys2Proof.Machine

variable {s t u : State} {o : Origin} {p : Pkt} {a n id : Nat} {g : Seg}

/-! ## Ranges of plates -/

theorem cPlaceMove_run {tier : Nat} (hr : plateRange p = some (a, n)) (ht : tier = fld p.p2.toNat 0 2) (h0 : tier ≠ 0) :
    cPlaceMove.run t o p = (t, .start (.placeMove (slotOf p) a n tier 0) n 0 0 opQueued) := by
  subst ht
  dsimp only [cPlaceMove, longCmd]
  rw [hr]
  exact if_neg h0

theorem cPlateQuery_run {w : Nat} (hp : p.p0.toNat < 2 ^ 36) (hw : w = ((t.ent (slotOf p) p.p0.toNat).map MapEnt.word).getD 0) :
    cPlateQuery.run t o p = done t stOk (w % 2 ^ 64) (w / 2 ^ 64) := by
  have hm : w = (match t.ent (slotOf p) p.p0.toNat with
      | some e => e.word
      | none => 0) := by
    rw [hw]
    cases t.ent (slotOf p) p.p0.toNat <;> rfl
  rw [hm]
  exact if_neg (Nat.not_le.2 hp)

theorem cPlateDiscard_run (hr : plateRange p = some (a, n)) :
    cPlateDiscard.run t o p = (t, .start (.discard (slotOf p) a n 0) n 0 0 opQueued) := by
  dsimp only [cPlateDiscard, longCmd]
  rw [hr]

/-! ## Segments and tables (R192, R196) -/

theorem cSegmentDefine_run {elem : Nat} (ha : a = p.p0.toNat) (hn : n = p.p1.toNat) (he : elem = fld p.p2.toNat 0 4) (h1 : 1 ≤ n)
    (hmax : n ≤ 65536) (hend : a + n ≤ 2 ^ 36) (hk : elemKnown elem = true)
    (ho : t.cod.segs.any (fun g => g.2.slot == slotOf p && decide (g.2.first < a + n) && decide (a < g.2.first + g.2.count)) = false)
    (hi : t.cod.segs.firstFree 65536 = some id)
    (hg : g = { slot := slotOf p, first := a, count := n, elem := elem, table := none, escapes := 0, coded := 0, warn := false,
                dropping := false }) :
    cSegmentDefine.run t o p = done { t with cod.segs := t.cod.segs.set id g } stOk id 0 := by
  have hgood : ¬ (n = 0 ∨ 65536 < n ∨ 2 ^ 36 < a + n ∨ ¬ elemKnown elem = true) := by
    rintro (hz | hz | hz | hz)
    · omega
    · omega
    · omega
    · exact hz hk
  subst ha hn he hg
  dsimp only [cSegmentDefine, shortCmd]
  rw [if_neg hgood, ho, if_neg Bool.false_ne_true, hi]

theorem cSegmentDrop_run {gen due : Nat} (hi : id = fld p.p0.toNat 0 16) (hg : t.segFor (slotOf p) id = .ok g)
    (hp : t.proofsOf id = []) (hj : { t with cod.segs := t.cod.segs.set id { g with dropping := true } }.join [] = (u, gen, due)) :
    cSegmentDrop.run t o p = (u, .later due stOk 0 gen 0 []) := by
  subst hi
  dsimp only [cSegmentDrop, shortCmd]
  rw [hg]
  dsimp only
  rw [hp, hj]
  rfl

theorem cSegmentQuery_run (hg : t.segFor (slotOf p) (fld p.p0.toNat 0 16) = .ok g) : cSegmentQuery.run t o p = done t stOk
    (g.first + 2 ^ 36 * g.count + 2 ^ 53 * g.elem + bitAt g.warn 57 + bitAt g.table.isSome 58)
    (g.table.getD noTable + 65536 * (g.escapes % 2 ^ 48)) := by
  dsimp only [cSegmentQuery, shortCmd]
  rw [hg]

theorem cTableRead_run {x : Table} (hx : t.cod.tables.get? (fld p.p0.toNat 0 16) = some x) (hj : x.joined = true)
    (ha : (managed o || p.p1.toNat % 64 == 0) = true) : cTableRead.run t o p = doneData t o p.p1.toNat x.record stOk 0 0 := by
  have hgood : ¬ (!x.joined || (!managed o && p.p1.toNat % 64 != 0)) = true := by
    simpa only [hj, Bool.not_true, Bool.false_or] using not_misaligned ha
  dsimp only [cTableRead, shortCmd]
  rw [hx]
  cases o <;> exact if_neg hgood

theorem cProofPass_run {x : Nat} (hi : id = fld p.p0.toNat 0 16) (hg : t.segFor (slotOf p) id = .ok g) (h1 : 1 ≤ g.elem)
    (h3 : g.elem ≤ 3) (hd : g.dropping = false) (hp : t.proofsOf id = []) (hx : t.nextTable = some x) :
    cProofPass.run t o p = ((t.takeTable x).claim 2 x 2112,
      .start (.proof id x (p.p1.getLsbD 0) 0 0 [] 0 [] false) g.count x 0 opQueued) := by
  have hgood : ¬ (g.elem = 0 ∨ 3 < g.elem ∨ g.dropping = true) := by
    simp only [hd, Bool.false_eq_true, or_false]
    omega
  subst hi
  dsimp only [cProofPass, longCmd]
  rw [hg]
  dsimp only
  rw [if_neg hgood, hp, hx]
  rfl

end Sys2Proof.Machine
end

section
open Sys2Proof Sys2Proof.Machine

/-- Settles O9: each command's run ends in the way in which its packet is answered, and the two events of R126 act where they are due. -/
theorem placementRowsComplete : Obligations.PlacementRowsComplete := by
  refine ⟨fun o p a n tier s t h hl hr ht h0 => ?_, fun o p w s t h hp hw => ?_, fun o p a n s t h hl hr => ?_,
    fun o p a n elem id g s t h ha hn he h1 hmax hend hk ho hi hg => ?_, fun o p id gen due g s t u h hi hg hp hj => ?_,
    fun o p g s t h hg => ?_, fun o p x s t h hx hj ha => ?_, fun o p id x g s t h hl hi hg h1 h3 hd hp hx => ?_,
    fun slot ptr s u hf ha hs hd hp hu => ?_, fun s h => ?_⟩
  · exact congrArg Host.Outcome.next (State.packet_start h (cPlaceMove_run hr ht h0) hl)
  · exact congrArg Host.Outcome.next (State.packet_now h (cPlateQuery_run hp hw))
  · exact congrArg Host.Outcome.next (State.packet_start h (cPlateDiscard_run hr) hl)
  · exact congrArg Host.Outcome.next (State.packet_now h (cSegmentDefine_run ha hn he h1 hmax hend hk ho hi hg))
  · exact congrArg Host.Outcome.next (State.packet_later h (cSegmentDrop_run hi hg hp hj))
  · exact congrArg Host.Outcome.next (State.packet_now h (cSegmentQuery_run hg))
  · exact congrArg Host.Outcome.next (State.packet_now h (cTableRead_run hx hj ha))
  · exact congrArg Host.Outcome.next (State.packet_start h (cProofPass_run hi hg h1 h3 hd hp hx) hl)
  · subst hp hu
    simp [exec, execDemotionSlice, hf, ha, hs, hd]
  · simp only [exec, execTouchedSweep, h, if_true]
end

section
/-! SUPPORT. The FM API, the function mailboxes and SPDM: what a path that reaches the device answers, and that an answer changes nothing
but what the device has sent. -/

namespace Sys2Proof.Machine

variable {s t u : State} {x : Out} {path func code : Nat} {vals : List Nat}

theorem State.fm_up (h : s.fmUp path = true) : s.fm path code vals = s.emit (.fmApi path code vals) := if_pos h

theorem State.mbox_up {f : State → State × Nat × List Nat} (ha : s.isActive = true) (hf : s.hasFunc func = true)
    (he : f s = (u, code, vals)) : s.mbox func f = u.emit (.mailbox func code vals) := by
  simp only [State.mbox, ha, hf, he, Bool.and_self, if_true]

/-- Whether another state differs from this one only in what the device has sent. -/
def State.onlySends (s t : State) : Prop := t = { s with out := t.out }

theorem State.onlySends_refl (s : State) : s.onlySends s := rfl

theorem State.emit_onlySends (s : State) (x : Out) : s.onlySends (s.emit x) := rfl

theorem State.onlySends_ite {b : Prop} [Decidable b] (h : s.onlySends t) (k : s.onlySends u) : s.onlySends (if b then t else u) := by
  split
  · exact h
  · exact k

theorem State.fm_onlySends (s : State) (path code : Nat) (vals : List Nat) : s.onlySends (s.fm path code vals) :=
  State.onlySends_ite (s.emit_onlySends _) s.onlySends_refl

/-- A mailbox command that leaves the state as it is only sends its answer. -/
theorem State.mbox_onlySends (func : Nat) {f : State → State × Nat × List Nat} (h : (f s).1 = s) : s.onlySends (s.mbox func f) := by
  unfold State.mbox
  refine State.onlySends_ite ?_ s.onlySends_refl
  dsimp only
  rw [h]
  exact s.emit_onlySends _

/-- An SPDM request is turned away, or does what it does where the negotiation is finished. -/
theorem State.spdmReady_onlySends (path : Nat) {f : State → Spdm → State} (h : ∀ y, s.onlySends (f s y)) :
    s.onlySends (s.spdmReady path f) :=
  State.onlySends_ite (State.onlySends_ite (h _) (s.emit_onlySends _)) s.onlySends_refl

end Sys2Proof.Machine
end

section
open Sys2Proof Sys2Proof.Machine

/-- Settles O29: each path answers where it reaches the device, and the two commands of dynamic capacity are the packets of O5. -/
theorem managementCommandsComplete : Obligations.ManagementCommandsComplete := by
  refine ⟨fun h s hu => ?_, fun ld s hu => ?_, fun m p g doff target j sharer idx e s t h hl hg hc hk hi he => ?_,
    fun m idx p x s t h hl hi hf hx hs hn => ?_, fun f s ha hf => ?_, fun f log s ha hf hlog => ?_,
    fun f log n s ha hf hlog hn => ?_, fun f s ha hf => ?_, fun f l s ha hf hz => ?_, fun f s ha hf h0 => ?_, fun f v s ha hf => ?_⟩
  · exact ⟨congrArg Host.Outcome.next (State.fm_up hu), congrArg Host.Outcome.next (State.fm_up hu),
      congrArg Host.Outcome.next (State.fm_up hu), congrArg Host.Outcome.next (State.fm_up hu)⟩
  · exact ⟨congrArg Host.Outcome.next (if_pos hu), congrArg Host.Outcome.next (if_pos hu)⟩
  · exact congrArg Host.Outcome.next (State.packet_start h (cExtentGrant_run_offered hg hc hk hi he) hl)
  · have hrun := cExtentRelease_run_active (o := .mgmt m false) hi hx hs hn
    rw [hf, if_neg Bool.false_ne_true] at hrun
    exact congrArg Host.Outcome.next (State.packet_start h hrun hl)
  · exact ⟨congrArg Host.Outcome.next (State.mbox_up ha hf rfl), congrArg Host.Outcome.next (State.mbox_up ha hf rfl),
      congrArg Host.Outcome.next (State.mbox_up ha hf rfl), congrArg Host.Outcome.next (State.mbox_up ha hf rfl),
      congrArg Host.Outcome.next (State.mbox_up ha hf rfl)⟩
  · exact congrArg Host.Outcome.next (State.mbox_up ha hf (if_neg (Nat.not_lt.2 hlog)))
  · exact congrArg Host.Outcome.next (State.mbox_up ha hf
      (if_neg (not_or.2 ⟨Nat.not_lt.2 hlog, Nat.not_lt.2 hn⟩)))
  · exact congrArg Host.Outcome.next (State.mbox_up ha hf rfl)
  · have hall : l.all (· == 0) = true := by simpa using hz
    exact congrArg Host.Outcome.next (State.mbox_up ha hf (if_pos hall))
  · refine congrArg Host.Outcome.next (State.mbox_up ha hf ?_)
    dsimp only
    rw [if_pos h0]
  · exact congrArg Host.Outcome.next (State.mbox_up ha hf rfl)

/-- Settles O55: each request is left unanswered or only sends its answer. -/
theorem queriesOnlyAnswer : Obligations.QueriesOnlyAnswer := by
  rintro c s t ⟨a, b, hc⟩ h
  simp only [List.mem_cons, List.not_mem_nil, or_false] at hc
  show s.onlySends t
  rcases hc with rfl | rfl | rfl | rfl | rfl | rfl | rfl | rfl | rfl | rfl | rfl | rfl | rfl | rfl | rfl | rfl | rfl <;> cases h
  · exact s.fm_onlySends ..
  · exact s.fm_onlySends ..
  · exact s.fm_onlySends ..
  · exact s.fm_onlySends ..
  · exact State.onlySends_ite (s.emit_onlySends _) s.onlySends_refl
  · exact State.onlySends_ite (s.emit_onlySends _) s.onlySends_refl
  · exact State.mbox_onlySends a rfl
  · exact State.mbox_onlySends a (by split <;> rfl)
  · exact State.mbox_onlySends a rfl
  · exact State.mbox_onlySends a rfl
  · exact State.mbox_onlySends a (by split <;> rfl)
  · exact State.mbox_onlySends a rfl
  · exact State.mbox_onlySends a rfl
  · exact State.mbox_onlySends a rfl
  · exact State.spdmReady_onlySends a fun _ => s.emit_onlySends _
  · exact State.spdmReady_onlySends a fun _ => State.onlySends_ite (s.emit_onlySends _) (s.emit_onlySends _)
  · exact State.spdmReady_onlySends a fun _ => State.onlySends_ite (s.emit_onlySends _) (State.onlySends_ite (s.emit_onlySends _)
      (State.onlySends_ite (s.emit_onlySends _) (s.emit_onlySends _)))
end

section
open Sys2Proof Sys2Proof.Machine

/-- Settles O54, for every state and every plate without an entry. -/
theorem neverWrittenPlatesReadZero : Obligations.NeverWrittenPlatesReadZero := by
  intro ld slot plate i s h
  simp only [State.readPlateLine, h]
end

section
/-! SUPPORT. Requests of CXL.mem: a request that reaches a line is an access of its kind, and where a home lies does not change with
charges and directory entries. -/

namespace Sys2Proof.Machine

variable {s u : State} {r : MemReq} {a b : Access} {kind : Bool → AccKind}

theorem State.memRequest_access (ht : s.takesMem r.ld = true) (hr : s.reach r (kind false) = .access a)
    (hb : b = { a with kind := kind a.sharer.isSome }) (hc : (b.writes && s.crosses b) = false) :
    s.memRequest r kind = s.arrive b := by
  subst hb
  simp only [State.memRequest, ht, hr, hc, Bool.not_true, Bool.false_eq_true, if_false]

theorem State.memRequest_unmapped {dpa : Nat} (ht : s.takesMem r.ld = true) (hr : s.reach r (kind false) = .unmapped dpa) :
    s.memRequest r kind = s.unmappedMem r (kind false) dpa := by
  simp only [State.memRequest, ht, hr, Bool.not_true, Bool.false_eq_true, if_false]

/-! ## Evictions (R301, R306) -/

theorem State.charge_plateHome (x c i n slot plate : Nat) : (s.charge x c i n).plateHome slot plate = s.plateHome slot plate := by
  unfold State.charge
  dsimp only
  split <;> rfl

theorem State.setDir_plateHome (x line slot plate : Nat) (e : Option DirEnt) :
    (s.setDir x line e).plateHome slot plate = s.plateHome slot plate := by
  unfold State.setDir
  dsimp only
  split
  · split <;> rfl
  · rfl

theorem State.cleanEvict_plateHome (slot plate : Nat) : (s.cleanEvict a).plateHome slot plate = s.plateHome slot plate := by
  unfold State.cleanEvict
  split
  · split
    · exact State.setDir_plateHome ..
    · rfl
  · rfl

/-- An eviction that no other member has to hear of: the line's entry gives up the sharer, and the eviction completes. -/
theorem execMemClnEvct_access (ht : s.takesMem r.ld = true) (hr : s.reach r .inv = .access a)
    (hn : a.sharer = none ∨ s.plateHome a.slot (a.line / 64) = .here)
    (hu : u = (s.charge a.slot 0 (headOf a.func) 1).charge a.slot 1 (headOf a.func) 1) :
    execMemClnEvct r s =
      .next (((if a.target == .line then u.cleanEvict a else u).complete { a with kind := .write .I true } [] false).advance) := by
  have hhome : (if a.target == .line then u.cleanEvict a else u).plateHome a.slot (a.line / 64) =
      s.plateHome a.slot (a.line / 64) := by
    have hcharged : u.plateHome a.slot (a.line / 64) = s.plateHome a.slot (a.line / 64) := by
      rw [hu, State.charge_plateHome, State.charge_plateHome]
    split
    · rw [State.cleanEvict_plateHome, hcharged]
    · exact hcharged
  simp only [execMemClnEvct, ht, hr, Bool.not_true, Bool.false_eq_true, if_false, ← hu, hhome]
  rcases hn with hn | hn
  · rw [hn]
    cases s.plateHome a.slot (a.line / 64) <;> rfl
  · rw [hn]

end Sys2Proof.Machine
end

section
open Sys2Proof Sys2Proof.Machine

/-- Settles O6: a request that reaches a line arrives as the access of its kind, and each other row runs on the case that its hypotheses
pick. -/
theorem memoryRequestsComplete : Obligations.MemoryRequestsComplete := by
  refine ⟨fun r a s ht hr => ?_, fun r a s ht hr => ?_, fun r a s ht hr => ?_, fun r q a b s ht hq hr hb hc => ?_,
    fun r a b s ht hr hb hc => ?_, fun r a s u ht hr hn hu => execMemClnEvct_access ht hr hn hu,
    fun r a x i p s ht hr hl hp hh he h0 hrem hd hf hg hT => ?_, fun r s ht => ?_, fun r dpa s ht hr => ?_⟩
  · exact congrArg Host.Outcome.next (State.memRequest_access ht hr rfl rfl)
  · exact congrArg Host.Outcome.next (State.memRequest_access ht hr rfl rfl)
  · exact ⟨congrArg Host.Outcome.next (State.memRequest_access ht hr rfl rfl),
      congrArg Host.Outcome.next (State.memRequest_access ht hr rfl rfl)⟩
  · subst hq
    exact congrArg Host.Outcome.next (State.memRequest_access ht hr hb (by rw [hc, Bool.and_false]))
  · exact congrArg Host.Outcome.next (State.memRequest_access ht hr hb (by rw [hc, Bool.and_false]))
  · simp only [exec, execMemSpecRd, ht, hr, hp, hl, hh, he, h0, hrem, hd, hf, hg, hT, bne_self_eq_false, Bool.not_true, Bool.or_self,
      Bool.false_eq_true, if_false]
  · simp only [exec, execMemFwdDrop, ht, Bool.not_true, Bool.false_eq_true, if_false]
  · exact congrArg Host.Outcome.next (State.memRequest_unmapped ht hr)
end

section
/-! SUPPORT. The split of elements (R157): an element is its sign, exponent and mantissa side by side. -/

namespace Sys2Proof.Machine

/-! ## Elements (R157) -/

/-- The widths of the table cover an element, its sign included. -/
theorem splitOf_widths {elem : Nat} {sp : Split} (h : splitOf elem = some sp) : 0 < sp.w ∧ 8 * sp.bytes = sp.e + sp.w := by
  unfold splitOf at h
  split at h <;> cases h <;> decide

variable {sp : Split} {x : Nat}

theorem expOf_lt (sp : Split) (x : Nat) : expOf sp x < 2 ^ sp.e := Nat.mod_lt _ (Nat.two_pow_pos _)

/-- Above exponent and mantissa stands one bit, the sign. -/
theorem sign_lt_two (hw : 0 < sp.w) (hx : x < 2 ^ (sp.e + sp.w)) : x / 2 ^ (sp.e + sp.w - 1) < 2 := by
  refine Nat.div_lt_of_lt_mul ?_
  rwa [Nat.pow_pred_mul (Nat.add_pos_right _ hw)]

theorem smOf_eq (hw : 0 < sp.w) (hx : x < 2 ^ (sp.e + sp.w)) :
    smOf sp x = x / 2 ^ (sp.e + sp.w - 1) * 2 ^ (sp.w - 1) + x % 2 ^ (sp.w - 1) := by
  rw [smOf, fld, Nat.pow_one, Nat.mod_eq_of_lt (sign_lt_two hw hx)]

theorem smOf_div (hw : 0 < sp.w) (hx : x < 2 ^ (sp.e + sp.w)) : smOf sp x / 2 ^ (sp.w - 1) = x / 2 ^ (sp.e + sp.w - 1) := by
  rw [smOf_eq hw hx, Nat.mul_comm, Nat.mul_add_div (Nat.two_pow_pos _), Nat.div_eq_of_lt (Nat.mod_lt _ (Nat.two_pow_pos _)), Nat.add_zero]

theorem smOf_mod (hw : 0 < sp.w) (hx : x < 2 ^ (sp.e + sp.w)) : smOf sp x % 2 ^ (sp.w - 1) = x % 2 ^ (sp.w - 1) := by
  rw [smOf_eq hw hx, Nat.mul_add_mod_self_right, Nat.mod_mod]

theorem smOf_lt (hw : 0 < sp.w) (hx : x < 2 ^ (sp.e + sp.w)) : smOf sp x < 2 ^ sp.w := by
  have hs : smOf sp x / 2 ^ (sp.w - 1) < 2 := by
    rw [smOf_div hw hx]
    exact sign_lt_two hw hx
  rwa [Nat.div_lt_iff_lt_mul (Nat.two_pow_pos _), mul_pow_sub_one hw.ne'] at hs

/-- Sign, exponent and mantissa at their places are the element again. -/
theorem rebuild_smOf_expOf (hw : 0 < sp.w) (hx : x < 2 ^ (sp.e + sp.w)) : rebuild sp (smOf sp x) (expOf sp x) = x := by
  have he : sp.e + sp.w - 1 = sp.w - 1 + sp.e := by omega
  have hsign : fld (smOf sp x) (sp.w - 1) 1 = x / 2 ^ (sp.w - 1) / 2 ^ sp.e := by
    rw [fld, smOf_div hw hx, Nat.pow_one, Nat.mod_eq_of_lt (sign_lt_two hw hx), he, Nat.pow_add, Nat.div_div_eq_div_mul]
  calc rebuild sp (smOf sp x) (expOf sp x)
      = (x / 2 ^ (sp.w - 1) / 2 ^ sp.e * 2 ^ sp.e + x / 2 ^ (sp.w - 1) % 2 ^ sp.e) * 2 ^ (sp.w - 1) + x % 2 ^ (sp.w - 1) := by
        rw [rebuild, hsign, smOf_mod hw hx, expOf, fld, he, Nat.pow_add]
        ring
    _ = x / 2 ^ (sp.w - 1) * 2 ^ (sp.w - 1) + x % 2 ^ (sp.w - 1) := by rw [Nat.div_add_mod']
    _ = x := Nat.div_add_mod' ..

end Sys2Proof.Machine
end

section
open Sys2Proof Sys2Proof.Machine

/-- Settles O47: the table's widths cover an element of each of the three types, and the parts of such an element rebuild it. -/
theorem elementsSplitAndRebuild : Obligations.ElementsSplitAndRebuild := by
  refine ⟨⟨rfl, rfl, rfl⟩, fun elem x sp hs hx => ?_⟩
  obtain ⟨hw, hbits⟩ := splitOf_widths hs
  rw [hbits] at hx
  exact ⟨rfl, smOf_eq hw hx, expOf_lt sp x, smOf_lt hw hx, rebuild_smOf_expOf hw hx⟩
end

section
/-! SUPPORT. Bit streams (R158): the bits of a value and the value of bits, and the bytes of a stream. -/

namespace Sys2Proof.Machine

/-! ## Values and their bits -/

@[simp] theorem length_bitsLsb (n v : Nat) : (bitsLsb n v).length = n := by
  induction n generalizing v with
  | zero => rfl
  | succ n ih => simp [bitsLsb, ih]

theorem lsbNat_bitsLsb (n v : Nat) : lsbNat (bitsLsb n v) = v % 2 ^ n := by
  induction n generalizing v with
  | zero => rw [Nat.pow_zero, Nat.mod_one, bitsLsb, lsbNat]
  | succ n ih =>
    rw [bitsLsb, lsbNat, ih, Nat.pow_succ', Nat.mod_mul]
    rcases Nat.mod_two_eq_zero_or_one v with h | h <;> simp [h]

theorem lsbNat_lt (bs : List Bool) : lsbNat bs < 2 ^ bs.length := by
  induction bs with
  | nil => exact Nat.one_pos
  | cons b bs ih =>
    rw [lsbNat, List.length_cons, Nat.pow_succ']
    split <;> omega

@[simp] theorem lsbNat_cons_mod_two (b : Bool) (bs : List Bool) : lsbNat (b :: bs) % 2 = b.toNat := by
  cases b <;> simp [lsbNat, Nat.add_mod]

@[simp] theorem lsbNat_cons_div_two (b : Bool) (bs : List Bool) : lsbNat (b :: bs) / 2 = lsbNat bs := by
  rw [lsbNat]
  split <;> omega

/-- Bit `j` of the value is bit `j` of the stream. -/
theorem testBit_lsbNat (bs : List Bool) (j : Nat) : (lsbNat bs).testBit j = bs.getD j false := by
  induction bs generalizing j with
  | nil => simp [lsbNat]
  | cons b bs ih =>
    cases j with
    | zero => cases b <;> simp [Nat.testBit_zero]
    | succ j => rw [Nat.testBit_succ, lsbNat_cons_div_two, ih, List.getD_cons_succ]

theorem bitsLsb_zero (n : Nat) : bitsLsb n 0 = List.replicate n false := by
  induction n with
  | zero => rfl
  | succ n ih => simp [bitsLsb, ih, List.replicate_succ]

/-- The bits of the value of a stream are the stream, padded with zero bits. -/
theorem bitsLsb_lsbNat {n : Nat} {bs : List Bool} (h : bs.length ≤ n) :
    bitsLsb n (lsbNat bs) = bs ++ List.replicate (n - bs.length) false := by
  induction bs generalizing n with
  | nil => exact bitsLsb_zero n
  | cons b bs ih =>
    cases n with
    | zero => cases h
    | succ n =>
      have hbit : (lsbNat (b :: bs) % 2 == 1) = b := by cases b <;> simp
      rw [bitsLsb, hbit, lsbNat_cons_div_two, ih (Nat.le_of_succ_le_succ h), List.length_cons, Nat.add_sub_add_right, List.cons_append]

/-! ## Bytes of a stream -/

/-- The value of a stream's next byte. -/
theorem toNat_lsbNat_take (bs : List Bool) : (BitVec.ofNat 8 (lsbNat (bs.take 8))).toNat = lsbNat (bs.take 8) := by
  rw [BitVec.toNat_ofNat]
  exact Nat.mod_eq_of_lt ((lsbNat_lt _).trans_le (Nat.pow_le_pow_right Nat.two_pos (List.length_take_le ..)))

theorem unpackBits_packBits {k : Nat} {bs : List Bool} (h : bs.length ≤ 8 * k) :
    unpackBits (packBits k bs) = bs ++ List.replicate (8 * k - bs.length) false := by
  induction k generalizing bs with
  | zero =>
    rw [List.length_eq_zero_iff.1 (Nat.le_zero.1 h)]
    rfl
  | succ k ih =>
    have hbyte : bitsLsb 8 (BitVec.ofNat 8 (lsbNat (bs.take 8))).toNat
        = bs.take 8 ++ List.replicate (8 - (bs.take 8).length) false := by
      rw [toNat_lsbNat_take, bitsLsb_lsbNat (List.length_take_le ..)]
    have hrest := ih (bs := bs.drop 8) (by rw [List.length_drop]; omega)
    rw [packBits, unpackBits, List.flatMap_cons, hbyte, ← unpackBits, hrest]
    rcases Nat.le_total 8 bs.length with h8 | h8
    · rw [List.length_take_of_le h8, Nat.sub_self, List.replicate_zero, List.append_nil, ← List.append_assoc, List.take_append_drop,
        List.length_drop]
      congr 2
      omega
    · rw [List.take_of_length_le h8, List.drop_of_length_le h8, List.nil_append, List.append_assoc, List.replicate_append_replicate,
        List.length_nil]
      congr 2
      omega

theorem packBits_getElem? {k i : Nat} (bs : List Bool) (h : i < k) :
    (packBits k bs)[i]? = some (BitVec.ofNat 8 (lsbNat ((bs.drop (8 * i)).take 8))) := by
  induction k generalizing bs i with
  | zero => cases h
  | succ k ih =>
    cases i with
    | zero => rfl
    | succ i =>
      rw [packBits, List.getElem?_cons_succ, ih _ (Nat.lt_of_succ_lt_succ h), List.drop_drop, Nat.mul_succ, Nat.add_comm 8]

/-- A packed stream has its bit `j` at bit `j mod 8` of byte `j / 8`. -/
theorem packStream_getLsbD {bs : List Bool} {j : Nat} (h : j < bs.length) :
    ((packStream bs)[j / 8]?.getD 0).getLsbD (j % 8) = bs.getD j false := by
  have hm : j % 8 < 8 := Nat.mod_lt _ (by decide)
  rw [packStream, packBits_getElem? bs (by omega), Option.getD_some, BitVec.getLsbD_ofNat, testBit_lsbNat, List.getD_eq_getElem?_getD,
    List.getElem?_take_of_lt hm, List.getElem?_drop, Nat.div_add_mod, decide_eq_true hm, Bool.true_and, List.getD_eq_getElem?_getD]

theorem readVals_flatMap_bitsLsb {w : Nat} {vs : List Nat} (rest : List Bool) (h : ∀ v ∈ vs, v < 2 ^ w) :
    readVals w vs.length (vs.flatMap (bitsLsb w) ++ rest) = vs := by
  induction vs with
  | nil => rfl
  | cons v vs ih =>
    obtain ⟨hv, hvs⟩ := List.forall_mem_cons.1 h
    rw [List.length_cons, readVals, List.flatMap_cons, List.append_assoc, List.take_left' (length_bitsLsb w v),
      List.drop_left' (length_bitsLsb w v), lsbNat_bitsLsb, Nat.mod_eq_of_lt hv, ih hvs]

end Sys2Proof.Machine
end

section
open Sys2Proof Sys2Proof.Machine

/-- Settles O48: the padding of a stream is what its whole bytes hold beyond its bits. -/
theorem bitStreamsUnpack : Obligations.BitStreamsUnpack := by
  refine ⟨fun bs => ?_, fun bs j h => packStream_getLsbD h, fun n v => ⟨lsbNat_bitsLsb n v, length_bitsLsb n v⟩,
    fun w vs rest h => readVals_flatMap_bitsLsb rest h⟩
  have hpad : 8 * ((bs.length + 7) / 8) - bs.length = (8 - bs.length % 8) % 8 := by omega
  rw [packStream, unpackBits_packBits (by omega), hpad]
end

section
/-! SUPPORT. Burin lanes (R173, R193, R194): what the end of a job does, by the kind of the job at the head of its lane. -/

namespace Sys2Proof.Machine

variable {s u : State} {lane cycles n : Nat} {j : Job} {l : List Job} {e : MapEnt} {b d : List Byte} {bad : List Nat}
  {fault : Option (Nat × Nat)}

/-! ## The job at the head -/

theorem State.decodeComplete_decode (hq : (s.lane lane).queue = j :: l) (hk : j.kind = 1) :
    s.decodeComplete lane fault = (s.popJob lane).decodeEnds lane j fault := by
  simp only [State.decodeComplete, hq, hk, if_true]

/-- A histogram's job only takes its lane's time (assumption 41). -/
theorem State.decodeComplete_histogram (hq : (s.lane lane).queue = j :: l) (hk : j.kind = 5) :
    s.decodeComplete lane fault = s.popJob lane := by
  simp only [State.decodeComplete, hq, hk, OfNat.ofNat_ne_one, Nat.reduceEqDiff, if_false, if_true]

theorem State.encodeComplete_encode (hq : (s.lane lane).queue = j :: l) (hk : j.kind = 4) (fault : Bool) :
    s.encodeComplete lane fault = (s.popJob lane).encodeChecked lane j fault := by
  simp only [State.encodeComplete, hq, hk, if_true]

/-! ## The end of a decode -/

section
variable (he : s.ent (j.key / 2 ^ 36) (j.key % 2 ^ 36) = some e) (h0 : e.res0 = false) (hd : e.damaged = false)
  (hr : s.readHome (j.key / 2 ^ 36) (j.key % 2 ^ 36) e = (u, .bytes b bad)) (hx : u.expand e b j.line = .good d cycles)
include he h0 hd hr hx

theorem State.decodeEnds_good : s.decodeEnds lane j none = u.decodeDone lane j d bad cycles := by
  simp only [State.decodeEnds, he, h0, hd, hr, hx, Bool.or_self, Bool.false_eq_true, if_false]

/-- A fault of the lane fails a check that the stored bytes pass (R194). -/
theorem State.decodeEnds_fault (c n : Nat) :
    s.decodeEnds lane j (some (c, n)) = u.decodeFailed lane j e c (laneLines (faultLanes e.coding c n (j.line / 8))) d := by
  simp only [State.decodeEnds, he, h0, hd, hr, hx, Bool.or_self, Bool.false_eq_true, if_false]
end

/-! ## The verify of an encode -/

theorem State.encodeChecked_first (hf : j.failedOn = none) (fault : Bool) :
    s.encodeChecked lane j fault =
      if fault then ((s.diverge 1).charge (j.key / 2 ^ 36) 5 (lane / 16) (encodeNominal + j.extra)).giveJob (lane / 16)
        { j with failedOn := some lane }
      else { s with cod.encoded := cntAdd s.cod.encoded 1 }.charge (j.key / 2 ^ 36) 5 (lane / 16) j.extra := by
  simp only [State.encodeChecked, hf]

theorem State.encodeChecked_second (hf : j.failedOn = some n) (fault : Bool) :
    s.encodeChecked lane j fault =
      if fault then s.storeRaw (j.key / 2 ^ 36) (j.key % 2 ^ 36)
      else ({ s with cod.encoded := cntAdd s.cod.encoded 1 }.charge (j.key / 2 ^ 36) 5 (lane / 16) j.extra).laneFault n (n != lane)
        (j.key / 2 ^ 36) (j.key % 2 ^ 36) := by
  simp only [State.encodeChecked, hf]

end Sys2Proof.Machine
end

section
open Sys2Proof Sys2Proof.Machine

/-- Settles O10: the kind of the job at the head picks its row, the checks of a decode its end, and the lane that a first verify failed on
the end of an encode. -/
theorem laneRowsComplete : Obligations.LaneRowsComplete := by
  refine ⟨?_, ?_, fun lane j l fault s hq hk => congrArg Host.Outcome.next (State.decodeComplete_histogram hq hk), ?_, ?_⟩
  · rintro lane _ _ cycles j l e b d bad s u hq hk rfl rfl he h0 hd hr hx
    exact congrArg Host.Outcome.next ((State.decodeComplete_decode hq hk).trans (State.decodeEnds_good he h0 hd hr hx))
  · rintro lane _ _ cycles c n j l e b d bad s u hq hk rfl rfl he h0 hd hr hx
    exact congrArg Host.Outcome.next ((State.decodeComplete_decode hq hk).trans (State.decodeEnds_fault he h0 hd hr hx c n))
  · rintro lane _ j l s _ hq hk rfl hf rfl
    have hrun (fault : Bool) := (State.encodeComplete_encode hq hk fault).trans (State.encodeChecked_first hf fault)
    exact ⟨congrArg Host.Outcome.next (hrun false), congrArg Host.Outcome.next (hrun true)⟩
  · rintro lane n _ _ j l s _ hq hk rfl rfl hf rfl
    have hrun (fault : Bool) := (State.encodeComplete_encode hq hk fault).trans (State.encodeChecked_second hf fault)
    exact ⟨congrArg Host.Outcome.next (hrun false), congrArg Host.Outcome.next (hrun true)⟩
end

section
/-! SUPPORT. Streams: what each of their commands does where it is carried out, and what a failed write leaves. -/

namespace Sys2Proof.Machine

variable {s t : State} {o : Origin} {p : Pkt} {n : Nat} {st : Stream}

/-- A schedule that passes its checks and fits takes the lowest free stream (R200, R205; the lowest is assumption 106). -/
theorem cStreamLoad_run {sc : Sched} {x : Stream} (ha : p.p0.toNat % 64 = 0) (hh : headerOk p.data p.p1.toNat (t.size (slotOf p)) = true)
    (hl : badLayer p.data = none) (ht : badTile p.data (t.size (slotOf p)) = none) (hsc : sc = schedOf p.data)
    (hn : t.streams.firstFree 256 = some n)
    (hroom : sumOf (t.streams.map (fun x => x.2.sched.tiles.length)) + sc.tiles.length ≤ 131072)
    (hlim : (t.streams.filter (fun x => x.2.slot == slotOf p)).length < t.domF (slotOf p) fStreamLimit)
    (hx : x = { slot := slotOf p, ready := false, sched := sc, sent := [], slotSeq := 0, released := 0, run := none }) :
    cStreamLoad.run t o p =
      ({ t with streams := t.streams.set n x }, .start (.streamLoad n 0) sc.tiles.length n 0 opQueued) := by
  subst hsc hx
  have hgood : ¬ (p.p0.toNat % 64 ≠ 0 ∨ headerOk p.data p.p1.toNat (t.size (slotOf p)) = false) := by simp [ha, hh]
  dsimp only [cStreamLoad, longCmd]
  rw [if_neg hgood, hl]
  dsimp only
  rw [ht]
  dsimp only
  rw [hn]
  exact if_neg (not_or.2 ⟨Nat.not_lt.2 hroom, Nat.not_le.2 hlim⟩)

/-- A ready stream without a run starts one, where none of the tiles it pulls alone exceeds half of the domain's T0 partition (R217, R233). -/
theorem cStreamRun_run {func : Nat} {run : Run} (hn : n = fld p.p0.toNat 0 8) (hs : t.streamFor (slotOf p) n = .ok st)
    (hready : st.ready = true) (hrun : st.run = none)
    (hfit : (!st.sched.push && st.sched.tiles.any (fun x => decide (t.partition st.slot < 2 * x.nplate))) = false)
    (hf : func = (match o with
      | .qp f _ => if t.isOwner f then fld p.p3.toNat 0 7 else f
      | .mgmt _ _ => 0))
    (hr : run = Run.fresh p.p1.toNat (fld p.p2.toNat 0 32) func) :
    cStreamRun.run t o p = ({ t with streams := t.streams.set n { st with run := some run, sent := [] } },
      .start (.streamRun n) (st.sched.layers.length * fld p.p2.toNat 0 32) 0 0 opQueued) := by
  subst hn hf hr
  dsimp only [cStreamRun, longCmd]
  rw [hs]
  dsimp only
  rw [hready, hrun, hfit]
  cases o <;> rfl

theorem cStreamUnload_run (hn : n = fld p.p0.toNat 0 8) (hs : t.streamFor (slotOf p) n = .ok st) (hrun : st.run = none)
    (hready : st.ready = true) :
    cStreamUnload.run t o p = done ({ t with streams := t.streams.del n }.unhold (fun x => x % 256 == n)) stOk 0 0 := by
  subst hn
  dsimp only [cStreamUnload, shortCmd]
  rw [hs]
  dsimp only
  rw [hrun, hready]
  rfl

theorem cStreamQuery_run (hn : n = fld p.p0.toNat 0 8) (hs : t.streamFor (slotOf p) n = .ok st) :
    cStreamQuery.run t o p = done t stOk st.released
      (((st.run.map (fun r => (r.tiles.filter (fun (x : TileRun) => x.started && !x.delivered)).length)).getD 0)
        + 2 ^ 32 * (t.ti.t0.filter (fun (u : Nat × T0Use) => u.2.held.any (fun x => x % 512 == n))).length) := by
  subst hn
  dsimp only [cStreamQuery, shortCmd]
  rw [hs]
  dsimp only
  cases st.run <;> rfl

/-- A failed write counts once for a run: where the run has its handle and no write of it has failed before (R234). -/
theorem execStreamWriteFailure_within {r : Run} {q : Nat} (hs : s.streams.get? n = some st) (hr : st.run = some r)
    (hh : r.handle < 4096) (hf : r.fail = none) (hq : r.within st.sched q = true) :
    execStreamWriteFailure n q s =
      .next (((s.modRun n (fun r => { r with fail := some q })).failOp r.handle stDataError).logE 0x0303 (some st.slot) n q) := by
  have hcounts : ¬ (4096 ≤ r.handle ∨ r.fail.isSome = true ∨ r.within st.sched q = false) := by simp [hh, hf, hq]
  dsimp only [execStreamWriteFailure]
  rw [hs]
  dsimp only
  rw [hr]
  exact congrArg Host.Outcome.next (if_neg hcounts)

end Sys2Proof.Machine
end

section
open Sys2Proof Sys2Proof.Machine

/-- Settles O11: each command's run ends in the way in which its packet is answered, and a first failed write of a run marks it. -/
theorem streamRowsComplete : Obligations.StreamRowsComplete := by
  refine ⟨fun o p sc n x s t h hl ha hh hy ht hsc hn hroom hlim hx => ?_, fun o p n func st run s t h hl hn hs hready hrun hfit hf hr => ?_,
    fun o p n st s t h hn hs hrun hready => ?_, fun o p n st s t h hn hs => ?_,
    fun n st r q s hs hr hh hf hq => execStreamWriteFailure_within hs hr hh hf hq⟩
  · exact congrArg Host.Outcome.next (State.packet_start h (cStreamLoad_run ha hh hy ht hsc hn hroom hlim hx) hl)
  · exact congrArg Host.Outcome.next (State.packet_start h (cStreamRun_run hn hs hready hrun hfit hf hr) hl)
  · exact congrArg Host.Outcome.next (State.packet_now h (cStreamUnload_run hn hs hrun hready))
  · exact congrArg Host.Outcome.next (State.packet_now h (cStreamQuery_run hn hs))
end

section
/-! SUPPORT. Operators and digests: what each of their commands does where it is carried out, and what a failed event write leaves. -/

namespace Sys2Proof.Machine

variable {s t u : State} {o : Origin} {p : Pkt} {id gen due : Nat} {b : Binding} {g : Digest}

/-! ## Operators (R236 to R266) -/

/-- A binding whose form, values and regions hold, and whose work area has room, takes the lowest free number and the chunks of its work
area (R236 to R239; the lowest is assumption 106). -/
theorem cOperBind_run
    (hb : b = bindingOf p.data (slotOf p) (match o with
      | .qp f _ => f
      | .mgmt _ _ => t.owner))
    (ha : (managed o || p.p0.toNat % 64 == 0) = true) (hform : bindFormOk p.data = true) (hvalid : b.valid = true)
    (hfits : t.bindFits b = true)
    (hlim : (t.opr.binds.filter (fun (x : Nat × Binding) => x.2.slot == slotOf p)).length < t.domF (slotOf p) fOperLimit)
    (hwork : t.workFits b = true) (hi : t.opr.binds.firstFree 4096 = some id)
    (hu : { t with opr.binds := t.opr.binds.set id b }.giveChunks false id t.ti.nextStack b.workChunks = some u) :
    cOperBind.run t o p =
      ({ u with ti.nextStack := (t.ti.nextStack + b.workChunks) % 12 }, .start (.operBind id 0) b.areaLines id 0 opQueued) := by
  have hgood : (!(bindFormOk p.data && b.valid && t.bindFits b)) = false := by simp [hform, hvalid, hfits]
  have hroom : ¬ (!t.workFits b) = true := by simp [hwork]
  have haligned := not_misaligned ha
  cases o <;>
  · dsimp only at hb
    subst hb
    dsimp only [managed] at haligned
    dsimp only [cOperBind, longCmd]
    rw [if_neg haligned, hgood, if_neg Bool.false_ne_true, if_neg (Nat.not_le.2 hlim), if_neg hroom, hi]
    dsimp only
    rw [hu]

/-- A binding whose OPER_BIND is over, without a live close and without an extent of kind 2 on it, is unbound (R265). -/
theorem cOperUnbind_run (hi : id = fld p.p0.toNat 0 12) (hb : t.bindFor (slotOf p) id = .ok b) (h0 : b.st ≠ 0)
    (hc : t.closeLive id = false) (hx : t.ti.extents.any (fun (x : Nat × Extent) => x.2.kind == 2 && x.2.target == id) = false) :
    cOperUnbind.run t o p = done (t.modBinding id (fun b => { b with st := 2 })) stOk 0 0 := by
  subst hi
  dsimp only [cOperUnbind, shortCmd]
  rw [hb]
  dsimp only
  rw [hc, hx, beq_false_of_ne h0]
  rfl

/-- The step parameters that an OPER_STEP packet carries (R265). -/
def stepParamsOf (p : Pkt) : StepParams :=
  { lr := BitVec.ofNat 32 (fld p.p1.toNat 0 32), wd := BitVec.ofNat 32 (fld p.p1.toNat 32 32),
    c1 := BitVec.ofNat 32 (fld p.p2.toNat 0 32), c2 := BitVec.ofNat 32 (fld p.p2.toNat 32 32),
    gscale := BitVec.ofNat 32 (fld p.p3.toNat 0 32) }

/-- Parameters for the round after the open one are kept under that round's number, whatever units of the open one are done (R266). -/
theorem cOperStep_run_next {r : Nat} (hi : id = fld p.p0.toNat 0 12) (hr : r = fld p.p0.toNat 32 32)
    (hb : t.bindFor (slotOf p) id = .ok b) (ha : b.adamw = true) (h1 : b.st = 1) (hnext : r = (b.round + 1) % 2 ^ 32)
    (hnow : r ≠ b.round % 2 ^ 32) :
    cOperStep.run t o p =
      done (t.modBinding id (fun b => { b with steps := b.steps.set (b.round + 1) (stepParamsOf p) })) stOk 0 0 := by
  subst hi hr
  have hnot : decide (fld p.p0.toNat 32 32 = b.round % 2 ^ 32) = false := decide_eq_false hnow
  have hgood : ¬ (!b.adamw || b.st != 1 || !(false || fld p.p0.toNat 32 32 == (b.round + 1) % 2 ^ 32)) = true := by
    simp [ha, h1, hnext]
  dsimp only [cOperStep, shortCmd]
  rw [hb]
  dsimp only
  rw [hnot, if_neg hgood]
  rfl

theorem cOperRoundClose_run (hi : id = fld p.p0.toNat 0 12) (hb : t.bindFor (slotOf p) id = .ok b) (h1 : b.st = 1)
    (hc : t.closeLive id = false) : cOperRoundClose.run t o p = (t, .start (.roundClose id 0 false) b.units 0 0 opQueued) := by
  subst hi
  dsimp only [cOperRoundClose, longCmd]
  rw [hb]
  dsimp only
  rw [if_neg (not_not.2 h1), hc, if_neg Bool.false_ne_true]

theorem cOperQuery_run (hb : t.bindFor (slotOf p) (fld p.p0.toNat 0 12) = .ok b) : cOperQuery.run t o p =
    done t stOk (b.round % 2 ^ 32 + 2 ^ 32 * b.doneUnits) (b.units + 2 ^ 32 * b.pend.length) := by
  dsimp only [cOperQuery, shortCmd]
  rw [hb]

/-- A round that is due at this boundary ends (R246). -/
theorem execRoundComplete_due (h : s.takeDue 1 id = some u) : execRoundComplete id s = .next (u.endRound id) := by
  dsimp only [execRoundComplete]
  rw [h]

/-- A failed event write of a round that is complete is logged, and changes nothing but the log (R247). -/
theorem execRoundEventWriteFailure_logged (hb : s.binding id = some b) (h1 : b.st = 1) (he : b.evWrite = true) (h0 : 0 < b.round) :
    execRoundEventWriteFailure id s = .next { s with ras := (s.logE 0x0403 (some b.slot) id (b.round - 1)).ras } := by
  have hwrote : (b.st == 1 && b.evWrite && decide (0 < b.round)) = true := by simp [h1, he, h0]
  dsimp only [execRoundEventWriteFailure]
  rw [hb]
  exact congrArg Host.Outcome.next (if_pos hwrote)

/-! ## Digests (R264, R265) -/

/-- A digest of 1 to 2^24 plates with numbers below 2^36 takes the lowest free digest, and is answered when its generation takes effect
(R264; the lowest is assumption 106). -/
theorem cDigestOpen_run (h1 : 1 ≤ p.p2.toNat) (hmax : p.p2.toNat ≤ 2 ^ 24) (hend : p.p1.toNat + p.p2.toNat ≤ 2 ^ 36)
    (hlim : (t.opr.digests.filter (fun (x : Nat × Digest) => x.2.slot == slotOf p)).length < t.domF (slotOf p) fDigestLimit)
    (hi : t.opr.digests.firstFree 1024 = some id)
    (hg : g = { slot := slotOf p, tag := p.p0.toNat % 65536, first := p.p1.toNat, count := p.p2.toNat, sum := 0, n := 0, sum0 := 0,
                n0 := 0, st := 0 })
    (hj : { t with opr.digests := t.opr.digests.set id g }.join [.digestOpen id] = (u, gen, due)) :
    cDigestOpen.run t o p = (u, .later due stOk 0 id gen []) := by
  have hgood : ¬ (p.p2.toNat = 0 ∨ 2 ^ 24 < p.p2.toNat ∨ 2 ^ 36 < p.p1.toNat + p.p2.toNat) := by omega
  subst hg
  dsimp only [cDigestOpen, shortCmd]
  rw [if_neg hgood, if_neg (Nat.not_le.2 hlim), hi]
  dsimp only
  rw [hj]

/-- An open digest begins to close with the next generation, and is answered when that takes effect (R264). -/
theorem cDigestClose_run (hi : id = fld p.p0.toNat 0 10) (hg : t.digestFor (slotOf p) id = .ok g) (h1 : g.st = 1)
    (hj : { t with opr.digests := t.opr.digests.set id { g with st := 2 } }.join [.digestClose id] = (u, gen, due)) :
    cDigestClose.run t o p = (u, .later due stOk 0 gen 0 []) := by
  subst hi
  dsimp only [cDigestClose, shortCmd]
  rw [hg]
  dsimp only
  rw [if_neg (not_not.2 h1), hj]

/-- A closed digest reads as it ended and any other as the stride found it; RELEASE, which frees it, needs it closed (R265). -/
theorem cDigestRead_run (hi : id = fld p.p0.toNat 0 10) (hg : t.digestFor (slotOf p) id = .ok g)
    (hrel : p.p0.getLsbD 16 = true → g.st = 3) :
    cDigestRead.run t o p = done (if p.p0.getLsbD 16 then { t with opr.digests := t.opr.digests.del id } else t) stOk
      (if g.st = 3 then g.sum else g.sum0).toNat ((if g.st = 3 then g.n else g.n0) % 2 ^ 48 + 2 ^ 48 * g.tag) := by
  have hgood : ¬ (p.p0.getLsbD 16 && g.st != 3) = true := by simpa using hrel
  subst hi
  dsimp only [cDigestRead, shortCmd]
  rw [hg]
  dsimp only
  rw [if_neg hgood]
  by_cases h3 : g.st = 3
  · rw [if_pos h3, if_pos h3, if_pos h3]
  · rw [if_neg h3, if_neg h3, if_neg h3]

end Sys2Proof.Machine
end

section
open Sys2Proof Sys2Proof.Machine

/-- Settles O13: each command's run ends in the way in which its packet is answered, and a binding's two events act where they are due. -/
theorem operatorRowsComplete : Obligations.OperatorRowsComplete := by
  refine ⟨fun o p b id s t u h hl ha hb hform hvalid hfits hlim hwork hi hu => ?_, fun o p id b s t h hi hb h0 hc hx => ?_,
    fun o p id r b q s t h hi hr hb ha h1 hnext hnow hq => ?_, fun o p id b s t h hl hi hb h1 hc => ?_, fun o p b s t h hb => ?_,
    fun id s u h => execRoundComplete_due h, fun id b s hb h1 he h0 => execRoundEventWriteFailure_logged hb h1 he h0,
    fun o p id gen due g s t u h h1 hmax hend hlim hi hg hj => ?_, fun o p id gen due g s t u h hi hg h1 hj => ?_,
    fun o p id g s t h hi hg hrel => ?_⟩
  · exact congrArg Host.Outcome.next
      (State.packet_start h (cOperBind_run hb ha hform hvalid hfits hlim hwork hi hu) hl)
  · exact congrArg Host.Outcome.next (State.packet_now h (cOperUnbind_run hi hb h0 hc hx))
  · subst hq
    exact congrArg Host.Outcome.next (State.packet_now h (cOperStep_run_next hi hr hb ha h1 hnext hnow))
  · exact congrArg Host.Outcome.next (State.packet_start h (cOperRoundClose_run hi hb h1 hc) hl)
  · exact congrArg Host.Outcome.next (State.packet_now h (cOperQuery_run hb))
  · exact congrArg Host.Outcome.next (State.packet_later h (cDigestOpen_run h1 hmax hend hlim hi hg hj))
  · exact congrArg Host.Outcome.next (State.packet_later h (cDigestClose_run hi hg h1 hj))
  · exact congrArg Host.Outcome.next (State.packet_now h (cDigestRead_run hi hg hrel))
end

section
/-! SUPPORT. DMA channels: what each of their commands does where it is carried out, and what a fetched descriptor, a complete one and a
failed access make of a channel. -/

namespace Sys2Proof.Machine

variable {s t u v w : State} {o : Origin} {p : Pkt} {n ch : Nat} {c : Chan} {d : Desc} {bytes src : List Byte} {link : U64}

/-! ## Commands (R272, R283, R293) -/

/-- A channel that is free opens under the number that was asked for, where its values are in range and the domain may hold one more. -/
theorem cDmaChanOpen_run {func : Nat} (hn : n = fld p.p0.toNat 0 7) (h64 : n < 64)
    (hf : func = (match o with
      | .qp f _ => if t.isOwner f then fld p.p0.toNat 16 7 else f
      | .mgmt _ _ => fld p.p0.toNat 16 7))
    (hdesc : p.p1.toNat % 64 = 0) (hstat : p.p2.toNat % 8 = 0) (hev : p.p4.toNat % 64 = 0) (hpark : 1 ≤ fld p.p3.toNat 32 13)
    (hmax : fld p.p3.toNat 32 13 ≤ 4096) (hprio : fld p.p0.toNat 8 2 ≤ t.domF (slotOf p) fDmaPrioMax)
    (hfree : t.dma.chans.has n = false)
    (hlim : (t.dma.chans.filter (fun (x : Nat × Chan) => x.2.slot == slotOf p)).length < t.domF (slotOf p) fDmaLimit)
    (hc : c = {
      slot := slotOf p, func := func, prio := fld p.p0.toNat 8 2, parkLimit := fld p.p3.toNat 32 13, stAddr := p.p2.toNat,
      evArea := p.p4.toNat, st := chClosed, next := some (chRunning, stOk),
      lastDseq := (fld p.p3.toNat 0 32 + 2 ^ 32 - 1) % 2 ^ 32, status := stOk, poison := false, update := 0, word := 0,
      addr := p.p1.toNat, desc := none, cur := none, flight := [], moved := 0, stage := [], bad := false,
      parkLeft := fld p.p3.toNat 32 13, reread := false, ended := [], touch := false }) :
    cDmaChanOpen.run t o p = done { t with dma.chans := t.dma.chans.set n c } stOk n 0 := by
  subst hn hf hc
  have hnamed : fld p.p0.toNat 0 7 ≠ 0x7F := by omega
  have hgood : ¬ ((64 ≤ fld p.p0.toNat 0 7 ∧ fld p.p0.toNat 0 7 ≠ 0x7F) ∨ p.p1.toNat % 64 ≠ 0 ∨ p.p2.toNat % 8 ≠ 0 ∨
      p.p4.toNat % 64 ≠ 0 ∨ fld p.p3.toNat 32 13 = 0 ∨ 4096 < fld p.p3.toNat 32 13 ∨
      t.domF (slotOf p) fDmaPrioMax < fld p.p0.toNat 8 2) := by omega
  have hclosed : ¬ (fld p.p0.toNat 0 7 ≠ 0x7F ∧ t.dma.chans.has (fld p.p0.toNat 0 7) = true) := by simp [hfree]
  dsimp only [cDmaChanOpen, shortCmd]
  rw [if_neg hgood, if_neg hclosed, if_neg hnamed]
  exact if_neg (Nat.not_le.2 hlim)

/-- A channel that has neither stopped nor failed nor is about to close stops with the boundary: ABORTED where a descriptor was partly
moved, and its claims of the staging pool are released. -/
theorem cDmaChanStop_run {partly : Bool} (hn : n = fld p.p0.toNat 0 6) (hc : t.chanFor (slotOf p) n = .ok (some c))
    (hst : c.st ≠ chStopped) (herr : c.coming ≠ chError) (hclosed : c.coming ≠ chClosed) (hu : t.stopBursts n c = (u, partly)) :
    cDmaChanStop.run t o p = done ((u.modChan n (fun c => { c with
      next := some (chStopped, if partly then stAborted else stOk) })).unclaimOthers n none) stOk 0 0 := by
  subst hn
  dsimp only [cDmaChanStop, shortCmd]
  rw [hc]
  dsimp only
  rw [if_neg (not_or.2 ⟨hst, not_or.2 ⟨herr, hclosed⟩⟩), hu]

/-- A channel that neither runs nor is about to closes with the boundary, its STATUS as it stands. -/
theorem cDmaChanClose_run (hn : n = fld p.p0.toNat 0 6) (hc : t.chanFor (slotOf p) n = .ok (some c)) (hrun : c.st ≠ chRunning)
    (hwait : c.st ≠ chStageWait) (hclosed : c.st ≠ chClosed) (hcoming : c.coming ≠ chRunning) :
    cDmaChanClose.run t o p = done (t.modChan n (fun c => { c with next := some (chClosed, c.status) })) stOk 0 0 := by
  subst hn
  dsimp only [cDmaChanClose, shortCmd]
  rw [hc]
  exact if_neg (not_or.2 ⟨hrun, not_or.2 ⟨hwait, not_or.2 ⟨hclosed, hcoming⟩⟩⟩)

/-- A kick wakes a channel that sleeps with no change ahead: it parks with the boundary (R283; the state is assumption 93). -/
theorem cDmaKick_run_sleeping (hn : n = fld p.p0.toNat 0 6) (hc : t.chanFor (slotOf p) n = .ok (some c)) (hst : c.st = chSleeping)
    (hnext : c.next = none) :
    cDmaKick.run t o p = done (t.modChan n (fun x => { x with next := some (chParked, x.status) })) stOk 0 0 := by
  have hsleeps : c.st = chSleeping ∧ c.next = none := ⟨hst, hnext⟩
  subst hn
  dsimp only [cDmaKick, shortCmd]
  rw [hc]
  simp only [if_pos hsleeps]

theorem cDmaChanQuery_run (hc : t.chanFor (slotOf p) (fld p.p0.toNat 0 6) = .ok (some c)) :
    cDmaChanQuery.run t o p = done t stOk c.word.toNat c.addr := by
  dsimp only [cDmaChanQuery, shortCmd]
  rw [hc]

/-! ## Fetched descriptors (R278, R281, R284) -/

/-- The hull of a side stays within the domain, where that side lies in it. -/
theorem not_hull_beyond {inDom : Bool} {h : Nat × Nat} {size : Nat} (hin : inDom = true → h.1 + h.2 ≤ size) :
    (inDom && decide (size < h.1 + h.2)) = false := by
  cases inDom with
  | false => rfl
  | true => exact decide_eq_false (Nat.not_lt.2 (hin rfl))

/-- A fetch costs one unit of the head (assumption 15); a descriptor that passes its checks is then taken as it overlaps. -/
theorem execDescriptorFetch_checked (hc : s.chan ch = some c) (hf : c.fetches = true) (hd : d = descOf bytes)
    (hu : u = s.charge c.slot 0 (headOf c.func) 1) (hok : descOk bytes = true) (hseq : d.dseq = (c.lastDseq + 1) % 2 ^ 32)
    (hsrc : d.srcDom = true → d.srcHull.1 + d.srcHull.2 ≤ u.size c.slot)
    (hdst : d.dstDom = true → d.dstHull.1 + d.dstHull.2 ≤ u.size c.slot) :
    execDescriptorFetch ch bytes s = .next (
      if d.overlaps && !(d.rows == 1 && d.reshape == 0) then
        if 16 * mib < d.total then u.chanError ch stOverlap
        else ({ u with dma.staged := cntAdd u.dma.staged 1 }.claim 1 (claimOf ch d) ((d.total + 63) / 64 * 64)).takeDesc ch
          { d with staged := true }
      else u.takeDesc ch d) := by
  have hgood : (!descOk bytes || d.dseq != (c.lastDseq + 1) % 2 ^ 32 || (d.srcDom && decide (u.size c.slot < d.srcHull.1 + d.srcHull.2))
      || (d.dstDom && decide (u.size c.slot < d.dstHull.1 + d.dstHull.2))) = false := by
    rw [not_hull_beyond hsrc, not_hull_beyond hdst, hok, hseq, bne_self_eq_false]
    rfl
  subst hd hu
  dsimp only [execDescriptorFetch]
  rw [hc]
  dsimp only
  rw [hf, Bool.not_true, if_neg Bool.false_ne_true, hgood, if_neg Bool.false_ne_true]

/-! ## Complete descriptors (R283, R289) -/

/-- A descriptor whose LINK goes on has the channel fetch from there. -/
theorem State.descDone_onward (hl : d.link.getLsbD 0 = false) :
    w.descDone n d link = w.modChan n (fun c => { c with
      desc := none, cur := none, stage := [], lastDseq := d.dseq, poison := c.poison || c.bad,
      ended := c.ended ++ [(d.dseq, d.evIndex, c.bad, d.evPin, d.evWrite)], reread := false, addr := d.link.toNat / 64 * 64 }) := by
  simp only [State.descDone, hl, Bool.false_eq_true, if_false]

/-- A descriptor that is the tail when it is fetched and still is when it is done parks its channel. -/
theorem State.descDone_parks (hl : d.link.getLsbD 0 = true) (hend : link.getLsbD 0 = true) :
    w.descDone n d link = w.modChan n (fun c => { c with
      desc := none, cur := none, stage := [], lastDseq := d.dseq, poison := c.poison || c.bad,
      ended := c.ended ++ [(d.dseq, d.evIndex, c.bad, d.evPin, d.evWrite)], reread := true, parkLeft := c.parkLimit,
      next := some (chParked, stOk) }) := by
  simp only [State.descDone, hl, hend, if_true]

/-- With every burst done and no claim waiting, the bytes of a host source arrive (assumption 29) and the descriptor is complete. -/
theorem execDescriptorComplete_done (hu : u = s.moveDie (chanDie ch))
    (hv : v = u.finishBursts ch (((u.chan ch).map (fun c => c.flight.length)).getD 0)) (hc : v.chan ch = some c)
    (hd : c.desc = some d) (hcur : c.cur = none) (hflight : c.flight = []) (herr : c.coming ≠ chError) (hstop : c.coming ≠ chStopped)
    (hwait : v.stageWaits ch c = false) (hput : v.putHost ch c d src = (w, true)) :
    execDescriptorComplete ch src link s = .next ((w.descDone ch d link).dropFar c d) := by
  have hdone : (c.cur.isSome || !c.flight.isEmpty || c.coming == chError || c.coming == chStopped || v.stageWaits ch c) = false := by
    rw [hcur, hflight, beq_false_of_ne herr, beq_false_of_ne hstop, hwait]
    rfl
  subst hu hv
  dsimp only [execDescriptorComplete]
  rw [hc]
  dsimp only
  rw [hd]
  dsimp only
  rw [hdone, if_neg Bool.false_ne_true, hput]

/-! ## Sleep and failure (R283, R291) -/

theorem execParkLimitExpiry_sleeps (hc : s.chan ch = some c) (hst : c.st = chParked) (hleft : c.parkLeft = 0) (hnext : c.next = none) :
    execParkLimitExpiry ch s = .next (s.modChan ch (fun c => { c with next := some (chSleeping, c.status) })) := by
  dsimp only [execParkLimitExpiry]
  rw [hc]
  exact congrArg Host.Outcome.next (if_pos ⟨hst, hleft, hnext⟩)

/-- A failed access ends a channel that has no descriptor in ERROR, with DATA_ERROR. -/
theorem State.dmaFailure_without_desc (hc : s.chan ch = some c) (hopen : c.st ≠ chClosed) (hst : c.st < 4) (herr : c.coming ≠ chError)
    (hd : c.desc = none) : s.dmaFailure ch = s.chanError ch stDataError := by
  have hlive : ¬ (c.st == chClosed || decide (4 ≤ c.st) || c.coming == chError) = true := by
    simp [hopen, Nat.not_le.2 hst, herr]
  dsimp only [State.dmaFailure]
  rw [hc]
  dsimp only
  rw [if_neg hlive, hd]

end Sys2Proof.Machine
end

section
open Sys2Proof Sys2Proof.Machine

/-- Settles O14: each command's run ends in the way in which its packet is answered, a descriptor that passes its checks is taken as it
overlaps, a complete one goes along its LINK or parks, and the two events change the channel's next state. -/
theorem dmaRowsComplete : Obligations.DmaRowsComplete := by
  refine ⟨fun o p n func c s t h hn h64 hf hdesc hstat hev hpark hmax hprio hfree hlim hc => ?_,
    fun o p n c partly s t u h hn hc hst herr hclosed hu => ?_, fun o p n c s t h hn hc hrun hwait hclosed hcoming => ?_,
    fun o p n c s t h hn hc hst hnext => ?_, fun o p c s t h hc => ?_,
    fun ch bytes c d s u hc hf hd hu hok hseq hsrc hdst hover => ?_,
    fun ch bytes c d s u hc hf hd hu hok hseq hsrc hdst hover hfits => ?_,
    fun ch src link c d s u v w hu hv hc hd hcur hflight herr hstop hwait hput hl => ?_,
    fun ch src link c d s u v w hu hv hc hd hcur hflight herr hstop hwait hput hl hend => ?_,
    fun ch c s hc hst hleft hnext => execParkLimitExpiry_sleeps hc hst hleft hnext,
    fun ch c s hc hopen hst herr hd => congrArg Host.Outcome.next (State.dmaFailure_without_desc hc hopen hst herr hd)⟩
  · exact congrArg Host.Outcome.next
      (State.packet_now h (cDmaChanOpen_run hn h64 hf hdesc hstat hev hpark hmax hprio hfree hlim hc))
  · exact congrArg Host.Outcome.next (State.packet_now h (cDmaChanStop_run hn hc hst herr hclosed hu))
  · exact congrArg Host.Outcome.next (State.packet_now h (cDmaChanClose_run hn hc hrun hwait hclosed hcoming))
  · exact congrArg Host.Outcome.next (State.packet_now h (cDmaKick_run_sleeping hn hc hst hnext))
  · exact congrArg Host.Outcome.next (State.packet_now h (cDmaChanQuery_run hc))
  · have hrun := execDescriptorFetch_checked hc hf hd hu hok hseq hsrc hdst
    rw [hover, if_neg Bool.false_ne_true] at hrun
    exact hrun
  · have hrun := execDescriptorFetch_checked hc hf hd hu hok hseq hsrc hdst
    rw [if_pos hover, if_neg (Nat.not_lt.2 hfits)] at hrun
    exact hrun
  · have hrun := execDescriptorComplete_done (link := link) hu hv hc hd hcur hflight herr hstop hwait hput
    rw [State.descDone_onward hl] at hrun
    exact hrun
  · have hrun := execDescriptorComplete_done (link := link) hu hv hc hd hcur hflight herr hstop hwait hput
    rw [State.descDone_parks hl hend] at hrun
    exact hrun
end

section
/-! SUPPORT. Sharing: a host's answers to the snoop that they name, and a snoop that is not answered in time. -/

namespace Sys2Proof.Machine

variable {s : State} {ld id : Nat} {sn : Snoop}

/-- An answer that comes from the snooped host, over a link that is up, is not turned away. -/
theorem not_misdirected (hld : sn.ld = ld) (hup : (s.head (headOf ld)).up = true) : ¬ (sn.ld ≠ ld ∨ ¬ (s.head (headOf ld)).up = true) := by
  simp [hld, hup]

/-- A response in time to a snoop of this device's own directory completes it, and accesses that waited for it go on (R304, R306; the unit
charged is assumption 15). -/
theorem State.birsp_own (hs : s.sh.snoops.get? id = some sn) (hld : sn.ld = ld) (hup : (s.head (headOf ld)).up = true) (hlate : sn.late = false)
    (hhome : sn.home = none) (shared : Bool) :
    s.birsp ld id shared = (((s.dropSnoop id).charge sn.slot 0 (headOf ld) 1).answerSnoop sn shared).advance := by
  dsimp only [State.birsp]
  rw [hs]
  dsimp only
  rw [if_neg (not_misdirected hld hup), hlate, if_neg Bool.false_ne_true, hhome]

/-- BIRspE in time acts as BIRspI, and is logged besides (R501; the log code is assumption 95). -/
theorem execBiRspE_in_time (hs : s.sh.snoops.get? id = some sn) (hld : sn.ld = ld) (hup : (s.head (headOf ld)).up = true)
    (hlate : sn.late = false) :
    execBiRspE ld id s = .next ((s.birsp ld id false).logE 0x0201 (some sn.slot) sn.sharer (sn.line * 64)) := by
  have htakes : sn.ld = ld ∧ (s.head (headOf ld)).up = true ∧ ¬ sn.late = true := ⟨hld, hup, by simp [hlate]⟩
  dsimp only [execBiRspE]
  rw [hs]
  exact congrArg Host.Outcome.next (if_pos htakes)

/-- The request whose completion the acknowledgement of a conflict on a snoop has to follow: one of the snooped host on the snooped line that
has acted, and whose completion is still to be sent (R307). -/
def State.orderedBefore (s : State) (ld : Nat) (sn : Snoop) : Option (Nat × Access) :=
  s.sh.waiting.find? (fun p => p.2.ld == ld && p.2.slot == sn.slot && p.2.line == sn.line && p.2.target == .line && p.2.sent)

/-- A conflict is counted; its acknowledgement waits for the completion of the request ordered before the snoop, or is sent (R307). -/
theorem execBiConflict_counted (hs : s.sh.snoops.get? id = some sn) (hld : sn.ld = ld) (hup : (s.head (headOf ld)).up = true) :
    execBiConflict ld id s = .next (match s.orderedBefore ld sn with
      | some w => { s with sh.conflict := cntAdd s.sh.conflict 1, sh.acks := s.sh.acks ++ [(ld, id, w.1)] }
      | none => { s with sh.conflict := cntAdd s.sh.conflict 1, out := s.out ++ [.biConflictAck ld id] }) := by
  dsimp only [execBiConflict]
  rw [hs]
  exact congrArg Host.Outcome.next (if_neg (not_misdirected hld hup))

/-- An own snoop that has gone unanswered for SNOOP_LIMIT strides counts as a timeout, and its holder is removed (R304). -/
theorem execSnoopTimeout_due (hs : s.sh.snoops.get? id = some sn) (hlate : sn.late = false) (hhome : sn.home = none)
    (hdue : sn.sent + s.dev fSnoopLimit ≤ s.str.count) :
    execSnoopTimeout id s = .next ({ s with sh.timeouts := cntAdd s.sh.timeouts 1 }.unanswered id sn true).advance := by
  have hover : (!sn.late && sn.home.isNone && decide (sn.sent + s.dev fSnoopLimit ≤ s.str.count)) = true := by
    simp [hlate, hhome, hdue]
  dsimp only [execSnoopTimeout]
  rw [hs]
  exact congrArg Host.Outcome.next (if_pos hover)

end Sys2Proof.Machine
end

section
open Sys2Proof Sys2Proof.Machine

/-- Settles O7: a response in time completes its snoop, a conflict is acknowledged now or after the request ordered before the snoop, and a
snoop that is due is unanswered. -/
theorem sharingRowsComplete : Obligations.SharingRowsComplete := by
  refine ⟨fun ld id shared sn s hs hld hup hlate hhome => congrArg Host.Outcome.next (State.birsp_own hs hld hup hlate hhome shared),
    fun ld id sn s hs hld hup hlate => execBiRspE_in_time hs hld hup hlate, fun ld id sn s hs hld hup hnone => ?_,
    fun ld id sn w s hs hld hup hsome => ?_, fun id sn s hs hlate hhome hdue => execSnoopTimeout_due hs hlate hhome hdue⟩
  · have hrun := execBiConflict_counted hs hld hup
    rw [State.orderedBefore, hnone] at hrun
    exact hrun
  · have hrun := execBiConflict_counted hs hld hup
    rw [State.orderedBefore, hsome] at hrun
    exact hrun
end

section
/-! SUPPORT. Impressions and recalls: what each of their commands does where it is carried out, and the capture of an impression. -/

namespace Sys2Proof.Machine

variable {s t u : State} {o : Origin} {p : Pkt} {id : Nat} {m : Impr}

/-- An impression whose ranges hold, within the domain's limit and with fewer than 16 on each of its plates, takes the lowest free number and
seals from the next boundary (R315 to R317; the lowest is assumption 106, RUNNING at once assumption 102). -/
theorem cImpressionOpen_run {slot : Nat} (hslot : slot = slotOf p)
    (hok : t.imprOk slot p.p0.toNat p.p1.toNat p.p2.toNat p.p3.toNat = true)
    (hlim : (t.sh.imprs.filter (fun (m : Nat × Impr) => m.2.slot == slot)).length < t.domF slot fImprLimit)
    (hcov : t.covered slot p.p0.toNat p.p1.toNat < 16) (hi : t.sh.imprs.firstFree 65536 = some id)
    (hm : m = { slot := slot, first := p.p0.toNat, count := p.p1.toNat, area := p.p2.toNat, areaCount := p.p3.toNat, st := 3, capture := 0,
                copies := 0, torn := 0, map := [], scanned := 0, snoops := [] }) :
    cImpressionOpen.run t o p =
      ({ t with sh.imprs := t.sh.imprs.set id m }, .start (.imprOpen id 0 0) (t.scanTotal slot) id 0 opRunning) := by
  subst hslot hm
  have hroom : ¬ (t.domF (slotOf p) fImprLimit ≤ (t.sh.imprs.filter (fun (m : Nat × Impr) => m.2.slot == slotOf p)).length
      ∨ 16 ≤ t.covered (slotOf p) p.p0.toNat p.p1.toNat) := by omega
  dsimp only [cImpressionOpen, longCmd]
  rw [hok, Bool.not_true, if_neg Bool.false_ne_true, if_neg hroom, hi]

/-- An impression whose range was captured, without a live close, begins to close (R321). -/
theorem cImpressionClose_run (hi : id = fld p.p0.toNat 0 16) (hm : t.imprFor (slotOf p) id = .ok m) (h0 : m.st ≠ 0) (h3 : m.st ≠ 3)
    (hc : t.imprClosing id = false) :
    cImpressionClose.run t o p = ({ t with sh.imprs := t.sh.imprs.set id { m with st := max m.st 2 } },
      .start (.imprClose id 0 false) (mapPlates m.count + m.copies) 0 0 opQueued) := by
  subst hi
  have hopen : ¬ (m.st = 0 ∨ m.st = 3 ∨ t.imprClosing (fld p.p0.toNat 0 16) = true) := by simp [h0, h3, hc]
  dsimp only [cImpressionClose, longCmd]
  rw [hm]
  exact if_neg hopen

theorem cImpressionQuery_run (hm : t.imprFor (slotOf p) (fld p.p0.toNat 0 16) = .ok m) : cImpressionQuery.run t o p = done t stOk m.capture
    (m.copies % 2 ^ 32 + 2 ^ 32 * (m.torn % 2 ^ 24) + bitAt (m.st == 2 || m.st == 4) 56) := by
  dsimp only [cImpressionQuery, shortCmd]
  rw [hm]

/-- An impression that is due for its capture at this boundary takes effect, and the operation that opens it is DONE (R317). -/
theorem execImpressionCapture_due {h : Nat} (hd : s.takeDue 2 id = some u) (hh : u.imprOp id = some h) :
    execImpressionCapture id s = .next (((u.modImpr id (fun m => { m with st := 1, capture := u.str.count })).modOp h (fun o =>
      { o with st := opDone, status := stOk, done := o.total, r1 := u.str.count, ran := false })).writeRecord h) := by
  dsimp only [execImpressionCapture]
  rw [hd]
  dsimp only
  rw [hh]
  rfl

theorem cDirRecall_run {first count : Nat} (hr : plateRange p = some (first, count)) : cDirRecall.run t o p =
    (t, .start (.dirRecall (slotOf p) first count 0) (t.scanTotal (slotOf p)) 0 0 opQueued) := by
  dsimp only [cDirRecall, longCmd]
  rw [hr]

end Sys2Proof.Machine
end

section
open Sys2Proof Sys2Proof.Machine

/-- Settles O12: each command's run ends in the way in which its packet is answered, and a capture acts where it is due. -/
theorem impressionRowsComplete : Obligations.ImpressionRowsComplete := by
  refine ⟨fun o p id slot m s t h hl hslot hok hlim hcov hi hm => ?_, fun o p id m s t h hl hi hm h0 h3 hc => ?_, fun o p m s t h hm => ?_,
    fun id h s u hd hh => execImpressionCapture_due hd hh, fun o p first count s t h hl hr => ?_⟩
  · exact congrArg Host.Outcome.next (State.packet_start h (cImpressionOpen_run hslot hok hlim hcov hi hm) hl)
  · exact congrArg Host.Outcome.next (State.packet_start h (cImpressionClose_run hi hm h0 h3 hc) hl)
  · exact congrArg Host.Outcome.next (State.packet_now h (cImpressionQuery_run hm))
  · exact congrArg Host.Outcome.next (State.packet_start h (cDirRecall_run hr) hl)
end

section
/-! SUPPORT. The DRAM stacks: what each row does to a pseudo-channel in service, in training or in self-refresh, what the end of a bank's copy
does to the spares, and what a partial write reads and stores. -/

namespace Sys2Proof.Machine

variable {s u v : State} {k pc : Nat}

/-! ## Reads and alerts (R341, R342, R351) -/

/-- A read of a refreshed granule, where the cells have kept every bit, leaves what the read of its line leaves. -/
theorem State.dramRead_unflipped {g : Nat} {d : List Byte} (hk : k < 12) (hg : g < stackGranules) (hon : s.pcOff k (granPc g) = false)
    (href : s.refreshed k g = true) (hread : s.readLine (dramLine k g) = (u, .good d)) : s.dramRead k g [] = u := by
  have hserved : ¬ (k ≥ 12 ∨ stackGranules ≤ g ∨ s.pcOff k (granPc g) = true) := by
    simp only [hon, Bool.false_eq_true, or_false]
    omega
  dsimp only [State.dramRead]
  rw [if_neg hserved, href, Bool.not_true, if_neg Bool.false_ne_true]
  simp [hread]

/-- What the alert leaves before it is remembered: the replay, its counts and its log entry. -/
def State.replayed (s : State) (k pc n : Nat) : State :=
  ({ s.freeWord.1.modPc k pc (Pc.replay n) with
    dram.caReplay := cntAdd s.dram.caReplay 1
    dram.act := cntAdd s.dram.act (s.freeWord.2.toNat % (n + 1)) }.logE 0x0607 none (k * 256 + pc) n).diverge 2

theorem State.replayed_count (n : Nat) : (s.replayed k pc n).str.count = s.str.count := by
  rw [State.replayed, State.diverge_eq_tst]
  rfl

/-- The alert of a pseudo-channel in service is remembered with those of the last 64 strides, and the fourth of them begins a retraining. -/
theorem execCaParityAlert_inService {n : Nat} {recent : List Nat} (he : pcExists k pc = true) (hst : (s.pc k pc).st = 0)
    (hr : recent = (s.pc k pc).alerts.filter (fun n => decide (s.str.count < n + 64)) ++ [s.str.count]) :
    execCaParityAlert k pc n s = .next ((s.replayed k pc n).modPc k pc (fun c => if 4 ≤ recent.length
      then { c with alerts := recent, st := 2, training := 256 } else { c with alerts := recent })) := by
  have hrecent : (s.pc k pc).alerts.filter (fun n' => decide ((s.replayed k pc n).str.count < n' + 64))
      ++ [(s.replayed k pc n).str.count] = recent := by rw [State.replayed_count, hr]
  have hrun : execCaParityAlert k pc n s = .next (if 4 ≤ recent.length
      then (s.replayed k pc n).modPc k pc (fun c => { c with alerts := recent, st := 2, training := 256 })
      else (s.replayed k pc n).modPc k pc (fun c => { c with alerts := recent })) := by
    rw [← hrecent]
    simp only [execCaParityAlert, he, hst]
    rfl
  rw [hrun]
  by_cases h4 : 4 ≤ recent.length
  · simp only [if_pos h4]
  · simp only [if_neg h4]

/-! ## Training and self-refresh (R340, R342, R348, R349) -/

theorem execRetrainingComplete_trained (pass : Bool) (he : pcExists k pc = true) (hst : (s.pc k pc).st = 2)
    (ht : (s.pc k pc).training = 0) : execRetrainingComplete k pc pass s =
      .next (s.modPc k pc (fun c => if pass then { c with st := 0 } else { c with retiring := true })) := by
  simp [execRetrainingComplete, he, hst, ht]

theorem execTrainPeriodExpiry_due (h : s.dram.lastPass + s.dev fTrainPeriod ≤ s.str.count) :
    execTrainPeriodExpiry s = .next { s with dram.pass := 16, dram.lastPass := s.str.count } :=
  congrArg Host.Outcome.next (if_pos h)

theorem execSelfRefreshEntry_idle (he : pcExists k pc = true) (hst : (s.pc k pc).st = 0) (hidle : s.dev fSrIdle ≠ 0)
    (hgrant : s.noGrant k = true) (hq : (s.pc k pc).queue = []) (hw : (s.pc k pc).wbuf = [])
    (hlast : (s.pc k pc).last + s.dev fSrIdle ≤ s.str.count) (hgranted : s.dram.granted.getD k 0 + s.dev fSrIdle ≤ s.str.count) :
    execSelfRefreshEntry k pc s = .next (s.modPc k pc (fun c => { c with st := 1, rows := [] })) := by
  simp [execSelfRefreshEntry, he, hst, hidle, hgrant, hq, hw, hlast, hgranted]

theorem execSelfRefreshExit_wanted (he : pcExists k pc = true) (hst : (s.pc k pc).st = 1)
    (hwant : (s.stackDemand k || !(s.pc k pc).queue.isEmpty || !(s.pc k pc).wbuf.isEmpty) = true) :
    execSelfRefreshExit k pc s = .next (s.modPc k pc (fun c => { c with st := 0, steps := c.steps + 1 })) := by
  simp only [execSelfRefreshExit, he, hst, hwant]
  rfl

/-! ## Spare banks (R478) -/

/-- The copy of a bank that no live operation waits for: the spare takes its place. -/
theorem execBankSpareCopyDone_spares {bank n : Nat} (hs : s.ras.sparing.find? (fun x => x.1 == bank) = some (bank, n))
    (hu : u = s.over ((s.syn.map Prod.fst).filter (fun l => !isDram l && csBank (lineIndex l) == bank)) State.copySpare)
    (hops : u.liveOps = []) : execBankSpareCopyDone bank s = .next { u with
      ras := { (u.logE 0x0706 none bank n).ras with
        sparing := u.ras.sparing.filter (fun x => x.1 != bank), spares := u.ras.spares.set bank n } } := by
  simp only [execBankSpareCopyDone, hs, ← hu]
  refine congrArg Host.Outcome.next ?_
  -- The log entry and the spares leave the operations alone, so that none stands for the copy to end.
  exact congrArg (fun l => State.over _ l _) hops

/-! ## Partial writes (R331, R471) -/

/-- A partial write of a line that reads good stores the merged line. -/
theorem State.writeBe_partial_good {l be : Nat} {d old : List Byte} (poison : Bool) (hbe : be % 2 ^ 64 ≠ allBe)
    (hu : u = (if isDram l then { s with dram.rmw := cntAdd s.dram.rmw 1 } else s)) (hread : u.readLine l = (v, .good old)) :
    s.writeBe l d be poison = v.writeLine l (maskBytes old d be) poison := by
  subst hu
  simp only [State.writeBe, if_neg hbe, hread]

theorem State.writeBe_partial_poison {l be : Nat} {d old : List Byte} (poison : Bool) (hbe : be % 2 ^ 64 ≠ allBe)
    (hu : u = (if isDram l then { s with dram.rmw := cntAdd s.dram.rmw 1 } else s)) (hread : u.readLine l = (v, .poison old)) :
    s.writeBe l d be poison = v.writeLine l (maskBytes old d be) true := by
  subst hu
  simp only [State.writeBe, if_neg hbe, hread]

theorem maskBytes_getElem? (d : List Byte) (be : Nat) {old : List Byte} {i : Nat} (hi : i < old.length) :
    (maskBytes old d be)[i]? = some (if be.testBit i then d.getD i 0 else old.getD i 0) := by
  rw [maskBytes, List.getElem?_map, List.getElem?_range hi]
  rfl

end Sys2Proof.Machine
end

section
open Sys2Proof Sys2Proof.Machine

/-- Settles O15: each row runs on the case that its hypotheses pick, and nothing between an alert and its remembering moves the clock. -/
theorem stackRowsComplete : Obligations.StackRowsComplete := by
  refine ⟨fun k g s u d hk hg hon href hread => ?_, fun k pc n recent w s v u he hst hr hw hu => ?_,
    fun k pc pass s he hst ht => execRetrainingComplete_trained pass he hst ht, fun s h => execTrainPeriodExpiry_due h,
    fun k pc s he hst hidle hgrant hq hwb hlast hgranted => execSelfRefreshEntry_idle he hst hidle hgrant hq hwb hlast hgranted,
    fun k pc s he hst hwant => execSelfRefreshExit_wanted he hst hwant, fun bank n s u hs hu _ hops => execBankSpareCopyDone_spares hs hu hops⟩
  · exact congrArg Host.Outcome.next (State.dramRead_unflipped hk hg hon href hread)
  · obtain ⟨rfl, rfl⟩ := Prod.mk.inj hw
    subst hu
    exact execCaParityAlert_inService he hst hr

/-- Settles O46: a full line is stored as it is, a partial write on the line as it reads, and the merged line is given byte by byte. -/
theorem partialWritesMerge : Obligations.PartialWritesMerge :=
  ⟨fun _ _ _ _ _ hbe => if_pos hbe, fun _ _ _ _ poison _ _ _ hbe hu hread => State.writeBe_partial_good poison hbe hu hread,
    fun _ _ _ _ poison _ _ _ hbe hu hread => State.writeBe_partial_poison poison hbe hu hread,
    fun _ d be _ hi => maskBytes_getElem? d be hi⟩
end

section
/-! SUPPORT. Flash: what a codeword read and its soft retries leave, what programs and erases do to their blocks, and which block reclaim and
wear levelling empty. -/

namespace Sys2Proof.Machine

variable {s : State} {a die mode ch g b n e key : Nat} {r : FRead} {p : FlashPop}

/-! ## Reads and retries (R366, R376, R377, R473) -/

section
variable (hr : s.fl.reads.get? a = some r)
include hr

theorem State.flashRead_direct_passed (hlate : r.reconFailed = false) (hdirect : r.recon = false)
    (hsane : (r.patrol || s.identOk a r.key) = true) (n : Nat) : s.flashRead a true n = s.readPassed a r false n := by
  simp only [State.flashRead, hr, hlate, hdirect, hsane]
  rfl

/-- A direct read that fails marks its slot and starts the reconstruct read beside the soft retries. -/
theorem State.flashRead_direct_failed (hlate : r.reconFailed = false) (hdirect : r.recon = false) (n : Nat) {u : State}
    (hu : u = (((((s.setBad a true).diverge 3).over (peerChannels a) State.takeIssue).charge (r.key / 2 ^ 36) 7 (faEngine a)
      (if r.patrol then 0 else 504)).suspends a 7)) :
    s.flashRead a false n = { u with
      fl.recon := cntAdd u.fl.recon 1
      fl.reads := u.fl.reads.set a { r with recon := true, soft := true } }.dieOpFailed (faCh a) (faDie a) := by
  subst hu
  simp only [State.flashRead, hr, hlate, hdirect]
  rfl

theorem execSoftRetryComplete_passed (hsoft : r.soft = true) (hsane : (r.patrol || s.identOk a r.key) = true) :
    execSoftRetryComplete a true s = .next (s.readPassed a r true 1) := by
  simp only [execSoftRetryComplete, hr, hsoft, hsane]
  rfl

/-- While the rebuild is still to come, retries that fail leave the read to it. -/
theorem execSoftRetryComplete_failed (hsoft : r.soft = true) (hlate : r.reconFailed = false) :
    execSoftRetryComplete a false s = .next { s with fl.reads := s.fl.reads.set a { r with soft := false, softFailed := true } } := by
  simp only [execSoftRetryComplete, hr, hsoft, hlate]
  rfl
end

/-- Patrol reads a written codeword that is out of its write buffer and not in a read already. -/
theorem execFlashPatrolRead_written (hon : s.dev fFlScrubH ≠ 0) (hslot : s.fl.slots.has a = true) (hbuf : s.inWriteBuffer a = false)
    (hidle : s.fl.reads.has a = false) (hown : s.slotOwner a = some (false, key)) (ok : Bool) (n : Nat) :
    execFlashPatrolRead a ok n s = .next ((s.beginRead a key (s.onFailedDie a) true none).flashRead a ok n) := by
  simp [execFlashPatrolRead, hon, hslot, hbuf, hidle, hown]

/-! ## Programs and erases (R368 to R371) -/

section
variable {t : State} {u : FUnit} (hu : s.takeUnit die mode = some (t, u))
include hu

theorem execFlashProgramComplete_taken : execFlashProgramComplete die mode s = .next t := by
  rw [execFlashProgramComplete, hu]

theorem execFlashProgramFailure_taken (ch : Nat) : execFlashProgramFailure die mode ch s =
    .next (((t.modBlock u.group u.block (fun b => { b with st := 5 })).over u.slots
      (fun s a => s.rewriteSlot mode a)).dieOpFailed (8 * die + ch) (u.group % 16)) := by
  rw [execFlashProgramFailure, hu]
end

theorem execFlashEraseComplete_erased (hst : (s.block g b).st = 3) : execFlashEraseComplete g b none s =
    .next (s.modBlock g b (fun x => { x with st := 0, pages := 0, erases := x.erases + 1 })) :=
  congrArg Host.Outcome.next (if_neg (not_not_intro hst))

theorem execFlashEraseComplete_failed (hst : (s.block g b).st = 3) (ch : Nat) : execFlashEraseComplete g b (some ch) s =
    .next ({ s.modBlock g b (fun x => { x with st := 4, erases := x.erases + 1 }) with
      fl.badBlock := cntAdd s.fl.badBlock 1 }.dieOpFailed (8 * (g / 16) + ch) (g % 16)) :=
  congrArg Host.Outcome.next (if_neg (not_not_intro hst))

theorem execPadTimeout_due {u : FUnit} (hopen : s.openUnit die mode = some u) (hused : u.slots ≠ [])
    (hdue : u.opened + s.dev fPadStrides ≤ s.str.count) : execPadTimeout die mode s = .next (s.padUnit die mode) := by
  rw [execPadTimeout, hopen]
  exact congrArg Host.Outcome.next (if_pos ⟨by rwa [List.isEmpty_iff], hdue⟩)

/-! ## Reclaim, wear and failed dies (R370, R371, R378) -/

theorem execReclaimStart_short (hp : s.pop = some p) (hd : die < 4) (hm : mode < 2)
    (hfree : sumOf ((s.groupsOf die).map (s.freeCount p mode)) < 2 * (s.groupsOf die).length)
    (hleast : leastBy (fun x => (x.1, x.2.1)) (s.written p die mode) = some (n, e, g, b)) :
    execReclaimStart die mode s = .next (s.modBlock g b (fun x => { x with st := 6 })) := by
  simp only [execReclaimStart, hp]
  rw [if_neg (by omega), hleast]

/-- Wear levelling empties the written block of the lowest erase count where the spread is beyond its bound. -/
theorem execWearLevel_spread {mine : FMap FBlock} (hp : s.pop = some p) (hd : die < 4) (hm : mode < 2)
    (hmine : mine = s.fl.blocks.filter (fun x => x.1 / 65536 / 16 == die && s.blockMode p (x.1 % 65536) == mode && x.2.st != 4))
    (hleast : leastBy (fun x => (x.2.1, x.1)) (s.written p die mode) = some (n, e, g, b))
    (hspread : s.dev fWearSpread * (if mode = 0 then p.ratedPslc else p.ratedNative) <
      1000 * (mine.foldl (fun m x => max m x.2.erases) 0 - e)) :
    execWearLevel die mode s = .next (s.modBlock g b (fun x => { x with st := 6 })) := by
  subst hmine
  simp only [execWearLevel, hp]
  rw [if_neg (by omega), hleast]
  exact congrArg Host.Outcome.next (if_pos hspread)

theorem execFlashDieFailure_of_die (hch : ch < 32) (hd : die < 16) : execFlashDieFailure ch die s = .next (s.failDie ch die) :=
  congrArg Host.Outcome.next (if_neg (by omega))

end Sys2Proof.Machine
end

section
open Sys2Proof Sys2Proof.Machine

/-- Settles O16: each row runs on the branch that its hypotheses pick; reads go through what one codeword read leaves. -/
theorem flashRowsComplete : Obligations.FlashRowsComplete := by
  refine ⟨fun a n r s hr hlate hdirect hsane => ?_, fun a n r s u hr hlate hdirect hu => ?_,
    fun _ _ _ => execSoftRetryComplete_passed, fun _ _ _ => execSoftRetryComplete_failed,
    fun _ _ ch _ _ _ hu => ⟨execFlashProgramComplete_taken hu, execFlashProgramFailure_taken hu ch⟩,
    fun _ _ ch _ hst => ⟨execFlashEraseComplete_erased hst, execFlashEraseComplete_failed hst ch⟩,
    fun _ _ _ _ => execPadTimeout_due, fun _ _ _ _ _ _ _ _ => execReclaimStart_short,
    fun _ _ _ _ _ _ _ _ _ => execWearLevel_spread, fun _ _ _ => execFlashDieFailure_of_die,
    fun _ n _ ok _ hon hslot hbuf hidle hown => execFlashPatrolRead_written hon hslot hbuf hidle hown ok n⟩
  · exact congrArg Host.Outcome.next (State.flashRead_direct_passed hr hlate hdirect hsane n)
  · exact congrArg Host.Outcome.next (State.flashRead_direct_failed hr hlate hdirect n hu)
end

section
/-! SUPPORT. Reset, the boot stages and the thermal sample: what each does in the stage that it ends. -/

namespace Sys2Proof.Machine

variable {s u : State} {r : List Byte}

/-! ## CHIP_RST_N (R457, R554) -/

theorem execChipRstNAssert_held {n : Nat} (hn : 10000 ≤ n) : execChipRstNAssert n s = .next s.afterChipReset :=
  congrArg Host.Outcome.next (if_neg (Nat.not_lt.2 hn))

theorem execChipRstNDeassert_released (hrst : s.pmu.inReset = true) (f : Fuses) : execChipRstNDeassert f s = .next { s with
    pmu.inReset := false
    tr.fuseSvn := max s.tr.fuseSvn f.fuseSvn
    tr.revoked := s.tr.revoked ||| f.revoked
    tr.siliconRev := f.siliconRev
    tr.identity := f.identity } := by
  rw [execChipRstNDeassert, hrst]
  rfl

/-! ## Boot stages (R360, R455, R557, R559) -/

/-- The set whose image runs: the one that the marker names, where its image is valid, else the other. -/
theorem bootSet_eq (marker a b : Bool) : (if marker then b else !a) = ((marker && b) || (!marker && !a)) := by
  cases marker <;> simp

theorem execBootRomComplete_rom {m : List Byte} {a b : Option Image} (hin : s.inStage 0 = true)
    (hu : u = { s with tr.imgA := a, tr.imgB := b, tr.standby := 0 }) :
    execBootRomComplete m a b s = .next (if u.validImage a = false ∧ u.validImage b = false
      then { u with pmu.stage := 6, tr.activeB := markerSet m }
      else { u with pmu.stage := 1, tr.activeB := (markerSet m && u.validImage b) || (!markerSet m && !u.validImage a) }) := by
  subst hu
  simp only [execBootRomComplete, hin, ← bootSet_eq, Bool.and_eq_true, Bool.not_eq_true']
  rfl

theorem markerBytes_length (b : Bool) : (markerBytes b).length = 12 := by simp [markerBytes]

/-- A marker written for a set names it: its first byte is the set, and the CRC of its first 8 bytes follows them. -/
theorem markerSet_markerBytes (b : Bool) : markerSet (markerBytes b) = b := by
  obtain ⟨m, hm⟩ : ∃ m, m = le 1 (if b then 1 else 0) ++ zeros 7 := ⟨_, rfl⟩
  have hlen : m.length = 8 := by simp [hm]
  have hmark : markerBytes b = m ++ le 4 (crc32c m).toNat := by rw [hm, markerBytes]
  have hset : fieldAt (markerBytes b) 0 1 = if b then 1 else 0 := by
    rw [hmark, hm, List.append_assoc]
    exact fieldAt_le_append (by cases b <;> decide) _
  have hbody : sub (markerBytes b) 0 8 = m := by simp [hmark, sub, ← hlen]
  have hcrc : fieldAt (markerBytes b) 8 4 = (crc32c m).toNat := by
    rw [hmark, fieldAt_append hlen.le, hlen]
    exact fieldAt_le (crc32c m).isLt
  rw [markerSet, hset, hbody, hcrc, beq_self_eq_true, Bool.and_true]
  cases b <;> rfl

theorem execCoreInitComplete_core (hin : s.inStage 1 = true) : execCoreInitComplete s = .next { s with pmu.stage := 2 } :=
  congrArg Host.Outcome.next (if_pos hin)

/-- Each pseudo-channel that failed in training is retired. -/
theorem execTrainComplete_without_flash {l : List (Nat × Nat)} (hin : s.inStage 2 = true) (hl : ∀ x ∈ l, x.1 < 12 ∧ x.2 < 32) :
    execTrainComplete l none s =
      .next { s.over l (fun s x => s.modPc x.1 x.2 (fun c => { c with st := 3 })) with pmu.stage := 3 } := by
  have hall : l.filter (fun x => decide (x.1 < 12) && decide (x.2 < 32)) = l := List.filter_eq_self.2 (by simpa using hl)
  simp only [execTrainComplete, hin, hall]
  rfl

/-- The state that CONFIG leaves of a good tray record, before it ends in a stage. -/
def State.trayApplied (s : State) (r : List Byte) (mode : Nat) : State :=
  ({ s with
    fl.pop := s.fl.pop.map (fun p => rated p r),
    fl.profileBad := (s.fl.pop.map (fun p => rated p r)).any (fun p => !p.ok),
    pmu.herdMode := mode,
    pmu.subsysVendor := fieldAt r 8 2,
    pmu.subsysId := fieldAt r 0xA 2 } : State).setCaps

theorem State.setCaps_herd (s : State) : s.setCaps.herd = s.herd := rfl

/-- With HERD_MODE 1 the device waits for its herd, unless it is in one already. -/
theorem execConfigComplete_tray (hin : s.inStage 3 = true) (hok : trayOk r = true) {mode : Nat}
    (hm : (if fieldAt r 5 1 = 1 then 1 else 0) = mode) (ms : Nat) :
    execConfigComplete r ms s = .next (if mode = 0 ∨ s.herd.st = 2 ∨ s.herd.st = 3 then (s.trayApplied r mode).enterActive ms
      else { s.trayApplied r mode with pmu.stage := 4 }) := by
  subst hm
  simp only [execConfigComplete, hin, hok, true_and, if_true, State.setCaps_herd]
  rfl

/-! ## Thermal sensing (R566) -/

/-- A sensor stands at its trip limit unless every one is below its own. -/
theorem anyTrips_eq (l : List (BitVec 16)) : (List.range 48).any (fun i => decide ((sensorLimits i).2.2 ≤ reading l i)) =
    !(List.range 48).all (fun i => decide (reading l i < (sensorLimits i).2.2)) := by
  simp only [List.not_all_eq_any_not, ← decide_not, Int.not_lt]

theorem execThermalSample_due {l : List (BitVec 16)} {w : Nat} (hrst : s.pmu.inReset = false) (hst : s.pmu.stage ≠ 7)
    (hdue : s.str.count % 64 = 63)
    (hu : u = { s.keepTemps l with pmu.nextLevels := some (s.sampleLevels l w), pmu.estW := w % 65536 }) :
    execThermalSample l w s =
      .next (if (List.range 48).all (fun i => decide (reading l i < (sensorLimits i).2.2)) then u else u.trip) := by
  have hsampled : ¬ (s.pmu.inReset || s.pmu.stage == 7 || s.str.count % 64 != 63) = true := by simp [hrst, hst, hdue]
  subst hu
  dsimp only [execThermalSample]
  rw [if_neg hsampled, anyTrips_eq]
  by_cases hcool : (List.range 48).all (fun i => decide (reading l i < (sensorLimits i).2.2)) = true
  · rw [hcool, if_pos rfl]
    rfl
  · rw [if_neg hcool, Bool.eq_false_of_not_eq_true hcool]
    rfl

end Sys2Proof.Machine
end

section
open Sys2Proof Sys2Proof.Machine

/-- Settles O27: each stage ends as its row says, and a tray record read good ends CONFIG by its HERD_MODE. -/
theorem bootRowsComplete : Obligations.BootRowsComplete := by
  refine ⟨fun _ _ => execChipRstNAssert_held, fun f _ hrst => execChipRstNDeassert_released hrst f,
    fun _ _ _ _ _ => execBootRomComplete_rom, fun b => ⟨markerBytes_length b, markerSet_markerBytes b⟩, fun _ => execCoreInitComplete_core,
    fun _ _ => execTrainComplete_without_flash, fun r ms u s hin hok hmode hu => ?_, fun r ms u s hin hok hmode hherd hu => ?_,
    fun _ _ _ _ => execThermalSample_due⟩
  · subst hu
    exact execConfigComplete_tray (mode := 0) hin hok (by simp [hmode]) ms
  · subst hu
    refine (execConfigComplete_tray (mode := 1) hin hok (by simp [hmode]) ms).trans (congrArg Host.Outcome.next (if_neg ?_))
    simp [hherd]
end

section
/-! SUPPORT. A message that acts on no slot, delivered to this device, and one of a MOP that no row has: what each does. -/

namespace Sys2Proof.Machine

variable {s u t : State} {n mop : Nat} {m q : Msg}

/-- A completion or a control message that acts on no slot takes effect at the member, and what waits is sent on (R390). -/
theorem State.takeMsg_member (hq : q = { m with mop := mop }) (hd : s.delivered n q = some u) (hn : needsSlot mop = false)
    (hv : mopVc mop ≠ 0) (ht : u.memberMsg q = t) : s.takeMsg n { m with mop := mop } = t.pump := by
  subst hq ht
  rw [State.takeMsg_delivered hd, if_neg hv, State.takeUp_member hn]

/-- On an ACTIVE link a message that does not wait is admitted (R21). -/
theorem State.takeMsg_admitted (hl : (s.link n).st = 5) (ha : s.admits n m = true) : s.takeMsg n m = s.admitMsg n m := by
  have hgo : ¬ (s.ingressWaits n m || (mopVc m.mop == 0 && s.herd.ingress.any (fun x => x.1 == n))) = true := by
    intro hw
    rw [State.admits, hw] at ha
    exact Bool.false_ne_true ha
  unfold State.takeMsg
  rw [if_neg (not_not.2 hl), if_neg hgo]

/-- A message of a MOP that no row has is charged and discarded, and its slots are credited, wherever it was going (R390, R399). -/
theorem State.admitMsg_unknown (hk : knownMop m.mop = false) : s.admitMsg n m =
    ((s.charge (s.payer m (!(s.inHerd && m.dst == s.herd.device))) 2 (n / 8) (msgSlots m)).giveCredit n m).discardMsg m := by
  unfold State.admitMsg
  dsimp only
  rw [hk, Bool.not_false, if_pos rfl]
  rfl

end Sys2Proof.Machine
end

section
open Sys2Proof Sys2Proof.Machine

/-- Settles O19: each MOP of the table picks its own effect on the member, and a MOP that is not in it none. -/
theorem memberMessagesComplete : Obligations.MemberMessagesComplete := by
  unfold Obligations.MemberMessagesComplete
  refine ⟨?_, ?_, ?_, ?_, ?_, ?_, ?_, ?_, ?_, ?_, ?_, ?_, fun n m s hl hk ha => ?_⟩
  iterate 12
    · intro n m q s u hq hd
      exact congrArg Host.Outcome.next
        (State.takeMsg_member hq hd (by decide) (by decide) (by simp only [State.memberMsg, hq]))
  · exact congrArg Host.Outcome.next ((State.takeMsg_admitted hl ha).trans (State.admitMsg_unknown hk))
end

section
/-! SUPPORT. Herd commands: what each does where it is carried out. -/

namespace Sys2Proof.Machine

variable {t u : State} {o : Origin} {p : Pkt} {d h n : Nat} {r : HdomRec}

/-! ## Membership (R406, R411, R424, R426) -/

theorem cHerdForm_run (h0 : p.p0 ≠ 0) (hin : t.inHerd = false) (hf : t.forming = false) :
    cHerdForm.run t o p = (t, .start (.herdForm p.p0.toNat (fld p.p1.toNat 0 16)) 1 0 0 opQueued) := by
  dsimp only [cHerdForm, longCmd]
  rw [if_neg h0, hin, if_neg Bool.false_ne_true, hf, if_neg Bool.false_ne_true]

theorem cHerdJoin_run (h0 : p.p0 ≠ 0) (hin : t.inHerd = false) (ha : t.isActive = false) (hf : t.forming = false) :
    cHerdJoin.run t o p = (t, .start (.herdJoin p.p0.toNat (fld p.p1.toNat 0 16)) 1 0 0 opQueued) := by
  have hout : ¬ (t.inHerd = true ∨ t.isActive = true) := by simp [hin, ha]
  dsimp only [cHerdJoin, longCmd]
  rw [if_neg h0, if_neg hout, hf, if_neg Bool.false_ne_true]

/-- Where no operation is live, none of the herd is. -/
theorem State.liveHerdOp_eq_false (hops : t.liveOps = []) (f : OpBody → Bool) : t.liveHerdOp f = false := by
  unfold State.liveHerdOp
  rw [hops]
  rfl

theorem cHerdAdmit_run (hlead : t.leadCheck = none) (hd : d = fld p.p0.toNat 0 16) (hm : t.member d = false) (hops : t.liveOps = []) :
    cHerdAdmit.run t o p = (t, .start (.herdAdmit d (p.p0.getLsbD 16) (sub p.data 0 16) 0) 1 0 0 opQueued) := by
  subst hd
  dsimp only [cHerdAdmit, longCmd]
  rw [hlead]
  dsimp only
  rw [hm, State.liveHerdOp_eq_false hops, Bool.or_false, if_neg Bool.false_ne_true]

theorem cHerdRemove_run (hlead : t.leadCheck = none) (hd : d = fld p.p0.toNat 0 16) (hm : t.member d = true) :
    cHerdRemove.run t o p = (t, .start (.herdRemove d 0) 1 0 0 opQueued) := by
  subst hd
  dsimp only [cHerdRemove, longCmd]
  rw [hlead]
  dsimp only
  rw [hm, Bool.not_true, if_neg Bool.false_ne_true]

/-- Without FORCE, an odd number of up to seven different NORMAL members is proposed by the lead as the voters (R406, R411). -/
theorem cHerdVoters_run (hforce : p.p2.getLsbD 8 = false) (hlead : t.leadCheck = none)
    (hodd : [1, 3, 5, 7].contains (voterList p).length = true) (hdup : (voterList p).eraseDups.length = (voterList p).length)
    (hnormal : ∀ d ∈ voterList p, t.herd.roster.any (fun r => r.device == d && t.isNormal r) = true) :
    cHerdVoters.run t o p = (t, .start (.herdVoters (voterList p) false 0) 1 0 0 opQueued) := by
  dsimp only [cHerdVoters, longCmd]
  rw [hforce, if_neg Bool.false_ne_true, hlead, hodd, hdup, beq_self_eq_true, List.all_eq_true.2 hnormal]
  rfl

/-! ## Herd domains (R413, R423, R425) -/

/-- A good record of members that are all out of probation, without a spare, becomes a plan of the lead's (R413, R425). -/
theorem cHerdDomainSet_run (hlead : t.leadCheck = none) (hr : r = hdomRecOf (sub p.data 0 160))
    (ha : (managed o || p.p0.toNat % 64 == 0) = true) (hok : hdomOk r = true)
    (hmem : ∀ x < r.w, ∀ d, hAt r x = some d → t.member d = true ∧ t.inProbation d = false) (hspare : r.spareValid = false)
    (hops : t.liveOps = []) :
    cHerdDomainSet.run t o p = (t, .start (.herdDomainSet r 0) 0 0 0 opPlanned) := by
  subst hr
  have haligned := Bool.eq_false_iff.2 (not_misaligned ha)
  cases o <;>
  · dsimp only [managed] at haligned
    dsimp only [cHerdDomainSet, longCmd]
    rw [hlead]
    dsimp only
    rw [haligned, hok, hspare, State.liveHerdOp_eq_false hops, List.all_eq_true.2]
    · rfl
    · intro x hx
      split
      · rename_i d hd
        obtain ⟨hm, hp⟩ := hmem x (List.mem_range.1 hx) d hd
        rw [hm, hp]
        rfl
      · rfl

/-- The primary of a mirrored domain, whose slot has no device-managed extent on the logical device, begins to pair it with its partner's
(R423). -/
theorem cHerdStandby_run {f pf slot : Nat} (hh : h = fld p.p0.toNat 0 24) (hf : f = fld p.p1.toNat 0 7) (hpf : pf = fld p.p1.toNat 16 7)
    (hset : p.p1.getLsbD 32 = false) (hin : t.inHerd = true) (hr : t.herd.domains.find? (fun r => r.hdom == h) = some r)
    (hslot : t.slotOfHdom h = some slot)
    (hdb : t.ti.extents.any (fun e => e.2.ld == f && e.2.slot == slot && e.2.hdmDb && e.2.st != 0) = false) (hk : r.kind = 3)
    (hme : hAt r 0 = some t.herd.device) :
    cHerdStandby.run t o p = (t, .start (.herdStandby h f pf false false) 1 0 0 opQueued) := by
  subst hh hf hpf
  dsimp only [cHerdStandby, longCmd]
  rw [hin, if_pos rfl, hr, hslot]
  dsimp only
  rw [hset, hdb, if_neg (by simp [hk, hme])]

/-! ## Routes and records (R399, R426) -/

/-- Valid entries of 1 to 4 hops, all within the table, join the generation being built (R399). -/
theorem cRouteWrite_run {first g due : Nat} {es : List (Nat × Nat)} (hfirst : first = fld p.p1.toNat 0 16) (hn : n = fld p.p2.toNat 0 17)
    (hes : es = (List.range n).map (fun i => (first + i, fieldAt p.data (4 * i) 4))) (h1 : 1 ≤ n) (hend : first + n ≤ 65536)
    (hhops : ∀ e ∈ es, e.2.testBit 15 = true → 1 ≤ fld e.2 10 3 ∧ fld e.2 10 3 ≤ 4)
    (hj : t.join (es.map (fun (e : Nat × Nat) => .route e.1 (BitVec.ofNat 32 (e.2 % 2 ^ 16 &&& 0xBFFF)))) = (u, g, due)) :
    cRouteWrite.run t o p = (u, .later due stOk 0 g 0 []) := by
  have hbad : ¬ es.any (fun e => e.2.testBit 15 && !(decide (1 ≤ fld e.2 10 3) && decide (fld e.2 10 3 ≤ 4))) = true := by
    intro hany
    obtain ⟨e, he, hb⟩ := List.any_eq_true.1 hany
    rw [Bool.and_eq_true] at hb
    obtain ⟨hvalid, hout⟩ := hb
    simp [hhops e he hvalid] at hout
  have hgood := not_or.2 ⟨(by omega : ¬ n = 0), not_or.2 ⟨(by omega : ¬ 65536 < n), not_or.2 ⟨Nat.not_lt.2 hend, hbad⟩⟩⟩
  subst hfirst hn hes
  dsimp only [cRouteWrite, shortCmd]
  rw [if_neg hgood, hj]

/-- The records from a key on are read as far as the buffer has room for whole ones, with the first key that was left (R426). -/
theorem cHerdRead_run {l : List (Nat × List Byte)} (hk : fld p.p2.toNat 0 2 ≠ 3)
    (hl : l = (if t.inHerd then t.herdList (fld p.p2.toNat 0 2) else []).filter (fun x => decide (fld p.p2.toNat 16 24 ≤ x.1)))
    (hn : n = roomFor o p.p1.toNat / (if fld p.p2.toNat 0 2 = 1 then 160 else 32)) :
    cHerdRead.run t o p = doneData t o p.p0.toNat ((l.take n).flatMap Prod.snd) stOk (min n l.length)
      ((((l.drop n).head?).map Prod.fst).getD 0) := by
  have hnext : (((l.drop n).head?).map Prod.fst).getD 0 = (match l.drop n with
      | x :: _ => x.1
      | [] => 0) := by
    cases l.drop n <;> rfl
  rw [hnext]
  subst hl hn
  exact if_neg hk

end Sys2Proof.Machine
end

section
open Sys2Proof Sys2Proof.Machine

/-- Settles O21: each command's run ends in the way in which its packet is answered, for the lead's commands where its check passes. -/
theorem herdCommandsComplete : Obligations.HerdCommandsComplete := by
  refine ⟨fun o p s t h hl h0 hin hf => ?_, fun o p s t h hl h0 hin ha hf => ?_, fun o p d s t h hl hlead hd hm hops => ?_,
    fun o p d s t h hl hlead hd hm => ?_, fun o p s t h hl hforce hlead hodd hdup hnormal => ?_,
    fun o p r s t h hl hlead hr ha hok hmem hspare hops => ?_, fun o p first n g due es s t u h hfirst hn hes h1 hend hhops hj => ?_,
    fun o p l n s t h hk hl hn => ?_, fun o p hd f pf slot r s t h hl hh hf hpf hset hin hr hslot hdb hk hme => ?_⟩
  · exact congrArg Host.Outcome.next (State.packet_start h (cHerdForm_run h0 hin hf) hl)
  · exact congrArg Host.Outcome.next (State.packet_start h (cHerdJoin_run h0 hin ha hf) hl)
  · exact congrArg Host.Outcome.next (State.packet_start h (cHerdAdmit_run hlead hd hm hops) hl)
  · exact congrArg Host.Outcome.next (State.packet_start h (cHerdRemove_run hlead hd hm) hl)
  · exact congrArg Host.Outcome.next (State.packet_start h (cHerdVoters_run hforce hlead hodd hdup hnormal) hl)
  · exact congrArg Host.Outcome.next (State.packet_start h (cHerdDomainSet_run hlead hr ha hok hmem hspare hops) hl)
  · exact congrArg Host.Outcome.next (State.packet_later h (cRouteWrite_run hfirst hn hes h1 hend hhops hj))
  · exact congrArg Host.Outcome.next (State.packet_now h (cHerdRead_run hk hl hn))
  · exact congrArg Host.Outcome.next (State.packet_start h (cHerdStandby_run hh hf hpf hset hin hr hslot hdb hk hme) hl)
end

section
/-! SUPPORT. The herd's time limits: what each does where its time has come. -/

namespace Sys2Proof.Machine

variable {s : State} {d n : Nat}

/-- A member whose PROBE stands unanswered for 200 strides is proposed for removal (R420). -/
theorem execProbeTimeout_due (hs : s.herd.suspects.get? d = some n) (hdue : n + 200 ≤ s.str.count) :
    execProbeTimeout d s = .next (s.tryRemove d) := by
  unfold execProbeTimeout
  rw [hs]
  exact congrArg Host.Outcome.next (if_pos hdue)

/-- A member unheard of for LOSS_STRIDES is suspected at the lead, and reported to the lead by any other member (R420). -/
theorem execSyncLossTimeout_due (hs : s.herd.lastSeen.get? d = some n) (hin : s.inHerd = true) (hm : s.member d = true)
    (hdue : n + s.dev fLossStrides ≤ s.str.count) :
    execSyncLossTimeout d s =
      .next (if s.isLead then s.suspect d false else s.lead.elim s (fun l => s.control 0x23 l d 0 .none)) := by
  have hlost : (s.inHerd && s.member d && decide (n + s.dev fLossStrides ≤ s.str.count)) = true := by simp [hin, hm, hdue]
  unfold execSyncLossTimeout
  rw [hs]
  dsimp only
  rw [if_pos hlost]
  cases s.lead <;> rfl

/-- A member in probation for PROBATION_LIMIT strides is proposed for removal (R412). -/
theorem execProbationTimeout_due (hs : s.herd.probation.get? d = some n) (hdue : n + s.dev fProbationLimit ≤ s.str.count) :
    execProbationTimeout d s = .next (s.tryRemove d) := by
  unfold execProbationTimeout
  rw [hs]
  exact congrArg Host.Outcome.next (if_pos hdue)

end Sys2Proof.Machine
end

section
open Sys2Proof Sys2Proof.Machine

/-- Settles O22: each time limit that is reached acts, and the loss of a member acts by whether this device leads. -/
theorem herdTimersComplete : Obligations.HerdTimersComplete := by
  refine ⟨fun d n s => execProbeTimeout_due, fun d n s hs hin hm hdue hlead => ?_, fun d n l s hs hin hm hdue hlead hl => ?_,
    fun s hv => congrArg Host.Outcome.next (if_pos hv), fun s => rfl, fun d n s => execProbationTimeout_due⟩
  · exact (execSyncLossTimeout_due hs hin hm hdue).trans (by rw [if_pos hlead])
  · exact (execSyncLossTimeout_due hs hin hm hdue).trans (by rw [hlead, if_neg Bool.false_ne_true, hl, Option.elim_some])
end

section
open Sys2Proof Sys2Proof.Machine

/-- Settles O39: it is what every command keeps of the fuses. -/
theorem fusesNeverGoBack : Obligations.FusesNeverGoBack := fun _ _ _ h =>
  ⟨(exec_keeps h).svn, (exec_keeps h).revoked⟩

/-- Settles O37: it is what every command keeps of the queue and of the outputs. -/
theorem execLeavesQueueAndSentOutputs : Obligations.ExecLeavesQueueAndSentOutputs := fun _ _ _ h =>
  ⟨(exec_keeps h).pending, (exec_keeps h).out⟩
end

section
/-! SUPPORT. A step by the queue that it finds, and what holds of it because it holds of every command. -/

namespace Sys2Proof.Machine

variable {s t : State}

theorem step_cons {c : Instr} {l : List Instr} (h : s.pending = c :: l) : step s = exec c { s with pending := l } := by
  simp only [step, h]

theorem step_nil (h : s.pending = []) : step s = .next s := by
  simp only [step, h]

/-- Taking a command off the queue leaves memory alone, and running it keeps its form. -/
theorem step_memoryOk (h : step s = .next t) (hm : s.memoryOk) : t.memoryOk := by
  cases hp : s.pending with
  | nil =>
    rw [step_nil hp] at h
    cases h
    exact hm
  | cons c l =>
    rw [step_cons hp] at h
    exact (exec_keeps h).wf hm

/-- Every meaning is written as a next state, whatever it then finds in the state. -/
theorem exec_eq_next (c : Instr) (s : State) : ∃ t, exec c s = .next t := by
  cases c <;> exact ⟨_, rfl⟩

end Sys2Proof.Machine
end

section
open Sys2Proof Sys2Proof.Machine

/-- Settles O38: a step runs a command, which keeps the form of memory, or idles. -/
theorem everyStepKeepsMemoryForm : Obligations.EveryStepKeepsMemoryForm := fun _ _ hm h => step_memoryOk h hm

/-- Settles O32. -/
theorem stepRunsTheFrontCommand : Obligations.StepRunsTheFrontCommand := fun _ _ _ h => step_cons h

/-- Settles O33. -/
theorem idleStepLeavesTheState : Obligations.IdleStepLeavesTheState := fun _ h => step_nil h

/-- Settles O34: no command's meaning faults or is refused. -/
theorem everyCommandGivesANextState : Obligations.EveryCommandGivesANextState := exec_eq_next

/-- Settles O36: a long enough pulse leaves the state that `State.afterChipReset` spells out field by field. -/
theorem chipResetKeepsOnlyFuses : Obligations.ChipResetKeepsOnlyFuses := by
  intro n s t hn h
  cases (execChipRstNAssert_held hn).symm.trans h
  exact ⟨rfl, rfl, rfl, rfl, rfl, rfl, rfl, rfl, rfl, rfl, rfl, rfl, rfl, rfl⟩
end

section
/-! SUPPORT. Bytes of memory read in a row: after a write of the same row, and of a row that they do not meet. -/

namespace Sys2Proof.Machine

theorem Memory.length_getN (m : List Host.Cell) (a n : Nat) : (Memory.getN m a n).length = n := by
  induction n generalizing a with
  | zero => rfl
  | succ n ih => rw [Memory.getN, List.length_cons, ih]

theorem Memory.getN_getElem {m : List Host.Cell} {a n i : Nat} (h : i < (Memory.getN m a n).length) :
    (Memory.getN m a n)[i] = Memory.get m (a + i) := by
  induction n generalizing a i with
  | zero => cases h
  | succ n ih =>
    cases i with
    | zero => rfl
    | succ i => simp only [Memory.getN, List.getElem_cons_succ, ih, Nat.add_assoc, Nat.add_comm 1]

/-- Bytes written in a row read back in that row. -/
theorem Memory.getN_putN {m : List Host.Cell} (w : Memory.wf m = true) (a : Nat) (l : List Byte) :
    Memory.getN (Memory.putN m a l) a l.length = l :=
  List.ext_getElem (Memory.length_getN ..) fun i _ hi => by
    rw [Memory.getN_getElem, Memory.get_putN_inside w a i l hi]

/-- A row that ends before a written one begins, or begins after it ends, reads as before. -/
theorem Memory.getN_putN_outside {m : List Host.Cell} (w : Memory.wf m = true) {a b n : Nat} {l : List Byte}
    (h : b + n ≤ a ∨ a + l.length ≤ b) : Memory.getN (Memory.putN m a l) b n = Memory.getN m b n :=
  List.ext_getElem (by rw [Memory.length_getN, Memory.length_getN]) fun i hi _ => by
    rw [Memory.length_getN] at hi
    rw [Memory.getN_getElem, Memory.getN_getElem, Memory.get_putN_outside w a (b + i) l (by omega)]

end Sys2Proof.Machine
end

section
open Sys2Proof Sys2Proof.Machine

/-- Settles O40: one byte, the bytes of a row, and a byte beside a row. -/
theorem memoryReadsBackWhatIsWritten : Obligations.MemoryReadsBackWhatIsWritten :=
  ⟨fun _ a b v w => Memory.get_put w a b v, fun _ a l w => Memory.getN_putN w a l,
    fun _ a b l w h => Memory.get_putN_outside w a b l h⟩
end

section
/-! SUPPORT. Finite maps: what a key reads after another is set, and after one is removed. -/

namespace Sys2Proof.FMap

variable {α : Type}

theorem get?_set_of_ne (m : FMap α) {i j : Nat} (a : α) (h : j ≠ i) : (m.set i a).get? j = m.get? j := by
  induction m with
  | nil => simp [set, get?, h]
  | cons x m ih =>
    obtain ⟨k, v⟩ := x
    simp only [set]
    split
    · simp [get?, h]
    · split
      · subst k
        simp [get?, h]
      · simp [get?, ih]

@[simp] theorem get?_del_self (m : FMap α) (i : Nat) : (m.del i).get? i = none := by
  induction m with
  | nil => rfl
  | cons x m ih =>
    obtain ⟨k, v⟩ := x
    simp only [del]
    split
    · exact ih
    · simp [get?, *]

theorem get?_del_of_ne (m : FMap α) {i j : Nat} (h : j ≠ i) : (m.del i).get? j = m.get? j := by
  induction m with
  | nil => rfl
  | cons x m ih =>
    obtain ⟨k, v⟩ := x
    simp only [del]
    split
    · subst k
      simp [get?, h, ih]
    · simp [get?, ih]

end Sys2Proof.FMap
end

section
/-! SUPPORT. The storage code (R462, R463). Syndromes are told apart by how many of their bits are 1: three in the column of a data bit, one in
that of a check bit, 31 in the poisoned pattern, and an even number in every address term and in the exclusive-or of any two columns. -/

namespace Sys2Proof.Machine

/-! ## The weight of a word -/

/-- The number of bits that are 1 in an exclusive-or is even where both words have evenly or both oddly many. -/
theorem toNat_cpop_xor_mod_two {w : Nat} (x y : BitVec w) : (x ^^^ y).cpop.toNat % 2 = (x.cpop.toNat + y.cpop.toNat) % 2 := by
  have h : ∀ n, (x ^^^ y).cpopNatRec n 0 % 2 = (x.cpopNatRec n 0 + y.cpopNatRec n 0) % 2 := by
    intro n
    induction n with
    | zero => rfl
    | succ n ih =>
      simp only [BitVec.cpopNatRec_succ, BitVec.getLsbD_xor, Nat.zero_add]
      rw [BitVec.cpopNatRec_eq, BitVec.cpopNatRec_eq (x := x), BitVec.cpopNatRec_eq (x := y)]
      cases x.getLsbD n <;> cases y.getLsbD n <;> simp <;> omega
  simpa only [BitVec.toNat_cpop] using h w

/-- Two words with evenly or both oddly many bits that are 1 have evenly many in their exclusive-or. -/
theorem even_cpop_xor {w : Nat} {x y : BitVec w} (h : x.cpop.toNat % 2 = y.cpop.toNat % 2) : (x ^^^ y).cpop.toNat % 2 = 0 := by
  rw [toNat_cpop_xor_mod_two]
  omega

theorem cpop_single_bit : ∀ i < 32, (BitVec.ofNat 32 (2 ^ i)).cpop.toNat = 1 := by decide +kernel

theorem cpop_zSyn : zSyn.cpop.toNat = 31 := by decide +kernel

/-! ## The columns of the data bits -/

theorem length_hCols : hCols.length = 512 := by decide +kernel

theorem cpop_of_mem_hCols {x : U32} (h : x ∈ hCols) : x.cpop.toNat = 3 := by
  have hall : hCols.all (fun x => x.cpop.toNat == 3) = true := by decide +kernel
  exact beq_iff_eq.1 (List.all_eq_true.1 hall x h)

/-- The columns ascend, and so no two are the same. -/
theorem hCols_nodup : hCols.Nodup := by
  have hasc : hCols.IsChain (· < ·) := by decide +kernel
  exact (List.isChain_iff_pairwise.1 hasc).imp fun h => BitVec.ne_of_lt h

theorem hCol_eq_getElem {j : Nat} (h : j < hCols.length) : hCol j = hCols[j] := by
  rw [hCol, List.getD_eq_getElem _ _ h]

theorem hCol_mem {j : Nat} (h : j < 512) : hCol j ∈ hCols := by
  rw [← length_hCols] at h
  rw [hCol_eq_getElem h]
  exact List.getElem_mem h

theorem exists_hCol_of_mem {x : U32} (h : x ∈ hCols) : ∃ j < 512, hCol j = x := by
  obtain ⟨j, hj, rfl⟩ := List.getElem_of_mem h
  exact ⟨j, length_hCols ▸ hj, hCol_eq_getElem hj⟩

theorem cpop_hCol {j : Nat} (h : j < 512) : (hCol j).cpop.toNat = 3 := cpop_of_mem_hCols (hCol_mem h)

theorem hCol_injOn {i j : Nat} (hi : i < 512) (hj : j < 512) (h : hCol i = hCol j) : i = j := by
  rw [← length_hCols] at hi hj
  rw [hCol_eq_getElem hi, hCol_eq_getElem hj] at h
  exact (List.Nodup.getElem_inj_iff hCols_nodup).1 h

theorem findIdx?_hCol {j : Nat} (h : j < 512) : hCols.findIdx? (· == hCol j) = some j := by
  have hj : j < hCols.length := by rwa [length_hCols]
  refine List.findIdx?_eq_some_iff_getElem.2 ⟨hj, by simp [hCol_eq_getElem hj], fun i hi he => ?_⟩
  have hsame : hCol i = hCol j := by simpa [hCol_eq_getElem (hi.trans hj)] using he
  exact hi.ne (hCol_injOn (hi.trans h) h hsame)

/-! ## What a syndrome means (R463) -/

theorem synOut_eq_uncorr {x : U32} (h0 : x ≠ 0) (hz : x ≠ zSyn) (hd : ∀ j < 512, x ≠ hCol j)
    (hc : ∀ i < 32, x ≠ BitVec.ofNat 32 (2 ^ i)) : synOut x = .uncorr := by
  have hdata : hCols.findIdx? (· == x) = none := List.findIdx?_eq_none_iff.2 fun y hy => by
    obtain ⟨j, hj, rfl⟩ := exists_hCol_of_mem hy
    exact beq_false_of_ne (hd j hj).symm
  have hcheck : (List.range 32).any (fun i => x == BitVec.ofNat 32 (2 ^ i)) = false :=
    List.any_eq_false.2 fun i hi => by simpa using hc i (List.mem_range.1 hi)
  rw [synOut, if_neg h0, if_neg hz, hdata, hcheck]
  rfl

/-- Evenly many bits that are 1, and not none, are no single error and no poison. -/
theorem synOut_of_even {x : U32} (h0 : x ≠ 0) (he : x.cpop.toNat % 2 = 0) : synOut x = .uncorr := by
  refine synOut_eq_uncorr h0 (fun h => ?_) (fun j hj h => ?_) (fun i hi h => ?_)
  · rw [h, cpop_zSyn] at he
    cases he
  · rw [h, cpop_hCol hj] at he
    cases he
  · rw [h, cpop_single_bit i hi] at he
    cases he

theorem synOut_hCol {j : Nat} (h : j < 512) : synOut (hCol j) = .data j := by
  have hw := cpop_hCol h
  have h0 : hCol j ≠ 0 := fun e => by rw [e] at hw; exact absurd hw (by decide +kernel)
  have hz : hCol j ≠ zSyn := fun e => by rw [e, cpop_zSyn] at hw; cases hw
  rw [synOut, if_neg h0, if_neg hz, findIdx?_hCol h]

theorem synOut_single_bit {i : Nat} (h : i < 32) : synOut (BitVec.ofNat 32 (2 ^ i)) = .check := by
  have hw := cpop_single_bit i h
  have h0 : BitVec.ofNat 32 (2 ^ i) ≠ 0 := fun e => by rw [e] at hw; exact absurd hw (by decide +kernel)
  have hz : BitVec.ofNat 32 (2 ^ i) ≠ zSyn := fun e => by rw [e, cpop_zSyn] at hw; cases hw
  have hdata : hCols.findIdx? (· == BitVec.ofNat 32 (2 ^ i)) = none := List.findIdx?_eq_none_iff.2 fun y hy =>
    beq_false_of_ne fun e => by rw [← e, cpop_of_mem_hCols hy] at hw; cases hw
  have hcheck : (List.range 32).any (fun j => BitVec.ofNat 32 (2 ^ i) == BitVec.ofNat 32 (2 ^ j)) = true :=
    List.any_eq_true.2 ⟨i, List.mem_range.2 h, beq_self_eq_true _⟩
  rw [synOut, if_neg h0, if_neg hz, hdata]
  exact if_pos hcheck

/-! ## Errors of one and of two bits (R462) -/

/-- What one inverted position adds to a syndrome: the column of a data bit, or the check bit itself. -/
def errCol (p : Nat) : U32 := if p < 512 then hCol p else BitVec.ofNat 32 (2 ^ (p - 512))

theorem flipSyn_one (p : Nat) : flipSyn [p] = errCol p := BitVec.zero_xor

theorem flipSyn_two (p q : Nat) : flipSyn [p, q] = errCol p ^^^ errCol q := congrArg (· ^^^ errCol q) (flipSyn_one p)

theorem synOut_errCol {p : Nat} (h : p < 544) : synOut (errCol p) = if p < 512 then .data p else .check := by
  unfold errCol
  split
  · exact synOut_hCol ‹_›
  · exact synOut_single_bit (by omega)

theorem odd_cpop_errCol {p : Nat} (h : p < 544) : (errCol p).cpop.toNat % 2 = 1 := by
  unfold errCol
  split
  · rw [cpop_hCol ‹_›]
  · rw [cpop_single_bit _ (by omega)]

theorem single_bit_injOn : ∀ i < 32, ∀ j < 32, BitVec.ofNat 32 (2 ^ i) = BitVec.ofNat 32 (2 ^ j) → i = j := by decide +kernel

/-- Each position adds a word of its own: what the word means gives a data bit's number, and a check bit is its word's bit. -/
theorem errCol_injOn {p q : Nat} (hp : p < 544) (hq : q < 544) (h : errCol p = errCol q) : p = q := by
  have hout : (if p < 512 then SynOut.data p else .check) = if q < 512 then .data q else .check := by
    rw [← synOut_errCol hp, ← synOut_errCol hq, h]
  by_cases hp' : p < 512 <;> by_cases hq' : q < 512
  · simpa [hp', hq'] using hout
  · simp [hp', hq'] at hout
  · simp [hp', hq'] at hout
  · have hbit := single_bit_injOn (p - 512) (by omega) (q - 512) (by omega) (by simpa [errCol, hp', hq'] using h)
    omega

/-! ## Address terms (R462) -/

/-- The address term of the low `n` bits of an index. -/
def addrSum (g n : Nat) : U32 :=
  (List.range n).foldl (fun a i => if g.testBit i then a ^^^ BitVec.ofNat 32 (2 ^ i) ^^^ 0x80000000#32 else a) 0

theorem addrTerm_eq_addrSum (g : Nat) : addrTerm g = addrSum g 30 := rfl

theorem addrSum_succ (g n : Nat) : addrSum g (n + 1) =
    if g.testBit n then addrSum g n ^^^ BitVec.ofNat 32 (2 ^ n) ^^^ 0x80000000#32 else addrSum g n := by
  rw [addrSum, List.range_succ, List.foldl_append]
  rfl

theorem even_cpop_addrSum (g : Nat) {n : Nat} (h : n ≤ 32) : (addrSum g n).cpop.toNat % 2 = 0 := by
  induction n with
  | zero => exact congrArg (· % 2) (congrArg BitVec.toNat BitVec.cpop_zero)
  | succ n ih =>
    rw [addrSum_succ]
    split
    · have htop : (0x80000000#32).cpop.toNat = 1 := cpop_single_bit 31 (by decide)
      rw [BitVec.xor_assoc, toNat_cpop_xor_mod_two, Nat.add_mod, ih (Nat.le_of_succ_le h),
        even_cpop_xor (by rw [cpop_single_bit n h, htop])]
    · exact ih (Nat.le_of_succ_le h)

/-- Below bit 31 an address term is its index. -/
theorem getLsbD_addrSum (g : Nat) {n j : Nat} (hj : j < 31) : (addrSum g n).getLsbD j = (decide (j < n) && g.testBit j) := by
  induction n with
  | zero => simp [addrSum]
  | succ n ih =>
    have htop : (0x80000000#32).getLsbD j = false := by
      rw [show 0x80000000#32 = BitVec.ofNat 32 (2 ^ 31) from rfl, BitVec.getLsbD_ofNat, Nat.testBit_two_pow_of_ne (by omega), Bool.and_false]
    rw [addrSum_succ]
    by_cases hg : g.testBit n = true
    · rw [if_pos hg, BitVec.getLsbD_xor, BitVec.getLsbD_xor, ih, htop, Bool.xor_false, BitVec.getLsbD_ofNat, Nat.testBit_two_pow]
      rcases Nat.lt_trichotomy j n with hlt | rfl | hgt
      · simp [hlt, hlt.ne', Nat.lt_succ_of_lt hlt]
      · simp [hg]
        omega
      · simp [Nat.not_lt.2 hgt.le, hgt.ne, Nat.not_lt.2 (Nat.succ_le_of_lt hgt)]
    · rw [if_neg hg, ih]
      rcases Nat.lt_or_ge j n with hlt | hge
      · simp [hlt, Nat.lt_succ_of_lt hlt]
      · rcases hge.eq_or_lt with rfl | hgt
        · simp [hg]
        · simp [Nat.not_lt.2 hge, Nat.not_lt.2 (Nat.succ_le_of_lt hgt)]

theorem addrTerm_injOn {g h : Nat} (hg : g < 2 ^ 30) (hh : h < 2 ^ 30) (he : addrTerm g = addrTerm h) : g = h := by
  refine Nat.eq_of_testBit_eq fun j => ?_
  rcases Nat.lt_or_ge j 30 with hj | hj
  · have hbit := congrArg (·.getLsbD j) he
    simpa [addrTerm_eq_addrSum, getLsbD_addrSum _ (show j < 31 by omega), hj] using hbit
  · have hbeyond : 2 ^ 30 ≤ 2 ^ j := Nat.pow_le_pow_right Nat.two_pos hj
    rw [Nat.testBit_lt_two_pow (hg.trans_le hbeyond), Nat.testBit_lt_two_pow (hh.trans_le hbeyond)]

theorem lineAddrTerm_dramLine {k g : Nat} (hk : k < 12) (hg : g < 2 ^ 30) :
    lineAddrTerm (dramLine k g) = addrTerm g ^^^ (if 6 ≤ k then stackTerm else 0) := by
  have hdram : isDram (dramLine k g) = true := decide_eq_true (by unfold dramLine; omega)
  have hstack : lineStack (dramLine k g) = k := by simp only [lineStack, dramLine]; omega
  have hgran : lineGran (dramLine k g) = g := by simp only [lineGran, dramLine]; omega
  simp only [lineAddrTerm, lineG, hdram, hstack, hgran, if_true, Bool.true_and, decide_eq_true_eq]

/-- A line read from a wrong granule of its own stack: the two address terms differ, by evenly many bits. -/
theorem synOut_wrong_granule {k g h : Nat} (hk : k < 12) (hg : g < 2 ^ 30) (hh : h < 2 ^ 30) (hne : g ≠ h) :
    synOut (lineAddrTerm (dramLine k g) ^^^ lineAddrTerm (dramLine k h)) = .uncorr := by
  have hsame (a b c : U32) : (a ^^^ c) ^^^ (b ^^^ c) = a ^^^ b := by
    rw [BitVec.xor_comm b, BitVec.xor_assoc, ← BitVec.xor_assoc c, BitVec.xor_self, BitVec.zero_xor]
  rw [lineAddrTerm_dramLine hk hg, lineAddrTerm_dramLine hk hh, hsame]
  refine synOut_of_even (fun h0 => hne (addrTerm_injOn hg hh (BitVec.xor_eq_zero_iff.1 h0))) (even_cpop_xor ?_)
  rw [addrTerm_eq_addrSum, addrTerm_eq_addrSum, even_cpop_addrSum g (by decide), even_cpop_addrSum h (by decide)]

/-- A line read from its granule's place in the yoke partner: the two stack terms differ, one being zero. -/
theorem synOut_wrong_stack {k g : Nat} (hk : k < 12) (hg : g < 2 ^ 30) :
    synOut (lineAddrTerm (dramLine k g) ^^^ lineAddrTerm (dramLine (partner k) g)) = .uncorr := by
  have hpartner : (6 ≤ partner k ↔ ¬ 6 ≤ k) ∧ partner k < 12 := by unfold partner; omega
  have hsame (a b c : U32) : (a ^^^ b) ^^^ (a ^^^ c) = b ^^^ c := by
    rw [BitVec.xor_comm a, BitVec.xor_assoc, ← BitVec.xor_assoc a, BitVec.xor_self, BitVec.zero_xor]
  rw [lineAddrTerm_dramLine hk hg, lineAddrTerm_dramLine hpartner.2 hg, hsame]
  by_cases h6 : 6 ≤ k <;> simp only [hpartner.1, h6, not_true_eq_false, not_false_eq_true, if_true, if_false] <;>
    exact synOut_of_even (by decide +kernel) (by decide +kernel)

/-! ## Reads and writes of a line on which no injection is armed (R463, R464, R476) -/

variable {s : State} {l : Nat}

theorem State.forward_eq (s : State) (l : Nat) : ∃ d, s.forward l = { s with dram := d } := by
  unfold State.forward
  split
  · dsimp only
    split <;> exact ⟨_, rfl⟩
  · exact ⟨s.dram, rfl⟩

theorem State.buffer_eq (s : State) (l : Nat) : ∃ d, s.buffer l = { s with dram := d } := by
  unfold State.buffer
  split
  · exact ⟨_, rfl⟩
  · exact ⟨s.dram, rfl⟩

/-- The injections that fire are logged and disarmed, and nothing else changes. -/
theorem State.fire_eq_ras (s : State) (l : Nat) (read : Bool) : ∃ r, (s.fire l read).1 = { s with ras := r } := by
  have hlog : ∀ (hit : List (Nat × Flip)) (s : State),
      ∃ r, s.over hit (fun s p => s.logE 0x0705 none p.2.syn.toNat (lineLoc l)) = { s with ras := r } := by
    intro hit
    induction hit with
    | nil => exact fun s => ⟨s.ras, rfl⟩
    | cons p hit ih => exact fun s => ih (s.logE 0x0705 none p.2.syn.toNat (lineLoc l))
  unfold State.fire
  dsimp only
  split
  · exact ⟨s.ras, rfl⟩
  · exact hlog _ _

theorem State.fire_unarmed (h : s.ras.flips = []) (read : Bool) : s.fire l read = (s, []) := by
  simp only [State.fire, h, List.filter_nil, List.isEmpty_nil, if_true]

/-- What a read gives of stored bytes with a syndrome, by what the syndrome means. -/
def SynOut.read (d : List Byte) (x : U32) : SynOut → LineRead
  | .good => .good d
  | .data j => .good (flipBits d [j])
  | .check => .good d
  | .poison => .poison d
  | .uncorr => .uncorr d x

/-- What a read notes of a line with a syndrome, by what the syndrome means. -/
def State.noted (s : State) (l : Nat) (x : U32) : SynOut → State
  | .good => s
  | .data _ => s.corrected l x
  | .check => s.corrected l x
  | .poison => s
  | .uncorr => s.uncorrectable l x

theorem State.readLine_unarmed (h : s.ras.flips = []) : s.readLine l =
    ((s.forward l).noted l (s.synOf l) (synOut (s.synOf l)), (synOut (s.synOf l)).read (s.rawLine l) (s.synOf l)) := by
  obtain ⟨d, hd⟩ := State.forward_eq s l
  have hf : (s.forward l).ras.flips = [] := by rw [hd]; exact h
  have hsyn : (s.forward l).synOf l = s.synOf l := by rw [hd]; rfl
  have hraw : (s.forward l).rawLine l = s.rawLine l := by rw [hd]; rfl
  unfold State.readLine
  rw [State.fire_unarmed hf]
  dsimp only [List.foldl_nil]
  rw [hsyn, hraw]
  cases synOut (s.synOf l) <;> rfl

theorem length_flipBits (d : List Byte) (pos : List Nat) : (flipBits d pos).length = d.length := by
  rw [flipBits, List.length_map, List.length_range]

theorem length_foldl_flipBits (fl : List Flip) (d : List Byte) :
    (fl.foldl (fun d f => flipBits d f.bits) d).length = d.length := by
  induction fl generalizing d with
  | nil => rfl
  | cons f fl ih => rw [List.foldl_cons, ih, length_flipBits]

theorem length_sub (d : List Byte) (off n : Nat) : (sub d off n).length = n := by
  simp only [sub, List.length_append, List.length_replicate, List.length_take]
  omega

theorem sub_zero_length {n : Nat} {d : List Byte} (h : d.length = n) : sub d 0 n = d := by
  subst h
  simp [sub]

/-- A write of a line stores 64 bytes in its place and sets its syndrome, whatever injections fire on it. -/
theorem State.writeLine_eq (s : State) (l : Nat) (d : List Byte) (poison : Bool) : ∃ c r x, ∃ b : List Byte, b.length = 64 ∧
    s.writeLine l d poison = { s with mem := Memory.putN s.mem (l * 64) b, dram := c, ras := r }.setSyn l x := by
  obtain ⟨c, hc⟩ := State.buffer_eq s l
  obtain ⟨r, hr⟩ := State.fire_eq_ras (s.buffer l) l false
  rw [hc] at hr
  unfold State.writeLine
  dsimp only
  rw [hc, hr]
  exact ⟨c, r, _, _, by rw [length_foldl_flipBits, length_sub], rfl⟩

theorem State.writeLine_unarmed (h : s.ras.flips = []) {d : List Byte} (hd : d.length = 64) (poison : Bool) :
    s.writeLine l d poison =
      { s.buffer l with mem := Memory.putN s.mem (l * 64) d }.setSyn l (if poison then zSyn else 0) := by
  obtain ⟨c, hc⟩ := State.buffer_eq s l
  have hf : (s.buffer l).ras.flips = [] := by rw [hc]; exact h
  unfold State.writeLine
  rw [State.fire_unarmed hf]
  dsimp only [List.foldl_nil]
  rw [sub_zero_length hd, hc]

theorem State.synOf_setSyn (s : State) (l k : Nat) (x : U32) : (s.setSyn l x).synOf k = if k = l then x else s.synOf k := by
  unfold State.setSyn State.synOf FMap.getD
  dsimp only
  by_cases hk : k = l
  · subst hk
    rw [if_pos rfl]
    split
    · rw [FMap.get?_del_self, ‹x = 0›]
      rfl
    · rw [FMap.get?_set_self]
      rfl
  · rw [if_neg hk]
    split
    · rw [FMap.get?_del_of_ne _ hk]
    · rw [FMap.get?_set_of_ne _ _ hk]

/-- A write of a line leaves every other line. -/
theorem State.writeLine_of_ne {k : Nat} (w : Memory.wf s.mem = true) (hk : k ≠ l) (d : List Byte) (poison : Bool) :
    (s.writeLine l d poison).rawLine k = s.rawLine k ∧ (s.writeLine l d poison).synOf k = s.synOf k := by
  obtain ⟨c, r, x, b, hb, he⟩ := State.writeLine_eq s l d poison
  rw [he, State.synOf_setSyn, if_neg hk]
  exact ⟨Memory.getN_putN_outside w (by omega), rfl⟩

/-- What a written line reads back as: its bytes, good or poisoned. -/
theorem State.readLine_writeLine (h : s.ras.flips = []) {d : List Byte} (hd : d.length = 64) (w : Memory.wf s.mem = true) (poison : Bool) :
    ((s.writeLine l d poison).readLine l).2 = (synOut (if poison then zSyn else 0)).read d (if poison then zSyn else 0) := by
  obtain ⟨c, hc⟩ := State.buffer_eq s l
  have hw := State.writeLine_unarmed (l := l) h hd poison
  rw [hc] at hw
  have hraw : (s.writeLine l d poison).rawLine l = d := by
    rw [hw]
    exact (congrArg _ hd.symm).trans (Memory.getN_putN w (l * 64) d)
  have hsyn : (s.writeLine l d poison).synOf l = if poison then zSyn else 0 := by rw [hw, State.synOf_setSyn, if_pos rfl]
  rw [State.readLine_unarmed (by rw [hw]; exact h), hraw, hsyn]

/-- A correction leaves what is stored, and counts. -/
theorem State.corrected_stored (s : State) (l : Nat) (x : U32) :
    (s.corrected l x).mem = s.mem ∧ (s.corrected l x).syn = s.syn ∧ (s.corrected l x).ras.ce = cntAdd s.ras.ce 1 := by
  obtain ⟨r, hr⟩ := State.logRated_eq_ras (s := s) (ceKey l) 0x0701 none x.toNat (lineLoc l)
  unfold State.corrected
  rw [hr]
  exact ⟨rfl, rfl, rfl⟩

end Sys2Proof.Machine
end

section
open Sys2Proof Sys2Proof.Machine

/-- Settles O44: a single error has the weight of a column or of one bit, every double error and every wrong address an even one. -/
theorem syndromeOutcomes : Obligations.SyndromeOutcomes := by
  refine ⟨⟨rfl, by decide +kernel, fun j hj => synOut_hCol hj, fun i hi => synOut_single_bit hi⟩, fun x h0 hz hd hc => synOut_eq_uncorr h0 hz hd hc,
    fun p hp => ?_, fun p hp q hq hne => ?_, fun k hk g hg g' hg' hne => synOut_wrong_granule hk hg hg' hne,
    fun k hk g hg => synOut_wrong_stack hk hg, fun l s h => ?_⟩
  · rw [flipSyn_one, synOut_errCol hp]
  · rw [flipSyn_two]
    refine synOut_of_even (fun h0 => hne (errCol_injOn hp hq (BitVec.xor_eq_zero_iff.1 h0))) (even_cpop_xor ?_)
    rw [odd_cpop_errCol hp, odd_cpop_errCol hq]
  · rw [State.readLine_unarmed h]
    cases synOut (s.synOf l) <;> rfl

/-- Settles O45: a stored line has the syndrome 0 or that of poison, and a syndrome that is a column serves the line with that bit set right. -/
theorem linesReadBackAsWritten : Obligations.LinesReadBackAsWritten := by
  refine ⟨fun l d s hd w h => ⟨State.readLine_writeLine h hd w false, State.readLine_writeLine h hd w true⟩, fun l j s h hj hx => ?_,
    fun l k d poison s _ w hk => State.writeLine_of_ne w hk d poison⟩
  obtain ⟨c, hc⟩ := State.forward_eq s l
  obtain ⟨hmem, hsyn, hce⟩ := State.corrected_stored (s.forward l) l (hCol j)
  rw [State.readLine_unarmed h, hx, synOut_hCol hj]
  rw [hc] at hmem hsyn hce ⊢
  exact ⟨rfl, hmem, hsyn, hce⟩
end

section
/-! SUPPORT. The log (R483, R573) and counters (R577): what an appended entry makes of a log that has room and of a full one, and how a counter
and its overflow bit go on. -/

namespace Sys2Proof.Machine

variable {s t : State} {r : Ras} {e old : LogEnt} {o : Origin} {p : Pkt}

/-! ## Entries of the log -/

theorem LogEnt.length_bytes (e : LogEnt) : e.bytes.length = 32 := by
  simp only [LogEnt.bytes, List.length_append, length_le, List.length_cons, List.length_nil]

theorem Ras.append_nextLseq (r : Ras) (e : LogEnt) : (r.append e).nextLseq = (r.nextLseq + 1) % 2 ^ 32 := by
  unfold Ras.append
  dsimp only
  split
  · rfl
  · split
    · rfl
    · split <;> rfl

theorem Ras.append_log_of_room (h : r.log.length < 65536) : (r.append e).log = r.log ++ [e] := by
  simp only [Ras.append, logMax, h, if_true]

/-- A full log drops an entry of severity 0 or 1. -/
theorem Ras.append_full_mild (h : 65536 ≤ r.log.length) (he : e.sev < 2) :
    (r.append e).log = r.log ∧ (r.append e).dropCnt = cntAdd r.dropCnt 1 := by
  simp only [Ras.append, logMax, Nat.not_lt.2 h, he, if_true, if_false]
  exact ⟨rfl, rfl⟩

/-- A full log gives up its oldest entry of severity 0 or 1 for one of severity 2 or 3. -/
theorem Ras.append_full_severe (h : 65536 ≤ r.log.length) (he : 2 ≤ e.sev) (hold : r.log.find? (fun x => x.sev < 2) = some old) :
    (r.append e).log = r.log.filter (fun x => x.lseq != old.lseq) ++ [e] ∧ (r.append e).dropCnt = r.dropCnt := by
  simp only [Ras.append, logMax, Nat.not_lt.2 h, Nat.not_lt.2 he, hold, if_false, and_self]

/-- A full log of severe entries drops whatever comes. -/
theorem Ras.append_full_severe_only (h : 65536 ≤ r.log.length) (he : 2 ≤ e.sev) (hold : r.log.find? (fun x => x.sev < 2) = none) :
    (r.append e).log = r.log ∧ (r.append e).dropCnt = cntAdd r.dropCnt 1 := by
  simp only [Ras.append, logMax, Nat.not_lt.2 h, Nat.not_lt.2 he, hold, if_false]
  exact ⟨rfl, rfl⟩

/-- Where an entry gives way to another, the log does not grow. -/
theorem Ras.append_log_length_le (h : r.log.length ≤ 65536) : (r.append e).log.length ≤ 65536 := by
  rcases Nat.lt_or_ge r.log.length 65536 with hroom | hfull
  · rw [Ras.append_log_of_room hroom, List.length_append]
    exact hroom
  · rcases Nat.lt_or_ge e.sev 2 with hmild | hsevere
    · rwa [(Ras.append_full_mild hfull hmild).1]
    · cases hold : r.log.find? (fun x => x.sev < 2) with
      | none => rwa [(Ras.append_full_severe_only hfull hsevere hold).1]
      | some old =>
        have hgone : (r.log.filter (fun x => x.lseq != old.lseq)).length < r.log.length :=
          List.length_filter_lt_length_iff_exists.2 ⟨old, List.mem_of_find?_eq_some hold, by simp⟩
        rw [(Ras.append_full_severe hfull hsevere hold).1, List.length_append]
        exact (Nat.succ_le_of_lt hgone).trans h

/-! ## Entries once a stride (R573) -/

theorem State.logRated_first {key code a b : Nat} {slot : Option Nat} (h : s.ras.rate.get? key = none) : s.logRated key code slot a b =
    { s.logE code slot a b with ras.rate := s.ras.rate.set key s.ras.nextLseq } := by
  unfold State.logRated
  rw [h]

/-- The entry of an event (R484) that `n` events share. -/
def State.entryOf (s : State) (code : Nat) (slot : Option Nat) (a b n : Nat) : LogEnt :=
  { lseq := s.ras.nextLseq, code := code, sev := logSev code, stride := s.str.count, slot := slot, count := n, argA := a % 2 ^ 32,
    argB := b % 2 ^ 64 }

/-- The first event of a key in a stride appends its entry, and the second adds to that entry's COUNT. -/
theorem State.logRated_twice {key code a b a' b' : Nat} {slot : Option Nat} (hroom : s.ras.log.length < 65536)
    (hnew : ∀ e ∈ s.ras.log, e.lseq ≠ s.ras.nextLseq) (h : s.ras.rate.get? key = none) :
    ((s.logRated key code slot a b).logRated key code slot a' b').ras.log =
      s.ras.log ++ [s.entryOf code slot a b 2] := by
  have hkept : s.ras.log.map (fun e => if e.lseq = s.ras.nextLseq then { e with count := min 65535 (e.count + 1) } else e) =
      s.ras.log := (List.map_congr_left fun e he => if_neg (hnew e he)).trans (List.map_id _)
  rw [State.logRated_first h]
  unfold State.logRated
  simp only [FMap.get?_set_self, State.logE_ras, Ras.append_log_of_room hroom, List.map_append, hkept, List.map_cons, List.map_nil,
    if_true]
  rfl

/-! ## LOG_RELEASE (R483, R487) -/

/-- What LOG_RELEASE leaves of the log from an LSEQ on; the entries before it are lost to readers. -/
def State.releasedTo (t : State) (q : Nat) : State :=
  { t with
    ras.log := t.ras.log.filter (fun e => lseqFrom q e.lseq)
    ras.lost := t.ras.lost ++ (t.ras.log.filter (fun e => !lseqFrom q e.lseq)).map (fun e => (e.lseq, e.slot)) }

theorem cLogRelease_run {q : Nat} (hq : q = fld p.p0.toNat 0 32) : cLogRelease.run t o p =
    done (t.releasedTo q) stOk (t.ras.log.filter (fun e => lseqFrom q e.lseq)).length 0 := by
  subst hq
  rfl

/-- An answer leaves the log as it is. -/
theorem State.answer_ras (t : State) (opcode : Nat) (o : Origin) (p : Pkt) (status r0 r1 : Nat) :
    (t.answer opcode o p status r0 r1).ras = t.ras := by
  have h : t.onlyAnswers (t.answer opcode o p status r0 r1) := State.reply_answers State.onlyAnswers_refl
  rw [h]

/-! ## Counters (R577) -/

theorem toNat_cntAdd (c : U64) (n : Nat) : (cntAdd c n).toNat =
    (c.toNat % 2 ^ 63 + n) % 2 ^ 63 + bitAt (c.getLsbD 63 || decide (2 ^ 63 ≤ c.toNat % 2 ^ 63 + n)) 63 := by
  unfold cntAdd
  rw [BitVec.toNat_ofNat]
  refine Nat.mod_eq_of_lt ?_
  unfold bitAt
  split <;> omega

theorem cntAdd_count (c : U64) (n : Nat) : (cntAdd c n).toNat % 2 ^ 63 = (c.toNat % 2 ^ 63 + n) % 2 ^ 63 := by
  rw [toNat_cntAdd]
  unfold bitAt
  split <;> omega

/-- OVF stays once it is 1, and becomes 1 where the sum passes the last count. -/
theorem cntAdd_ovf (c : U64) (n : Nat) :
    (cntAdd c n).getLsbD 63 = true ↔ c.getLsbD 63 = true ∨ 2 ^ 63 ≤ c.toNat % 2 ^ 63 + n := by
  have htop : ∀ x b, x < 2 ^ 63 → (x + bitAt b 63).testBit 63 = b := by
    intro x b hx
    cases b with
    | false => exact Nat.testBit_lt_two_pow hx
    | true => rw [bitAt, if_pos rfl, Nat.add_comm, Nat.testBit_two_pow_add_eq, Nat.testBit_lt_two_pow hx]; rfl
  rw [BitVec.getLsbD, toNat_cntAdd, htop _ _ (Nat.mod_lt _ (Nat.two_pow_pos 63)), Bool.or_eq_true, decide_eq_true_eq]

/-! ## The half latch (R577) -/

theorem State.modFunc_func (s : State) (f : Nat) (g : Func → Func) : (s.modFunc f g).func f = g (s.func f) := by
  simp [State.func, FMap.getD]

theorem State.modFunc_func_of_ne (s : State) {f k : Nat} (g : Func → Func) (h : k ≠ f) : (s.modFunc f g).func k = s.func k := by
  simp only [State.func, FMap.getD, State.modFunc_funcs, FMap.get?_set_of_ne _ _ h]

theorem State.emit_func (s : State) (o : Out) (f : Nat) : (s.emit o).func f = s.func f := rfl

theorem State.openWord_func (s : State) (off f : Nat) : (s.openWord off).1.func f = s.func f := by
  unfold State.openWord
  split <;> rfl

/-- A read of the low half of a register that a function sees loads that function's latch alone. -/
theorem State.readLow_latched {f off : Nat} (hpop : off ≠ offLogPop) (hreg : (s.openWord off).1.hasReg f off = true) :
    s.readLow f off = ((s.openWord off).1.modFunc f (fun x => { x with
      latch := some (off, BitVec.ofNat 32 (highHalf ((s.openWord off).1.peekReg f off (s.openWord off).2))) })).emit
      (.regData f off .low (BitVec.ofNat 64 (lowHalf ((s.openWord off).1.peekReg f off (s.openWord off).2)))) := by
  unfold State.readLow
  dsimp only
  rw [if_neg hpop, if_pos hreg]

theorem State.readHigh_latched {f off : Nat} {v : U32} (h : (s.func f).latch = some (off, v)) :
    s.readHigh f off = (s.modFunc f (fun x => { x with latch := none })).emit (.regData f off .high (v.setWidth 64)) := by
  unfold State.readHigh
  rw [h]
  exact if_pos rfl

end Sys2Proof.Machine
end

section
open Sys2Proof Sys2Proof.Machine

/-- Settles O51: an entry finds room, or is too mild for a full log, or takes the place of a mild one where there is one. -/
theorem logKeepsSevereEntries : Obligations.LogKeepsSevereEntries := by
  refine ⟨LogEnt.length_bytes, fun r e => ⟨Ras.append_nextLseq r e, Ras.append_log_of_room, Ras.append_log_length_le⟩,
    fun r e => Ras.append_full_mild, fun r e old => Ras.append_full_severe, fun r e => Ras.append_full_severe_only,
    fun o p q s t h hq => ⟨_, congrArg Host.Outcome.next (State.packet_now h (cLogRelease_run hq)), ?_⟩⟩
  exact congrArg Ras.log (State.answer_ras (t.releasedTo q) 0x0731 o p stOk _ 0)

/-- Settles O52: the writes of a function that are ignored share one entry of the stride. -/
theorem ignoredWritesAreLoggedOnceAStride : Obligations.IgnoredWritesAreLoggedOnceAStride := by
  refine ⟨fun f off val s h => State.logRated_first h,
    fun f off val off' val' s hroom hnew h => 
      ⟨s.entryOf 0x0004 none off val 2, State.logRated_twice hroom hnew h, rfl, rfl, rfl, rfl⟩, fun f off val s => ?_⟩
  obtain ⟨r, hr⟩ := State.ignored_eq_ras s f off val
  rw [hr]

/-- Settles O50: the sum of a counter by its two parts, and reads of the two halves of a register that is latched. -/
theorem countersAndHalfLatch : Obligations.CountersAndHalfLatch := by
  refine ⟨fun c n => ⟨cntAdd_count c n, cntAdd_ovf c n⟩, fun f off v s hu hd hr hl => ?_, fun f off s t hu hd hr hpop hreg h => ?_⟩
  · simp [exec, execHighHalfRead_up hu, hd, hr, State.readHigh_latched hl]
  · have hrun : exec (.lowHalfRead f off) s = .next (s.readLow f off) := by simp [exec, execLowHalfRead_up hu, hd, hr]
    cases hrun.symm.trans h
    rw [State.readLow_latched hpop hreg]
    refine ⟨by rw [State.emit_func, State.modFunc_func], fun g hg => ?_⟩
    rw [State.emit_func, State.modFunc_func_of_ne _ _ hg, State.openWord_func]
end

section
/-! SUPPORT. Integrity commands (R475, R476, R482, R487): what each does where it is carried out; and the reset of a core whose watchdog
expires (R480). -/

namespace Sys2Proof.Machine

variable {s t u v w y : State} {o : Origin} {p : Pkt} {n : Nat}

/-! ## Commands -/

/-- SCRUB of a range of granules of one stack (R475). -/
theorem cScrub_run_stack {k first : Nat} (ht : fld p.p0.toNat 0 2 = 0) (hk : k = fld p.p0.toNat 4 4) (hstack : k < 12)
    (hfirst : first = p.p1.toNat) (hn : n = p.p2.toNat) (h1 : 1 ≤ n) (hmax : n ≤ 2 ^ 32) (hsum : p.p3.toNat % 64 = 0)
    (hend : first + n ≤ stackGranules) :
    cScrub.run t o p = (t, .start (.scrub 0 k first n 0 0 0 0 0 0 0 0 p.p3.toNat) n 0 0 opQueued) := by
  subst hk hfirst hn
  have hsize : (decide (1 ≤ p.p2.toNat) && decide (p.p2.toNat ≤ 2 ^ 32) && p.p3.toNat % 64 == 0) = true := by
    rw [decide_eq_true h1, decide_eq_true hmax, hsum]
    rfl
  have hrange : (decide (fld p.p0.toNat 4 4 < 12) && decide (p.p1.toNat + p.p2.toNat ≤ stackGranules)) = true := by
    rw [decide_eq_true hstack, decide_eq_true hend]
    rfl
  dsimp only [cScrub, longCmd]
  rw [ht, hsize, hrange]
  rfl

/-- RETIRE, when its units have moved, of a pseudo-channel or of a stack (R482). -/
theorem cRetire_run_moving {kind part : Nat} (hk : kind = fld p.p0.toNat 0 3) (hp : part = p.p1.toNat)
    (himm : p.p0.toNat.testBit 8 = false) (hok : t.partOk kind part = true) (hkind : kind = 1 ∨ kind = 2) :
    cRetire.run t o p = (t, .start (.retire kind part false (t.retireUnits kind part) false) (t.retireUnits kind part).length 0 0
      opQueued) := by
  subst hp
  have hgood : ¬ (!t.partOk kind p.p1.toNat || (kind == 0 && false)) = true := by simp [hok]
  have hrows : ¬ (kind = 0 ∧ 65536 ≤ t.dram.rows.length + (t.retirements.filter (fun r => r.1 == 0)).length ∧
      ¬ t.dram.rows.contains (rowOf p.p1.toNat) = true) := fun ⟨h0, _⟩ => by omega
  have hmoves : ¬ (false = true ∨ 2 < kind) := not_or.2 ⟨Bool.false_ne_true, by omega⟩
  have hgroup : ¬ (kind = 3 ∧ ¬ false = true) := fun ⟨h3, _⟩ => by omega
  dsimp only [cRetire, longCmd]
  rw [← hk, himm, if_neg hgood, if_neg hrows, if_neg hmoves, if_neg hgroup]

theorem cFlipArm_run {f : Flip} {i : Nat} (hf : flipOf p = some f) (hi : t.ras.flips.firstFree 16 = some i) :
    cFlipArm.run t o p = done { t with ras.flips := t.ras.flips.set i f } stOk i 0 := by
  dsimp only [cFlipArm, shortCmd]
  rw [hf]
  dsimp only
  rw [hi]

/-- An owner queue reads the entries of every slot, as far as the buffer has room for whole ones, with the first LSEQ that was left (R487;
the LSEQ is assumption 89). -/
theorem cLogRead_run_owner {es : List LogEnt} (ha : p.p0.toNat % 32 = 0) (ho : t.ownerOrigin o = true) (hn : n = roomFor o p.p1.toNat / 32)
    (hes : es = t.ras.log.filter (fun e => lseqFrom (fld p.p2.toNat 0 32) e.lseq)) :
    cLogRead.run t o p = doneData t o p.p0.toNat ((es.take n).flatMap LogEnt.bytes) stOk (es.take n).length
      ((((es.drop n).head?).map LogEnt.lseq).getD t.ras.nextLseq) := by
  subst hn hes
  dsimp only [cLogRead, shortCmd]
  rw [if_neg (not_not.2 ha), ho]
  simp only [Bool.true_or, Bool.true_and]
  congr 1
  cases (List.drop _ (List.filter _ t.ras.log)).head? <;> rfl

/-! ## Watchdogs (R480) -/

theorem State.abortHeld_none (s : State) : s.abortHeld none = s := rfl

theorem State.abortHeld_some {i : Nat} {b : HeldBlock} (hb : s.cfg.heldBlocks[i]? = some b)
    (hw : w = { s with cfg.heldBlocks := s.cfg.heldBlocks.eraseIdx i, q.headAfter := b.head }) :
    s.abortHeld (some i) = w.reply b.o (mkReply w b.o (if b.plan then 0x0811 else 0x0810) b.p stAborted 0 0 0) [] := by
  subst hw
  unfold State.abortHeld
  rw [Option.bind_some, hb]
  rfl

/-- An expiry that is not the third of its time resets the core, and leaves the command that it had in hand ABORTED; another core still
serves. -/
theorem execWatchdogExpiry_reset {core : Nat} {cmd : Option Nat} {xs : List Nat} (hc : core < 16) (hout : (s.core core).out = false)
    (hhalt : (s.core core).halted = false) (hpre : s.preempt core = (u, n)) (hv : v = (u.logE 0x0704 none core n).diverge 5)
    (hxs : xs = (s.core core).expiries.filter (fun x => decide (v.str.count < x + 2000000)) ++ [v.str.count]) (hfew : xs.length < 3)
    (hy : y = { v with ras.cores := v.ras.cores.set core { s.core core with expiries := xs, out := false } }) (hw : y.abortHeld cmd = w)
    (hserves : w.coresGone = false) : execWatchdogExpiry core cmd s = .next w := by
  have hruns : ¬ (16 ≤ core ∨ (s.core core).out = true ∨ (s.core core).halted = true) := by
    simp [hout, hhalt, hc]
  subst hw hy hxs hv
  unfold execWatchdogExpiry
  dsimp only
  rw [if_neg hruns, hpre]
  dsimp only
  rw [decide_eq_false (Nat.not_le.2 hfew), hserves]
  rfl

end Sys2Proof.Machine
end

section
open Sys2Proof Sys2Proof.Machine

/-- Settles O17: each command's run ends in the way in which its packet is answered, and an expiry resets its core with or without a block
in hand. -/
theorem integrityRowsComplete : Obligations.IntegrityRowsComplete := by
  refine ⟨fun o p k first n s t h hl ht hk hstack hfirst hn h1 hmax hsum hend => ?_, fun o p kind part s t h hl hk hp himm hok hkind => ?_,
    fun o p f i s t h hf hi => ?_, fun o p s t h => ?_, fun o p es n s t h ha ho hn hes => ?_,
    fun o p q kept gone s t h hq hkept hgone => ?_, fun core n s u v xs hc hout hhalt hpre hv hxs hfew hserves => ?_,
    fun core n i b s u v w xs hc hout hhalt hpre hv hxs hfew hw hb hserves => ?_, fun s => rfl, fun s => rfl⟩
  · exact congrArg Host.Outcome.next (State.packet_start h (cScrub_run_stack ht hk hstack hfirst hn h1 hmax hsum hend) hl)
  · exact congrArg Host.Outcome.next (State.packet_start h (cRetire_run_moving hk hp himm hok hkind) hl)
  · exact congrArg Host.Outcome.next (State.packet_now h (cFlipArm_run hf hi))
  · exact congrArg Host.Outcome.next (State.packet_now h rfl)
  · exact congrArg Host.Outcome.next (State.packet_now h (cLogRead_run_owner ha ho hn hes))
  · subst hkept hgone
    exact congrArg Host.Outcome.next (State.packet_now h (cLogRelease_run hq))
  · exact execWatchdogExpiry_reset hc hout hhalt hpre hv hxs hfew rfl (State.abortHeld_none _) hserves
  · subst hw
    exact execWatchdogExpiry_reset hc hout hhalt hpre hv hxs hfew rfl (State.abortHeld_some hb rfl) hserves
end

section
/-! SUPPORT. Domains and their keys (R430, R441, R442, R444, R445, R458): what each command does where it is carried out. -/

namespace Sys2Proof.Machine

variable {t u : State} {o : Origin} {p : Pkt} {x g due : Nat} {cs : List Change}

/-- Whether a change leaves a slot a T0 partition below 16 plates. -/
def Change.starvesT0 (x : Nat) (c : Change) : Bool :=
  match c with
  | .field k v => k == fkey x fT0Part 0 && decide (v < 16)
  | _ => false

/-- A FREE slot with room for its T0 partition, before and after its values are clamped, and whose herd domain no slot in use holds,
becomes ACTIVE with the generation being built (R430; the clamps are assumption 110). -/
theorem cDomainActivate_run (hx : x = slotOf p) (hfree : t.domFree x = true) (hpart : 16 ≤ t.newest x fT0Part 0)
    (hcs : cs = t.activationClamps x) (hclamped : ∀ v, .field (fkey x fT0Part 0) v ∈ cs → 16 ≤ v)
    (hdom : ∀ y ∈ t.upSlots, t.newest y fDomHdom 0 ≠ t.newest x fDomHdom 0)
    (hj : (t.modDom x (fun d => { d with activating := true })).join (cs ++ [.slotState x 1]) = (u, g, due)) :
    cDomainActivate.run t o p = (u, .later due (if cs.isEmpty then stOk else stClamped) 0 g 0 []) := by
  have hroom : cs.any (Change.starvesT0 x) = false := by
    refine List.any_eq_false.2 fun c hc => ?_
    unfold Change.starvesT0
    split
    · rename_i k v
      intro hsmall
      rw [Bool.and_eq_true, beq_iff_eq, decide_eq_true_eq] at hsmall
      obtain ⟨rfl, hv⟩ := hsmall
      exact Nat.not_lt.2 (hclamped v hc) hv
    · exact Bool.false_ne_true
  have hown : t.upSlots.any (fun y => t.newest y fDomHdom 0 == t.newest x fDomHdom 0) = false :=
    List.any_eq_false.2 fun y hy => by simpa using hdom y hy
  have hgood : ¬ (!t.domFree x || decide (t.newest x fT0Part 0 < 16) || cs.any (Change.starvesT0 x)
      || t.upSlots.any (fun y => t.newest y fDomHdom 0 == t.newest x fDomHdom 0)) = true := by
    rw [hfree, decide_eq_false (Nat.not_lt.2 hpart), hroom, hown]
    exact Bool.false_ne_true
  subst hx hcs
  dsimp only [cDomainActivate, shortCmd]
  rw [hj]
  exact if_neg hgood

theorem cDomainUnpark_run (hst : t.domSt (slotOf p) = 3) (hj : t.join [.slotState (slotOf p) 1] = (u, g, due)) :
    cDomainUnpark.run t o p = (u, .later due stOk 0 g 0 []) := by
  dsimp only [cDomainUnpark, shortCmd]
  rw [if_neg (not_not.2 hst), hj]

/-- An ACTIVE slot without operations and without an open round begins to park, where no channel is open. -/
theorem cDomainPark_run (hx : x = slotOf p) (hst : t.domSt x = 1) (hops : t.slotOps x = 0) (hround : t.roundOpen x = false)
    (hchans : t.dma.chans = []) :
    cDomainPark.run t o p = ((t.join [.slotState x 2]).1, .start (.park x 0) 0 0 0 opQueued) := by
  subst hx
  dsimp only [cDomainPark, longCmd]
  rw [hst, hops, hround, hchans]
  rfl

/-- An ACTIVE or PARKED slot that nothing uses begins to be erased. -/
theorem cDomainErase_run (hx : x = slotOf p) (hst : t.domSt x = 1 ∨ t.domSt x = 3) (hbusy : t.eraseBusy x = false)
    (hleaving : t.slotLeaving x = false) :
    cDomainErase.run t o p = ((t.join [.slotState x 4]).1, .start (.erase x 0 []) 0 0 0 opQueued) := by
  have hstates : ¬ (t.domSt x ≠ 1 ∧ t.domSt x ≠ 3 ∧ t.domSt x ≠ 4) := by omega
  subst hx
  dsimp only [cDomainErase, longCmd]
  rw [if_neg hstates, hbusy, hleaving]
  rfl

/-- The owner's session loads two different halves of a key for a FREE slot that has none, nor one on its way (R441). -/
theorem cKeyLoad_run (hx : x = slotOf p) (ho : t.ownerSession o = true) (hfree : t.domFree x = true) (hkey : (t.dom x).hasKey = false)
    (hdue : (t.dom x).dueKey.bind id = none) (hlen : p.data.length = 64) (hdiff : p.data.take 32 ≠ p.data.drop 32) :
    cKeyLoad.run t o p =
      done (t.modDom x (fun d => { d with dueKey := some (some (BitVec.ofNat 512 (leNat p.data))) })) stOk 0 0 := by
  subst hx
  dsimp only [cKeyLoad, shortCmd]
  rw [ho, hfree, hkey, hdue, hlen, beq_false_of_ne hdiff]
  rfl

theorem cKeyDestroy_run (hx : x = slotOf p) (hfree : t.domFree x = true) (hhas : t.doms.has x = true) :
    cKeyDestroy.run t o p = done (t.modDom x (fun d => { d with dueKey := some none })) stOk 0 0 := by
  subst hx
  dsimp only [cKeyDestroy, shortCmd]
  rw [hfree, hhas]
  rfl

end Sys2Proof.Machine
end

section
open Sys2Proof Sys2Proof.Machine

/-- Settles O25: each command's run ends in the way in which its packet is answered, an activation with or without clamped values. -/
theorem domainRowsComplete : Obligations.DomainRowsComplete := by
  refine ⟨fun o p x g due s t u h hx hfree hpart hcs hdom hj => ?_, fun o p x g due cs s t u h hx hfree hpart hcs hne hclamped hdom hj => ?_,
    fun o p g due s t u h hst hj => ?_, fun o p x s t h hl hx hst hops hround hchans => ?_,
    fun o p x s t h hl hx hst hbusy hleaving => ?_, fun o p s t h => ?_,
    fun o p x s t h hx ho hfree hkey hdue hlen hdiff => ?_, fun o p x s t h hx hfree hhas => ?_⟩
  · exact congrArg Host.Outcome.next
      (State.packet_later h (cDomainActivate_run (cs := []) hx hfree hpart hcs.symm (fun _ hv => nomatch hv) hdom hj))
  · have hrun := cDomainActivate_run (o := o) hx hfree hpart hcs hclamped hdom hj
    rw [List.isEmpty_eq_false_iff.2 hne] at hrun
    exact congrArg Host.Outcome.next (State.packet_later h hrun)
  · exact congrArg Host.Outcome.next (State.packet_later h (cDomainUnpark_run hst hj))
  · exact congrArg Host.Outcome.next (State.packet_start h (cDomainPark_run hx hst hops hround hchans) hl)
  · exact congrArg Host.Outcome.next (State.packet_start h (cDomainErase_run hx hst hbusy hleaving) hl)
  · exact congrArg Host.Outcome.next (State.packet_now h rfl)
  · exact congrArg Host.Outcome.next (State.packet_now h (cKeyLoad_run hx ho hfree hkey hdue hlen hdiff))
  · exact congrArg Host.Outcome.next (State.packet_now h (cKeyDestroy_run hx hfree hhas))
end

section
/-! SUPPORT. Firmware (R454 to R458): what each command does where it is carried out, and what ends an activation. -/

namespace Sys2Proof.Machine

variable {s t u : State} {o : Origin} {p : Pkt} {i : Image} {h n : Nat}

/-! ## Commands -/

/-- An image that passes every check is staged while the standby set is not in use (R456; the moment of the checks is assumption 67). -/
theorem cFwStage_run (ha : (managed o || p.p0.toNat % 64 == 0) = true) (hi : t.imageCheck i = 0) (hb : t.standbyBusy = false) :
    (cFwStage i).run t o p = (t, .start (.fwStage i (roundUp p.p1.toNat 4096) 0) (roundUp p.p1.toNat 4096) 0 0 opQueued) := by
  have haligned := not_misaligned ha
  cases o <;>
  · dsimp only [managed] at haligned
    dsimp only [cFwStage, longCmd]
    rw [if_neg haligned, if_neg (not_not.2 hi), hb]
    rfl

/-- An image in the standby slot that still passes every check is prepared (R456). -/
theorem cFwPrepare_run (hs : t.standbyImage = some i) (hi : t.imageCheck i = 0) (hb : t.standbyBusy = false) :
    cFwPrepare.run t o p = ({ t with tr.standby := 2 }, .start .fwPrepare 0 0 0 opQueued) := by
  dsimp only [cFwPrepare, longCmd]
  rw [hb, hs, if_neg Bool.false_ne_true]
  exact if_neg (not_not.2 hi)

theorem cFwActivate_run (hready : t.tr.standby = 3) :
    cFwActivate.run t o p = ({ t with tr.standby := 4 }, .start (.fwActivate t.str.count) 0 0 0 opQueued) := by
  dsimp only [cFwActivate, longCmd]
  exact if_neg (not_not.2 hready)

/-- The running image fuses its SVN, and the bits asked for, where they leave its own key (R457; that FUSE_SVN does not fall is assumption
44). -/
theorem cFwCommit_run {bits : BitVec 4} (hi : t.image = some i) (hbits : bits = BitVec.ofNat 4 (fld p.p0.toNat 0 4))
    (hkey : bits.getLsbD i.keyHash = false) : cFwCommit.run t o p = done { t with
      tr.fuseSvn := max t.tr.fuseSvn (imageSvn i), tr.revoked := t.tr.revoked ||| bits } stOk (max t.tr.fuseSvn (imageSvn i)) 0 := by
  subst hbits
  dsimp only [cFwCommit, shortCmd]
  rw [hi]
  dsimp only
  rw [hkey]
  rfl

/-! ## The end of an activation, and the standby slot (R455 to R457) -/

/-- At the boundary that was found free for it, the control sets exchange roles. -/
theorem execFirmwareHandover_due (ha : s.activation = some (h, n)) (hp : s.tr.prepared = some s.str.count) (hs : s.str.snap = false)
    (hu : u = (({ s with tr.activeB := !s.tr.activeB, tr.standby := 2 } : State).emit (.bootMarker (markerBytes (!s.tr.activeB)))).restartMgmt) :
    execFirmwareHandover s = .next (u.endActivation h opDone stOk u.str.count) := by
  have hnow : ¬ (s.tr.prepared ≠ some s.str.count ∨ s.str.snap = true) := by simp [hp, hs]
  subst hu
  unfold execFirmwareHandover
  rw [ha]
  exact congrArg Host.Outcome.next (if_neg hnow)

/-- An activation fails 65 strides after its acceptance, unless this boundary is the one found for it. -/
theorem execFwActivateTimeout_due (ha : s.activation = some (h, n)) (hn : n + 65 ≤ s.str.count)
    (hp : s.tr.prepared ≠ some s.str.count) :
    execFwActivateTimeout s = .next ({ s with tr.standby := 3 }.endActivation h opFailed stBusyRetry 0) := by
  unfold execFwActivateTimeout
  rw [ha]
  exact congrArg Host.Outcome.next (if_neg (not_or.2 ⟨Nat.not_lt.2 hn, hp⟩))

theorem execStandbySetReloaded_reloaded (hs : s.tr.standby = 2) (hl : s.liveBody (fun b => b == .fwPrepare) = false) :
    execStandbySetReloaded s = .next { s with tr.standby := 3 } := by
  unfold execStandbySetReloaded
  rw [hs, hl]
  rfl

/-- PLDM stages an image as FW_STAGE does, in recovery also (R455). -/
theorem execPldmFirmwareUpdate_staged (hup : s.mgmtUp = true ∨ s.pmu.stage = 6) (hb : s.standbyBusy = false)
    (hi : s.imageCheck i = 0) :
    execPldmFirmwareUpdate i s = .next ((s.setStandby (some i) 1).emit (.imageWritten (!s.tr.activeB) (imageFwver i))) := by
  have hreach : (s.mgmtUp || s.pmu.stage == 6) = true := by simpa using hup
  unfold execPldmFirmwareUpdate
  rw [hreach, hb, hi]
  rfl

end Sys2Proof.Machine
end

section
open Sys2Proof Sys2Proof.Machine

/-- Settles O26: each command's run ends in the way in which its packet is answered, and each event acts where it is due. -/
theorem firmwareRowsComplete : Obligations.FirmwareRowsComplete := by
  refine ⟨fun o p i s t h hl ha hi hb => ?_, fun o p i s t h hl hs hi hb => ?_, fun o p s t h hl hready => ?_,
    fun o p i bits s t h hi hbits hkey => ?_, fun o p s t h => ?_, fun h n u s ha hp hs hu => execFirmwareHandover_due ha hp hs hu,
    fun h n s ha hn hp => execFwActivateTimeout_due ha hn hp, fun s hs hl => execStandbySetReloaded_reloaded hs hl,
    fun i s hup hb hi => execPldmFirmwareUpdate_staged hup hb hi⟩
  · exact congrArg Host.Outcome.next (State.packet_start h (cFwStage_run ha hi hb) hl)
  · exact congrArg Host.Outcome.next (State.packet_start h (cFwPrepare_run hs hi hb) hl)
  · exact congrArg Host.Outcome.next (State.packet_start h (cFwActivate_run hready) hl)
  · exact congrArg Host.Outcome.next (State.packet_now h (cFwCommit_run hi hbits hkey))
  · exact congrArg Host.Outcome.next (State.packet_now h rfl)
end

section
/-! SUPPORT. Self-tests, dressage tables and the access level (R519, R524, R528, R531, R541): what each command does where it is carried
out. -/

namespace Sys2Proof.Machine

variable {t : State} {o : Origin} {p : Pkt}

/-- Where no operation is live, no self-test is. -/
theorem State.testLive_eq_false (hops : t.liveOps = []) (f : OpBody → Bool) : t.testLive f = false := by
  unfold State.testLive
  rw [hops]
  rfl

theorem cSelftestLogic_run {kind unit : Nat} (hk : kind = fld p.p0.toNat 0 1) (hu : unit = fld p.p0.toNat 8 6)
    (hunit : kind = 1 → unit < 4) (hd : t.dressageNamed = false) (hfree : t.tst.laneTests.contains (testKey kind unit) = false) :
    cSelftestLogic.run t o p = ({ t with tst.laneTests := t.tst.laneTests ++ [testKey kind unit] },
      .start (.selftestLogic kind unit 0) (if kind = 0 then 65536 else 262144) 0 0 opQueued) := by
  have hexists : ¬ (kind = 1 ∧ 4 ≤ unit) := fun ⟨h1, h4⟩ => Nat.not_lt.2 h4 (hunit h1)
  subst hk hu
  dsimp only [cSelftestLogic, longCmd]
  rw [if_neg hexists, hd, hfree, if_neg (by decide)]

theorem cSelftestStore_run {die mode bank : Nat} (hdie : die = fld p.p0.toNat 0 2) (hmode : mode = fld p.p0.toNat 8 1)
    (hbank : bank = fld p.p1.toNat 0 8) (hexists : mode = 1 → bank < 64) (hd : t.dressageNamed = false) (hops : t.liveOps = []) :
    cSelftestStore.run t o p = (t, .start (.selftestStore die mode bank 0 0 0 [])
      (if mode = 0 then 65536 * (4 - t.sparesUsed die) else 65536) 0 0 opQueued) := by
  have hgood : ¬ (mode = 1 ∧ 64 ≤ bank) := fun ⟨h1, h64⟩ => Nat.not_lt.2 h64 (hexists h1)
  subst hdie hmode hbank
  dsimp only [cSelftestStore, longCmd]
  rw [if_neg hgood, hd, State.testLive_eq_false hops, if_neg (by decide)]

/-- A test of a stack's pseudo-channels in service starts each of them anew (R528). -/
theorem cSelftestStack_run {k mask : Nat} (hk : k = fld p.p0.toNat 0 4) (hmask : mask = fld p.p1.toNat 0 32) (hstack : k < 12)
    (hon : p.p0.getLsbD 8 = false) (hd : t.dressageNamed = false) (hops : t.liveOps = []) :
    cSelftestStack.run t o p = (t.over (bitsSet mask 32) (fun s p => s.modPc k p (fun c => { c with bist := 0 })),
      .start (.selftestStack k false mask 0 0 0 []) (16384 * (bitsSet mask 32).length) 0 0 opQueued) := by
  subst hk hmask
  dsimp only [cSelftestStack, longCmd]
  rw [hon, hd, State.testLive_eq_false hops, if_neg (not_or.2 ⟨Nat.not_le.2 hstack, fun h => Bool.false_ne_true h.1⟩), if_neg (by decide)]

/-- A valid table with an ID that no table has or is on its way to, while fewer than four are held or loading (R519). -/
theorem cDressageLoad_run (ha : p.p0.toNat % 64 = 0) (hok : t.dressageOk p.data p.p1.toNat = true)
    (hnew : t.tst.tables.has (fieldAt p.data 4 2) = false) (hload : t.loadingTables.contains (fieldAt p.data 4 2) = false)
    (hroom : t.tst.tables.length + t.loadingTables.length < 4) :
    cDressageLoad.run t o p = (t, .start (.dressageLoad 0 p.data) (fieldAt p.data 8 4) (fieldAt p.data 4 2) 0 opQueued) := by
  have hgood : ¬ (p.p0.toNat % 64 ≠ 0 ∨ (!t.dressageOk p.data p.p1.toNat) = true) := by simp [ha, hok]
  dsimp only [cDressageLoad, longCmd]
  rw [if_neg hgood, hnew, hload, decide_eq_false (Nat.not_le.2 hroom)]
  rfl

theorem cDressageDrop_run {id : Nat} (hid : id = fld p.p0.toNat 0 16) (hhas : t.tst.tables.has id = true)
    (hdrop : t.tst.dropping.contains id = false) (hused : t.dressageUsed id = false) :
    cDressageDrop.run t o p = done { t with tst.dropping := t.tst.dropping ++ [id] } stOk 0 0 := by
  subst hid
  dsimp only [cDressageDrop, shortCmd]
  rw [hhas, hdrop, hused]
  rfl

theorem cDressageQuery_run (ha : p.p0.toNat % 64 = 0) : cDressageQuery.run t o p =
    doneData t o p.p0.toNat (if t.tst.lastRec.isEmpty then t.dressageRecord else t.tst.lastRec) stOk t.tst.sig.toNat
      t.tst.sig0.toNat := if_neg (not_not.2 ha)

/-- The owner's session sets level 1 or 2, which is logged where it changes the level (R531, assumption 64). -/
theorem cDebugUnlock_run {e lv : Nat} {sec : Bool} (ho : t.ownerSession (.mgmt e sec) = true) (hlv : lv = fld p.p0.toNat 0 2)
    (h0 : lv ≠ 0) (h3 : lv ≠ 3) : cDebugUnlock.run t (.mgmt e sec) p =
      done (if t.tst.level = lv then t else { t with tst.level := lv }.logE 0x0006 none lv e) stOk 0 0 := by
  subst hlv
  dsimp only [cDebugUnlock, shortCmd]
  rw [ho, if_neg (not_or.2 ⟨h0, h3⟩)]
  rfl

end Sys2Proof.Machine
end

section
open Sys2Proof Sys2Proof.Machine

/-- Settles O23: each command's run ends in the way in which its packet is answered. -/
theorem selfTestRowsComplete : Obligations.SelfTestRowsComplete := by
  refine ⟨fun o p kind unit s t h hl hk hu hunit hd hfree => ?_, fun o p die mode bank s t h hl hdie hmode hbank hexists hd hops => ?_,
    fun o p k mask s t h hl hk hmask hstack hon hd hops => ?_, fun o p s t h hl ha hok hnew hload hroom => ?_,
    fun o p id s t h hid hhas hdrop hused => ?_, fun o p s t h ha => ?_, fun e lv sec p s t h ho hlv h0 h3 => ?_, fun o p s t h => ?_⟩
  · exact congrArg Host.Outcome.next (State.packet_start h (cSelftestLogic_run hk hu hunit hd hfree) hl)
  · exact congrArg Host.Outcome.next (State.packet_start h (cSelftestStore_run hdie hmode hbank hexists hd hops) hl)
  · exact congrArg Host.Outcome.next (State.packet_start h (cSelftestStack_run hk hmask hstack hon hd hops) hl)
  · exact congrArg Host.Outcome.next (State.packet_start h (cDressageLoad_run ha hok hnew hload hroom) hl)
  · exact congrArg Host.Outcome.next (State.packet_now h (cDressageDrop_run hid hhas hdrop hused))
  · exact congrArg Host.Outcome.next (State.packet_now h (cDressageQuery_run ha))
  · exact congrArg Host.Outcome.next (State.packet_now h (cDebugUnlock_run ho hlv h0 h3))
  · exact congrArg Host.Outcome.next (State.packet_now h rfl)
end

section
/-! SUPPORT. The test port (R530 to R539): instructions of the TAP, and accesses at the level in force. -/

namespace Sys2Proof.Machine

variable {s : State}

/-- A code that no instruction has acts as BYPASS. -/
theorem execTapInstruction_bypass {code : Byte} (hid : code ≠ 0x02) (h1 : code ≠ 0x01) (h10 : code ≠ 0x10) (h11 : code ≠ 0x11)
    (hr : s.pmu.inReset = false) :
    execTapInstruction code s = .next (({ s with tst.ir := code } : State).emit (.tdo 0xFF 0)) := by
  have hopen : ¬ (tapRestricted code && s.pmu.inReset) = true := by simp [hr]
  exact congrArg Host.Outcome.next
    ((if_neg hid).trans ((if_neg hopen).trans (if_neg (not_or.2 ⟨h1, not_or.2 ⟨h10, h11⟩⟩))))

theorem execHartHalt_full (hart : Nat) (hl : s.tst.level = 2) : execHartHalt hart s = .next (s.haltHart hart) :=
  congrArg Host.Outcome.next (if_pos hl)

theorem execHartResume_full (hart : Nat) (cmd : Option Nat) (hl : s.tst.level = 2) : execHartResume hart cmd s =
    .next ((s.resumeHart hart).abortHeld (if hart < 16 && (s.core hart).halted && (s.core hart).released then cmd else none)) :=
  congrArg Host.Outcome.next (if_pos hl)

theorem execDmiAccess_full (op : DmiOp) (hl : s.tst.level = 2) : execDmiAccess op s = .next (s.dmiFull op) :=
  congrArg Host.Outcome.next (if_pos (.inl hl))

/-- At level 0 no read sees anything (R532). -/
theorem execDmiAccess_locked {op : DmiOp} (hl : s.tst.level = 0) (hr : dmiReads op = true) :
    execDmiAccess op s = .next (s.emit (.dmi 0)) := by
  simp [execDmiAccess, hl, hr]

end Sys2Proof.Machine
end

section
open Sys2Proof Sys2Proof.Machine

/-- Settles O24: the TAP's rows by their code, and the debugger's by the access level. -/
theorem testAccessRowsComplete : Obligations.TestAccessRowsComplete :=
  ⟨fun _ => rfl, fun _ => rfl, fun _ _ hid h1 h10 h11 hr => execTapInstruction_bypass hid h1 h10 h11 hr,
    fun hart _ hl => execHartHalt_full hart hl, fun hart cmd _ hl => execHartResume_full hart cmd hl, fun _ _ => rfl, fun _ _ _ => rfl,
    fun op _ hl => execDmiAccess_full op hl, fun _ _ hl hr => execDmiAccess_locked hl hr⟩
end

section
/-! SUPPORT. Heads and functions (R491 to R514): what each event does where its head and function stand as the row asks. -/

namespace Sys2Proof.Machine

variable {s u : State} {h f n ch rate width : Nat} {q : Qp} {c : Chan}

/-! ## Links -/

theorem execPerstNAssert_taken (hr : s.pmu.inReset = false) (hh : h < 8) (hp : (s.head h).perst = false) :
    execPerstNAssert h s = .next ((s.loseHead h 1).modHead h (fun x => { x with perst := true })) := by
  unfold execPerstNAssert
  rw [hr, decide_eq_false (Nat.not_le.2 hh), hp]
  rfl

theorem execPerstNDeassert_taken (hr : s.pmu.inReset = false) (hh : h < 8) :
    execPerstNDeassert h s = .next (s.modHead h (fun x => { x with perst := false })) := by
  unfold execPerstNDeassert
  rw [hr, decide_eq_false (Nat.not_le.2 hh)]
  rfl

/-- A head that exists and is up. -/
theorem headUp_eq_true (hh : h < 8) (hup : (s.head h).up = true) : (decide (h < 8) && (s.head h).up) = true := by
  rw [decide_eq_true hh, hup]
  rfl

/-- A head that is down, not held by PERST#, at a stage from TRAIN to MEMORY_ACTIVE may train. -/
theorem not_trainHeld (hh : h < 8) (hdown : (s.head h).up = false) (hp : (s.head h).perst = false) (hr : s.pmu.inReset = false)
    (hlo : 2 ≤ s.pmu.stage) (hhi : s.pmu.stage ≤ 5) : ¬ (decide (8 ≤ h) || (s.head h).up || (s.head h).perst || s.pmu.inReset ||
      decide (s.pmu.stage < 2) || decide (5 < s.pmu.stage)) = true := by
  rw [decide_eq_false (Nat.not_le.2 hh), hdown, hp, hr, decide_eq_false (Nat.not_lt.2 hlo), decide_eq_false (Nat.not_lt.2 hhi)]
  exact Bool.false_ne_true

theorem execHeadLinkUp_trained (mld lopt : Bool) (hh : h < 8) (hdown : (s.head h).up = false) (hp : (s.head h).perst = false)
    (hr : s.pmu.inReset = false) (hlo : 2 ≤ s.pmu.stage) (hhi : s.pmu.stage ≤ 5) (hmode : linkMode rate width = true) :
    execHeadLinkUp h rate width mld lopt true s = .next ((s.modHead h (fun x =>
      { x with up := true, rate := rate, width := width, mld := mld, lopt := lopt, l0p := false })).logScaled s) := by
  unfold execHeadLinkUp
  rw [if_neg (not_trainHeld hh hdown hp hr hlo hhi), hmode]
  rfl

/-- A partner without 256-byte flits leaves the head without a function (R491). -/
theorem execHeadLinkUp_refused (mld lopt : Bool) (hh : h < 8) (hdown : (s.head h).up = false) (hp : (s.head h).perst = false)
    (hr : s.pmu.inReset = false) (hlo : 2 ≤ s.pmu.stage) (hhi : s.pmu.stage ≤ 5) :
    execHeadLinkUp h rate width mld lopt false s = .next (s.logE 0x0005 none h 0) := by
  unfold execHeadLinkUp
  rw [if_neg (not_trainHeld hh hdown hp hr hlo hhi)]
  rfl

theorem execLinkSpeedChange_up (l0p : Bool) (hh : h < 8) (hup : (s.head h).up = true) (hmode : linkMode rate width = true) :
    execLinkSpeedChange h rate width l0p s =
      .next ((s.modHead h (fun x => { x with rate := rate, width := width, l0p := l0p })).logScaled s) := by
  unfold execLinkSpeedChange
  rw [headUp_eq_true hh hup, hmode]
  rfl

/-! ## Functions -/

/-- A function that an ACTIVE device presents. -/
theorem reachable_eq_true (ha : s.isActive = true) (hf : s.hasFunc f = true) : (s.isActive && s.hasFunc f) = true := by
  rw [ha, hf]
  rfl

/-- A decoder that no standby logical device is paired for is set at once (R423). -/
theorem execHdmDecoderCommit_unpaired {i : Nat} {d : HdmDecoder} (ha : s.isActive = true) (hf : s.hasFunc f = true) (hi : i < 4)
    (hd : d.committed = true → decoderOk d = true) (hs : s.herd.standbys = []) :
    execHdmDecoderCommit f i d s = .next (s.modFunc f (fun x => { x with decoders := x.decoders.set i d })) := by
  have hgood : ¬ (!s.isActive || !s.hasFunc f || decide (4 ≤ i) || (d.committed && !decoderOk d)) = true := by
    have hok : (d.committed && !decoderOk d) = false := by
      cases hc : d.committed with
      | false => rfl
      | true => rw [hd hc]; rfl
    rw [ha, hf, decide_eq_false (Nat.not_le.2 hi), hok]
    exact Bool.false_ne_true
  unfold execHdmDecoderCommit
  rw [if_neg hgood, hs]
  rfl

theorem execConfigurationRequest_active (r : CfgReq) (hup : (s.head (headOf f)).up = true) (h128 : f < 128) (ha : s.isActive = true)
    (hf : s.hasFunc f = true) : execConfigurationRequest f r s = .next (s.cfgDo f r) := by
  unfold execConfigurationRequest
  rw [hup, decide_eq_false (Nat.not_le.2 h128), ha, hf]
  rfl

/-- Before MEMORY_ACTIVE a configuration request is to be tried again (R509). -/
theorem execConfigurationRequest_early (r : CfgReq) (hup : (s.head (headOf f)).up = true) (h128 : f < 128) (ha : s.isActive = false) :
    execConfigurationRequest f r s = .next (s.emit (.cfgRetry f)) := by
  unfold execConfigurationRequest
  rw [hup, decide_eq_false (Nat.not_le.2 h128), ha]
  rfl

/-! ## Completion timeouts (R514) -/

section
variable (ha : s.isActive = true) (hf : s.hasFunc f = true) (hc : (s.func f).cplDis = false)
include ha hf hc

/-- A timeout that the function does not mask counts, and fails what it was for. -/
theorem execCompletionTimeout_counted (d : Option (Nat × Bool)) (hu : u = s.modFunc f (fun x => { x with cplTo := cntAdd x.cplTo 1 })) :
    execCompletionTimeout f d s = .next (match d with
      | some (ch, true) => if (u.chan ch).any (fun (c : Chan) => c.func == f) then u.dmaFailure ch else u
      | some (n, false) => if (u.qp f n).any Qp.enabled then u.faultQp f n 1 else u
      | none => u) := by
  subst hu
  unfold execCompletionTimeout
  rw [ha, hf, hc]
  rfl

theorem execCompletionTimeout_ring (hu : u = s.modFunc f (fun x => { x with cplTo := cntAdd x.cplTo 1 })) (hq : u.qp f n = some q)
    (he : q.enabled = true) : execCompletionTimeout f (some (n, false)) s = .next (u.faultQp f n 1) := by
  have hany : (u.qp f n).any Qp.enabled = true := by rw [hq]; exact he
  exact (execCompletionTimeout_counted ha hf hc _ hu).trans (congrArg Host.Outcome.next (if_pos hany))

theorem execCompletionTimeout_channel (hu : u = s.modFunc f (fun x => { x with cplTo := cntAdd x.cplTo 1 })) (hch : u.chan ch = some c)
    (hcf : c.func = f) : execCompletionTimeout f (some (ch, true)) s = .next (u.dmaFailure ch) := by
  have hany : (u.chan ch).any (fun (c : Chan) => c.func == f) = true := by rw [hch]; exact beq_iff_eq.2 hcf
  exact (execCompletionTimeout_counted ha hf hc _ hu).trans (congrArg Host.Outcome.next (if_pos hany))
end

/-! ## IDE (R446, R447) -/

theorem execIdeKeyProgram_session (mem : Bool) (hh : h < 8) (hup : s.spdmUp h = true)
    (hs : (s.spdmOf h).sessions.any (fun y => y.2.2) = true) :
    execIdeKeyProgram h mem s = .next (if mem then { s with tr.ideMem := s.tr.ideMem ||| BitVec.ofNat 8 (2 ^ h) }
      else { s with tr.ideIo := s.tr.ideIo ||| BitVec.ofNat 8 (2 ^ h) }) := by
  unfold execIdeKeyProgram
  rw [decide_eq_true hh, hup, hs]
  rfl

theorem execIdeCheckFailure_keyed (hk : s.tr.ideIo.getLsbD h = true ∨ s.tr.ideMem.getLsbD h = true) :
    execIdeCheckFailure h s = .next ((s.logE 0x0B02 none h 0).emit (.ideError h)) :=
  congrArg Host.Outcome.next (if_pos (Bool.or_eq_true_iff.2 hk))

end Sys2Proof.Machine
end

section
open Sys2Proof Sys2Proof.Machine

/-- Settles O28: each event acts on a head that is up or a function that it presents; the causes of a lost head are the rows' own. -/
theorem headRowsComplete : Obligations.HeadRowsComplete := by
  refine ⟨fun h s hr hh hp => execPerstNAssert_taken hr hh hp, fun h s hr hh => execPerstNDeassert_taken hr hh,
    fun h s hh hup => congrArg Host.Outcome.next (if_pos (headUp_eq_true hh hup)),
    fun h s hh hup => congrArg Host.Outcome.next (if_pos (headUp_eq_true hh hup)),
    fun h s hh hup => congrArg Host.Outcome.next (if_pos (headUp_eq_true hh hup)),
    fun h rate width mld lopt s hh hdown hp hr hlo hhi hmode => execHeadLinkUp_trained mld lopt hh hdown hp hr hlo hhi hmode,
    fun h rate width mld lopt s hh hdown hp hr hlo hhi => execHeadLinkUp_refused mld lopt hh hdown hp hr hlo hhi,
    fun h rate width l0p s hh hup hmode => execLinkSpeedChange_up l0p hh hup hmode,
    fun f s ha hf => congrArg Host.Outcome.next (if_pos (reachable_eq_true ha hf)),
    fun f s ha hf => congrArg Host.Outcome.next (if_pos (reachable_eq_true ha hf)),
    fun f i d s ha hf hi hd hs => execHdmDecoderCommit_unpaired ha hf hi hd hs,
    fun f b s ha hf => congrArg Host.Outcome.next (if_pos (reachable_eq_true ha hf)),
    fun f r s hup h128 ha hf => execConfigurationRequest_active r hup h128 ha hf,
    fun f r s hup h128 ha => execConfigurationRequest_early r hup h128 ha,
    fun f s ha hf hc => execCompletionTimeout_counted ha hf hc none rfl,
    fun f n q s u ha hf hc hu hq he => execCompletionTimeout_ring ha hf hc hu hq he,
    fun f ch c s u ha hf hc hu hch hcf => execCompletionTimeout_channel ha hf hc hu hch hcf,
    fun h mem s hh hup hs => execIdeKeyProgram_session mem hh hup hs, fun h s hk => execIdeCheckFailure_keyed hk⟩
end

section
/-! SUPPORT. SPDM requests (R450): what each is answered on a path that reaches the responder, and that none changes more than the negotiation
of its own path, what is sent and the free values; and the settings of a function's mailbox (R504). -/

namespace Sys2Proof.Machine

variable {s t u : State} {path f n : Nat} {own est : Bool} {x : Spdm}

/-! ## Answers -/

theorem State.spdm_up {g : State → Spdm → State} (h : s.spdmUp path = true) : s.spdm path g = g s (s.spdmOf path) := if_pos h

/-- Once the negotiation is finished, a request does what it does. -/
theorem State.spdmReady_up {g : State → Spdm → State} (h : s.spdmUp path = true) (h3 : (s.spdmOf path).st = 3) :
    s.spdmReady path g = g s (s.spdmOf path) := (State.spdm_up h).trans (if_pos h3)

/-- A request of a session that stands as it asks acts on the sessions of its path (R450). -/
theorem State.onSession_found {ok : Bool → Bool} {g : List (Nat × Bool × Bool) → List (Nat × Bool × Bool)} (code : Nat)
    (h : s.spdmUp path = true) (hx : x = s.spdmOf path) (h3 : x.st = 3)
    (hn : x.sessions.find? (fun y => y.1 == n) = some (n, own, est)) (hok : ok est = true) :
    s.onSession path n ok g code = (s.setSpdm path { x with sessions := g x.sessions }).emit (.spdm path code [n] []) := by
  subst hx
  unfold State.onSession
  rw [State.spdmReady_up h h3, hn]
  exact if_pos hok

/-! ## What a negotiation changes -/

/-- Whether another state differs from this one only in the negotiation of one path, in what the device has sent and in how many free values
it has taken. -/
structure State.Negotiates (s : State) (path : Nat) (t : State) : Prop where
  others : t = { s with out := t.out, tr.spdm := t.tr.spdm, str.free := t.str.free }
  paths : ∀ q, q ≠ path → t.spdmOf q = s.spdmOf q

theorem State.Negotiates.refl (s : State) (path : Nat) : s.Negotiates path s := ⟨rfl, fun _ _ => rfl⟩

theorem State.Negotiates.trans (h : s.Negotiates path t) (k : t.Negotiates path u) : s.Negotiates path u := by
  refine ⟨?_, fun q hq => (k.paths q hq).trans (h.paths q hq)⟩
  have ht := h.others
  have hu := k.others
  rw [ht] at hu
  exact hu

theorem State.negotiates_emit (s : State) (path : Nat) (o : Out) : s.Negotiates path (s.emit o) := ⟨rfl, fun _ _ => rfl⟩

theorem State.negotiates_freeBytes (s : State) (path n : Nat) : s.Negotiates path (s.freeBytes n).1 := ⟨rfl, fun _ _ => rfl⟩

theorem State.negotiates_setSpdm (s : State) (path : Nat) (x : Spdm) : s.Negotiates path (s.setSpdm path x) :=
  ⟨rfl, fun _ hq => congrArg (·.getD Spdm.reset) (FMap.get?_set_of_ne s.tr.spdm x hq)⟩

/-- A path's negotiation set and an answer sent. -/
theorem State.negotiates_answer (s : State) (path : Nat) (x : Spdm) (o : Out) : s.Negotiates path ((s.setSpdm path x).emit o) :=
  (s.negotiates_setSpdm path x).trans (State.negotiates_emit _ path o)

theorem State.Negotiates.ite {b : Prop} [Decidable b] (h : s.Negotiates path t) (k : s.Negotiates path u) :
    s.Negotiates path (if b then t else u) := by
  split
  · exact h
  · exact k

/-- A request on a path that reaches no responder changes nothing. -/
theorem State.negotiates_spdm {g : State → Spdm → State} (h : ∀ x, s.Negotiates path (g s x)) : s.Negotiates path (s.spdm path g) :=
  State.Negotiates.ite (h _) (State.Negotiates.refl s path)

/-- A request at a stage of the negotiation, or an error. -/
theorem State.negotiates_stage (s : State) (path k : Nat) (x : Spdm → Spdm) (o : Out) : s.Negotiates path (s.spdm path (fun s y =>
    if y.st = k then (s.setSpdm path (x y)).emit o else s.spdmFail path errUnexpected)) :=
  State.negotiates_spdm fun _ => State.Negotiates.ite (s.negotiates_answer path _ o) (s.negotiates_emit path _)

theorem State.negotiates_spdmReady {g : State → Spdm → State} (h : ∀ x, s.Negotiates path (g s x)) :
    s.Negotiates path (s.spdmReady path g) :=
  State.negotiates_spdm fun x => State.Negotiates.ite (h x) (s.negotiates_emit path _)

theorem State.negotiates_onSession (s : State) (path n : Nat) (ok : Bool → Bool)
    (g : List (Nat × Bool × Bool) → List (Nat × Bool × Bool)) (code : Nat) : s.Negotiates path (s.onSession path n ok g code) := by
  refine State.negotiates_spdmReady fun x => ?_
  split
  · exact s.negotiates_emit path _
  · exact State.Negotiates.ite (s.negotiates_answer path _ _) (s.negotiates_emit path _)

/-! ## What a mailbox setting changes (R504) -/

/-- Whether another state differs from this one only in one function and in what the device has sent. -/
structure State.SetsFunc (s : State) (f : Nat) (t : State) : Prop where
  others : t = { s with out := t.out, funcs := t.funcs }
  funcs : ∀ g, g ≠ f → t.func g = s.func g

theorem State.SetsFunc.refl (s : State) (f : Nat) : s.SetsFunc f s := ⟨rfl, fun _ _ => rfl⟩

theorem State.setsFunc_modFunc (s : State) (f : Nat) (g : Func → Func) : s.SetsFunc f (s.modFunc f g) :=
  ⟨rfl, fun _ hk => s.modFunc_func_of_ne g hk⟩

theorem State.SetsFunc.emit (h : s.SetsFunc f t) (o : Out) : s.SetsFunc f (t.emit o) := by
  refine ⟨?_, h.funcs⟩
  have ht := h.others
  rw [ht]
  rfl

theorem State.setsFunc_mbox {g : State → State × Nat × List Nat} (h : s.SetsFunc f (g s).1) : s.SetsFunc f (s.mbox f g) := by
  unfold State.mbox
  split
  · exact h.emit _
  · exact State.SetsFunc.refl s f

end Sys2Proof.Machine
end

section
open Sys2Proof Sys2Proof.Machine

/-- Settles O30: each request at its stage of the negotiation, and those of a session as the session stands. -/
theorem attestationRequestsComplete : Obligations.AttestationRequestsComplete := by
  refine ⟨fun p s h => congrArg Host.Outcome.next (State.spdm_up h),
    fun p s h h1 => congrArg Host.Outcome.next ((State.spdm_up h).trans (if_pos h1)),
    fun p s h h2 => congrArg Host.Outcome.next ((State.spdm_up h).trans (if_pos h2)),
    fun p s h h3 => ⟨congrArg Host.Outcome.next (State.spdmReady_up h h3), congrArg Host.Outcome.next (State.spdmReady_up h h3),
      congrArg Host.Outcome.next (State.spdmReady_up h h3)⟩,
    fun p i s h h3 h1 h4 => ?_, fun p nonce sig s u h h3 hu => ?_, fun p own sig x s u h hx h3 hu => ?_,
    fun p n own x s h hx h3 hn => congrArg Host.Outcome.next (State.onSession_found 0x65 h hx h3 hn rfl),
    fun p n own x s h hx h3 hn => ⟨congrArg Host.Outcome.next (State.onSession_found 0x69 h hx h3 hn rfl),
      congrArg Host.Outcome.next (State.onSession_found 0x68 h hx h3 hn rfl),
      congrArg Host.Outcome.next (State.onSession_found 0x6C h hx h3 hn rfl)⟩⟩
  · have h0 : ¬ i = 0 := by omega
    have h255 : ¬ i = 255 := by omega
    exact congrArg Host.Outcome.next
      ((State.spdmReady_up h h3).trans ((if_neg h0).trans ((if_neg h255).trans (if_pos h4))))
  · obtain ⟨rfl, rfl⟩ := Prod.mk.inj hu
    exact congrArg Host.Outcome.next (State.spdmReady_up h h3)
  · subst hx
    obtain ⟨rfl, rfl⟩ := Prod.mk.inj hu
    exact congrArg Host.Outcome.next (State.spdmReady_up h h3)

/-- Settles O56: a request answers, or fails, having set at most the negotiation of its path; a setting sets at most its function. -/
theorem negotiationsTouchOnlyTheirState : Obligations.NegotiationsTouchOnlyTheirState := by
  refine ⟨?_, ?_⟩
  · rintro c path s t ⟨a, b, d, hc⟩ h
    simp only [List.mem_cons, List.not_mem_nil, or_false] at hc
    suffices hn : s.Negotiates path t from ⟨hn.others, hn.paths⟩
    rcases hc with rfl | rfl | rfl | rfl | rfl | rfl | rfl | rfl | rfl <;> cases h
    · exact State.negotiates_spdm fun x => s.negotiates_answer path _ _
    · exact s.negotiates_stage path 1 _ _
    · exact s.negotiates_stage path 2 _ _
    · exact State.negotiates_spdmReady fun x => State.Negotiates.ite
        ((s.negotiates_freeBytes path 96).trans (State.negotiates_emit _ path _)) (s.negotiates_emit path _)
    · exact State.negotiates_spdmReady fun x => (s.negotiates_freeBytes path 96).trans (State.negotiates_answer _ path _ _)
    · exact s.negotiates_onSession path ..
    · exact s.negotiates_onSession path ..
    · exact s.negotiates_onSession path ..
    · exact s.negotiates_onSession path ..
  · rintro c f s t ⟨a, b, l, v, hc⟩ h
    simp only [List.mem_cons, List.not_mem_nil, or_false] at hc
    suffices hn : s.SetsFunc f t from ⟨hn.others, hn.funcs⟩
    rcases hc with rfl | rfl | rfl <;> cases h <;> refine State.setsFunc_mbox ?_
    · split
      · exact State.SetsFunc.refl s f
      · dsimp only
        exact s.setsFunc_modFunc f _
    · split
      · dsimp only
        exact s.setsFunc_modFunc f _
      · exact State.SetsFunc.refl s f
    · dsimp only
      exact s.setsFunc_modFunc f _
end
